-- ==== Sys2Proof/Word.lean ====
section
/-! DEFINITION. Word types of the Vrelmor Foling Kraot (R1, R99, R203): a scalar word, a byte, and the numbers of
the register files. Only names of types and their plainest arithmetic stand here. -/
namespace Sys2Proof

/-- A 64-bit scalar word (R99). -/
abbrev Word := BitVec 64
/-- A byte of memory. -/
abbrev Byte := BitVec 8
/-- A 1,024-byte vector register as one little-endian number (R99, R102). -/
abbrev VWord := BitVec 8192
/-- A 1,024-bit mask register (R99). -/
abbrev KWord := BitVec 1024
/-- A 64-byte box image (R52). -/
abbrev BoxImg := BitVec 512

/-- Register numbers of the files s, v, k, p, b, w (R203, R99). -/
abbrev SReg := Fin 64
abbrev VReg := Fin 32
abbrev KReg := Fin 8
abbrev PReg := Fin 8
abbrev BReg := Fin 8
abbrev WReg := Fin 16

/-- A plain table from a number to a value, in ascending order of its keys; a key that is not listed has a default
that each use names. -/
abbrev Table (α : Type) := List (Nat × α)

/-- The entry of key `k`, if the table lists one. -/
def Table.find {α : Type} : Table α → Nat → Option α
  | [], _ => none
  | (j, v) :: t, k => if j = k then some v else Table.find t k

/-- The value of key `k`, or the default `d`. -/
def Table.get {α : Type} (t : Table α) (k : Nat) (d : α) : α := (Table.find t k).getD d

/-- The table with key `k` listed with value `v`. -/
def Table.set {α : Type} : Table α → Nat → α → Table α
  | [], k, v => [(k, v)]
  | (j, w) :: t, k, v =>
    if k < j then (k, v) :: (j, w) :: t
    else if k = j then (k, v) :: t
    else (j, w) :: Table.set t k v

/-- The table without key `k`. -/
def Table.erase {α : Type} (t : Table α) (k : Nat) : Table α := t.filter (fun e => !(e.1 == k))

end Sys2Proof
end

