-- ==== Sys2Proof/Syntax.lean ====
section
/-! DEFINITION. The syntax of the Kraot: `Instr`, one constructor for each row of the table of operations and events.
The first 183 constructors are the opcodes of R207 with exactly the fields that R208 to R215 assign. The others are the
device's own steps (host commands, supply and time events, scheduler and unit events), which have no encoding: their
arguments say what arrives. The unit a step is about (a strand, a core, a row, a die, a logical core, a context, a
connection, a command) is named by the field `cur` of the state, as the strand is for an opcode. -/
namespace Sys2Proof

/-- The guard of an instruction: predicate register G and its negation GN (R201, R202). -/
structure Guard where
  p : PReg
  neg : Bool
deriving DecidableEq, Repr

/-- The T codes of R178, in code order. -/
inductive Fmt where
  | f64 | f32 | f16 | bf16 | fb8 | fb5 | fb3 | lg24 | si8 | ui8 | si16 | ui16 | si32 | ui32 | si64 | ui64
deriving DecidableEq, Repr

/-- The rounding modes of R181: codes 000 to 100, and DYN (111). -/
inductive Rm where
  | rne | rtz | rdn | rup | rna | dyn
deriving DecidableEq, Repr

/-- The integer conditions of R216, in code order. -/
inductive ICond where
  | eq | ne | lt | le | gt | ge | ltu | leu | gtu | geu | tst | ntst
deriving DecidableEq, Repr

/-- The floating-point conditions of R216, in code order. -/
inductive FCond where
  | eq | ne | lt | le | gt | ge | un | or
deriving DecidableEq, Repr

/-- The order field O of R205. -/
inductive MemOrd where
  | plain | acq | rel
deriving DecidableEq, Repr

/-- The address modes of R123 with the fields each assigns; `ty` is the access type TY of R205. -/
inductive AMode where
  | bo (ty : Fmt) (i : BitVec 24)
  | bi (idx : SReg) (sh : Fin 4)
  | pi (ty : Fmt) (i : BitVec 24)
  | piw (ty : Fmt) (w : WReg) (i : BitVec 24)
  | pc (ty : Fmt) (i : BitVec 24)
deriving DecidableEq, Repr

/-- The B operand of a row marked bs (R214): a vector register or a broadcast scalar register. -/
inductive VB where
  | v (r : VReg)
  | s (r : SReg)
deriving DecidableEq, Repr

/-- The governing mask and its Z field (R204): `z` is zeroing. -/
structure Msk where
  k : KReg
  z : Bool
deriving DecidableEq, Repr

/-- BOXGET selectors (R209). -/
inductive BoxSel where
  | lo | hi | ext | cls | rank | depth | nkey | points
deriving DecidableEq, Repr

/-- BOXKEY selectors (R209). -/
inductive KeySel where
  | self | left | right
deriving DecidableEq, Repr

/-- Task kinds (R76). -/
inductive Kind where
  | rule | leaf | handler | cont
deriving DecidableEq, Repr

/-- Barrier scopes (R217). -/
inductive Scope where
  | row | die | pkg | sys
deriving DecidableEq, Repr

/-- TLBINV scopes (R208). -/
inductive TlbScope where
  | va | ctx | all
deriving DecidableEq, Repr

/-- AMO operations (R217). -/
inductive AmoOp where
  | swap | cas | add | and | or | xor | min | max | minu | maxu
deriving DecidableEq, Repr

/-- KOP operations (R217). -/
inductive KopOp where
  | and (d a b : KReg)
  | or (d a b : KReg)
  | xor (d a b : KReg)
  | not (d a : KReg)
  | pop (d : SReg) (a : KReg)
  | mov (d a : KReg)
deriving DecidableEq, Repr

/-- FSGN operations (R217): COPY alone names a B register. -/
inductive SgnOp where
  | abs | neg | copy (b : SReg)
deriving DecidableEq, Repr

/-- VCMP conditions: by the kind of T (R299). -/
inductive VCond where
  | i (c : ICond)
  | f (c : FCond)
deriving DecidableEq, Repr

/-- The matrix options of E (R215): activation format, Z, and the gang mask when G is 1. -/
structure MxOpt where
  t : Fmt
  z : Bool
  gang : Option (BitVec 16)
deriving DecidableEq, Repr

/-- MSTAT selectors (R217). -/
inductive MstatSel where
  | stat | step | fva
deriving DecidableEq, Repr

/-- CONV layouts (R215). -/
inductive Layout where
  | dense | tiles | csr
deriving DecidableEq, Repr

/-- A VCP message as it arrives: the connection that carries it, and the fields of its 32-byte header (R31) with the
body bytes. `rsv` holds the header bytes 0x18 to 0x1F. -/
structure VcpMsg where
  conn : Nat
  ver : Nat
  cmd : Nat
  result : Nat
  seq : Nat
  ctxid : Nat
  len : Nat
  tag : Word
  rsv : Word
  body : List Byte
deriving DecidableEq, Repr

/-- One item that another chip put on the XC path (R157): its kind and its contents. -/
inductive XcBody where
  | msg (dest vn hpc src : Nat) (seq : Word) (vals : Vector Word 4) (key : Word)
  | deposit (jref : Nat) (tile : List Byte) (box : BoxImg)
  | cover (jref : Nat) (box : BoxImg)
  | join (jref : Nat) (box : BoxImg) (parent : BitVec 48) (cont : Option (BitVec 32)) (arrival : Bool)
  | stealReq (thief : Nat)
  | stealGrant (thief : Nat) (rec : List Byte)
  | stealDeny (thief : Nat)
  | barArrive (va : Nat) (n : Nat) (lcore : Nat) (strand : Nat)
  | barWithdraw (va : Nat) (gen : Nat) (lcore : Nat) (strand : Nat)
  | barReply (strand : Nat) (va : Nat) (gen : Nat) (detail : Nat)
  | barComplete (va : Nat) (gen : Nat)
deriving DecidableEq, Repr

/-- An XC item with its release tick, source logical core and exchange sequence, context and launch number (R157);
`chip` is the CHIPNO it is for. -/
structure XcItem where
  tick : Nat
  srcCore : Nat
  xseq : Nat
  ctx : Nat
  launch : Nat
  chip : Nat
  body : XcBody
deriving DecidableEq, Repr

/-- A frame on an exchange port (R8, R157): items, an end-of-tick flit, a PTP message, or a frame of another
EtherType. -/
inductive XFrame where
  | items (etype : Nat) (l : List XcItem)
  | endOfTick (etype : Nat) (n : Nat)
  | other (etype : Nat)
deriving DecidableEq, Repr

/-- The table of operations and events: one constructor for each row. -/
inductive Instr where
  -- system and control (R208)
  | illegal (w : BitVec 56)
  | nop (g : Guard)
  | skip (g : Guard) (n : BitVec 20)
  | call (g : Guard) (i : BitVec 34)
  | ret (g : Guard)
  | trap (g : Guard) (i : BitVec 32)
  | brk (g : Guard)
  | movc (g : Guard) (d : SReg) (n : BitVec 12)
  | movcw (g : Guard) (a : SReg) (n : BitVec 12)
  | tresume (g : Guard) (d a : SReg) (c : BitVec 5)
  | tdrop (g : Guard) (d a : SReg) (c : BitVec 5)
  | tlbinv (g : Guard) (sc : TlbScope) (a b : SReg)
  | icinv (g : Guard)
  | halt (g : Guard) (q : Bool) (d a l : SReg)
  -- rules and tasks (R209)
  | boxld (g : Guard) (d : BReg) (a : SReg) (m : AMode)
  | boxst (g : Guard) (d : BReg) (a : SReg) (m : AMode)
  | boxget (g : Guard) (d : SReg) (a : BReg) (sel : BoxSel) (x : Fin 8)
  | boxset (g : Guard) (d a : BReg) (b : SReg) (hi : Bool) (x : Fin 8)
  | boxkey (g : Guard) (d : SReg) (a : BReg) (sel : KeySel)
  | fits (g : Guard) (d : PReg) (a : BReg) (x : BitVec 16)
  | split (g : Guard) (x : Fin 8)
  | splitk (g : Guard) (pc : BitVec 32)
  | splitf (g : Guard) (mask : BitVec 6) (pc : BitVec 32)
  | prune (g : Guard)
  | leaf (g : Guard) (pc : BitVec 32)
  | done (g : Guard)
  | requeue (g : Guard)
  | spawn (g : Guard) (kd : Kind) (d a : SReg) (b : BReg) (l : SReg) (pc : BitVec 24)
  | send (g : Guard) (vn : Bool) (a : SReg) (pc : BitVec 32)
  | deposit (g : Guard) (t : Fmt) (a : SReg)
  -- synchronisation and batons (R210)
  | cinc (g : Guard) (a : SReg)
  | cadd (g : Guard) (a b : SReg)
  | waitc (g : Guard) (y : Bool) (d a b l : SReg)
  | vwaitc (g : Guard) (y : Bool) (d a : SReg) (b : VReg) (l : SReg) (i : BitVec 24)
  | bar (g : Guard) (sc : Scope) (d a b l : SReg)
  | bara (g : Guard) (sc : Scope) (d a b : SReg)
  | barw (g : Guard) (d a l : SReg)
  | fence (g : Guard) (d l : SReg) (before after : BitVec 8)
  | fencesc (g : Guard) (d l : SReg)
  | amo (g : Guard) (t : Fmt) (op : AmoOp) (d a b c : SReg)
  | bdecl (g : Guard) (rem : Bool) (d a : SReg) (x : Fin 16)
  | waitb (g : Guard) (prod : Bool) (d a b l : SReg)
  | badv (g : Guard) (d a b : SReg)
  | brel (g : Guard) (d a b : SReg)
  | bstat (g : Guard) (d a b : SReg)
  | sendb (g : Guard) (d a b c l : SReg) (len : BitVec 11)
  -- scalar integer (R211)
  | add (g : Guard) (d a b : SReg)
  | sub (g : Guard) (d a b : SReg)
  | mul (g : Guard) (d a b : SReg)
  | mulh (g : Guard) (d a b : SReg)
  | mulhu (g : Guard) (d a b : SReg)
  | div (g : Guard) (d a b : SReg)
  | divu (g : Guard) (d a b : SReg)
  | rem (g : Guard) (d a b : SReg)
  | remu (g : Guard) (d a b : SReg)
  | and (g : Guard) (d a b : SReg)
  | or (g : Guard) (d a b : SReg)
  | xor (g : Guard) (d a b : SReg)
  | andn (g : Guard) (d a b : SReg)
  | shl (g : Guard) (d a b : SReg)
  | shr (g : Guard) (d a b : SReg)
  | sar (g : Guard) (d a b : SReg)
  | rot (g : Guard) (d a b : SReg)
  | min (g : Guard) (d a b : SReg)
  | max (g : Guard) (d a b : SReg)
  | minu (g : Guard) (d a b : SReg)
  | maxu (g : Guard) (d a b : SReg)
  | clz (g : Guard) (d a : SReg)
  | ctz (g : Guard) (d a : SReg)
  | popc (g : Guard) (d a : SReg)
  | bfx (g : Guard) (d a b c : SReg)
  | bfxs (g : Guard) (d a b c : SReg)
  | bfi (g : Guard) (d a b c : SReg)
  | sel (g : Guard) (d a b : SReg) (c : PReg)
  | cmp (g : Guard) (c : ICond) (d : PReg) (a b : SReg)
  | addi (g : Guard) (d a : SReg) (i : BitVec 34)
  | andi (g : Guard) (d a : SReg) (i : BitVec 34)
  | ori (g : Guard) (d a : SReg) (i : BitVec 34)
  | xori (g : Guard) (d a : SReg) (i : BitVec 34)
  | shli (g : Guard) (d a : SReg) (i : BitVec 34)
  | shri (g : Guard) (d a : SReg) (i : BitVec 34)
  | sari (g : Guard) (d a : SReg) (i : BitVec 34)
  | cmpi (g : Guard) (c : ICond) (d : PReg) (a : SReg) (i : BitVec 34)
  | muli (g : Guard) (d a : SReg) (i : BitVec 34)
  | lea (g : Guard) (d : SReg) (i : BitVec 34)
  | movi (g : Guard) (d : SReg) (i : BitVec 34)
  | movhi (g : Guard) (d : SReg) (i : BitVec 30)
  -- scalar floating point (R212)
  | fadd (g : Guard) (t : Fmt) (m : Rm) (d a b : SReg)
  | fsub (g : Guard) (t : Fmt) (m : Rm) (d a b : SReg)
  | fmul (g : Guard) (t : Fmt) (m : Rm) (d a b : SReg)
  | ffma (g : Guard) (t : Fmt) (m : Rm) (d a b c : SReg)
  | fdiv (g : Guard) (t : Fmt) (m : Rm) (d a b : SReg)
  | fsqrt (g : Guard) (t : Fmt) (m : Rm) (d a : SReg)
  | fmin (g : Guard) (t : Fmt) (d a b : SReg)
  | fmax (g : Guard) (t : Fmt) (d a b : SReg)
  | fcmp (g : Guard) (t : Fmt) (c : FCond) (d : PReg) (a b : SReg)
  | fcvt (g : Guard) (t : Fmt) (src : Fmt) (m : Rm) (d a : SReg)
  | fclass (g : Guard) (t : Fmt) (d a : SReg)
  | fexp (g : Guard) (t : Fmt) (m : Rm) (d a : SReg)
  | flog (g : Guard) (t : Fmt) (m : Rm) (d a : SReg)
  | ferf (g : Guard) (t : Fmt) (m : Rm) (d a : SReg)
  | ferfc (g : Guard) (t : Fmt) (m : Rm) (d a : SReg)
  | fsgn (g : Guard) (t : Fmt) (op : SgnOp) (d a : SReg)
  -- memory (R213)
  | ld (g : Guard) (d a : SReg) (m : AMode) (o : MemOrd)
  | st (g : Guard) (d a : SReg) (m : AMode) (o : MemOrd)
  | ldv (g : Guard) (d : VReg) (a : SReg) (m : AMode) (o : MemOrd)
  | stv (g : Guard) (d : VReg) (a : SReg) (m : AMode) (o : MemOrd)
  | ldvx (g : Guard) (t : Fmt) (k : Msk) (d : VReg) (a : SReg) (b : VReg) (sh : Fin 4)
  | stvx (g : Guard) (t : Fmt) (k : KReg) (d : VReg) (a : SReg) (b : VReg) (sh : Fin 4)
  | ldw (g : Guard) (d a b l : SReg) (i : BitVec 24)
  | mstore (g : Guard) (d a : SReg) (m : AMode) (o : MemOrd)
  -- vector, conversion and special function (R214)
  | vadd (g : Guard) (t : Fmt) (m : Rm) (k : Msk) (d a : VReg) (b : VB)
  | vsub (g : Guard) (t : Fmt) (m : Rm) (k : Msk) (d a : VReg) (b : VB)
  | vmul (g : Guard) (t : Fmt) (m : Rm) (k : Msk) (d a : VReg) (b : VB)
  | vfma (g : Guard) (t : Fmt) (m : Rm) (k : Msk) (d a : VReg) (b : VB) (c : VReg)
  | vfms (g : Guard) (t : Fmt) (m : Rm) (k : Msk) (d a : VReg) (b : VB) (c : VReg)
  | vdiv (g : Guard) (t : Fmt) (m : Rm) (k : Msk) (d a : VReg) (b : VB)
  | vsqrt (g : Guard) (t : Fmt) (m : Rm) (k : Msk) (d a : VReg)
  | vmin (g : Guard) (t : Fmt) (k : Msk) (d a : VReg) (b : VB)
  | vmax (g : Guard) (t : Fmt) (k : Msk) (d a : VReg) (b : VB)
  | vabs (g : Guard) (t : Fmt) (k : Msk) (d a : VReg)
  | vneg (g : Guard) (t : Fmt) (k : Msk) (d a : VReg)
  | vcmp (g : Guard) (t : Fmt) (c : VCond) (k : Msk) (d : KReg) (a : VReg) (b : VB)
  | vsel (g : Guard) (t : Fmt) (k : KReg) (d a b : VReg)
  | vand (g : Guard) (t : Fmt) (k : Msk) (d a : VReg) (b : VB)
  | vor (g : Guard) (t : Fmt) (k : Msk) (d a : VReg) (b : VB)
  | vxor (g : Guard) (t : Fmt) (k : Msk) (d a : VReg) (b : VB)
  | vshl (g : Guard) (t : Fmt) (k : Msk) (d a : VReg) (b : VB)
  | vshr (g : Guard) (t : Fmt) (k : Msk) (d a : VReg) (b : VB)
  | vsar (g : Guard) (t : Fmt) (k : Msk) (d a : VReg) (b : VB)
  | vmov (g : Guard) (t : Fmt) (k : Msk) (d a : VReg)
  | vshape (g : Guard) (s : BitVec 16)
  | viota (g : Guard) (t : Fmt) (k : Msk) (d : VReg) (a : SReg)
  | vred (g : Guard) (t : Fmt) (m : Rm) (k : Msk) (cols : Bool) (d a : VReg)
  | redt (g : Guard) (t : Fmt) (m : Rm) (k : KReg) (d : SReg) (a : VReg) (b : SReg)
  | vcvt (g : Guard) (t : Fmt) (src : Fmt) (m : Rm) (k : Msk) (d a : VReg)
  | vreq (g : Guard) (t : Fmt) (m : Rm) (k : Msk) (d a : VReg) (b : SReg)
  | vcomp (g : Guard) (t : Fmt) (k : KReg) (d a : VReg) (c : SReg)
  | vexpd (g : Guard) (t : Fmt) (k : Msk) (d a : VReg)
  | vperm (g : Guard) (t : Fmt) (k : Msk) (d a b : VReg)
  | vtrans (g : Guard) (t : Fmt) (d a : VReg)
  | vbcast (g : Guard) (t : Fmt) (k : Msk) (d : VReg) (a : SReg)
  | vslide (g : Guard) (t : Fmt) (down : Bool) (k : Msk) (d a : VReg) (b : SReg)
  | kop (g : Guard) (op : KopOp)
  | vrand (g : Guard) (w64 : Bool) (k : Msk) (d : VReg)
  | vgets (g : Guard) (t : Fmt) (d : SReg) (a : VReg) (b : SReg)
  | vputs (g : Guard) (t : Fmt) (d : VReg) (a b : SReg)
  | vfexp (g : Guard) (t : Fmt) (m : Rm) (k : Msk) (d a : VReg)
  | vflog (g : Guard) (t : Fmt) (m : Rm) (k : Msk) (d a : VReg)
  | vferf (g : Guard) (t : Fmt) (m : Rm) (k : Msk) (d a : VReg)
  | vferfc (g : Guard) (t : Fmt) (m : Rm) (k : Msk) (d a : VReg)
  | vlnt (g : Guard) (t : Fmt) (k : Msk) (d a : VReg)
  | vlnf (g : Guard) (t : Fmt) (m : Rm) (k : Msk) (d a : VReg)
  | vxexp (g : Guard) (t : Fmt) (k : Msk) (d a : VReg)
  | vxrcp (g : Guard) (t : Fmt) (k : Msk) (d a : VReg)
  | vxrsq (g : Guard) (t : Fmt) (k : Msk) (d a : VReg)
  | vxsig (g : Guard) (t : Fmt) (k : Msk) (d a : VReg)
  | vxtanh (g : Guard) (t : Fmt) (k : Msk) (d a : VReg)
  -- matrix sequencer and engines (R215)
  | sclaim (g : Guard) (d : SReg) (x : BitVec 6)
  | srel (g : Guard) (a : SReg) (x : BitVec 6)
  | sfill (g : Guard) (a b c : SReg) (len : BitVec 8)
  | sstat (g : Guard) (d a : SReg)
  | mldw (g : Guard) (t : Fmt) (ws : Bool) (a l : SReg)
  | mma (g : Guard) (o : MxOpt) (tile : Fin 64) (a b c l : SReg)
  | mmag (g : Guard) (o : MxOpt) (tile : Fin 64) (a b c l : SReg)
  | mmas (g : Guard) (o : MxOpt) (tile : Fin 64) (a b c l : SReg)
  | mwait (g : Guard) (d l : SReg)
  | mresume (g : Guard) (l : SReg)
  | mout (g : Guard) (t : Fmt) (m : Rm) (sc : Bool) (tile : Fin 64) (a b : SReg)
  | mzero (g : Guard) (tile : Fin 64)
  | mstat (g : Guard) (d : SReg) (sel : MstatSel)
  | fetch (g : Guard) (d a b c l : SReg)
  | put (g : Guard) (d a b c l : SReg)
  | gather (g : Guard) (d a b c l : SReg) (n : BitVec 8) (z : BitVec 10)
  | scata (g : Guard) (t : Fmt) (d a b c l : SReg) (n : BitVec 8) (z : BitVec 10)
  | nlcfg (g : Guard) (d a l : SReg)
  | nlbin (g : Guard) (d a b l : SReg)
  | nlpairs (g : Guard) (d a b c l : SReg)
  | nlstat (g : Guard) (d : SReg) (sel : Fin 16)
  | conv (g : Guard) (t : Fmt) (src dst : Layout) (d a b l : SReg)
  | ewait (g : Guard) (d a l : SReg)
  | estat (g : Guard) (d a : SReg)
  | movx (g : Guard) (d : SReg) (imm : Word)
  -- the device's own steps that something arrives with (R9 to R185)
  | functionReady (reg : Bool) (bit : Fin 64)
  | funcLost (reg : Bool) (bit : Fin 64)
  | supplyOutOfRange (mv : Nat)
  | supplyInRange (mv : Nat)
  | supplyDip (mv : Nat)
  | powerSample (watts : Nat)
  | droopDetect (mv : Nat)
  | thermalThrottle (tempC : Nat)
  | ptpMessage (port : Nat) (correction : Int)
  | exchangeFrameRx (port : Fin 8) (f : XFrame)
  | createCtx (m : VcpMsg)
  | map (m : VcpMsg)
  | unmap (m : VcpMsg)
  | loadWimage (m : VcpMsg)
  | launch (m : VcpMsg)
  | evict (m : VcpMsg)
  | resume (m : VcpMsg)
  | destroyCtx (m : VcpMsg)
  | readTrapring (m : VcpMsg)
  | attest (m : VcpMsg)
  | doorbellWrite (ctx : Nat) (val : Word)
  | hostRdmaWrite (rkey addr : Nat) (bytes : List Byte)
  | hostRdmaRead (rkey addr len : Nat)
  | wakeMessage (ctx : Nat)
  | tstartWrite (v : Word)
  | tickpWrite (v : Word)
  | plimitWrite (v : Word)
  | fpcrWrite (v : Word)
  | fpsrWrite (v : Word)
  | agemaxWrite (v : Word)
  | dlescWrite (v : Word)
  | evselWrite (n : Fin 16) (v : Word)
  | evcntWrite (n : Fin 16) (v : Word)
  | haltrelWrite (v : Word)
  | registerWrite (n : BitVec 12) (v : Word)
  | messageInject (vn : Bool)
  | messageReoffer (vn : Bool)
  | poolRetest (i : Nat)
  | poolExpiry (i : Nat)
  | supHoldService (i : Nat)
  | evictStepEnd (ctx : Nat)
  | writeApply (i : Nat)
  | tableWalk (ctx : Nat) (va : Word)
  | slotFillStart (slot : Fin 32)
  | slotFillEnd (slot : Fin 32)
  | gangBarrier (part : Fin 4)
  | connectionAccept (port : Bool)
  | evOvf (n : Fin 16)
  -- the device's own steps that are about the unit `State.cur` names and nothing else
  | packageReset
  | recoveryStatusRead
  | powerLoss
  | supplyOvervoltage
  | stretchRelax
  | droopRelease
  | thermalTrip
  | tickBoundary
  | exchangeLinkLoss
  | connectionDrop
  | launchStart
  | launchEnd
  | strandDispatch
  | relayStart
  | messageArrival
  | stealRequest
  | stealGrant
  | stealDeny
  | stealBackoffExpiry
  | spawnReservationRequest
  | spawnAnswer
  | spawnRelease
  | commitGroupRelease
  | splicerDeposit
  | splicerCover
  | watchdog
  | deadlineExpiry
  | evictionBound
  | waitSatisfied
  | mailboxDrain
  | haltStop
  | refreshStallEnd
  | sequencerStep
  | mmasPrefetch
  | sendbArrival
  | sendbLanded
  | barrierArrival
  | barrierWithdraw
  | barrierComplete
  | gdeTransferBlock
  | gdeRowFetch
  | scataApply
  | nlbinComplete
  | nleBlock
  | convPhase
  | engineCommandEnd
deriving DecidableEq, Repr

end Sys2Proof
end

