-- ==== Sys2Proof/WellFormed.lean ====
section
/-! DEFINITION. Well-formed instructions: the conditions of R203, R205, R216, R217 and R295 on field values that the
types of `Instr` do not already hold. A word that breaks one of them traps ILLOP (R219 steps 3, 5 and 6). The device's
own steps carry no encoding and are all well formed. -/
namespace Sys2Proof

namespace Fmt
/-- "T IEEE": 0x0 to 0x3 (R207). -/
def isIeee : Fmt → Bool
  | .f64 | .f32 | .f16 | .bf16 => true
  | _ => false
/-- "T INT": 0x8 to 0xF (R207). -/
def isInt : Fmt → Bool
  | .si8 | .ui8 | .si16 | .ui16 | .si32 | .ui32 | .si64 | .ui64 => true
  | _ => false
/-- The FB block formats: 0x4 to 0x6 (R188). -/
def isFb : Fmt → Bool
  | .fb8 | .fb5 | .fb3 => true
  | _ => false
/-- F64 or F32: the formats of the correctly rounded functions (R196). -/
def isF64F32 : Fmt → Bool
  | .f64 | .f32 => true
  | _ => false
/-- A signed integer format. -/
def isSigned : Fmt → Bool
  | .si8 | .si16 | .si32 | .si64 => true
  | _ => false
/-- Weight and activation formats of the slice (R110): 0x1 to 0x6. -/
def isMx : Fmt → Bool
  | .f32 | .f16 | .bf16 | .fb8 | .fb5 | .fb3 => true
  | _ => false
end Fmt

namespace AMode
/-- The access type TY; BI has none of its own (R205). -/
def tyOk (f : Fmt → Bool) : AMode → Bool
  | .bo ty _ | .pi ty _ | .piw ty _ _ | .pc ty _ => f ty
  | .bi _ _ => true
def isBi : AMode → Bool
  | .bi _ _ => true
  | _ => false
def isPc : AMode → Bool
  | .pc _ _ => true
  | _ => false
end AMode

/-- The numbers that have a control register (R104, R274). -/
def crExists (n : BitVec 12) : Bool :=
  let k := n.toNat
  k ≤ 0x002 || (0x010 ≤ k && k ≤ 0x018) || (0x020 ≤ k && k ≤ 0x022) || (0x028 ≤ k && k ≤ 0x02B)
    || (0x030 ≤ k && k ≤ 0x032) || k == 0x038 || k == 0x039 || k == 0x040 || k == 0x041 || k == 0x050 || k == 0x051
    || (0x060 ≤ k && k ≤ 0x06F) || (0x800 ≤ k && k ≤ 0x807) || (0x820 ≤ k && k ≤ 0x824)
    || (0x840 ≤ k && k ≤ 0x843) || k == 0x880 || k == 0x881 || (0x900 ≤ k && k ≤ 0x91F)
    || (0xA00 ≤ k && k ≤ 0xA20)

/-- The pairs that FCVT accepts (R285). -/
def fcvtOk (t src : Fmt) : Bool := (t.isIeee || t.isInt) && (src.isIeee || src.isInt)

/-- The pairs that VCVT accepts (R305). -/
def vcvtOk (t src : Fmt) : Bool :=
  ((t.isIeee || t.isInt) && (src.isIeee || src.isInt)) || (t.isIeee && src.isFb) || (t.isFb && src.isIeee)

/-- M is any mode for IEEE formats and 000 otherwise (R295). -/
def rmOk (t : Fmt) (m : Rm) : Bool := t.isIeee || m == .rne

/-- VCMP accepts conditions 0 to 7 for IEEE T and 0 to 5 for INT T (R299). -/
def vcondOk (t : Fmt) : VCond → Bool
  | .f _ => t.isIeee
  | .i c => t.isInt && (c == .eq || c == .ne || c == .lt || c == .le || c == .gt || c == .ge)

/-- The BOXGET axis: 0 to 5 for selectors 0 to 4, and 0 for the others (R242). -/
def boxGetOk (s : BoxSel) (x : Fin 8) : Bool :=
  match s with
  | .lo | .hi | .ext | .cls | .rank => x.val ≤ 5
  | .depth | .nkey | .points => x.val == 0

/-- The count of SCLAIM and SREL is 1 to 32 (R318). -/
def slotCountOk (x : BitVec 6) : Bool := 1 ≤ x.toNat && x.toNat ≤ 32

/-- Well-formedness of an instruction (R219 steps 3, 5, 6). -/
def Instr.wf : Instr → Bool
  | .movc _ _ n | .movcw _ _ n => crExists n
  | .boxld _ d _ m => d.val != 0 && m.tyOk (· == .f64)
  | .boxst _ _ _ m => m.tyOk (· == .f64) && !m.isPc
  | .boxget _ _ _ f x => boxGetOk f x
  | .boxset _ d _ _ _ x => d.val != 0 && x.val ≤ 5
  | .split _ x => x.val ≤ 5
  | .splitk _ pc | .splitf _ _ pc | .leaf _ pc => pc.toNat % 8 == 0
  | .spawn _ _ _ a _ _ _ => a.val ≤ 59
  | .send _ _ a pc => a.val ≤ 59 && pc.toNat % 8 == 0
  | .deposit _ t _ => t.isIeee
  | .amo _ t op _ _ _ c => (t == .si32 || t == .ui32 || t == .si64 || t == .ui64) && (op == .cas || c.val == 0)
  | .bdecl _ r _ a _ => r || a.val == 0
  | .sendb _ _ _ _ _ _ len => len.toNat ≤ 1024
  | .fadd _ t _ _ _ _ | .fsub _ t _ _ _ _ | .fmul _ t _ _ _ _ | .fdiv _ t _ _ _ _ => t.isIeee
  | .ffma _ t _ _ _ _ _ => t.isIeee
  | .fsqrt _ t _ _ _ => t.isIeee
  | .fmin _ t _ _ _ | .fmax _ t _ _ _ => t.isIeee
  | .fcmp _ t _ _ _ _ => t.isIeee
  | .fcvt _ t src _ _ _ => fcvtOk t src
  | .fclass _ t _ _ => t.isIeee
  | .fexp _ t _ _ _ | .flog _ t _ _ _ | .ferf _ t _ _ _ | .ferfc _ t _ _ _ => t.isF64F32
  | .fsgn _ t _ _ _ => t.isIeee
  | .ld _ _ _ m o => m.tyOk (fun t => t.isIeee || t.isInt) && (o == .plain || o == .acq)
  | .st _ _ _ m o | .mstore _ _ _ m o =>
    m.tyOk (fun t => t.isIeee || t.isInt) && !m.isPc && (o == .plain || o == .rel)
  | .ldv _ _ _ m o => !m.isBi && (o == .plain || o == .acq)
  | .stv _ _ _ m o => !m.isBi && !m.isPc && (o == .plain || o == .rel)
  | .vadd _ t m _ _ _ _ | .vsub _ t m _ _ _ _ | .vmul _ t m _ _ _ _ =>
    (t.isIeee || t.isInt || t == .lg24) && rmOk t m
  | .vdiv _ t m _ _ _ _ => (t.isIeee || t.isInt) && rmOk t m
  | .vfma _ t _ _ _ _ _ _ | .vfms _ t _ _ _ _ _ _ => t.isIeee
  | .vsqrt _ t _ _ _ _ => t.isIeee
  | .vmin _ t _ _ _ _ | .vmax _ t _ _ _ _ => t.isIeee || t.isInt
  | .vabs _ t _ _ _ | .vneg _ t _ _ _ => t.isIeee || t.isInt
  | .vcmp _ t c _ _ _ _ => vcondOk t c
  | .vand _ t _ _ _ _ | .vor _ t _ _ _ _ | .vxor _ t _ _ _ _ | .vshl _ t _ _ _ _ | .vshr _ t _ _ _ _ => t.isInt
  | .vsar _ t _ _ _ _ => t.isInt || t == .lg24
  | .viota _ t _ _ _ => t.isInt
  | .vred _ t _ _ _ _ _ => t.isIeee
  | .redt _ t _ _ _ _ _ => t.isIeee
  | .vcvt _ t src _ _ _ _ => vcvtOk t src
  | .vreq _ t _ _ _ _ _ => t.isFb
  | .vbcast _ t _ _ _ => !t.isFb
  | .vgets _ t _ _ _ | .vputs _ t _ _ _ => !t.isFb
  | .vfexp _ t _ _ _ _ | .vflog _ t _ _ _ _ | .vferf _ t _ _ _ _ | .vferfc _ t _ _ _ _ => t.isF64F32
  | .vlnt _ t _ _ _ => t.isIeee
  | .vlnf _ t _ _ _ _ => t.isIeee
  | .vxexp _ t _ _ _ | .vxrcp _ t _ _ _ | .vxrsq _ t _ _ _ | .vxsig _ t _ _ _ | .vxtanh _ t _ _ _ =>
    t == .f32 || t == .f16 || t == .bf16
  | .sclaim _ _ x | .srel _ _ x => slotCountOk x
  | .sfill _ _ _ _ len => len.toNat ≤ 128
  | .mldw _ t _ _ _ => t.isMx
  | .mma _ o _ _ _ _ _ | .mmas _ o _ _ _ _ _ => o.t.isMx
  | .mmag _ o _ a _ _ _ => o.t.isMx && a.val ≤ 62
  | .mout _ t _ _ _ _ _ => t.isIeee || t.isFb
  | .scata _ t _ _ _ _ _ _ _ =>
    t == .f64 || t == .f32 || t == .si32 || t == .ui32 || t == .si64 || t == .ui64
  | .nlstat _ _ f => f.val ≤ 8
  | .conv _ t _ _ _ _ _ _ => t.isIeee
  | .illegal .. | .nop .. | .skip .. | .call .. | .ret .. | .trap .. | .brk .. | .tresume .. | .tdrop ..
  | .tlbinv .. | .icinv .. | .halt .. | .boxkey .. | .fits .. | .prune .. | .done .. | .requeue .. | .cinc ..
  | .cadd .. | .waitc .. | .vwaitc .. | .bar .. | .bara .. | .barw .. | .fence .. | .fencesc .. | .waitb ..
  | .badv .. | .brel .. | .bstat .. | .add .. | .sub .. | .mul .. | .mulh .. | .mulhu .. | .div .. | .divu ..
  | .rem .. | .remu .. | .and .. | .or .. | .xor .. | .andn .. | .shl .. | .shr .. | .sar .. | .rot ..
  | .min .. | .max .. | .minu .. | .maxu .. | .clz .. | .ctz .. | .popc .. | .bfx .. | .bfxs .. | .bfi ..
  | .sel .. | .cmp .. | .addi .. | .andi .. | .ori .. | .xori .. | .shli .. | .shri .. | .sari .. | .cmpi ..
  | .muli .. | .lea .. | .movi .. | .movhi .. | .ldvx .. | .stvx .. | .ldw .. | .vsel .. | .vmov ..
  | .vshape .. | .vcomp .. | .vexpd .. | .vperm .. | .vtrans .. | .vslide .. | .kop .. | .vrand .. | .sstat ..
  | .mwait .. | .mresume .. | .mzero .. | .mstat .. | .fetch .. | .put .. | .gather .. | .nlcfg .. | .nlbin ..
  | .nlpairs .. | .ewait .. | .estat .. | .movx .. | .functionReady .. | .funcLost .. | .supplyOutOfRange ..
  | .supplyInRange .. | .supplyDip .. | .powerSample .. | .droopDetect .. | .thermalThrottle ..
  | .ptpMessage .. | .exchangeFrameRx .. | .createCtx .. | .map .. | .unmap .. | .loadWimage .. | .launch ..
  | .evict .. | .resume .. | .destroyCtx .. | .readTrapring .. | .attest .. | .doorbellWrite ..
  | .hostRdmaWrite .. | .hostRdmaRead .. | .wakeMessage .. | .tstartWrite .. | .tickpWrite .. | .plimitWrite ..
  | .fpcrWrite .. | .fpsrWrite .. | .agemaxWrite .. | .dlescWrite .. | .evselWrite .. | .evcntWrite ..
  | .haltrelWrite .. | .registerWrite .. | .messageInject .. | .messageReoffer .. | .poolRetest ..
  | .poolExpiry .. | .supHoldService .. | .evictStepEnd .. | .writeApply .. | .tableWalk .. | .slotFillStart ..
  | .slotFillEnd .. | .gangBarrier .. | .connectionAccept .. | .evOvf .. | .packageReset ..
  | .recoveryStatusRead .. | .powerLoss .. | .supplyOvervoltage .. | .stretchRelax .. | .droopRelease ..
  | .thermalTrip .. | .tickBoundary .. | .exchangeLinkLoss .. | .connectionDrop .. | .launchStart ..
  | .launchEnd .. | .strandDispatch .. | .relayStart .. | .messageArrival .. | .stealRequest ..
  | .stealGrant .. | .stealDeny .. | .stealBackoffExpiry .. | .spawnReservationRequest .. | .spawnAnswer ..
  | .spawnRelease .. | .commitGroupRelease .. | .splicerDeposit .. | .splicerCover .. | .watchdog ..
  | .deadlineExpiry .. | .evictionBound .. | .waitSatisfied .. | .mailboxDrain .. | .haltStop ..
  | .refreshStallEnd .. | .sequencerStep .. | .mmasPrefetch .. | .sendbArrival .. | .sendbLanded ..
  | .barrierArrival .. | .barrierWithdraw .. | .barrierComplete .. | .gdeTransferBlock .. | .gdeRowFetch ..
  | .scataApply .. | .nlbinComplete .. | .nleBlock .. | .convPhase .. | .engineCommandEnd .. => true

end Sys2Proof
end

