-- ==== Sys2Proof/Decode.lean ====
section
/-! DEFINITION. The decoder and the encoder (R200 to R220). `parseWord` reads the fields that a row of R208 to R215
assigns; `decodeWord` accepts the reading when the instruction is well formed and when the word is exactly the encoding
of what was read, so every field or part of a field that the row leaves unassigned must be 0 (R204, R219 step 4). -/
namespace Sys2Proof

/-- Why a word is not an instruction (R219): every one of them traps ILLOP; the names say which check failed. -/
inductive DecodeError where
  /-- OP is unassigned in R207 (step 1). -/
  | unassigned
  /-- A register field, a reserved field or a code that no row accepts (steps 3 to 5). -/
  | badField
  /-- MOVC or MOVCW names a number with no register (step 6). -/
  | noRegister
  /-- Fewer bytes than the instruction has. -/
  | truncated
deriving DecidableEq, Repr

/-! ### Codes -/

/-- The T code of a format (R178). -/
def Fmt.code : Fmt → BitVec 4
  | .f64 => 0x0 | .f32 => 0x1 | .f16 => 0x2 | .bf16 => 0x3 | .fb8 => 0x4 | .fb5 => 0x5 | .fb3 => 0x6 | .lg24 => 0x7
  | .si8 => 0x8 | .ui8 => 0x9 | .si16 => 0xA | .ui16 => 0xB | .si32 => 0xC | .ui32 => 0xD | .si64 => 0xE | .ui64 => 0xF

/-- The format of a T code (R178). -/
def Fmt.ofCode (c : BitVec 4) : Fmt :=
  match c.toNat with
  | 0 => .f64 | 1 => .f32 | 2 => .f16 | 3 => .bf16 | 4 => .fb8 | 5 => .fb5 | 6 => .fb3 | 7 => .lg24
  | 8 => .si8 | 9 => .ui8 | 10 => .si16 | 11 => .ui16 | 12 => .si32 | 13 => .ui32 | 14 => .si64 | _ => .ui64

/-- The M code of a mode (R181). -/
def Rm.code : Rm → BitVec 3
  | .rne => 0 | .rtz => 1 | .rdn => 2 | .rup => 3 | .rna => 4 | .dyn => 7

/-- The mode of an M code; 101 and 110 have none (R181). -/
def Rm.ofCode (c : BitVec 3) : Option Rm :=
  match c.toNat with
  | 0 => some .rne | 1 => some .rtz | 2 => some .rdn | 3 => some .rup | 4 => some .rna | 7 => some .dyn
  | _ => none

/-- The condition codes of R216. -/
def ICond.code : ICond → Nat
  | .eq => 0 | .ne => 1 | .lt => 2 | .le => 3 | .gt => 4 | .ge => 5 | .ltu => 6 | .leu => 7 | .gtu => 8 | .geu => 9
  | .tst => 10 | .ntst => 11
def ICond.ofCode (n : Nat) : Option ICond :=
  match n with
  | 0 => some .eq | 1 => some .ne | 2 => some .lt | 3 => some .le | 4 => some .gt | 5 => some .ge | 6 => some .ltu
  | 7 => some .leu | 8 => some .gtu | 9 => some .geu | 10 => some .tst | 11 => some .ntst
  | _ => none
def FCond.code : FCond → Nat
  | .eq => 0 | .ne => 1 | .lt => 2 | .le => 3 | .gt => 4 | .ge => 5 | .un => 6 | .or => 7
def FCond.ofCode (n : Nat) : Option FCond :=
  match n with
  | 0 => some .eq | 1 => some .ne | 2 => some .lt | 3 => some .le | 4 => some .gt | 5 => some .ge | 6 => some .un
  | 7 => some .or
  | _ => none

/-- The order codes of R205. -/
def MemOrd.code : MemOrd → BitVec 3
  | .plain => 0 | .acq => 1 | .rel => 2
def MemOrd.ofCode (c : BitVec 3) : Option MemOrd :=
  match c.toNat with
  | 0 => some .plain | 1 => some .acq | 2 => some .rel
  | _ => none

/-- The minor-op codes of R217. -/
def AmoOp.code : AmoOp → BitVec 5
  | .swap => 0 | .cas => 1 | .add => 2 | .and => 3 | .or => 4 | .xor => 5 | .min => 6 | .max => 7 | .minu => 8
  | .maxu => 9
def AmoOp.ofCode (n : Nat) : Option AmoOp :=
  match n with
  | 0 => some .swap | 1 => some .cas | 2 => some .add | 3 => some .and | 4 => some .or | 5 => some .xor
  | 6 => some .min | 7 => some .max | 8 => some .minu | 9 => some .maxu
  | _ => none
def BoxSel.code : BoxSel → BitVec 5
  | .lo => 0 | .hi => 1 | .ext => 2 | .cls => 3 | .rank => 4 | .depth => 5 | .nkey => 6 | .points => 7
def BoxSel.ofCode (n : Nat) : Option BoxSel :=
  match n with
  | 0 => some .lo | 1 => some .hi | 2 => some .ext | 3 => some .cls | 4 => some .rank | 5 => some .depth
  | 6 => some .nkey | 7 => some .points
  | _ => none
def KeySel.code : KeySel → BitVec 5
  | .self => 0 | .left => 1 | .right => 2
def KeySel.ofCode (n : Nat) : Option KeySel :=
  match n with
  | 0 => some .self | 1 => some .left | 2 => some .right
  | _ => none
/-- The kind codes of R76. -/
def Kind.code : Kind → BitVec 2
  | .rule => 0 | .leaf => 1 | .handler => 2 | .cont => 3
def Kind.ofCode (n : Nat) : Option Kind :=
  match n with
  | 0 => some .rule | 1 => some .leaf | 2 => some .handler | 3 => some .cont
  | _ => none
def Scope.code : Scope → BitVec 4
  | .row => 0 | .die => 1 | .pkg => 2 | .sys => 3
def Scope.ofCode (n : Nat) : Option Scope :=
  match n with
  | 0 => some .row | 1 => some .die | 2 => some .pkg | 3 => some .sys
  | _ => none
def TlbScope.code : TlbScope → BitVec 5
  | .va => 0 | .ctx => 1 | .all => 2
def TlbScope.ofCode (n : Nat) : Option TlbScope :=
  match n with
  | 0 => some .va | 1 => some .ctx | 2 => some .all
  | _ => none
def MstatSel.code : MstatSel → BitVec 16
  | .stat => 0 | .step => 1 | .fva => 2
def MstatSel.ofCode (n : Nat) : Option MstatSel :=
  match n with
  | 0 => some .stat | 1 => some .step | 2 => some .fva
  | _ => none
def Layout.code : Layout → BitVec 4
  | .dense => 0 | .tiles => 1 | .csr => 2
def Layout.ofCode (n : Nat) : Option Layout :=
  match n with
  | 0 => some .dense | 1 => some .tiles | 2 => some .csr
  | _ => none

/-! ### The word of an instruction (R201, R204) -/

/-- A register number in a 6-bit field. -/
def s6 (r : SReg) : BitVec 6 := BitVec.ofFin r
def v6 (r : VReg) : BitVec 6 := (BitVec.ofFin r : BitVec 5).setWidth 6
def k6 (r : Fin 8) : BitVec 6 := (BitVec.ofFin r : BitVec 3).setWidth 6

/-- The common fields above a 34-bit tail (R201). -/
def word (op : BitVec 8) (g : Guard) (d a b : BitVec 6) (tail : BitVec 34) : Word :=
  op ++ (BitVec.ofFin g.p : BitVec 3) ++ (BitVec.ofBool g.neg) ++ d ++ a ++ b ++ tail

/-- The seven tails of R204. -/
def tailR (c : BitVec 6) (t : BitVec 4) (m : BitVec 3) (s : BitVec 5) (x : BitVec 16) : BitVec 34 :=
  c ++ t ++ m ++ s ++ x
def tailM (am : BitVec 3) (w : BitVec 4) (o : BitVec 3) (i : BitVec 24) : BitVec 34 := am ++ w ++ o ++ i
def tailV (c : BitVec 6) (t : BitVec 4) (m : BitVec 3) (k : BitVec 3) (z : BitVec 2) (s : BitVec 16) : BitVec 34 :=
  c ++ t ++ m ++ k ++ z ++ s
def tailW (l : BitVec 6) (q : BitVec 4) (i : BitVec 24) : BitVec 34 := l ++ q ++ i
def tailE (c : BitVec 6) (l : BitVec 6) (e : BitVec 22) : BitVec 34 := c ++ l ++ e

/-- The B field and the tail of a memory operand (R205, R123, R226). -/
def AMode.bField : AMode → BitVec 6
  | .bo ty _ | .pi ty _ | .piw ty _ _ | .pc ty _ => (0 : BitVec 2) ++ ty.code
  | .bi idx _ => s6 idx
def AMode.tail (o : BitVec 3) : AMode → BitVec 34
  | .bo _ i => tailM 0 0 o i
  | .bi _ sh => tailM 1 0 o ((BitVec.ofFin sh : BitVec 2).setWidth 24)
  | .pi _ i => tailM 2 0 o i
  | .piw _ w i => tailM 3 (BitVec.ofFin w) o i
  | .pc _ i => tailM 4 0 o i

/-- The B field and bs bit of a bs operand (R214, R292). -/
def VB.bField : VB → BitVec 6
  | .v r => v6 r
  | .s r => s6 r
def VB.sBits : VB → BitVec 16
  | .v _ => 0x0000
  | .s _ => 0x0100

/-- A vector word with mask and options (R292). -/
def wordV (op : BitVec 8) (g : Guard) (t : Fmt) (m : BitVec 3) (k : Msk) (d a b c : BitVec 6) (s : BitVec 16) : Word :=
  word op g d a b (tailV c t.code m (BitVec.ofFin k.k) ((BitVec.ofBool k.z).setWidth 2) s)
/-- An R-format word that uses only registers. -/
def wordR3 (op : BitVec 8) (g : Guard) (d a b : SReg) : Word := word op g (s6 d) (s6 a) (s6 b) 0
/-- An I-format word with a destination, a source and an immediate. -/
def wordI (op : BitVec 8) (g : Guard) (d a : SReg) (i : BitVec 34) : Word := word op g (s6 d) (s6 a) 0 i
/-- A scalar floating-point word (R212). -/
def wordF (op : BitVec 8) (g : Guard) (t : Fmt) (m : Rm) (d a b c : SReg) : Word :=
  word op g (s6 d) (s6 a) (s6 b) (tailR (s6 c) t.code m.code 0 0)
/-- The matrix options of E (R215). -/
def MxOpt.bits (o : MxOpt) : BitVec 22 :=
  o.t.code ++ BitVec.ofBool o.z ++ BitVec.ofBool o.gang.isSome ++ o.gang.getD 0

def KopOp.word (g : Guard) : KopOp → Word
  | .and d a b => Sys2Proof.word 0xB8 g (k6 d) (k6 a) (k6 b) (tailR 0 0 0 0 0)
  | .or d a b => Sys2Proof.word 0xB8 g (k6 d) (k6 a) (k6 b) (tailR 0 0 0 0 1)
  | .xor d a b => Sys2Proof.word 0xB8 g (k6 d) (k6 a) (k6 b) (tailR 0 0 0 0 2)
  | .not d a => Sys2Proof.word 0xB8 g (k6 d) (k6 a) 0 (tailR 0 0 0 0 3)
  | .pop d a => Sys2Proof.word 0xB8 g (s6 d) (k6 a) 0 (tailR 0 0 0 0 4)
  | .mov d a => Sys2Proof.word 0xB8 g (k6 d) (k6 a) 0 (tailR 0 0 0 0 5)

def SgnOp.s : SgnOp → BitVec 5
  | .abs => 0 | .neg => 1 | .copy _ => 2
def SgnOp.b : SgnOp → SReg
  | .abs => 0 | .neg => 0 | .copy b => b
def VCond.code : VCond → Nat
  | .i c => c.code
  | .f c => c.code

/-- The first word of an instruction, from the encoding tables of R208 to R215; the device's own steps have none. -/
def encodeWord : Instr → Option Word
  | .illegal w => some ((0x00 : BitVec 8) ++ w)
  | .nop g => some (word 0x01 g 0 0 0 0)
  | .skip g n => some (word 0x02 g 0 0 0 (n.setWidth 34))
  | .call g i => some (word 0x03 g 0 0 0 i)
  | .ret g => some (word 0x04 g 0 0 0 0)
  | .trap g i => some (word 0x05 g 0 0 0 (i.setWidth 34))
  | .brk g => some (word 0x06 g 0 0 0 0)
  | .movc g d n => some (wordI 0x07 g d 0 (n.setWidth 34))
  | .movcw g a n => some (wordI 0x08 g 0 a (n.setWidth 34))
  | .tresume g d a c => some (word 0x09 g (s6 d) (s6 a) 0 (tailR 0 0 0 0 (c.setWidth 16)))
  | .tdrop g d a c => some (word 0x0A g (s6 d) (s6 a) 0 (tailR 0 0 0 0 (c.setWidth 16)))
  | .tlbinv g sc a b => some (word 0x0B g 0 (s6 a) (s6 b) (tailR 0 0 0 sc.code 0))
  | .icinv g => some (word 0x0C g 0 0 0 0)
  | .halt g q d a l => some (word 0x0D g (s6 d) (s6 a) 0 (tailW (s6 l) ((BitVec.ofBool q).setWidth 4) 0))
  | .boxld g d a m => some (word 0x10 g (k6 d) (s6 a) m.bField (m.tail 0))
  | .boxst g d a m => some (word 0x11 g (k6 d) (s6 a) m.bField (m.tail 0))
  | .boxget g d a sel x =>
    some (word 0x12 g (s6 d) (k6 a) 0 (tailR 0 0 0 sel.code ((BitVec.ofFin x : BitVec 3).setWidth 16)))
  | .boxset g d a b hi x =>
    some (word 0x13 g (k6 d) (k6 a) (s6 b)
      (tailR 0 0 0 ((BitVec.ofBool hi).setWidth 5) ((BitVec.ofFin x : BitVec 3).setWidth 16)))
  | .boxkey g d a sel => some (word 0x14 g (s6 d) (k6 a) 0 (tailR 0 0 0 sel.code 0))
  | .fits g d a x => some (word 0x15 g (k6 d) (k6 a) 0 (tailR 0 0 0 0 x))
  | .split g x => some (word 0x16 g 0 0 0 (tailR 0 0 0 0 ((BitVec.ofFin x : BitVec 3).setWidth 16)))
  | .splitk g pc => some (word 0x17 g 0 0 0 (pc.setWidth 34))
  | .splitf g mask pc => some (word 0x18 g mask 0 0 (pc.setWidth 34))
  | .prune g => some (word 0x19 g 0 0 0 0)
  | .leaf g pc => some (word 0x1A g 0 0 0 (pc.setWidth 34))
  | .done g => some (word 0x1B g 0 0 0 0)
  | .requeue g => some (word 0x1C g 0 0 0 0)
  | .spawn g kd d a b l pc => some (word 0x1D g (s6 d) (s6 a) (k6 b) (tailW (s6 l) (kd.code.setWidth 4) pc))
  | .send g vn a pc => some (word 0x1E g ((BitVec.ofBool vn).setWidth 6) (s6 a) 0 (pc.setWidth 34))
  | .deposit g t a => some (word 0x1F g 0 (s6 a) 0 (tailR 0 t.code 0 0 0))
  | .cinc g a => some (word 0x20 g 0 (s6 a) 0 0)
  | .cadd g a b => some (word 0x21 g 0 (s6 a) (s6 b) 0)
  | .waitc g y d a b l => some (word 0x22 g (s6 d) (s6 a) (s6 b) (tailW (s6 l) ((BitVec.ofBool y).setWidth 4) 0))
  | .vwaitc g y d a b l i => some (word 0x23 g (s6 d) (s6 a) (v6 b) (tailW (s6 l) ((BitVec.ofBool y).setWidth 4) i))
  | .bar g sc d a b l => some (word 0x24 g (s6 d) (s6 a) (s6 b) (tailW (s6 l) sc.code 0))
  | .bara g sc d a b => some (word 0x25 g (s6 d) (s6 a) (s6 b) (tailW 0 sc.code 0))
  | .barw g d a l => some (word 0x26 g (s6 d) (s6 a) 0 (tailW (s6 l) 0 0))
  | .fence g d l be af => some (word 0x27 g (s6 d) 0 0 (tailW (s6 l) 0 ((af ++ be).setWidth 24)))
  | .fencesc g d l => some (word 0x28 g (s6 d) 0 0 (tailW (s6 l) 0 0))
  | .amo g t op d a b c => some (word 0x29 g (s6 d) (s6 a) (s6 b) (tailR (s6 c) t.code 0 op.code 0))
  | .bdecl g rem d a x =>
    some (word 0x30 g (s6 d) (s6 a) 0
      (tailR 0 0 0 ((BitVec.ofBool rem).setWidth 5) ((BitVec.ofFin x : BitVec 4).setWidth 16)))
  | .waitb g prod d a b l => some (word 0x31 g (s6 d) (s6 a) (s6 b) (tailW (s6 l) ((BitVec.ofBool prod).setWidth 4) 0))
  | .badv g d a b => some (wordR3 0x32 g d a b)
  | .brel g d a b => some (wordR3 0x33 g d a b)
  | .bstat g d a b => some (wordR3 0x34 g d a b)
  | .sendb g d a b c l len => some (word 0x35 g (s6 d) (s6 a) (s6 b) (tailE (s6 c) (s6 l) (len.setWidth 22)))
  | .add g d a b => some (wordR3 0x40 g d a b)
  | .sub g d a b => some (wordR3 0x41 g d a b)
  | .mul g d a b => some (wordR3 0x42 g d a b)
  | .mulh g d a b => some (wordR3 0x43 g d a b)
  | .mulhu g d a b => some (wordR3 0x44 g d a b)
  | .div g d a b => some (wordR3 0x45 g d a b)
  | .divu g d a b => some (wordR3 0x46 g d a b)
  | .rem g d a b => some (wordR3 0x47 g d a b)
  | .remu g d a b => some (wordR3 0x48 g d a b)
  | .and g d a b => some (wordR3 0x49 g d a b)
  | .or g d a b => some (wordR3 0x4A g d a b)
  | .xor g d a b => some (wordR3 0x4B g d a b)
  | .andn g d a b => some (wordR3 0x4C g d a b)
  | .shl g d a b => some (wordR3 0x4D g d a b)
  | .shr g d a b => some (wordR3 0x4E g d a b)
  | .sar g d a b => some (wordR3 0x4F g d a b)
  | .rot g d a b => some (wordR3 0x50 g d a b)
  | .min g d a b => some (wordR3 0x51 g d a b)
  | .max g d a b => some (wordR3 0x52 g d a b)
  | .minu g d a b => some (wordR3 0x53 g d a b)
  | .maxu g d a b => some (wordR3 0x54 g d a b)
  | .clz g d a => some (wordR3 0x55 g d a 0)
  | .ctz g d a => some (wordR3 0x56 g d a 0)
  | .popc g d a => some (wordR3 0x57 g d a 0)
  | .bfx g d a b c => some (word 0x58 g (s6 d) (s6 a) (s6 b) (tailR (s6 c) 0 0 0 0))
  | .bfxs g d a b c => some (word 0x59 g (s6 d) (s6 a) (s6 b) (tailR (s6 c) 0 0 0 0))
  | .bfi g d a b c => some (word 0x5A g (s6 d) (s6 a) (s6 b) (tailR (s6 c) 0 0 0 0))
  | .sel g d a b c => some (word 0x5B g (s6 d) (s6 a) (s6 b) (tailR (k6 c) 0 0 0 0))
  | .cmp g c d a b => some (word 0x5C g (k6 d) (s6 a) (s6 b) (tailR 0 0 0 (BitVec.ofNat 5 c.code) 0))
  | .addi g d a i => some (wordI 0x60 g d a i)
  | .andi g d a i => some (wordI 0x61 g d a i)
  | .ori g d a i => some (wordI 0x62 g d a i)
  | .xori g d a i => some (wordI 0x63 g d a i)
  | .shli g d a i => some (wordI 0x64 g d a i)
  | .shri g d a i => some (wordI 0x65 g d a i)
  | .sari g d a i => some (wordI 0x66 g d a i)
  | .cmpi g c d a i => some (word 0x67 g (k6 d) (s6 a) (BitVec.ofNat 6 c.code) i)
  | .muli g d a i => some (wordI 0x68 g d a i)
  | .lea g d i => some (wordI 0x69 g d 0 i)
  | .movi g d i => some (wordI 0x6A g d 0 i)
  | .movhi g d i => some (wordI 0x6B g d 0 (i.setWidth 34))
  | .fadd g t m d a b => some (wordF 0x70 g t m d a b 0)
  | .fsub g t m d a b => some (wordF 0x71 g t m d a b 0)
  | .fmul g t m d a b => some (wordF 0x72 g t m d a b 0)
  | .ffma g t m d a b c => some (wordF 0x73 g t m d a b c)
  | .fdiv g t m d a b => some (wordF 0x74 g t m d a b 0)
  | .fsqrt g t m d a => some (wordF 0x75 g t m d a 0 0)
  | .fmin g t d a b => some (wordF 0x76 g t .rne d a b 0)
  | .fmax g t d a b => some (wordF 0x77 g t .rne d a b 0)
  | .fcmp g t c d a b => some (word 0x78 g (k6 d) (s6 a) (s6 b) (tailR 0 t.code 0 (BitVec.ofNat 5 c.code) 0))
  | .fcvt g t src m d a => some (word 0x79 g (s6 d) (s6 a) 0 (tailR 0 t.code m.code 0 (src.code.setWidth 16)))
  | .fclass g t d a => some (wordF 0x7A g t .rne d a 0 0)
  | .fexp g t m d a => some (wordF 0x7B g t m d a 0 0)
  | .flog g t m d a => some (wordF 0x7C g t m d a 0 0)
  | .ferf g t m d a => some (wordF 0x7D g t m d a 0 0)
  | .ferfc g t m d a => some (wordF 0x7E g t m d a 0 0)
  | .fsgn g t op d a => some (word 0x7F g (s6 d) (s6 a) (s6 op.b) (tailR 0 t.code 0 op.s 0))
  | .ld g d a m o => some (word 0x80 g (s6 d) (s6 a) m.bField (m.tail o.code))
  | .st g d a m o => some (word 0x81 g (s6 d) (s6 a) m.bField (m.tail o.code))
  | .ldv g d a m o => some (word 0x82 g (v6 d) (s6 a) m.bField (m.tail o.code))
  | .stv g d a m o => some (word 0x83 g (v6 d) (s6 a) m.bField (m.tail o.code))
  | .ldvx g t k d a b sh => some (wordV 0x84 g t 0 k (v6 d) (s6 a) (v6 b) 0 ((BitVec.ofFin sh : BitVec 2).setWidth 16))
  | .stvx g t k d a b sh =>
    some (wordV 0x85 g t 0 ⟨k, false⟩ (v6 d) (s6 a) (v6 b) 0 ((BitVec.ofFin sh : BitVec 2).setWidth 16))
  | .ldw g d a b l i => some (word 0x86 g (s6 d) (s6 a) (s6 b) (tailW (s6 l) 0 i))
  | .mstore g d a m o => some (word 0x87 g (s6 d) (s6 a) m.bField (m.tail o.code))
  | .vadd g t m k d a b => some (wordV 0x90 g t m.code k (v6 d) (v6 a) b.bField 0 b.sBits)
  | .vsub g t m k d a b => some (wordV 0x91 g t m.code k (v6 d) (v6 a) b.bField 0 b.sBits)
  | .vmul g t m k d a b => some (wordV 0x92 g t m.code k (v6 d) (v6 a) b.bField 0 b.sBits)
  | .vfma g t m k d a b c => some (wordV 0x93 g t m.code k (v6 d) (v6 a) b.bField (v6 c) b.sBits)
  | .vfms g t m k d a b c => some (wordV 0x94 g t m.code k (v6 d) (v6 a) b.bField (v6 c) b.sBits)
  | .vdiv g t m k d a b => some (wordV 0x95 g t m.code k (v6 d) (v6 a) b.bField 0 b.sBits)
  | .vsqrt g t m k d a => some (wordV 0x96 g t m.code k (v6 d) (v6 a) 0 0 0)
  | .vmin g t k d a b => some (wordV 0x97 g t 0 k (v6 d) (v6 a) b.bField 0 b.sBits)
  | .vmax g t k d a b => some (wordV 0x98 g t 0 k (v6 d) (v6 a) b.bField 0 b.sBits)
  | .vabs g t k d a => some (wordV 0x99 g t 0 k (v6 d) (v6 a) 0 0 0)
  | .vneg g t k d a => some (wordV 0x9A g t 0 k (v6 d) (v6 a) 0 0 0)
  | .vcmp g t c k d a b => some (wordV 0x9B g t 0 k (k6 d) (v6 a) b.bField 0 (b.sBits ||| BitVec.ofNat 16 c.code))
  | .vsel g t k d a b => some (wordV 0x9C g t 0 ⟨k, false⟩ (v6 d) (v6 a) (v6 b) 0 0)
  | .vand g t k d a b => some (wordV 0x9D g t 0 k (v6 d) (v6 a) b.bField 0 b.sBits)
  | .vor g t k d a b => some (wordV 0x9E g t 0 k (v6 d) (v6 a) b.bField 0 b.sBits)
  | .vxor g t k d a b => some (wordV 0x9F g t 0 k (v6 d) (v6 a) b.bField 0 b.sBits)
  | .vshl g t k d a b => some (wordV 0xA0 g t 0 k (v6 d) (v6 a) b.bField 0 b.sBits)
  | .vshr g t k d a b => some (wordV 0xA1 g t 0 k (v6 d) (v6 a) b.bField 0 b.sBits)
  | .vsar g t k d a b => some (wordV 0xA2 g t 0 k (v6 d) (v6 a) b.bField 0 b.sBits)
  | .vmov g t k d a => some (wordV 0xA3 g t 0 k (v6 d) (v6 a) 0 0 0)
  | .vshape g s => some (word 0xA4 g 0 0 0 (s.setWidth 34))
  | .viota g t k d a => some (wordV 0xA5 g t 0 k (v6 d) (s6 a) 0 0 0)
  | .vred g t m k cols d a => some (wordV 0xA6 g t m.code k (v6 d) (v6 a) 0 0 ((BitVec.ofBool cols).setWidth 16))
  | .redt g t m k d a b => some (wordV 0xA7 g t m.code ⟨k, false⟩ (s6 d) (v6 a) (s6 b) 0 0)
  | .vcvt g t src m k d a => some (wordV 0xB0 g t m.code k (v6 d) (v6 a) 0 0 (src.code.setWidth 16))
  | .vreq g t m k d a b => some (wordV 0xB1 g t m.code k (v6 d) (v6 a) (s6 b) 0 0)
  | .vcomp g t k d a c => some (wordV 0xB2 g t 0 ⟨k, false⟩ (v6 d) (v6 a) 0 (s6 c) 0)
  | .vexpd g t k d a => some (wordV 0xB3 g t 0 k (v6 d) (v6 a) 0 0 0)
  | .vperm g t k d a b => some (wordV 0xB4 g t 0 k (v6 d) (v6 a) (v6 b) 0 0)
  | .vtrans g t d a => some (wordV 0xB5 g t 0 ⟨0, false⟩ (v6 d) (v6 a) 0 0 0)
  | .vbcast g t k d a => some (wordV 0xB6 g t 0 k (v6 d) (s6 a) 0 0 0)
  | .vslide g t down k d a b => some (wordV 0xB7 g t 0 k (v6 d) (v6 a) (s6 b) 0 ((BitVec.ofBool down).setWidth 16))
  | .kop g op => some (op.word g)
  | .vrand g w64 k d => some (wordV 0xB9 g (if w64 then .ui64 else .ui32) 0 k (v6 d) 0 0 0 0)
  | .vgets g t d a b => some (wordV 0xBA g t 0 ⟨0, false⟩ (s6 d) (v6 a) (s6 b) 0 0)
  | .vputs g t d a b => some (wordV 0xBB g t 0 ⟨0, false⟩ (v6 d) (s6 a) (s6 b) 0 0)
  | .vfexp g t m k d a => some (wordV 0xC0 g t m.code k (v6 d) (v6 a) 0 0 0)
  | .vflog g t m k d a => some (wordV 0xC1 g t m.code k (v6 d) (v6 a) 0 0 0)
  | .vferf g t m k d a => some (wordV 0xC2 g t m.code k (v6 d) (v6 a) 0 0 0)
  | .vferfc g t m k d a => some (wordV 0xC3 g t m.code k (v6 d) (v6 a) 0 0 0)
  | .vlnt g t k d a => some (wordV 0xC4 g t 0 k (v6 d) (v6 a) 0 0 0)
  | .vlnf g t m k d a => some (wordV 0xC5 g t m.code k (v6 d) (v6 a) 0 0 0)
  | .vxexp g t k d a => some (wordV 0xC6 g t 0 k (v6 d) (v6 a) 0 0 0)
  | .vxrcp g t k d a => some (wordV 0xC7 g t 0 k (v6 d) (v6 a) 0 0 0)
  | .vxrsq g t k d a => some (wordV 0xC8 g t 0 k (v6 d) (v6 a) 0 0 0)
  | .vxsig g t k d a => some (wordV 0xC9 g t 0 k (v6 d) (v6 a) 0 0 0)
  | .vxtanh g t k d a => some (wordV 0xCA g t 0 k (v6 d) (v6 a) 0 0 0)
  | .sclaim g d x => some (word 0xD0 g (s6 d) 0 0 (tailR 0 0 0 0 (x.setWidth 16)))
  | .srel g a x => some (word 0xD1 g 0 (s6 a) 0 (tailR 0 0 0 0 (x.setWidth 16)))
  | .sfill g a b c len => some (word 0xD2 g 0 (s6 a) (s6 b) (tailE (s6 c) 0 (len.setWidth 22)))
  | .sstat g d a => some (wordR3 0xD3 g d a 0)
  | .mldw g t ws a l =>
    some (word 0xD4 g 0 (s6 a) 0 (tailE 0 (s6 l) (t.code ++ (0 : BitVec 17) ++ BitVec.ofBool ws)))
  | .mma g o tile a b c l => some (word 0xD5 g (s6 tile) (s6 a) (s6 b) (tailE (s6 c) (s6 l) o.bits))
  | .mmag g o tile a b c l => some (word 0xD6 g (s6 tile) (s6 a) (s6 b) (tailE (s6 c) (s6 l) o.bits))
  | .mmas g o tile a b c l => some (word 0xD7 g (s6 tile) (s6 a) (s6 b) (tailE (s6 c) (s6 l) o.bits))
  | .mwait g d l => some (word 0xD8 g (s6 d) 0 0 (tailW (s6 l) 0 0))
  | .mresume g l => some (word 0xD9 g 0 0 0 (tailE 0 (s6 l) 0))
  | .mout g t m sc tile a b =>
    some (word 0xDA g (s6 tile) (s6 a) (s6 b)
      (tailE 0 0 (t.code ++ m.code ++ BitVec.ofBool sc ++ (0 : BitVec 14))))
  | .mzero g tile => some (word 0xDB g (s6 tile) 0 0 0)
  | .mstat g d sel => some (word 0xDC g (s6 d) 0 0 (tailR 0 0 0 0 sel.code))
  | .fetch g d a b c l => some (word 0xE0 g (s6 d) (s6 a) (s6 b) (tailE (s6 c) (s6 l) 0))
  | .put g d a b c l => some (word 0xE1 g (s6 d) (s6 a) (s6 b) (tailE (s6 c) (s6 l) 0))
  | .gather g d a b c l n z => some (word 0xE2 g (s6 d) (s6 a) (s6 b) (tailE (s6 c) (s6 l) ((z ++ n).setWidth 22)))
  | .scata g t d a b c l n z => some (word 0xE3 g (s6 d) (s6 a) (s6 b) (tailE (s6 c) (s6 l) (t.code ++ z ++ n)))
  | .nlcfg g d a l => some (word 0xE4 g (s6 d) (s6 a) 0 (tailE 0 (s6 l) 0))
  | .nlbin g d a b l => some (word 0xE5 g (s6 d) (s6 a) (s6 b) (tailE 0 (s6 l) ((0x1 : BitVec 4) ++ (0 : BitVec 18))))
  | .nlpairs g d a b c l => some (word 0xE6 g (s6 d) (s6 a) (s6 b) (tailE (s6 c) (s6 l) 0))
  | .nlstat g d sel => some (word 0xE7 g (s6 d) 0 0 (tailE 0 0 ((BitVec.ofFin sel : BitVec 4).setWidth 22)))
  | .conv g t src dst d a b l =>
    some (word 0xE8 g (s6 d) (s6 a) (s6 b) (tailE 0 (s6 l) (t.code ++ (0 : BitVec 10) ++ dst.code ++ src.code)))
  | .ewait g d a l => some (word 0xE9 g (s6 d) (s6 a) 0 (tailW (s6 l) 0 0))
  | .estat g d a => some (wordR3 0xEA g d a 0)
  | .movx g d _ => some (word 0xF0 g (s6 d) 0 0 0)
  | .functionReady .. | .funcLost .. | .supplyOutOfRange .. | .supplyInRange .. | .supplyDip ..
  | .powerSample .. | .droopDetect .. | .thermalThrottle .. | .ptpMessage .. | .exchangeFrameRx ..
  | .createCtx .. | .map .. | .unmap .. | .loadWimage .. | .launch .. | .evict .. | .resume .. | .destroyCtx ..
  | .readTrapring .. | .attest .. | .doorbellWrite .. | .hostRdmaWrite .. | .hostRdmaRead .. | .wakeMessage ..
  | .tstartWrite .. | .tickpWrite .. | .plimitWrite .. | .fpcrWrite .. | .fpsrWrite .. | .agemaxWrite ..
  | .dlescWrite .. | .evselWrite .. | .evcntWrite .. | .haltrelWrite .. | .registerWrite .. | .messageInject ..
  | .messageReoffer .. | .poolRetest .. | .poolExpiry .. | .supHoldService .. | .evictStepEnd ..
  | .writeApply .. | .tableWalk .. | .slotFillStart .. | .slotFillEnd .. | .gangBarrier ..
  | .connectionAccept .. | .evOvf .. | .packageReset .. | .recoveryStatusRead .. | .powerLoss ..
  | .supplyOvervoltage .. | .stretchRelax .. | .droopRelease .. | .thermalTrip .. | .tickBoundary ..
  | .exchangeLinkLoss .. | .connectionDrop .. | .launchStart .. | .launchEnd .. | .strandDispatch ..
  | .relayStart .. | .messageArrival .. | .stealRequest .. | .stealGrant .. | .stealDeny ..
  | .stealBackoffExpiry .. | .spawnReservationRequest .. | .spawnAnswer .. | .spawnRelease ..
  | .commitGroupRelease .. | .splicerDeposit .. | .splicerCover .. | .watchdog .. | .deadlineExpiry ..
  | .evictionBound .. | .waitSatisfied .. | .mailboxDrain .. | .haltStop .. | .refreshStallEnd ..
  | .sequencerStep .. | .mmasPrefetch .. | .sendbArrival .. | .sendbLanded .. | .barrierArrival ..
  | .barrierWithdraw .. | .barrierComplete .. | .gdeTransferBlock .. | .gdeRowFetch .. | .scataApply ..
  | .nlbinComplete .. | .nleBlock .. | .convPhase .. | .engineCommandEnd .. => none

/-- The words of an instruction: one, or two for MOVX (R200). -/
def encode (i : Instr) : List Word :=
  match i with
  | .movx _ _ imm => (encodeWord i).toList ++ [imm]
  | _ => (encodeWord i).toList

/-! ### Reading the fields -/

/-- The fields of a word that the readers below use (R201, R204). -/
def wOp (w : Word) : BitVec 8 := w.extractLsb' 56 8
def wG (w : Word) : Guard := ⟨(w.extractLsb' 53 3).toFin, w.getLsbD 52⟩
def fD (w : Word) : BitVec 6 := w.extractLsb' 46 6
def fA (w : Word) : BitVec 6 := w.extractLsb' 40 6
def fB (w : Word) : BitVec 6 := w.extractLsb' 34 6
def wD (w : Word) : SReg := (fD w).toFin
def wA (w : Word) : SReg := (fA w).toFin
def wB (w : Word) : SReg := (fB w).toFin
def wVD (w : Word) : VReg := ((fD w).setWidth 5).toFin
def wVA (w : Word) : VReg := ((fA w).setWidth 5).toFin
def wVB (w : Word) : VReg := ((fB w).setWidth 5).toFin
def wKD (w : Word) : Fin 8 := ((fD w).setWidth 3).toFin
def wKA (w : Word) : Fin 8 := ((fA w).setWidth 3).toFin
def wKB (w : Word) : Fin 8 := ((fB w).setWidth 3).toFin
/-- C of the formats R, V and E, and L of format W: bits 33:28. -/
def wC (w : Word) : SReg := (w.extractLsb' 28 6).toFin
def wVC (w : Word) : VReg := (w.extractLsb' 28 5).toFin
def wKC (w : Word) : Fin 8 := (w.extractLsb' 28 3).toFin
/-- L of format E: bits 27:22. -/
def wEL (w : Word) : SReg := (w.extractLsb' 22 6).toFin
def wT (w : Word) : Fmt := Fmt.ofCode (w.extractLsb' 24 4)
def wM (w : Word) : Option Rm := Rm.ofCode (w.extractLsb' 21 3)
/-- S of format R: bits 20:16; X: bits 15:0. -/
def wS (w : Word) : Nat := (w.extractLsb' 16 5).toNat
def wX (w : Word) : BitVec 16 := w.extractLsb' 0 16
def wX3 (w : Word) : Fin 8 := (w.extractLsb' 0 3).toFin
def wI34 (w : Word) : BitVec 34 := w.extractLsb' 0 34
def wI24 (w : Word) : BitVec 24 := w.extractLsb' 0 24
/-- Q of format W. -/
def wQ (w : Word) : Nat := (w.extractLsb' 24 4).toNat
def wQ0 (w : Word) : Bool := w.getLsbD 24
/-- K and Z of format V. -/
def wK (w : Word) : Msk := ⟨(w.extractLsb' 18 3).toFin, w.getLsbD 16⟩
/-- The T code in E[21:18]. -/
def wET (w : Word) : Fmt := Fmt.ofCode (w.extractLsb' 18 4)
def wMx (w : Word) : MxOpt :=
  ⟨wET w, w.getLsbD 17, if w.getLsbD 16 then some (w.extractLsb' 0 16) else none⟩
def wVBs (w : Word) : VB := if w.getLsbD 8 then .s (wB w) else .v (wVB w)
/-- The memory operand of an M-format word (R123, R205). -/
def wMode (w : Word) : Option AMode :=
  let ty := Fmt.ofCode ((fB w).setWidth 4)
  match (w.extractLsb' 31 3).toNat with
  | 0 => some (.bo ty (wI24 w))
  | 1 => some (.bi (wB w) (w.extractLsb' 0 2).toFin)
  | 2 => some (.pi ty (wI24 w))
  | 3 => some (.piw ty (w.extractLsb' 27 4).toFin (wI24 w))
  | 4 => some (.pc ty (wI24 w))
  | _ => none
def wO (w : Word) : Option MemOrd := MemOrd.ofCode (w.extractLsb' 24 3)

/-- An M-format reading with its order. -/
def rdMem (w : Word) (f : AMode → MemOrd → Instr) : Option Instr := do
  let m ← wMode w
  let o ← wO w
  return f m o
/-- A reading that needs the rounding mode M. -/
def rdM (w : Word) (f : Rm → Instr) : Option Instr := (wM w).map f

/-- OP 0x00 to 0x0F (R208). -/
def parse0 (w : Word) (lo : Nat) : Option Instr :=
  let g := wG w
  match lo with
  | 0 => some (.illegal (w.extractLsb' 0 56))
  | 1 => some (.nop g)
  | 2 => some (.skip g (w.extractLsb' 0 20))
  | 3 => some (.call g (wI34 w))
  | 4 => some (.ret g)
  | 5 => some (.trap g (w.extractLsb' 0 32))
  | 6 => some (.brk g)
  | 7 => some (.movc g (wD w) (w.extractLsb' 0 12))
  | 8 => some (.movcw g (wA w) (w.extractLsb' 0 12))
  | 9 => some (.tresume g (wD w) (wA w) (w.extractLsb' 0 5))
  | 10 => some (.tdrop g (wD w) (wA w) (w.extractLsb' 0 5))
  | 11 => (TlbScope.ofCode (wS w)).map (fun sc => .tlbinv g sc (wA w) (wB w))
  | 12 => some (.icinv g)
  | 13 => some (.halt g (wQ0 w) (wD w) (wA w) (wC w))
  | _ => none

/-- OP 0x10 to 0x1F (R209). -/
def parse1 (w : Word) (lo : Nat) : Option Instr :=
  let g := wG w
  match lo with
  | 0 => (wMode w).map (fun m => .boxld g (wKD w) (wA w) m)
  | 1 => (wMode w).map (fun m => .boxst g (wKD w) (wA w) m)
  | 2 => (BoxSel.ofCode (wS w)).map (fun s => .boxget g (wD w) (wKA w) s (wX3 w))
  | 3 => some (.boxset g (wKD w) (wKA w) (wB w) (w.getLsbD 16) (wX3 w))
  | 4 => (KeySel.ofCode (wS w)).map (fun s => .boxkey g (wD w) (wKA w) s)
  | 5 => some (.fits g (wKD w) (wKA w) (wX w))
  | 6 => some (.split g (wX3 w))
  | 7 => some (.splitk g (w.extractLsb' 0 32))
  | 8 => some (.splitf g (fD w) (w.extractLsb' 0 32))
  | 9 => some (.prune g)
  | 10 => some (.leaf g (w.extractLsb' 0 32))
  | 11 => some (.done g)
  | 12 => some (.requeue g)
  | 13 => (Kind.ofCode (wQ w)).map (fun kd => .spawn g kd (wD w) (wA w) (wKB w) (wC w) (wI24 w))
  | 14 => some (.send g (w.getLsbD 46) (wA w) (w.extractLsb' 0 32))
  | 15 => some (.deposit g (wT w) (wA w))
  | _ => none

/-- OP 0x20 to 0x2F (R210). -/
def parse2 (w : Word) (lo : Nat) : Option Instr :=
  let g := wG w
  match lo with
  | 0 => some (.cinc g (wA w))
  | 1 => some (.cadd g (wA w) (wB w))
  | 2 => some (.waitc g (wQ0 w) (wD w) (wA w) (wB w) (wC w))
  | 3 => some (.vwaitc g (wQ0 w) (wD w) (wA w) (wVB w) (wC w) (wI24 w))
  | 4 => (Scope.ofCode (wQ w)).map (fun sc => .bar g sc (wD w) (wA w) (wB w) (wC w))
  | 5 => (Scope.ofCode (wQ w)).map (fun sc => .bara g sc (wD w) (wA w) (wB w))
  | 6 => some (.barw g (wD w) (wA w) (wC w))
  | 7 => some (.fence g (wD w) (wC w) (w.extractLsb' 0 8) (w.extractLsb' 8 8))
  | 8 => some (.fencesc g (wD w) (wC w))
  | 9 => (AmoOp.ofCode (wS w)).map (fun op => .amo g (wT w) op (wD w) (wA w) (wB w) (wC w))
  | _ => none

/-- OP 0x30 to 0x3F (R210). -/
def parse3 (w : Word) (lo : Nat) : Option Instr :=
  let g := wG w
  match lo with
  | 0 => some (.bdecl g (w.getLsbD 16) (wD w) (wA w) (w.extractLsb' 0 4).toFin)
  | 1 => some (.waitb g (wQ0 w) (wD w) (wA w) (wB w) (wC w))
  | 2 => some (.badv g (wD w) (wA w) (wB w))
  | 3 => some (.brel g (wD w) (wA w) (wB w))
  | 4 => some (.bstat g (wD w) (wA w) (wB w))
  | 5 => some (.sendb g (wD w) (wA w) (wB w) (wC w) (wEL w) (w.extractLsb' 0 11))
  | _ => none

/-- OP 0x40 to 0x4F (R211). -/
def parse4 (w : Word) (lo : Nat) : Option Instr :=
  let g := wG w
  let d := wD w
  let a := wA w
  let b := wB w
  match lo with
  | 0 => some (.add g d a b)
  | 1 => some (.sub g d a b)
  | 2 => some (.mul g d a b)
  | 3 => some (.mulh g d a b)
  | 4 => some (.mulhu g d a b)
  | 5 => some (.div g d a b)
  | 6 => some (.divu g d a b)
  | 7 => some (.rem g d a b)
  | 8 => some (.remu g d a b)
  | 9 => some (.and g d a b)
  | 10 => some (.or g d a b)
  | 11 => some (.xor g d a b)
  | 12 => some (.andn g d a b)
  | 13 => some (.shl g d a b)
  | 14 => some (.shr g d a b)
  | 15 => some (.sar g d a b)
  | _ => none

/-- OP 0x50 to 0x5F (R211). -/
def parse5 (w : Word) (lo : Nat) : Option Instr :=
  let g := wG w
  let d := wD w
  let a := wA w
  let b := wB w
  match lo with
  | 0 => some (.rot g d a b)
  | 1 => some (.min g d a b)
  | 2 => some (.max g d a b)
  | 3 => some (.minu g d a b)
  | 4 => some (.maxu g d a b)
  | 5 => some (.clz g d a)
  | 6 => some (.ctz g d a)
  | 7 => some (.popc g d a)
  | 8 => some (.bfx g d a b (wC w))
  | 9 => some (.bfxs g d a b (wC w))
  | 10 => some (.bfi g d a b (wC w))
  | 11 => some (.sel g d a b (wKC w))
  | 12 => (ICond.ofCode (wS w)).map (fun c => .cmp g c (wKD w) a b)
  | _ => none

/-- OP 0x60 to 0x6F (R211). -/
def parse6 (w : Word) (lo : Nat) : Option Instr :=
  let g := wG w
  let d := wD w
  let a := wA w
  let i := wI34 w
  match lo with
  | 0 => some (.addi g d a i)
  | 1 => some (.andi g d a i)
  | 2 => some (.ori g d a i)
  | 3 => some (.xori g d a i)
  | 4 => some (.shli g d a i)
  | 5 => some (.shri g d a i)
  | 6 => some (.sari g d a i)
  | 7 => (ICond.ofCode (fB w).toNat).map (fun c => .cmpi g c (wKD w) a i)
  | 8 => some (.muli g d a i)
  | 9 => some (.lea g d i)
  | 10 => some (.movi g d i)
  | 11 => some (.movhi g d (w.extractLsb' 0 30))
  | _ => none

/-- OP 0x70 to 0x7F (R212). -/
def parse7 (w : Word) (lo : Nat) : Option Instr :=
  let g := wG w
  let t := wT w
  let d := wD w
  let a := wA w
  let b := wB w
  match lo with
  | 0 => rdM w (fun m => .fadd g t m d a b)
  | 1 => rdM w (fun m => .fsub g t m d a b)
  | 2 => rdM w (fun m => .fmul g t m d a b)
  | 3 => rdM w (fun m => .ffma g t m d a b (wC w))
  | 4 => rdM w (fun m => .fdiv g t m d a b)
  | 5 => rdM w (fun m => .fsqrt g t m d a)
  | 6 => some (.fmin g t d a b)
  | 7 => some (.fmax g t d a b)
  | 8 => (FCond.ofCode (wS w)).map (fun c => .fcmp g t c (wKD w) a b)
  | 9 => rdM w (fun m => .fcvt g t (Fmt.ofCode (w.extractLsb' 0 4)) m d a)
  | 10 => some (.fclass g t d a)
  | 11 => rdM w (fun m => .fexp g t m d a)
  | 12 => rdM w (fun m => .flog g t m d a)
  | 13 => rdM w (fun m => .ferf g t m d a)
  | 14 => rdM w (fun m => .ferfc g t m d a)
  | 15 =>
    match wS w with
    | 0 => some (.fsgn g t .abs d a)
    | 1 => some (.fsgn g t .neg d a)
    | 2 => some (.fsgn g t (.copy b) d a)
    | _ => none
  | _ => none

/-- OP 0x80 to 0x8F (R213). -/
def parse8 (w : Word) (lo : Nat) : Option Instr :=
  let g := wG w
  match lo with
  | 0 => rdMem w (fun m o => .ld g (wD w) (wA w) m o)
  | 1 => rdMem w (fun m o => .st g (wD w) (wA w) m o)
  | 2 => rdMem w (fun m o => .ldv g (wVD w) (wA w) m o)
  | 3 => rdMem w (fun m o => .stv g (wVD w) (wA w) m o)
  | 4 => some (.ldvx g (wT w) (wK w) (wVD w) (wA w) (wVB w) (w.extractLsb' 0 2).toFin)
  | 5 => some (.stvx g (wT w) (wK w).k (wVD w) (wA w) (wVB w) (w.extractLsb' 0 2).toFin)
  | 6 => some (.ldw g (wD w) (wA w) (wB w) (wC w) (wI24 w))
  | 7 => rdMem w (fun m o => .mstore g (wD w) (wA w) m o)
  | _ => none

/-- The VCMP condition of a word, by the kind of T (R299). -/
def wVCond (w : Word) : Option VCond :=
  let n := (w.extractLsb' 0 5).toNat
  if (wT w).isIeee then (FCond.ofCode n).map .f else (ICond.ofCode n).map .i

/-- OP 0x90 to 0x9F (R214). -/
def parse9 (w : Word) (lo : Nat) : Option Instr :=
  let g := wG w
  let t := wT w
  let k := wK w
  let d := wVD w
  let a := wVA w
  let b := wVBs w
  match lo with
  | 0 => rdM w (fun m => .vadd g t m k d a b)
  | 1 => rdM w (fun m => .vsub g t m k d a b)
  | 2 => rdM w (fun m => .vmul g t m k d a b)
  | 3 => rdM w (fun m => .vfma g t m k d a b (wVC w))
  | 4 => rdM w (fun m => .vfms g t m k d a b (wVC w))
  | 5 => rdM w (fun m => .vdiv g t m k d a b)
  | 6 => rdM w (fun m => .vsqrt g t m k d a)
  | 7 => some (.vmin g t k d a b)
  | 8 => some (.vmax g t k d a b)
  | 9 => some (.vabs g t k d a)
  | 10 => some (.vneg g t k d a)
  | 11 => (wVCond w).map (fun c => .vcmp g t c k (wKD w) a b)
  | 12 => some (.vsel g t k.k d a (wVB w))
  | 13 => some (.vand g t k d a b)
  | 14 => some (.vor g t k d a b)
  | 15 => some (.vxor g t k d a b)
  | _ => none

/-- OP 0xA0 to 0xAF (R214). -/
def parseA (w : Word) (lo : Nat) : Option Instr :=
  let g := wG w
  let t := wT w
  let k := wK w
  let d := wVD w
  let a := wVA w
  let b := wVBs w
  match lo with
  | 0 => some (.vshl g t k d a b)
  | 1 => some (.vshr g t k d a b)
  | 2 => some (.vsar g t k d a b)
  | 3 => some (.vmov g t k d a)
  | 4 => some (.vshape g (wX w))
  | 5 => some (.viota g t k d (wA w))
  | 6 => rdM w (fun m => .vred g t m k (w.getLsbD 0) d a)
  | 7 => rdM w (fun m => .redt g t m k.k (wD w) a (wB w))
  | _ => none

/-- KOP (R310). -/
def parseKop (w : Word) : Option KopOp :=
  match (wX w).toNat with
  | 0 => some (.and (wKD w) (wKA w) (wKB w))
  | 1 => some (.or (wKD w) (wKA w) (wKB w))
  | 2 => some (.xor (wKD w) (wKA w) (wKB w))
  | 3 => some (.not (wKD w) (wKA w))
  | 4 => some (.pop (wD w) (wKA w))
  | 5 => some (.mov (wKD w) (wKA w))
  | _ => none

/-- OP 0xB0 to 0xBF (R214). -/
def parseB (w : Word) (lo : Nat) : Option Instr :=
  let g := wG w
  let t := wT w
  let k := wK w
  let d := wVD w
  let a := wVA w
  match lo with
  | 0 => rdM w (fun m => .vcvt g t (Fmt.ofCode (w.extractLsb' 0 4)) m k d a)
  | 1 => rdM w (fun m => .vreq g t m k d a (wB w))
  | 2 => some (.vcomp g t k.k d a (wC w))
  | 3 => some (.vexpd g t k d a)
  | 4 => some (.vperm g t k d a (wVB w))
  | 5 => some (.vtrans g t d a)
  | 6 => some (.vbcast g t k d (wA w))
  | 7 => some (.vslide g t (w.getLsbD 0) k d a (wB w))
  | 8 => (parseKop w).map (fun op => .kop g op)
  | 9 => if t == .ui64 then some (.vrand g true k d) else if t == .ui32 then some (.vrand g false k d) else none
  | 10 => some (.vgets g t (wD w) a (wB w))
  | 11 => some (.vputs g t d (wA w) (wB w))
  | _ => none

/-- OP 0xC0 to 0xCF (R214). -/
def parseC (w : Word) (lo : Nat) : Option Instr :=
  let g := wG w
  let t := wT w
  let k := wK w
  let d := wVD w
  let a := wVA w
  match lo with
  | 0 => rdM w (fun m => .vfexp g t m k d a)
  | 1 => rdM w (fun m => .vflog g t m k d a)
  | 2 => rdM w (fun m => .vferf g t m k d a)
  | 3 => rdM w (fun m => .vferfc g t m k d a)
  | 4 => some (.vlnt g t k d a)
  | 5 => rdM w (fun m => .vlnf g t m k d a)
  | 6 => some (.vxexp g t k d a)
  | 7 => some (.vxrcp g t k d a)
  | 8 => some (.vxrsq g t k d a)
  | 9 => some (.vxsig g t k d a)
  | 10 => some (.vxtanh g t k d a)
  | _ => none

/-- OP 0xD0 to 0xDF (R215). -/
def parseD (w : Word) (lo : Nat) : Option Instr :=
  let g := wG w
  match lo with
  | 0 => some (.sclaim g (wD w) (w.extractLsb' 0 6))
  | 1 => some (.srel g (wA w) (w.extractLsb' 0 6))
  | 2 => some (.sfill g (wA w) (wB w) (wC w) (w.extractLsb' 0 8))
  | 3 => some (.sstat g (wD w) (wA w))
  | 4 => some (.mldw g (wET w) (w.getLsbD 0) (wA w) (wEL w))
  | 5 => some (.mma g (wMx w) (wD w) (wA w) (wB w) (wC w) (wEL w))
  | 6 => some (.mmag g (wMx w) (wD w) (wA w) (wB w) (wC w) (wEL w))
  | 7 => some (.mmas g (wMx w) (wD w) (wA w) (wB w) (wC w) (wEL w))
  | 8 => some (.mwait g (wD w) (wC w))
  | 9 => some (.mresume g (wEL w))
  | 10 => (Rm.ofCode (w.extractLsb' 15 3)).map (fun m => .mout g (wET w) m (w.getLsbD 14) (wD w) (wA w) (wB w))
  | 11 => some (.mzero g (wD w))
  | 12 => (MstatSel.ofCode (w.extractLsb' 0 2).toNat).map (fun s => .mstat g (wD w) s)
  | _ => none

/-- OP 0xE0 to 0xEF (R215). -/
def parseE (w : Word) (lo : Nat) : Option Instr :=
  let g := wG w
  let d := wD w
  let a := wA w
  let b := wB w
  let c := wC w
  let l := wEL w
  match lo with
  | 0 => some (.fetch g d a b c l)
  | 1 => some (.put g d a b c l)
  | 2 => some (.gather g d a b c l (w.extractLsb' 0 8) (w.extractLsb' 8 10))
  | 3 => some (.scata g (wET w) d a b c l (w.extractLsb' 0 8) (w.extractLsb' 8 10))
  | 4 => some (.nlcfg g d a l)
  | 5 => some (.nlbin g d a b l)
  | 6 => some (.nlpairs g d a b c l)
  | 7 => some (.nlstat g d (w.extractLsb' 0 4).toFin)
  | 8 => do
    let src ← Layout.ofCode (w.extractLsb' 0 4).toNat
    let dst ← Layout.ofCode (w.extractLsb' 4 4).toNat
    return .conv g (wET w) src dst d a b l
  | 9 => some (.ewait g d a (wC w))
  | 10 => some (.estat g d a)
  | _ => none

/-- The instruction whose fields a word holds; `w2` is the word after it, which only MOVX uses (R200). -/
def parseWord (w w2 : Word) : Option Instr :=
  let lo := (w.extractLsb' 56 4).toNat
  match (w.extractLsb' 60 4).toNat with
  | 0 => parse0 w lo
  | 1 => parse1 w lo
  | 2 => parse2 w lo
  | 3 => parse3 w lo
  | 4 => parse4 w lo
  | 5 => parse5 w lo
  | 6 => parse6 w lo
  | 7 => parse7 w lo
  | 8 => parse8 w lo
  | 9 => parse9 w lo
  | 10 => parseA w lo
  | 11 => parseB w lo
  | 12 => parseC w lo
  | 13 => parseD w lo
  | 14 => parseE w lo
  | _ => if lo = 0 then some (.movx (wG w) (wD w) w2) else none

/-- Is OP assigned in R207? -/
def opAssigned (op : Nat) : Bool :=
  let lo := op % 16
  match op / 16 with
  | 0 => lo ≤ 13 | 1 => true | 2 => lo ≤ 9 | 3 => lo ≤ 5 | 4 => true | 5 => lo ≤ 12 | 6 => lo ≤ 11 | 7 => true
  | 8 => lo ≤ 7 | 9 => true | 10 => lo ≤ 7 | 11 => lo ≤ 11 | 12 => lo ≤ 10 | 13 => lo ≤ 12 | 14 => lo ≤ 10
  | _ => lo == 0

/-- Does the word name a supervisor opcode, or a control register of 0x800 to 0xFFF (R219 step 2, R103, R207)? -/
def privWord (w : Word) : Bool :=
  let op := (wOp w).toNat
  op == 0x0B || op == 0x0C || op == 0x0D || ((op == 0x07 || op == 0x08) && w.getLsbD 11)

/-- The number that a PRIV trap of the word reports: the control register, or 0 (R159). -/
def privDetail (w : Word) : Nat :=
  let op := (wOp w).toNat
  if op == 0x07 || op == 0x08 then (w.extractLsb' 0 12).toNat else 0

/-- The name of the check that a word fails after its fields are read. -/
def checkError (i : Instr) : DecodeError :=
  match i with
  | .movc _ _ n | .movcw _ _ n => if crExists n then .badField else .noRegister
  | _ => .badField

/-- The instruction of a word and the word after it, or the name of the check of R219 that it fails. -/
def decodeWord (w w2 : Word) : Except DecodeError Instr :=
  if !opAssigned (wOp w).toNat then .error .unassigned
  else
    match parseWord w w2 with
    | none => .error .badField
    | some i => if i.wf && encodeWord i == some w then .ok i else .error (checkError i)

/-- The length of an instruction in bytes (R200). -/
def Instr.length : Instr → Nat
  | .movx .. => 16
  | _ => 8

/-- A 64-bit word from eight bytes, the lowest address first (R1). -/
def wordOfBytes (l : List Byte) : Word := l.foldr (fun b w => (w <<< 8) ||| b.setWidth 64) 0

/-- The decoder on bytes: the instruction and the bytes that follow it. -/
def decodeBytes (l : List Byte) : Except DecodeError (Instr × List Byte) :=
  if l.length < 8 then .error .truncated
  else
    match decodeWord (wordOfBytes (l.take 8)) (wordOfBytes ((l.drop 8).take 8)) with
    | .error e => .error e
    | .ok i => if l.length < i.length then .error .truncated else .ok (i, l.drop i.length)

/-- The instruction that the decoder reads from the bits of `spec/opcode_table.json`'s numbering: bit 0 is the least
significant bit of the first word, and the second word of MOVX is bits 127 to 64. -/
def decodeTableWord (_nbits w : Nat) : Option Instr :=
  match decodeWord (BitVec.ofNat 64 w) (BitVec.ofNat 64 (w / 2 ^ 64)) with
  | .ok i => some i
  | .error _ => none

end Sys2Proof
end

