-- ==== Sys2Proof/Machine/Bits.lean ====
section
/-! DEFINITION. Bit fields, byte lists, sign extension, and the fields of a box image (R1, R52, R55, R56, R242 to
R244). -/
namespace Sys2Proof.Machine

/-- Bits [hi:lo] of a word as a number (R1). -/
def bits {n : Nat} (x : BitVec n) (hi lo : Nat) : Nat := (x.toNat >>> lo) % 2 ^ (hi + 1 - lo)

/-- A word with its field at `lo`, of width `w`, replaced (R1). -/
def putBits {n : Nat} (x : BitVec n) (lo w v : Nat) : BitVec n :=
  BitVec.ofNat n (x.toNat - ((x.toNat >>> lo) % 2 ^ w) * 2 ^ lo + (v % 2 ^ w) * 2 ^ lo)

/-- Sign extension of the low `w` bits of a number to 64 bits. -/
def sext64 (w v : Nat) : Word :=
  let m := v % 2 ^ w
  if 2 ^ (w - 1) ≤ m then BitVec.ofInt 64 ((m : Int) - 2 ^ w) else BitVec.ofNat 64 m

/-- The signed value of the low `w` bits. -/
def sval (w v : Nat) : Int :=
  let m := v % 2 ^ w
  if 2 ^ (w - 1) ≤ m then (m : Int) - 2 ^ w else m

/-- The little-endian number of a byte list (R1). -/
def natOfBytes : List Byte → Nat
  | [] => 0
  | b :: t => b.toNat + 256 * natOfBytes t

/-- The `n` low bytes of a number, lowest first (R1). -/
def bytesOfNat : Nat → Nat → List Byte
  | 0, _ => []
  | n + 1, v => BitVec.ofNat 8 v :: bytesOfNat n (v / 256)

/-- A little-endian field of a byte list. -/
def leAt (l : List Byte) (off n : Nat) : Nat := natOfBytes ((l.drop off).take n)

/-- `roundup(x, a)`: the next multiple of `a`. -/
def roundUp (x a : Nat) : Nat := (x + a - 1) / a * a

/-- The floor of log2 of a positive number. -/
def flog2 (n : Nat) : Nat := Nat.log2 n

/-- The least k with 2^k at or above n (R57). -/
def clog2 (n : Nat) : Nat := if n ≤ 1 then 0 else flog2 (n - 1) + 1

/-- `x ∈ l`, as a Bool. -/
def has {α : Type} [BEq α] (l : List α) (x : α) : Bool := l.any (· == x)

/-- The element at an index, or a default. -/
def nth {α : Type} (l : List α) (i : Nat) (d : α) : α := (l[i]?).getD d

/-- The list with the element at an index replaced. -/
def setNth {α : Type} : List α → Nat → α → List α
  | [], _, _ => []
  | _ :: t, 0, y => y :: t
  | x :: t, i + 1, y => x :: setNth t i y

/-- The list without the element at an index. -/
def dropNth {α : Type} : List α → Nat → List α
  | [], _ => []
  | _ :: t, 0 => t
  | x :: t, i + 1 => x :: dropNth t i

/-- The index of the first element that satisfies a test. -/
def findIdx {α : Type} (p : α → Bool) : List α → Nat → Option Nat
  | [], _ => none
  | x :: t, i => if p x then some i else findIdx p t (i + 1)

/-- Every value of a table changed. -/
def Table.mapv {α : Type} (t : Table α) (f : α → α) : Table α := t.map (fun e => (e.1, f e.2))

/-! ### Boxes (R52) -/

/-- Axis bounds (R52). -/
def boxLo (b : BoxImg) (a : Nat) : Nat := bits b (64 * a + 31) (64 * a)
def boxHi (b : BoxImg) (a : Nat) : Nat := bits b (64 * a + 63) (64 * a + 32)
/-- Class and key rank of an axis (R52). -/
def boxClass (b : BoxImg) (a : Nat) : Nat := bits b (384 + 8 * a + 1) (384 + 8 * a)
def boxRank (b : BoxImg) (a : Nat) : Nat := bits b (384 + 8 * a + 4) (384 + 8 * a + 2)
/-- Depth and node key (R52, R56). -/
def boxDepth (b : BoxImg) : Nat := bits b 439 432
def boxKey (b : BoxImg) : Word := b.extractLsb' 448 64
/-- hi − lo, 0 when hi < lo (R242, R243). -/
def boxExt (b : BoxImg) (a : Nat) : Nat := boxHi b a - boxLo b a
/-- An axis's factor in products: its extent, or 1 for an UNUSED axis (R52). -/
def boxFactor (b : BoxImg) (a : Nat) : Nat := if boxClass b a = 0 then 1 else boxExt b a
/-- The points of a box (R52). -/
def boxPoints (b : BoxImg) : Nat := (List.range 6).foldl (fun p a => p * boxFactor b a) 1
/-- The product of extents of the FREE axes (R252). -/
def boxFree (b : BoxImg) : Nat := (List.range 6).foldl (fun p a => if boxClass b a = 1 then p * boxExt b a else p) 1

def setBoxLo (b : BoxImg) (a v : Nat) : BoxImg := putBits b (64 * a) 32 v
def setBoxHi (b : BoxImg) (a v : Nat) : BoxImg := putBits b (64 * a + 32) 32 v
def setBoxDepth (b : BoxImg) (v : Nat) : BoxImg := putBits b 432 8 v
def setBoxKey (b : BoxImg) (v : Word) : BoxImg := putBits b 448 64 v.toNat

/-- A malformed box (R243). -/
def boxMalformed (b : BoxImg) : Bool :=
  (List.range 6).any (fun a =>
    boxHi b a < boxLo b a || boxClass b a == 3 || (boxClass b a == 0 && (boxLo b a != 0 || boxHi b a != 0)))

/-- The current key axis: the REDUCED axis of lowest key rank with extent above 1 (R54). -/
def keyAxis (b : BoxImg) : Option Nat :=
  (List.range 8).findSome? (fun r =>
    (List.range 6).find? (fun a => boxClass b a == 2 && boxRank b a == r && decide (1 < boxExt b a)))

/-- The split point of [lo, hi): (hi − 1) with the bits below the highest differing bit of lo and hi − 1 cleared
(R55). -/
def splitMid (lo hi : Nat) : Nat :=
  let p := flog2 (lo ^^^ (hi - 1))
  (hi - 1) / 2 ^ p * 2 ^ p

/-- Lowest set bit of a key (R244). -/
def lowBit (k : Word) : Word := k &&& (0 - k)
/-- Keys of the children (R56, R244). -/
def leftKey (k : Word) : Word := if k = 0 ∨ lowBit k = 1 then 0 else k - (lowBit k >>> 1)
def rightKey (k : Word) : Word := if k = 0 ∨ lowBit k = 1 then 0 else k + (lowBit k >>> 1)

/-- The two children of a split (R55, R56). -/
def splitBox (b : BoxImg) (a : Nat) : BoxImg × BoxImg :=
  let mid := splitMid (boxLo b a) (boxHi b a)
  let d := boxDepth b + 1
  (setBoxKey (setBoxDepth (setBoxHi b a mid) d) (leftKey (boxKey b)),
   setBoxKey (setBoxDepth (setBoxLo b a mid) d) (rightKey (boxKey b)))

/-- An all-UNUSED box of depth 0 with a key (R80, R163). -/
def keyBox (k : Word) : BoxImg := setBoxKey 0 k

/-- The bytes of a box image and back (R52). -/
def boxBytes (b : BoxImg) : List Byte := bytesOfNat 64 b.toNat
def boxOfBytes (l : List Byte) : BoxImg := BitVec.ofNat 512 (natOfBytes (l.take 64))

end Sys2Proof.Machine
end

