-- ==== Sys2Proof/Config.lean ====
section
/-! DEFINITION. What one implementation fixes, and the free values: constants with no body, of which nothing can be
proved, for every value that the reference leaves open (logs 3 to 8). -/
namespace Sys2Proof.Config

/-- Bytes that the reference calls unspecified: the overlap of one FETCH or PUT (R333), the work area of NLBIN (R337);
applied to the counter `State.free` (log 3). -/
opaque freeByte : Nat → Byte
/-- Words that the reference leaves open, applied to the counter `State.free` (log 3). -/
opaque freeWord : Nat → Word
/-- Host keys (rkeys) that the device hands out; the reference gives no numbering (log 3). -/
opaque freeRkey : Nat → BitVec 32

/-- Nanoseconds of die time that pass in step `n` (R13; log 4). -/
opaque dtimeAdvance : Nat → Nat
/-- Nanoseconds of PTP time that pass in step `n` (R14, R16; log 4). -/
opaque ptpAdvance : Nat → Nat
/-- Core clock cycles that pass on die `d` in step `n`, stretched as R18 to R20 say (R3, R12; log 4). -/
opaque cycleAdvance : Nat → Nat → Nat

/-- Events of a code that step `n` brings on die `d` and that timing inside the units decides, on a row, or with row 0 on
the die as a whole: column-slip stalls, bank conflicts, barrier and send-buffer stall cycles of a row; mesh and
die-to-die flits, HBM reads and writes of the die (R28; log 4). -/
opaque unitEvents : Nat → Nat → Nat → Nat → Nat

/-- ML-DSA-87 verification of a signature over a digest by the fused Vrelmor key (R24; log 5). -/
opaque mldsaVerify : List Byte → List Byte → Bool
/-- ML-DSA-87 signature by the device identity key (R26, R42; log 5). -/
opaque mldsaSign : List Byte → List Byte

/-- The bits of VXEXP, VXRCP, VXRSQ, VXSIG and VXTANH (function 0 to 4), of an operand of a format (T code), which R195
bounds and does not give (log 6). -/
opaque vxBits : Nat → Nat → Nat → Nat
/-- The last resort of a correctly rounded function whose interval refinement has run out of fuel (log 7): function,
format, mode, operand bits. -/
opaque crHard : Nat → Nat → Nat → Nat → Nat

/-- Which resident context firmware evicts when all four partitions of a row are held (R106; log 8). -/
opaque victim : Nat → Nat
/-- Which exchange port carries an item to a chip (R15, R157; log 8). -/
opaque xcPort : Nat → Fin 8

/-- Bytes of HBM: 384 GiB (R6, R137). -/
def hbmBytes : Nat := 384 * 2 ^ 30
/-- Bytes of one weight-store die: 2 GiB (R6). -/
def wsDieBytes : Nat := 2 ^ 31
/-- Bytes of a core's local store: 1.5 MiB (R97). -/
def ldsBytes : Nat := 0x180000
/-- Physical cores of the package; the four management cores are numbered after them (log 10). -/
def nCores : Nat := 1024

end Sys2Proof.Config
end

