-- ==== Sys2Proof/Machine/State.lean ====
section
/-! DEFINITION. The state of one Kraot chip as plain data, the faults and refusals, and the state right after reset. -/
namespace Sys2Proof.Machine

/-- Why the machine stops. -/
inductive Fault where
  /-- Raised by `step` alone, when the module has no power: after an input above 60 V it "switches off without notice"
  (R17). Nothing runs. Safe: no state follows. -/
  | moduleOff
deriving DecidableEq, Repr

/-- Why an instruction has no meaning here. -/
inductive Refusal where
  /-- Raised by an arm of `exec` whose instruction has no meaning yet; safe. -/
  | notModelled (mnemonic : String)
deriving DecidableEq, Repr

/-- A trap: its code, the detail and the effective address that its record carries (R159, R161), and the flags that the
instruction raised, which the record ORs to FPSR (R185). -/
structure TrapInfo where
  code : Nat
  detail : Nat
  ea : Word
  raised : BitVec 5
deriving DecidableEq, Repr

/-! ### Tasks and messages (R76 to R81) -/

/-- A task record (R76). `fitSd` is CTL[4]: FIT in a LEAF record, SD in a RULE record. `hdrOk` and `foot` are what the
unit header `hdr` gave when the record was made (R230): whether it was valid for the record, and FOOT. `spawned` marks a
record made by SPAWN, whose write window is empty (R250). `mask` is the allowed-axis mask of the SPLITF that pushed a
FIT record (R62), which the 128-byte layout has no place for. -/
structure TaskRec where
  box : BoxImg
  pc : BitVec 32
  kind : Kind
  role : BitVec 2
  fitSd : Bool
  wait : Bool
  req : Bool
  exp : Bool
  relay : BitVec 8
  jref : BitVec 48
  launch : BitVec 32
  args : Vector Word 4
  wctr : Word
  wtgt : Word
  hdr : Word
  hdrOk : Bool
  foot : BitVec 16
  spawned : Bool
  mask : BitVec 6
deriving DecidableEq, Repr

/-- A message (R78). -/
structure Msg where
  dest : BitVec 32
  vn : Bool
  ctx : BitVec 4
  hpc : BitVec 32
  src : BitVec 32
  seq : Word
  vals : Vector Word 4
  key : Word
deriving DecidableEq, Repr

/-- A message in a handler queue; `held` names the trap-ring index of its hold (R160, R164). -/
structure QMsg where
  msg : Msg
  held : Option Nat
deriving DecidableEq, Repr

/-- A record in a deque; `held` names the trap-ring index of its hold. -/
structure DqItem where
  tr : TaskRec
  held : Option Nat
deriving DecidableEq, Repr

/-- A wait-pool entry (R88, R89): its record (with EXP), expiry in DTIME, whether its condition was found met, the
marks of the attempt that yielded (R148), and the end of the refresh window that holds its test (R134). -/
structure PoolItem where
  tr : TaskRec
  expiry : Nat
  satisfied : Bool
  marks : List Nat
  stall : Nat
deriving DecidableEq, Repr

/-- A queued trap-service task (R163): the vector PC, the hold it is for, and the trapped task's key. -/
structure SvcItem where
  pc : BitVec 32
  trapIx : Nat
  key : Word
deriving DecidableEq, Repr

/-- A message in a send buffer (R81): `released` by the group, `flight` while it is offered, `notBefore` the core cycle
before which a refused message is not offered again (R79), `xc` when it is for another chip, and then the release tick
and exchange sequence that its release gave it (R157); its place `ord` in the release order of the core (R119) and the
mark of its task. -/
structure SendItem where
  msg : Msg
  released : Bool
  flight : Bool
  notBefore : Nat
  xc : Bool
  tick : Nat
  xseq : Nat
  ord : Nat
  mark : Nat
deriving DecidableEq, Repr

/-- What started a task (R80, R82, R163): a deque record (also a SPAWN start and a relay), a message of a VN, or a hold
to be served. -/
inductive Trigger where
  | record
  | msg (vn : Bool)
  | svc (trapIx : Nat)
deriving DecidableEq, Repr

/-- A commit effect other than keep writes and verdict pushes, in program order (R96). -/
inductive Effect where
  /-- The next message of a VN in the send buffer (R81). -/
  | send (vn : Bool)
  /-- CINC and CADD: the counter's address and the addend (R253). -/
  | add (ea : Word) (n : Word)
  /-- DEPOSIT: the join reference, the tile's address, the accumulator format and the box (R252). -/
  | deposit (jref : BitVec 48) (tile : Word) (t : Fmt) (box : BoxImg)
  /-- SPAWN's start on a reserved strand (R92). -/
  | spawn (strand : Nat)
  /-- TRESUME (`drop` false) and TDROP: hold handle and count (R271). -/
  | endHold (h : Word) (c : Nat) (drop : Bool)
  /-- SCATA (R335): table base, index list, row bytes, format and update bytes. -/
  | scata (base : Word) (idx : List Nat) (z : Nat) (t : Fmt) (vals : List Byte) (heap : Nat) (cmd : Nat)
  /-- The held release of a CORE baton slot (R131): logical core key, baton, slot. -/
  | brel (lc baton slot : Nat)
deriving DecidableEq, Repr

/-- How a task ends (R61, R248, R249). -/
inductive EndKind where
  | done
  | requeue
  | split (axis : Fin 8)
  | splitk (pc : BitVec 32)
  | splitf (mask : BitVec 6) (pc : BitVec 32)
  | prune
  | leaf (pc : BitVec 32)
deriving DecidableEq, Repr

/-- One outstanding barrier arrival of a strand (R257): scope, record, generation, `done` once the generation has
completed, `sys` while a system-scope arrival has no reply yet. -/
structure Arrival where
  scope : Scope
  va : Word
  gen : Nat
  done : Bool
  reply : Bool
  fail : Nat
deriving DecidableEq, Repr

/-- A reservation that SPAWN asks for (R92, R250): the context, the target, the task to start, and the answer when it
has come: `some none` for BUSY and `some (some k)` for a grant of strand `k`. -/
structure SpawnReq where
  ctx : Nat
  m : Nat
  kind : Kind
  pc : BitVec 32
  box : BoxImg
  args : Vector Word 4
  answer : Option (Option Nat)
deriving DecidableEq, Repr

/-- A blocking instruction that holds its strand (R166): the instruction, the DTIME that ends it, the cycle of its issue
(R95), and how far an instruction of several stages, such as HALT (R274), has come. -/
structure Wait where
  instr : Instr
  limit : Nat
  cyc0 : Nat
  stage : Nat
deriving DecidableEq, Repr

/-- The task that a strand runs: its record, the context and logical core that own it, what started it, its relay leg
and the strands of its relay's legs in leg order (empty when it is no relay), its frame, and what it has buffered. -/
structure Task where
  tr : TaskRec
  ctx : Nat
  lc : Nat
  trigger : Trigger
  leg : Nat
  legs : List Nat
  svcHandle : Word
  svcN : Nat
  expArmed : Bool
  frame : Nat
  frameLen : Nat
  tagLog : List (Nat × Nat)
  journal : List (Nat × List Byte)
  effects : List Effect
  deposited : Bool
  ring : Option (Nat × Nat)
  cyc0 : Nat
  blocked : Nat
  mxFlags : BitVec 5
deriving DecidableEq, Repr

/-- What a strand is doing: free, reserved for a SPAWN by a strand (R92), running, at the end of its task until the
group is released (R116), a relay leg that is done or has stopped, a leg that stops at its next instruction boundary, or
the leg whose trap waits for that (R94), or whose yield does, with its counter, target and expiry (R88). -/
inductive Phase where
  | free
  | reserved (owner : Nat)
  | running
  | ending (e : EndKind)
  | legDone
  | stopping
  | trapping (t : TrapInfo)
  | yielding (ctr tgt : Word) (expiry : Nat)
deriving DecidableEq, Repr

/-- A strand (R99, R104, R107, R117, R257, R268); `serial` counts the tasks that it has started, `held` says
that its next instruction has begun to issue and stalls (R114, R272), and `haltQ` that a HALT.Q of it keeps its core's
router quiet (R176). -/
structure Strand where
  sr : Vector Word 64
  vr : Vector VWord 32
  kr : Vector KWord 8
  pr : Vector Bool 8
  br : Vector BoxImg 8
  wr : Vector Word 16
  pc : Word
  rs : Vector Word 4
  depth : Nat
  vshape : Word
  fpcr : Word
  fpsr : Word
  rdraw : Word
  dlmax : Word
  dlesc : Word
  dlcount : Word
  budget : Word
  mxstat : Word
  mxstep : Word
  mxfva : Word
  bp : Vector Word 4
  ntasks : Table Nat
  serial : Nat
  sup : Bool
  phase : Phase
  task : Option Task
  iword : Word
  wait : Option Wait
  stall : Option (Nat × Nat)
  held : Bool
  dlePend : Bool
  readyAt : Nat
  issuedAt : Nat
  arr : Vector (Option Arrival) 4
  send : Vector (List SendItem) 2
  spawn : Option SpawnReq
  spawnTask : Option SpawnReq
  mxRep : List (Nat × Nat)
  haltReq : Bool
  halted : Bool
  haltAt : Nat
  haltQ : Bool
deriving DecidableEq, Repr

/-! ### The core (R97, R107, R110, R138, R170, R176) -/

/-- A fill of a slot (R319): source, bytes, and the task that issued it as it was then (R147). -/
structure Fill where
  src : Word
  len : Nat
  maker : Option Task
deriving DecidableEq, Repr

/-- An operand slot (R107, R108): STATE code of R320, mark of the owner task, tag, the fill in progress, a pending
fill of a FULL slot with its tag and the number of the first macro-op accepted after it, a pending release, a fault's
VA and code, and how far a fill from the weight store has come (R134): the end of the refresh window that holds it and
its next line. -/
structure Slot where
  st : Nat
  owner : Nat
  tag : BitVec 32
  fill : Option Fill
  pend : Option (BitVec 32 × Fill)
  lim : Nat
  rel : Bool
  fva : Word
  fcode : Nat
  stall : Nat × Nat
deriving DecidableEq, Repr

/-- A weight source (R321): none, a ring slot's tile, or a weight-store base with the tile that the bank holds of it, by
number and bytes. -/
inductive WSrc where
  | none
  | slot (t : Fmt) (tile : List Byte)
  | ws (t : Fmt) (w0 : Word) (j : Nat) (tile : List Byte)
deriving DecidableEq, Repr

/-- A cached translation (R138): context, VA and PA of the page, its size, WRITE and REPLICA. -/
structure TlbEnt where
  ctx : Nat
  va : Nat
  pa : Nat
  size : Nat
  write : Bool
  replica : Bool
deriving DecidableEq, Repr

/-- The per-context copy of the supervisor registers 0x800 to 0x807 on one core (R103, R104). -/
structure CtxRegs where
  ttbase : Word
  ctxcfg : Word
  agemax : Word
  remapbase : Word
  capls : Word
  capslot : Word
  captree : Word
  grace : Word
deriving DecidableEq, Repr

/-- A physical core: its two handler queues and whether a handler of each runs (R79, R80), messages on their way to
its router (sender strand and message), slots, weight banks (named and latched source per partition), frames in use
(base, length, strand), first-level TLB, instruction-cache lines (context and line VA, bytes), the logical core served
last (R51), register copies by context, the quiesce of HALT.Q, and the messages released on its strands (R119). A
frame's owner is the mark of a task. -/
structure Core where
  q : Vector (List QMsg) 2
  hrun : Vector (Option Nat) 2
  inbound : List (Nat × Msg)
  slots : Vector Slot 32
  named : Vector WSrc 4
  latched : Vector WSrc 4
  frames : List (Nat × Nat × Nat)
  tlb : List TlbEnt
  icache : List (Nat × Nat × List Byte)
  served : Nat
  regs : Table CtxRegs
  refuse : Bool
  ords : Nat
deriving DecidableEq, Repr

/-! ### Logical cores, batons, stealing (R82 to R89, R130, R174) -/

/-- A baton slot (R130, R131): state code, tag when it has one, owning strand, and whether a SENDB or an engine owns
its fill. -/
structure BSlot where
  st : Nat
  tag : Option (BitVec 32)
  owner : Nat
  remote : Bool
  got : Nat
deriving DecidableEq, Repr

/-- A baton's entry in the baton table (R130). -/
structure Baton where
  off : Nat
  size : Nat
  depth : Nat
  core : Bool
  nextrel : BitVec 32
  slots : List BSlot
deriving DecidableEq, Repr

/-- A thief's state (R85, R86): the request outstanding (the round's position), failed rounds, the core cycle before
which no round begins, whether the cross-chip request of a failed round is out, and the grant in transit. -/
structure Thief where
  pos : Option Nat
  fails : Nat
  notBefore : Nat
  xreq : Bool
  grant : Option TaskRec
  deny : Option Nat
deriving DecidableEq, Repr

/-- A logical core of a context on this chip: hardware deque and extension (bottom first), wait pool, service queue,
baton table, thief state, a pending relay, mailbox (message and hold mark), engine-command count, eviction marks,
whether self-descent has begun, where its static area begins in the core's local store (R125; log 15), the frame
(base, length) that a verdict allocated for the pending relay (R64), and the relays of later verdicts with theirs. -/
structure LCore where
  hw : List DqItem
  ext : List DqItem
  pool : List PoolItem
  svc : List SvcItem
  batons : List Baton
  thief : Thief
  relay : Option DqItem
  mailbox : List QMsg
  cmds : Nat
  evicted : Bool
  draining : Bool
  awake : Bool
  sbase : Nat
  rframe : Nat × Nat
  relays : List (DqItem × Nat × Nat)
deriving DecidableEq, Repr

/-! ### Rows, macro-ops, splicer (R65 to R68, R113 to R117, R317 to R329) -/

/-- A macro-op of the row sequencer (R114). -/
inductive MxKind where
  | mldw (t : Fmt) (src : WSrc) (seq : Option (BitVec 32))
  | mma (tile : Nat) (t : Fmt) (z : Bool) (seq : BitVec 32) (p c : Nat)
  | mmag (tile : Nat) (t : Fmt) (z : Bool) (seq : BitVec 32) (groups : List Nat) (c : Nat)
  | mmas (tile : Nat) (t : Fmt) (z : Bool) (list : Word) (nent nbr nbc : Nat) (seq : BitVec 32)
  | mout (tile : Nat) (t : Fmt) (m : Rm) (scale : Option (BitVec 32)) (dst : Word)
  | mzero (tile : Nat)
deriving DecidableEq, Repr

/-- A prefetched tile-list entry of an MMAS (R325): block row, block column, ABSENT, and a fault found (code, VA). -/
structure MmasEnt where
  r : Nat
  c : Nat
  absent : Bool
  va : Word
  flt : Option Word
deriving DecidableEq, Repr

/-- An accepted macro-op: issuing strand (of a gang the one of the lowest column), core, partition and context, the
gang's strands in ascending column (none without gang), ring, deadline of a slot wait, next step, when that step began
to wait, the tree stack, top first (group, lo, hi, units), reserved stack units, flags raised, the stop (FCODE,
DETAIL, VA), prefetched entries from the next step on, block row and column of the entry before, whether it was
cancelled, whether the checks of R323 are due, whether a gang's members disagreed, and its place in weight-store lines
that it reads (R134), as a slot's: of its steps, and of the entry read ahead. -/
structure MxOp where
  id : Nat
  strand : Nat
  core : Nat
  part : Nat
  ctx : Nat
  kind : MxKind
  gang : List Nat
  ring : Nat × Nat
  dl : Nat
  step : Nat
  since : Option Nat
  stack : List (Nat × Nat × Nat × List Nat)
  spare : List Nat
  flags : BitVec 5
  stop : Option (Nat × Nat × Word)
  ents : List MmasEnt
  last : Option (Nat × Nat)
  cancel : Bool
  check : Bool
  bad : Bool
  stall : Nat × Nat
  ahead : Nat × Nat
deriving DecidableEq, Repr

/-- An arrival at a row's wired barrier (R113, R256): issuing strand, mask, and for a gang product what every member
must agree in. -/
structure RowArr where
  strand : Nat
  mask : BitVec 16
  op : Option (MxOp × BitVec 8)
  slot : Nat
deriving DecidableEq, Repr

/-- An event at a splicer (R67): a deposit with the tile's bytes and the mark of its task, or points covered without
one. -/
inductive SplEv where
  | deposit (ctx : Nat) (jref : Nat) (tile : List Byte) (box : BoxImg) (mark : Nat)
  | cover (ctx : Nat) (jref : Nat) (box : BoxImg)
deriving DecidableEq, Repr

/-- A row: splicer queue, wired-barrier arrivals by partition, the partition served last by the sequencer on each
column's slice. -/
structure Row where
  spl : List SplEv
  barr : Vector (List RowArr) 4
  rr : Vector Nat 16
deriving DecidableEq, Repr

/-! ### Dies, engines and memory (R27, R133 to R142, R152, R331 to R340) -/

/-- A write of one die on its way to another (R152): the die that performed it, its clock tag, its coherence stamp,
the physical address, the bytes, what it does to the publish tags of its words, and the task mark and path that caused
it. -/
structure PWrite where
  src : Fin 4
  vc : Vector (BitVec 32) 4
  stamp : Nat
  pa : Nat
  bytes : List Byte
  tag : Option Bool
  mark : Nat
  path : Nat
deriving DecidableEq, Repr

/-- One die's view of global memory: listed bytes, the coherence stamp last applied to each 8-byte word, the words
whose publish tag is set, the vector clock, and the writes of other dies not yet applied. -/
structure View where
  cells : List Host.Cell
  stamps : Table Nat
  tags : Table Unit
  vc : Vector (BitVec 32) 4
  pend : List PWrite
deriving DecidableEq, Repr

/-- A neighbour-list configuration as NLCFG read it (R336). -/
structure NlCfg where
  lx : BitVec 32
  ly : BitVec 32
  lz : BitVec 32
  cutoff : BitVec 32
  skin : BitVec 32
  per : BitVec 8
  cap : Nat
  nx : Nat
  ny : Nat
  nz : Nat
  overMax : Nat
  work : Word
  workLen : Nat
deriving DecidableEq, Repr

/-- The NLE's state for one context on one die (R336 to R339): configuration, binning (cell lists in ascending index,
overflow entries used, positions at binning), the number of the last NLPAIRS, and what it emitted. -/
structure Nle where
  cfg : Option NlCfg
  bins : Option (List (Nat × List Nat))
  pos : List (List Byte)
  overUsed : Nat
  last : Nat
  records : Nat
  blocks : Nat
  curCell : Nat
  curI : Nat
  curJ : Nat
deriving DecidableEq, Repr

/-- An engine command (R331, R332, R341): engine, unit, tag count, context, logical core, mark of the issuing task,
core, opcode instruction, operands, operands read at issue, the issuing task as it was then (R147), STATE and FINAL of
ESTAT (STATE 4: ended, not yet visible), progress, reason, VA, cursor (place in the work, and the cycle before which a
refused block is not offered again), cancelled, spilled blocks, task key, place in weight-store lines (R134), whether
the attempt that issued it was aborted, so that its writes set no publish tag (R71, R148), and whether RESUME has still
to read again what it read at issue (R341). -/
structure Cmd where
  engine : Nat
  unit : Nat
  count : Nat
  ctx : Nat
  lc : Nat
  mark : Nat
  core : Nat
  live : Bool
  instr : Instr
  a : Word
  b : Word
  c : Word
  idx : List Nat
  vals : List Byte
  maker : Option Task
  st : Nat
  final : Nat
  progress : Nat
  reason : Nat
  fva : Word
  p0 : Nat
  p1 : Nat
  retryAt : Nat
  cancel : Bool
  spill : List (BitVec 32 × List Byte)
  key : Word
  stall : Nat × Nat
  undone : Bool
  reread : Bool
deriving DecidableEq, Repr

/-- A SENDB transfer that a baton has accepted and that has not landed (R131, R132, R264): the mark of its task, path,
core, sending logical core, source, the task as it was at issue (R147), length, and where it lands. -/
structure Xfer where
  mark : Nat
  path : Nat
  core : Nat
  sender : Nat
  src : Word
  maker : Option Task
  len : Nat
  lc : Nat
  baton : Nat
  slot : Nat
  seq : BitVec 32
  off : Nat
  last : Bool
deriving DecidableEq, Repr

/-- A compute die: power, clock cycles, clock stretch steps of R18, droop stretch with the detectors that report a low
supply (R19), event counters, the EV_OVF events of each that are still to be raised (`ovi`, R27), its view of global
memory, die TLB, and NLE state by context. -/
structure Die where
  power : Bool
  cycle : Nat
  stretch : Nat
  droop : Bool
  low : BitVec 64
  droopEnd : Nat
  evsel : Vector Word 16
  evcnt : Vector Word 16
  ovi : Vector Nat 16
  view : View
  tlb : List TlbEnt
  nle : Table Nle
deriving DecidableEq, Repr

/-! ### Contexts and launches (R34 to R50, R125, R161 to R164, R237) -/

/-- A mapping made by MAP (R36). -/
structure Mapping where
  va : Nat
  len : Nat
  large : Bool
  write : Bool
  replica : Bool
  hostrw : Bool
  pa : Nat
  rkey : BitVec 32
deriving DecidableEq, Repr

/-- A hold (R160, R163, R164): trap-ring index, code, logical core, trigger kind (0 record, 1 VN0, 2 VN1), strand, the
faulting VA of an XLATE, route, whether the debugger waits, the marks of the aborted attempt, and the count with which
it is to be resumed once the accesses of that attempt are over (R148). -/
structure Hold where
  ix : Nat
  code : Nat
  lc : Nat
  kind : Nat
  strand : Nat
  va : Word
  route : Nat
  raised : Bool
  marks : List Nat
  ending : Option Nat
deriving DecidableEq, Repr

/-- A tensor of the tensor table with its descriptor (R45, R231): per dimension the mapped box axis (6 or more: none),
extent and stride. -/
structure Tensor where
  base : Nat
  len : Nat
  cls : Nat
  elem : Fmt
  dims : List (Nat × Nat × Nat)
deriving DecidableEq, Repr

/-- The linked descriptor block (R237): box descriptor, accumulator and rounding mode, footprints (three classes of
terms: coefficient and axes), relays (leg PCs), batons (offset, size, depth, CORE, relay), keeps (offset, size,
image VA). -/
structure Desc where
  box : Word
  acc : Fmt
  accRm : Rm
  foots : List (List (List (Nat × List Nat)))
  relays : List (List (BitVec 32))
  batons : List (Nat × Nat × Nat × Bool × Nat)
  keeps : List (Nat × Nat × Nat)
deriving DecidableEq, Repr

/-- A SCATA whose adds wait (R335): task key, core, table base, indices, row bytes, format, update bytes, their place in
the tile heap, and the command. -/
structure HeldScata where
  key : Word
  core : Nat
  base : Word
  idx : List Nat
  z : Nat
  t : Fmt
  vals : List Byte
  heap : Nat
  cmd : Nat
deriving DecidableEq, Repr

/-- An active launch (R44 to R50): what its record and tables gave, its number, counts and flag word, logical cores by
local number, arena allocations, sequence counters, held SCATA updates, and the wake message on its way (R49). -/
structure Launch where
  arrival : Bool
  csend : Bool
  ltag : Word
  codeva : Nat
  entrypc : BitVec 32
  nlcore : Nat
  root : BoxImg
  tensors : List Tensor
  desc : Desc
  dlmax : Word
  dlesc : Word
  budget : Word
  capls : Word
  capslot : Word
  captree : Word
  rseed : Word
  cplva : Word
  cplrkey : BitVec 32
  imm : BitVec 32
  nchip : Nat
  chipno : Nat
  remap : List Nat
  sa : Nat
  d : Nat
  conn : Nat
  start : Nat
  tasks : Nat
  traps : Nat
  lastTrap : Nat
  flags : BitVec 5
  heap : List (Nat × Nat)
  seqs : Table Nat
  xseqs : Table Nat
  scata : List HeldScata
  wake : List Byte
deriving DecidableEq, Repr

/-- The eviction of a context from one row (R170): the step reached (1 to 6), DTIME of the request, whether the
partition is saved (R172), and the partition that the context had. -/
structure Evict where
  step : Nat
  te : Nat
  acc : Bool
  part : Nat
deriving DecidableEq, Repr

/-- A context (R34, R35, R43, R104, R161, R367). `off` holds the six region offsets; `unread` the trap-ring indexes not
yet read; `rowPart` the partition by row; `evicts` the rows under eviction; `evReply` the EVICT to be answered;
`back` the rows of the RESUMEs whose mailboxes drain (R175). -/
structure Ctx where
  esave : Bool
  xsteal : Bool
  arearw : Bool
  trapn : Nat
  area : Nat
  areaSize : Nat
  off : Vector Nat 6
  grace : Nat
  wslen : Nat
  wsbase : Nat
  winRkey : BitVec 32
  areaRkey : BitVec 32
  ttpa : Nat
  pages : List (Nat × Nat)
  maps : List Mapping
  head : Nat
  tail : Nat
  ringConn : List Nat
  number : Nat
  launch : Option Launch
  trapHead : Nat
  lost : Nat
  unread : List Nat
  traprec : Word
  trapcode : Word
  holds : List Hold
  rowPart : Table Nat
  evicts : Table Evict
  evReply : Option VcpMsg
  debugger : Bool
  back : List Nat
deriving DecidableEq, Repr

/-! ### The package (R6 to R28, R29 to R32, R47) -/

/-- A RoCEv2 connection: its port (false HP0), the last SEQ, contexts it created, events sent, whether it is up. -/
structure Conn where
  port : Bool
  seq : Nat
  created : List Nat
  events : Nat
  live : Bool
deriving DecidableEq, Repr

/-- What the device sends to hosts (R29 to R31, R46, R47). -/
inductive HostMsg where
  | send (conn : Nat) (bytes : List Byte)
  | write (va : Word) (rkey : BitVec 32) (bytes : List Byte)
  | sendImm (conn : Nat) (imm : BitVec 32)
  | data (conn : Nat) (bytes : List Byte)
  | ack (conn : Nat)
  | remoteError (conn : Nat)
  | bootStatus (conn : Nat) (step : Nat)
deriving DecidableEq, Repr

/-- A supervisor event (R16, R27). -/
inductive SupEvent where
  | tickStep (ns : Nat)
  | evOvf (die n : Nat)
deriving DecidableEq, Repr

/-- A firmware image in the management flash (R24): class 0 first stage, 1 management, 2 compute die, 3 base die. -/
structure FwImage where
  cls : Nat
  bytes : List Byte
  sig : List Byte
  secver : Nat
deriving DecidableEq, Repr

/-- Whose turn it is in the interleaving of the chip's agents (log 11): the next posted event, or an issue on a core. -/
inductive Turn where
  | event
  | core (c : Nat)
deriving DecidableEq, Repr

/-- Boot and identity (R21, R24 to R26). -/
structure Boot where
  ready0 : Word
  ready1 : Word
  meas : Vector (BitVec 512) 8
  secver : BitVec 32
  flash : List FwImage
  fuses : List Byte
  harvest : Word
  failed : Nat
deriving DecidableEq, Repr

/-- Power, thermal and supply state (R17 to R20): whether the module is off, the input within its rated range, below
42 V, since which DTIME and whether POWER_LOSS has been sent for it, the extremes of the excursion, the registers
PLIMIT and DROOPTH, the samples of the last millisecond, the DTIME of the last relaxation, whether the junction is at
100 degrees or more, and whether the average has passed the limit and not fallen below it since. -/
structure Power where
  off : Bool
  inRange : Bool
  below42 : Bool
  dipAt : Nat
  told : Bool
  low : Nat
  high : Nat
  plimit : Word
  droopth : Word
  samples : List Nat
  relaxAt : Nat
  hot : Bool
  exceeded : Bool
deriving DecidableEq, Repr

/-- Time and exchange (R8, R14 to R16, R157). `hold` holds delivery, `stepAt` is the tick at whose end a PTP step
stops the generator, `started` says that tick 0 of TSTART has begun; `xin` holds items received and not delivered,
`ended` the ticks of each port whose end-of-tick flit has come, `group` the next release tick to deliver, `xout` items
waiting for the exchange, `part` the payload bytes of each port's first item that have left, `sent` the ticks of each
port whose end-of-tick flit has gone, `frames` what has left on the ports, `discards` the frames discarded; `slew` is
the correction that PTP time has yet to be slewed by, in ns, and `slewAcc` the ns since the last ns of it (R16);
`roles` says of HP0, HP1, XP0 to XP7 whether management firmware selected the boundary clock role (R9; log 13). -/
structure Time where
  dtime : Word
  ptp : Nat
  tstart : Word
  tickp : Word
  tick : Word
  hold : Bool
  stepAt : Option Nat
  started : Bool
  xetype : Word
  xin : List XcItem
  ended : Vector Nat 8
  group : Nat
  xout : List XcItem
  part : Vector Nat 8
  sent : Vector Nat 8
  frames : List (Nat × XFrame)
  discards : Nat
  slew : Int
  slewAcc : Nat
  roles : Vector Bool 10
deriving DecidableEq, Repr

/-- The state of one chip. `cur` names the unit that the step in progress is about; for an opcode it is the strand: 4
× core + strand, where 1,024 to 1,027 are the management cores. `agenda` holds the steps of the device that are due or
that arrive from outside, each with its unit; `order` is the interleaving still to come; `backlog` holds the commands
that wait for one before them (R33); `ecc` the 64-byte lines of HBM that hold an uncorrectable error (R135; log 27);
`hostSeen` the stamp of each word that a host last read (R145, R158); `gdeWin` the rows in the window of each GDE,
newest first (R334; log 3). -/
structure State where
  cur : Nat
  agenda : List (Nat × Instr)
  order : List Turn
  lastCore : Nat
  evNext : Bool
  steps : Nat
  free : Nat
  time : Time
  power : Power
  boot : Boot
  conns : Table Conn
  outbox : List HostMsg
  supEvents : List SupEvent
  ctxs : Table Ctx
  lcs : Table LCore
  strands : Table Strand
  cores : Table Core
  rows : Table Row
  dies : Vector Die 4
  baseTlb : Table (List TlbEnt)
  pmem : List (Nat × Nat)
  stamp : Nat
  ws : List Host.Cell
  lds : List Host.Cell
  opmem : List Host.Cell
  acc : Table (BitVec 32)
  ops : List MxOp
  nextOp : Nat
  cmds : List Cmd
  xfers : List Xfer
  hrec : Table (Vector Word 32)
  barDie : Table Nat
  backlog : List (Nat × Instr)
  ecc : List Nat
  hostSeen : Table Nat
  gdeWin : Table (List Nat)
deriving DecidableEq, Repr

/-! ### Reset (R99, R104 and the reset columns; log 1 and log 2) -/

/-- An all-zero box, as dispatch gives b1 to b7 (R99). -/
def zeroBox : BoxImg := 0

/-- A strand that runs nothing, with every register at its dispatch or reset value. -/
def idleStrand : Strand where
  sr := Vector.replicate 64 0
  vr := Vector.replicate 32 0
  kr := Vector.replicate 8 0
  pr := Vector.replicate 8 false
  br := Vector.replicate 8 zeroBox
  wr := Vector.replicate 16 0
  pc := 0
  rs := Vector.replicate 4 0
  depth := 0
  vshape := 0x2004
  fpcr := 0
  fpsr := 0
  rdraw := 0
  dlmax := 0
  dlesc := 0
  dlcount := 0
  budget := 0
  mxstat := 0
  mxstep := 0
  mxfva := 0
  bp := Vector.replicate 4 0
  ntasks := []
  serial := 0
  sup := false
  phase := .free
  task := none
  iword := 0
  wait := none
  stall := none
  held := false
  dlePend := false
  readyAt := 0
  issuedAt := 0
  arr := Vector.replicate 4 none
  send := Vector.replicate 2 []
  spawn := none
  spawnTask := none
  mxRep := []
  haltReq := false
  halted := false
  haltAt := 0
  haltQ := false

/-- A FREE slot (R108). -/
def freeSlot : Slot := ⟨0, 0, 0, none, none, 0, false, 0, 0, (0, 0)⟩

/-- Supervisor registers at reset (R104). -/
def resetRegs : CtxRegs := ⟨0, 0, 256, 0, 0, 0, 0, 20000⟩

/-- A core that holds nothing. -/
def idleCore : Core where
  q := Vector.replicate 2 []
  hrun := Vector.replicate 2 none
  inbound := []
  slots := Vector.replicate 32 freeSlot
  named := Vector.replicate 4 .none
  latched := Vector.replicate 4 .none
  frames := []
  tlb := []
  icache := []
  served := 0
  regs := []
  refuse := false
  ords := 0

def idleThief : Thief := ⟨none, 0, 0, false, none, none⟩

/-- A logical core with nothing to do. -/
def idleLc : LCore := ⟨[], [], [], [], [], idleThief, none, [], 0, false, false, false, Config.ldsBytes, (0, 0), []⟩

/-- A row that holds nothing. -/
def idleRow : Row := ⟨[], Vector.replicate 4 [], Vector.replicate 16 0⟩

/-- An NLE without configuration (R336). -/
def idleNle : Nle := ⟨none, none, [], 0, 0, 0, 0, 0, 0, 0⟩

/-- A view that lists nothing. -/
def emptyView : View := ⟨[], [], [], Vector.replicate 4 0, []⟩

/-- A die right after reset: EVSEL.ROW is 0x10 (R27). -/
def resetDie : Die where
  power := true
  cycle := 0
  stretch := 0
  droop := false
  low := 0
  droopEnd := 0
  evsel := Vector.replicate 16 0x100000
  evcnt := Vector.replicate 16 0
  ovi := Vector.replicate 16 0
  view := emptyView
  tlb := []
  nle := []

/-- A descriptor block that names nothing. -/
def emptyDesc : Desc := ⟨0, .f32, .rne, [], [], [], []⟩

/-- The machine right after package reset: DTIME 0, READYMAP 0, MEAS0 to MEAS7 zero, no context, no connection, every
register at the value that its map gives, memory with nothing listed; the tick generator is due (R14). What boot and
the host bring comes as steps from outside (log 11). -/
def State.reset : State where
  cur := 0
  agenda := [(0, .tickBoundary)]
  order := []
  lastCore := 0
  evNext := true
  steps := 0
  free := 0
  time := ⟨0, 0, 0, 2048, 0, false, none, false, 0x88B5, [], Vector.replicate 8 0, 0, [], Vector.replicate 8 0,
    Vector.replicate 8 0, [], 0, 0, 0, Vector.replicate 10 false⟩
  power := ⟨false, true, false, 0, false, 48000, 48000, 2400, 660, [], 0, false, false⟩
  boot := ⟨0, 0, Vector.replicate 8 0, 0, [], List.replicate 256 0, 0, 0⟩
  conns := []
  outbox := []
  supEvents := []
  ctxs := []
  lcs := []
  strands := []
  cores := []
  rows := []
  dies := Vector.replicate 4 resetDie
  baseTlb := []
  pmem := []
  stamp := 0
  ws := []
  lds := []
  opmem := []
  acc := []
  ops := []
  nextOp := 0
  cmds := []
  xfers := []
  hrec := []
  barDie := []
  backlog := []
  ecc := []
  hostSeen := []
  gdeWin := []

end Sys2Proof.Machine
end

