-- ==== Sys2Proof/Machine/Mem.lean ====
section
/-! DEFINITION. Memory: byte stores in one canonical form, the four dies' views of global memory (R145, R151, R152),
publish tags (R71), translation (R136 to R141), and the accessors of the parts of the state. -/
namespace Sys2Proof.Machine

/-! ### Byte stores: ascending addresses, no listed byte equal to the 0 that an unlisted address reads as (log 2) -/

/-- The byte at an address. -/
def Mem.get (m : List Host.Cell) (a : Nat) : Byte := Table.get (α := Byte) m a 0

/-- The store with the byte at an address written. -/
def Mem.set (m : List Host.Cell) (a : Nat) (b : Byte) : List Host.Cell :=
  if b = 0 then Table.erase (α := Byte) m a else Table.set (α := Byte) m a b

/-- The canonical form: addresses strictly rising, no zero byte listed. -/
def Mem.wf : List Host.Cell → Bool
  | [] => true
  | (_, b) :: [] => b != 0
  | (a, b) :: (a', b') :: t => b != 0 && decide (a < a') && Mem.wf ((a', b') :: t)

/-- `n` bytes from an address. -/
def Mem.read (m : List Host.Cell) : Nat → Nat → List Byte
  | _, 0 => []
  | a, n + 1 => Mem.get m a :: Mem.read m (a + 1) n

/-- Bytes written from an address on. -/
def Mem.write (m : List Host.Cell) : Nat → List Byte → List Host.Cell
  | _, [] => m
  | a, b :: t => Mem.write (Mem.set m a b) (a + 1) t

/-! ### Parts of the state -/

/-- A strand that lists nothing is idle; the management strands are in supervisor mode (R103; log 10). -/
def defStrand (i : Nat) : Strand := if 4096 ≤ i then { idleStrand with sup := true } else idleStrand
def State.strand (s : State) (i : Nat) : Strand := s.strands.get i (defStrand i)
def State.setStrand (s : State) (i : Nat) (t : Strand) : State := { s with strands := s.strands.set i t }
def State.modStrand (s : State) (i : Nat) (f : Strand → Strand) : State := s.setStrand i (f (s.strand i))
/-- The strand that the step in progress is about. -/
def State.st (s : State) : Strand := s.strand s.cur
def State.mod (s : State) (f : Strand → Strand) : State := s.modStrand s.cur f

/-- The mark of the task that a strand runs, or ran last: the strand and how many tasks it has started. -/
def State.mark (s : State) (k : Nat) : Nat := k + 8192 * (s.strand k).serial
/-- The mark of the task that the strand will start next. -/
def State.nextMark (s : State) (k : Nat) : Nat := s.mark k + 8192
/-- The strand of a mark. -/
def markStrand (m : Nat) : Nat := m % 8192
/-- The mark of what no task makes. -/
def nobody : Nat := 8191

def coreOf (strand : Nat) : Nat := strand / 4
/-- The die of a core; a management core reaches memory as die 0 does (R4; log 10). -/
def dieOf (core : Nat) : Nat := if core < 1024 then core / 256 else 0
def dieF (core : Nat) : Fin 4 := Fin.ofNat 4 (dieOf core)
/-- The row of a core in READYMAP's numbering: die × 16 + row (R4, R21); 64 for a management core. -/
def rowOf (core : Nat) : Nat := core / 16
def colOf (core : Nat) : Nat := core % 16
def isMgmt (core : Nat) : Bool := decide (1024 ≤ core)

def State.core (s : State) (c : Nat) : Core := s.cores.get c idleCore
def State.modCore (s : State) (c : Nat) (f : Core → Core) : State := { s with cores := s.cores.set c (f (s.core c)) }
def State.row (s : State) (r : Nat) : Row := s.rows.get r idleRow
def State.modRow (s : State) (r : Nat) (f : Row → Row) : State := { s with rows := s.rows.set r (f (s.row r)) }
def State.die (s : State) (d : Fin 4) : Die := s.dies[d]
def State.modDie (s : State) (d : Fin 4) (f : Die → Die) : State := { s with dies := s.dies.set d (f s.dies[d]) }
/-- Logical cores are kept by context and local number (R50). -/
def lcKey (ctx l : Nat) : Nat := ctx * 1024 + l
def lcCtx (k : Nat) : Nat := k / 1024
def lcLocal (k : Nat) : Nat := k % 1024
def State.lc (s : State) (k : Nat) : LCore := s.lcs.get k idleLc
def State.modLc (s : State) (k : Nat) (f : LCore → LCore) : State := { s with lcs := s.lcs.set k (f (s.lc k)) }
def State.ctx? (s : State) (c : Nat) : Option Ctx := s.ctxs.find c
def State.modCtx (s : State) (c : Nat) (f : Ctx → Ctx) : State :=
  match s.ctxs.find c with
  | none => s
  | some x => { s with ctxs := s.ctxs.set c (f x) }
def State.launch? (s : State) (c : Nat) : Option Launch := (s.ctx? c).bind (·.launch)
def State.modLaunch (s : State) (c : Nat) (f : Launch → Launch) : State :=
  s.modCtx c (fun x => { x with launch := x.launch.map f })
/-- The context and the launch of the task that the strand runs. -/
def State.curCtx (s : State) : Nat := ((s.st.task).map (·.ctx)).getD 0
def State.curLaunch (s : State) : Option Launch := s.launch? s.curCtx
def State.regs (s : State) (core ctx : Nat) : CtxRegs := (s.core core).regs.get ctx resetRegs
def State.modRegs (s : State) (core ctx : Nat) (f : CtxRegs → CtxRegs) : State :=
  s.modCore core (fun c => { c with regs := c.regs.set ctx (f (c.regs.get ctx resetRegs)) })
/-- PART of CTXCFG (R106). -/
def State.part (s : State) (core ctx : Nat) : Nat := bits (s.regs core ctx).ctxcfg 7 6
/-- Die time as a number (R13). -/
def State.now (s : State) : Nat := s.time.dtime.toNat
/-- Core cycles (R3, R104). -/
def State.cyc (s : State) (core : Nat) : Nat := (s.die (dieF core)).cycle
/-- A step that is due is posted behind those already due. -/
def State.post (s : State) (unit : Nat) (i : Instr) : State := { s with agenda := s.agenda ++ [(unit, i)] }
def State.posts (s : State) (l : List (Nat × Instr)) : State := { s with agenda := s.agenda ++ l }
/-- A fresh number for a free value. -/
def State.fresh (s : State) : Nat × State := (s.free, { s with free := s.free + 1 })
/-- An event that is not yet on the agenda. -/
def State.postOnce (s : State) (unit : Nat) (i : Instr) : State :=
  if s.agenda.any (fun (e : Nat × Instr) => e.1 == unit && e.2 == i) then s else s.post unit i

/-! ### Event counters (R27, R28) -/

/-- One counter after events of a code, `n r` of them where the ROW filter is `r`, 0x10 standing for all rows: counted
when EN is 1 and the code is selected; OVF sets when COUNT wraps. -/
def bumpCnt (sel cnt : Word) (code : Nat) (n : Nat → Nat) : Word :=
  if bits sel 31 31 = 1 ∧ bits sel 7 0 = code ∧ code ≠ 0 then
    let c := bits cnt 47 0 + n (bits sel 20 16)
    let w := putBits cnt 0 48 c
    if 2 ^ 48 ≤ c then putBits w 63 1 1 else w
  else cnt

/-- All counters of a die after events of a code by ROW filter (R28); a counter that sets OVF while OVI is 1 raises
EV_OVF (R27), posted as a step: what OVI becomes after that changes nothing. -/
def State.countBy (s : State) (d : Fin 4) (code : Nat) (n : Nat → Nat) : State :=
  let di := s.die d
  let cnt := Vector.ofFn (fun i : Fin 16 => bumpCnt di.evsel[i] di.evcnt[i] code n)
  let sets := fun i : Fin 16 => bits di.evcnt[i] 63 63 == 0 && bits cnt[i] 63 63 == 1 && bits di.evsel[i] 30 30 == 1
  let s := s.modDie d (fun x =>
    { x with evcnt := cnt, ovi := Vector.ofFn (fun i : Fin 16 => if sets i then x.ovi[i] + 1 else x.ovi[i]) })
  s.posts (((List.finRange 16).filter sets).map (fun i => (d.val, Instr.evOvf i)))

/-- `n` events of a code on a row: die-level codes ignore ROW, and a cycle is one of every row (R28).
DESIGN CHOICE (log 50): a die-level code is counted too where ROW is 0x11 to 0x1F, which R27 lets hold the counter. -/
def State.countEv (s : State) (d : Fin 4) (code row n : Nat) : State :=
  s.countBy d code (fun r => if 0x1C ≤ code ∨ r = 0x10 ∨ r = row ∨ (code ≤ 2 ∧ r < 16) then n else 0)

/-- Events of a code that arise on each row by itself (R28). -/
def State.countRows (s : State) (d : Fin 4) (code : Nat) (f : Nat → Nat) : State :=
  s.countBy d code (fun r => if r = 0x10 then (List.range 16).foldl (fun n i => n + f i) 0 else if r < 16 then f r else 0)

/-- An event of a core (R28). -/
def State.count (s : State) (core code : Nat) : State :=
  if isMgmt core then s else s.countEv (dieF core) code (rowOf core % 16) 1

/-! ### Views of global memory -/

/-- The words (8-byte aligned) that [pa, pa + n) covers, in whole or part (R71, R144). -/
def wordsOf (pa n : Nat) : List Nat :=
  if n = 0 then [] else (List.range ((pa + n - 1) / 8 - pa / 8 + 1)).map (fun i => (pa / 8 + i) * 8)

/-- Tags of words set or cleared. -/
def setTags (tags : Table Unit) (set : Bool) : List Nat → Table Unit
  | [] => tags
  | w :: t => setTags (if set then tags.set w () else tags.erase w) set t

/-- A write performed on a view (R152). -/
def View.apply (v : View) (stamp pa : Nat) (bytes : List Byte) (tag : Option Bool) : View :=
  let ws := wordsOf pa bytes.length
  { v with
    cells := Mem.write v.cells pa bytes
    stamps := ws.foldl (fun (t : Table Nat) w => t.set w stamp) v.stamps
    tags := match tag with
      | none => v.tags
      | some b => setTags v.tags b ws }

/-- A write of another die applied (R152). -/
def View.receive (v : View) (w : PWrite) : View :=
  { v.apply w.stamp w.pa w.bytes w.tag with vc := v.vc.set w.src w.vc[w.src] }

/-- A write covers, in whole or part, one of some words. -/
def PWrite.meets (w : PWrite) (ws : List Nat) : Bool := (wordsOf w.pa w.bytes.length).any (has ws)

/-- The writes up to the last that meets one of the words, and those behind it. -/
def splitPend (ws : List Nat) : List PWrite → List PWrite × List PWrite
  | [] => ([], [])
  | w :: t =>
    let (a, b) := splitPend ws t
    if a.isEmpty && !w.meets ws then ([], w :: t) else (w :: a, b)

/-- The view once it has applied every write to some words that is on its way to it, and what was made before those, in
the order in which the writes were made (R145, R152; log 20). -/
def View.catchUp (v : View) (ws : List Nat) : View :=
  let (a, b) := splitPend ws v.pend
  { a.foldl (fun (v : View) w => v.receive w) v with pend := b }

/-- A die catches up on some words (R145). -/
def State.catchUp (s : State) (d : Fin 4) (ws : List Nat) : State :=
  s.modDie d (fun x => { x with view := x.view.catchUp ws })

/-- A write by an agent of die `d`: performed on that die at once, on its way to the three others with the die's clock
(R151, R152); it comes after every earlier write to its words (R145). Each other die is told to apply a write, which one
of those that its clock admits being a free value, since concurrent writes may be applied in different orders. -/
def State.gwrite (s : State) (d : Fin 4) (pa : Nat) (bytes : List Byte) (tag : Option Bool) (mark path : Nat) : State :=
  let stamp := s.stamp + 1
  let v := (s.die d).view.catchUp (wordsOf pa bytes.length)
  let vc := v.vc.set d (v.vc[d] + 1)
  let w : PWrite := ⟨d, vc, stamp, pa, bytes, tag, mark, path⟩
  let dies := Vector.ofFn (fun e : Fin 4 =>
    let x := s.dies[e]
    if e = d then { x with view := { v.apply stamp pa bytes tag with vc := vc } }
    else { x with view := { x.view with pend := x.view.pend ++ [w] } })
  let at_ := fun (e : Nat) => (Config.freeWord (s.free + e)).toNat % 8
  let s := { s with dies := dies, stamp := stamp, free := s.free + 4 }
  s.posts ((List.range 4).filterMap (fun e => if e = d.val then none else some (e, Instr.writeApply (at_ e))))

/-- Every write on its way to a die is applied there, in the order in which the writes were made, which every clock
admits: what an acquire does that reaches the die otherwise than through a word of memory (R148, R149; log 20). -/
def State.drain (s : State) (d : Fin 4) : State :=
  s.modDie d (fun x =>
    { x with view := { (x.view.pend.foldl (fun (v : View) w => v.receive w) x.view) with pend := [] } })

/-- A write that is performed on all four dies at once: firmware, and host RDMA (R158). -/
def State.gwriteAll (s : State) (pa : Nat) (bytes : List Byte) (tag : Option Bool) : State :=
  let stamp := s.stamp + 1
  let dies := Vector.ofFn (fun e : Fin 4 =>
    let x := s.dies[e]
    { x with view := (x.view.catchUp (wordsOf pa bytes.length)).apply stamp pa bytes tag })
  { s with dies := dies, stamp := stamp }

/-- Bytes as a die sees them. -/
def State.gread (s : State) (d : Fin 4) (pa n : Nat) : List Byte := Mem.read (s.die d).view.cells pa n

/-- The die whose view holds the last write of a word in coherence order (R145). -/
def State.latestDie (s : State) (w : Nat) : Fin 4 :=
  (List.finRange 4).foldl (fun best e =>
    if (s.die best).view.stamps.get w 0 < (s.die e).view.stamps.get w 0 then e else best) 0

/-- The bytes of one word in coherence order, as an atomic read-modify-write finds them (R144, R145). -/
def State.gatomic (s : State) (pa n : Nat) : List Byte := s.gread (s.latestDie (pa / 8 * 8)) pa n

/-- Is the publish tag of a word set on a die (R71)? The tag reaches a die with the write that sets it, so each view has
its own (log 20). -/
def State.tagged (s : State) (d : Fin 4) (w : Nat) : Bool := ((s.die d).view.tags.find w).isSome

/-- Does clock `v` admit a write of die `d` with tag `t` (R152)? Entries compare modulo 2^32 as signed differences. -/
def vcAdmits (v t : Vector (BitVec 32) 4) (d : Fin 4) : Bool :=
  (List.finRange 4).all (fun i => if i = d then v[i] + 1 == t[i] else (v[i] - t[i]).msb == false)

/-! ### Translation (R136, R137, R140) -/

/-- A translated byte address: page or group base, offset in it, permissions, page size (R136, R140). -/
structure Xl where
  page : Nat
  off : Nat
  write : Bool
  replica : Bool
  size : Nat
deriving DecidableEq, Repr

/-- The physical address that die `d` uses (R136, R140). -/
def Xl.pa (x : Xl) (d : Nat) : Nat :=
  if x.replica then x.page + (x.off >>> 13 <<< 15) + d * 8192 + x.off % 8192 else x.page + x.off

/-- Why a walk ends without a translation: XLATE detail 0 or 1 (R137, R159). -/
inductive WalkErr where
  | noMap
  | malformed
deriving DecidableEq, Repr

/-- The fields of a table entry (R136). -/
def pteValid (e : Word) : Bool := e.getLsbD 0
def pteLeaf (e : Word) : Bool := e.getLsbD 1
def pteWrite (e : Word) : Bool := e.getLsbD 2
def pteReplica (e : Word) : Bool := e.getLsbD 4
def pteAddr (e : Word) : Nat := bits e 47 16 * 65536
def pteReserved (e : Word) : Bool := bits e 63 48 != 0 || bits e 15 5 != 0

/-- A leaf entry is well formed for a page of `size` bytes (R137). -/
def leafOk (e : Word) (size : Nat) : Bool :=
  !pteReserved e && pteLeaf e && decide (pteAddr e < Config.hbmBytes)
    && pteAddr e % (if pteReplica e then 4 * size else size) == 0

/-- A table pointer is well formed (R137). -/
def ptrOk (e : Word) : Bool :=
  !pteReserved e && !pteLeaf e && !pteWrite e && !pteReplica e && decide (pteAddr e < Config.hbmBytes)

/-- A walk of the three-level table at `ttpa`, as die `d` sees it (R136, R137). -/
def State.walk (s : State) (d : Fin 4) (ttpa va : Nat) : Except WalkErr Xl :=
  let rd := fun a => (BitVec.ofNat 64 (natOfBytes (s.gread d a 8)) : Word)
  let e1 := rd (ttpa + (va >>> 42) % 64 * 8)
  if !pteValid e1 then .error .noMap
  else if !ptrOk e1 then .error .malformed
  else
    let e2 := rd (pteAddr e1 + (va >>> 29) % 8192 * 8)
    if !pteValid e2 then .error .noMap
    else if pteLeaf e2 then
      if leafOk e2 (2 ^ 29) then .ok ⟨pteAddr e2, va % 2 ^ 29, pteWrite e2, pteReplica e2, 2 ^ 29⟩ else .error .malformed
    else if !ptrOk e2 then .error .malformed
    else
      let e3 := rd (pteAddr e2 + (va >>> 16) % 8192 * 8)
      if !pteValid e3 then .error .noMap
      else if leafOk e3 65536 then .ok ⟨pteAddr e3, va % 65536, pteWrite e3, pteReplica e3, 65536⟩
      else .error .malformed

/-- The addresses of the table entries that a walk reads (R137). -/
def State.walkReads (s : State) (d : Fin 4) (ttpa va : Nat) : List Nat :=
  let rd := fun a => (BitVec.ofNat 64 (natOfBytes (s.gread d a 8)) : Word)
  let a1 := ttpa + (va >>> 42) % 64 * 8
  if !pteValid (rd a1) || !ptrOk (rd a1) then [a1]
  else
    let a2 := pteAddr (rd a1) + (va >>> 29) % 8192 * 8
    if !pteValid (rd a2) || pteLeaf (rd a2) || !ptrOk (rd a2) then [a1, a2]
    else [a1, a2, pteAddr (rd a2) + (va >>> 16) % 8192 * 8]

/-- A byte lies in a line with an uncorrectable error (R135). -/
def State.badLine (s : State) (pa : Nat) : Bool := has s.ecc (pa / 64 * 64)

/-- A walk reads such a line. -/
def State.walkBad (s : State) (d : Fin 4) (ttpa va : Nat) : Bool :=
  !s.ecc.isEmpty && (s.walkReads d ttpa va).any s.badLine

/-- A cached translation of a VA in a TLB (R138). -/
def tlbFind (l : List TlbEnt) (ctx va : Nat) : Option Xl :=
  (l.find? (fun e => e.ctx == ctx && decide (e.va ≤ va) && decide (va < e.va + e.size))).map
    (fun e => ⟨e.pa, va - e.va, e.write, e.replica, e.size⟩)

/-- L1BASE of TTBASE as a physical address (R136). -/
def l1base (tt : Word) : Nat := bits tt 47 9 * 512

/-- A translation of core `c` through one TLB, else by a walk (R138, R139). -/
def State.xlateIn (s : State) (tlb : List TlbEnt) (c ctx va : Nat) : Except WalkErr Xl :=
  match tlbFind tlb ctx va with
  | some x => .ok x
  | none => s.walk (dieF c) (l1base (s.regs c ctx).ttbase) va

/-- The translation that an access of core `c` uses: first-level TLB, die TLB, else a walk (R138, R139). -/
def State.xlate (s : State) (c ctx va : Nat) : Except WalkErr Xl :=
  match tlbFind (s.core c).tlb ctx va with
  | some x => .ok x
  | none => s.xlateIn (s.die (dieF c)).tlb c ctx va

/-- Whose TLBs a unit translates through (R138): a core's and its die's; the die's alone, as NLE and FCE do; those of a
base die, as its GDE does. -/
inductive Mmu where
  | core
  | die
  | base (n : Nat)
deriving DecidableEq, Repr

/-- The translation of core `c` that a unit uses (R138). -/
def State.xlateBy (s : State) (m : Mmu) (c ctx va : Nat) : Except WalkErr Xl :=
  match m with
  | .core => s.xlate c ctx va
  | .die => s.xlateIn (s.die (dieF c)).tlb c ctx va
  | .base n => s.xlateIn (s.baseTlb.get n []) c ctx va

/-- An entry enters a TLB of `cap` entries. DESIGN CHOICE (log 51): a full one, of a core, a die or a base die, gives
up the entry that it took in first. Translations of context 0, which is no context, are not cached (R138, R272). -/
def tlbInstall (l : List TlbEnt) (cap : Nat) (e : TlbEnt) : List TlbEnt :=
  if e.ctx = 0 then l
  else (e :: l.filter (fun x => !(x.ctx == e.ctx && x.va == e.va && x.size == e.size))).take cap

/-! ### The stacks of the HBM (R6, R135) -/

/-- The HBM stack of a physical address, and the offset in it (R135). -/
def stackOf (pa : Nat) : Nat := pa / 4096 % 8
def stackOff (pa : Nat) : Nat := pa / 32768 * 4096 + pa % 4096

/-- A translation of core `c` misses its TLBs, and its walk reads a line with an uncorrectable error (R135, R138). -/
def State.walkHit (s : State) (m : Mmu) (c ctx va : Nat) : Bool :=
  !s.ecc.isEmpty && (match m with
    | .core => (tlbFind (s.core c).tlb ctx va).isNone && (tlbFind (s.die (dieF c)).tlb ctx va).isNone
    | .die => (tlbFind (s.die (dieF c)).tlb ctx va).isNone
    | .base n => (tlbFind (s.baseTlb.get n []) ctx va).isNone)
    && s.walkBad (dieF c) (l1base (s.regs c ctx).ttbase) va

/-- A walk of the context's own table, as firmware and the host interface make it. -/
def State.ctxWalk (s : State) (ctx va : Nat) : Option Xl :=
  match s.ctx? ctx with
  | none => none
  | some c =>
    if 2 ^ 48 ≤ va then none
    else
      match s.walk 0 c.ttpa va with
      | .ok x => some x
      | .error _ => none

/-- Bytes of a context's global memory as firmware reads them; an unmapped byte reads as none. -/
def State.ctxRead (s : State) (ctx : Nat) : Nat → Nat → Option (List Byte)
  | _, 0 => some []
  | va, n + 1 => do
    let x ← s.ctxWalk ctx va
    let t ← s.ctxRead ctx (va + 1) n
    return Mem.get (s.die 0).view.cells (x.pa 0) :: t

/-- Bytes of a context's global memory written by firmware or the host on all dies and, in a replicated region, on all
copies (R141, R158). -/
def State.ctxWrite (s : State) (ctx : Nat) (tag : Option Bool) : Nat → List Byte → State
  | _, [] => s
  | va, b :: t =>
    match s.ctxWalk ctx va with
    | none => State.ctxWrite s ctx tag (va + 1) t
    | some x =>
      let s := if x.replica then
          (List.range 4).foldl (fun s d => s.gwriteAll (x.pa d) [b] tag) s
        else s.gwriteAll (x.pa 0) [b] tag
      State.ctxWrite s ctx tag (va + 1) t

end Sys2Proof.Machine
end

