-- ==== Sys2Proof/Machine/Ops.lean ====
section
/-! DEFINITION. The named operations that the meanings share: registers (R99), guards (R202), statuses (R167, R169),
deques (R82, R83), frames (R126), batons and slots at a task's end (R107, R131), taking a trap (R160 to R163), ending a
launch (R46), and waits (R166 to R171). -/
namespace Sys2Proof.Machine

/-- Trap codes (R159). -/
def tILLOP : Nat := 0x01
def tPRIV : Nat := 0x02
def tALIGN : Nat := 0x03
def tSPAN : Nat := 0x04
def tRANGE : Nat := 0x05
def tREMOTE : Nat := 0x06
def tNONCANON : Nat := 0x07
def tXLATE : Nat := 0x08
def tPERM : Nat := 0x09
def tWINDOW : Nat := 0x0A
def tPUBLISH : Nat := 0x0B
def tREPLICA : Nat := 0x0C
def tMODE : Nat := 0x0D
def tSPLITORDER : Nat := 0x0E
def tVERDICT : Nat := 0x0F
def tSENDQ : Nat := 0x10
def tKEEPOVF : Nat := 0x11
def tCALLDEPTH : Nat := 0x12
def tWATCHDOG : Nat := 0x13
def tFPX : Nat := 0x14
def tDLESC : Nat := 0x15
def tSLOT : Nat := 0x16
def tGROUP : Nat := 0x17
def tENGINE : Nat := 0x18
def tBRK : Nat := 0x19
def tSWTRAP : Nat := 0x1A
def tCAPACITY : Nat := 0x1B
def tSHAPE : Nat := 0x1C

/-- A trap with no effective address. -/
def trapc {α : Type} (code detail : Nat) : Except TrapInfo α := .error ⟨code, detail, 0, 0⟩

/-! ### Registers (R99) -/

/-- s registers: s0 reads 0 and ignores writes. -/
def Strand.rS (t : Strand) (r : SReg) : Word := if r = 0 then 0 else t.sr[r]
def Strand.wS (t : Strand) (r : SReg) (v : Word) : Strand := if r = 0 then t else { t with sr := t.sr.set r v }
def Strand.rV (t : Strand) (r : VReg) : VWord := t.vr[r]
def Strand.wV (t : Strand) (r : VReg) (v : VWord) : Strand := { t with vr := t.vr.set r v }
/-- k0 reads all ones and ignores writes. -/
def Strand.rK (t : Strand) (r : KReg) : KWord := if r = 0 then BitVec.allOnes 1024 else t.kr[r]
def Strand.wK (t : Strand) (r : KReg) (v : KWord) : Strand := if r = 0 then t else { t with kr := t.kr.set r v }
/-- p0 reads true and ignores writes. -/
def Strand.rP (t : Strand) (r : PReg) : Bool := if r = 0 then true else t.pr[r]
def Strand.wP (t : Strand) (r : PReg) (v : Bool) : Strand := if r = 0 then t else { t with pr := t.pr.set r v }
def Strand.rB (t : Strand) (r : BReg) : BoxImg := t.br[r]
/-- b0 is read-only (R54); an instruction that names it as a destination traps at its word. -/
def Strand.wB (t : Strand) (r : BReg) (v : BoxImg) : Strand := if r = 0 then t else { t with br := t.br.set r v }

def State.rS (s : State) (r : SReg) : Word := s.st.rS r
def State.wS (s : State) (r : SReg) (v : Word) : State := s.mod (fun t => t.wS r v)
def State.rV (s : State) (r : VReg) : VWord := s.st.rV r
def State.wV (s : State) (r : VReg) (v : VWord) : State := s.mod (fun t => t.wV r v)
def State.rK (s : State) (r : KReg) : KWord := s.st.rK r
def State.wK (s : State) (r : KReg) (v : KWord) : State := s.mod (fun t => t.wK r v)
def State.rP (s : State) (r : PReg) : Bool := s.st.rP r
def State.wP (s : State) (r : PReg) (v : Bool) : State := s.mod (fun t => t.wP r v)
def State.rB (s : State) (r : BReg) : BoxImg := s.st.rB r
def State.wB (s : State) (r : BReg) (v : BoxImg) : State := s.mod (fun t => t.wB r v)

/-- The program counter moves past an instruction of `n` bytes (R200). -/
def State.adv (s : State) (n : Nat) : State := s.mod (fun t => { t with pc := t.pc + BitVec.ofNat 64 n })

/-- Does the instruction execute (R202)? -/
def State.guard (s : State) (g : Guard) : Bool := xor (s.rP g.p) g.neg

/-- Status word: code in [7:0], detail in [63:8] (R206). -/
def statusWord (code detail : Nat) : Word := BitVec.ofNat 64 (code + detail * 256)

/-- Status codes (R167). -/
def sOK : Nat := 0
def sTIMEOUT : Nat := 1
def sEVICT : Nat := 2
def sFAULT : Nat := 3
def sSTALE : Nat := 4
def sOVERFLOW : Nat := 5
def sPARTIAL : Nat := 6
def sBUSY : Nat := 7
def sEMPTY : Nat := 8

/-- The result of a blocking instruction is counted (R169): OK clears DLCOUNT, TIMEOUT and PARTIAL add 1, and the one
that brings it to DLESC leaves DEADLINE_ESC pending for the following boundary. -/
def Strand.dlResult (t : Strand) (code : Nat) : Strand :=
  if code = sOK then { t with dlcount := 0 }
  else if code = sTIMEOUT ∨ code = sPARTIAL then
    let n := t.dlcount + 1
    { t with dlcount := n, dlePend := t.dlePend || decide (t.dlesc.toNat ≤ n.toNat) }
  else t

/-- A status written by an instruction that does not block. -/
def State.status (s : State) (d : SReg) (code detail : Nat) : State := s.wS d (statusWord code detail)
/-- A status written by a blocking instruction (R169). -/
def State.statusB (s : State) (d : SReg) (code detail : Nat) : State :=
  (s.wS d (statusWord code detail)).mod (fun t => t.dlResult code)

/-! ### Records and messages as bytes (R76, R78, R83) -/

def b2n (b : Bool) : Nat := if b then 1 else 0
/-- The index of a VN. -/
def vnFin (vn : Bool) : Fin 2 := if vn then 1 else 0

def TaskRec.ctl (r : TaskRec) : Nat :=
  r.kind.code.toNat + 4 * r.role.toNat + 16 * b2n r.fitSd + 32 * b2n r.wait + 64 * b2n r.req + 128 * b2n r.exp

/-- The 128 bytes of a task record (R76). -/
def TaskRec.bytes (r : TaskRec) : List Byte :=
  boxBytes r.box ++ bytesOfNat 4 r.pc.toNat ++ bytesOfNat 1 r.ctl ++ bytesOfNat 1 r.relay.toNat
    ++ bytesOfNat 6 r.jref.toNat ++ bytesOfNat 4 r.launch.toNat
    ++ r.args.toList.flatMap (fun a => bytesOfNat 8 a.toNat) ++ bytesOfNat 8 r.wctr.toNat ++ bytesOfNat 8 r.wtgt.toNat

/-- The 64 bytes of a message; `mark` is bit 0 of byte 0x06 in a mailbox entry (R78, R174). -/
def Msg.bytes (m : Msg) (mark : Bool) : List Byte :=
  bytesOfNat 4 m.dest.toNat ++ bytesOfNat 1 (b2n m.vn) ++ bytesOfNat 1 m.ctx.toNat ++ bytesOfNat 2 (b2n mark)
    ++ bytesOfNat 4 m.hpc.toNat ++ bytesOfNat 4 m.src.toNat ++ bytesOfNat 8 m.seq.toNat
    ++ m.vals.toList.flatMap (fun a => bytesOfNat 8 a.toNat) ++ bytesOfNat 8 m.key.toNat

/-! ### Unit headers (R229, R230) -/

/-- The default role of a kind (R76). -/
def defRole : Kind → BitVec 2
  | .rule | .handler => 0
  | .leaf => 1
  | .cont => 2

/-- A record made from fields, with role, relay and footprint from the unit header at CODEVA + PC − 8; an invalid header
gives the default role (R230). DESIGN CHOICE (log 49): RELAY and FOOT of a record with an invalid header are 0. DESIGN
CHOICE (log 50): the word is read as die 0 sees it, and is 0 where its address does not translate or lies below 0. -/
def State.mkRec (s : State) (ctx : Nat) (box : BoxImg) (pc : BitVec 32) (kind : Kind) (flag : Bool) (jref : BitVec 48)
    (launch : BitVec 32) (args : Vector Word 4) (spawned : Bool) : TaskRec :=
  let at_ := ((s.launch? ctx).map (·.codeva)).getD 0 + pc.toNat
  let h : Word := BitVec.ofNat 64 (natOfBytes (if at_ < 8 then [] else (s.ctxRead ctx (at_ - 8) 8).getD []))
  let ok := bits h 7 4 == 0xA && bits h 55 48 == 0 && bits h 23 8 == 0 && bits h 3 2 != 3
    && bits h 1 0 == kind.code.toNat
  { box := box, pc := pc, kind := kind, role := if ok then BitVec.ofNat 2 (bits h 3 2) else defRole kind
    fitSd := flag, wait := false, req := false, exp := false
    relay := if ok then BitVec.ofNat 8 (bits h 31 24) else 0
    jref := jref, launch := launch, args := args, wctr := 0, wtgt := 0, hdr := h, hdrOk := ok
    foot := if ok then BitVec.ofNat 16 (bits h 47 32) else 0, spawned := spawned, mask := 0 }

/-! ### Deques (R82, R83) -/

/-- The physical core that hosts a local logical core of a context's launch (R50). -/
def State.host (s : State) (ctx l : Nat) : Nat := ((s.launch? ctx).map (fun x => nth x.remap l 0)).getD 0
/-- The physical core of a logical core named by its key. -/
def State.hostOf (s : State) (k : Nat) : Nat := s.host (lcCtx k) (lcLocal k)

/-- The mailbox's image in memory (R174). -/
def State.syncMailbox (s : State) (lck : Nat) : State :=
  match s.ctx? (lcCtx lck) with
  | none => s
  | some c =>
    let m := (s.lc lck).mailbox
    s.ctxWrite (lcCtx lck) none (c.area + c.off[4] + 65536 * lcLocal lck)
      (bytesOfNat 4 m.length ++ List.replicate 60 0 ++ m.flatMap (fun (x : QMsg) => x.msg.bytes x.held.isSome))

/-- The extension's image in the deque area (R83): TOPIX, COUNT, and the records, top first. DESIGN CHOICE (log 34): the
ring begins at slot 1 and is written whole at each change, so that TOPIX is always 1. -/
def State.syncExt (s : State) (k : Nat) : State :=
  match s.ctx? (lcCtx k) with
  | none => s
  | some c =>
    let base := c.area + c.off[3] + 524288 * lcLocal k
    let e := (s.lc k).ext
    let img := bytesOfNat 4 1 ++ bytesOfNat 4 e.length ++ List.replicate 120 0 ++ e.reverse.flatMap (fun i => i.tr.bytes)
    s.ctxWrite (lcCtx k) none base img

/-- Records that an extension holds at most (R83). -/
def extMax : Nat := 4095

/-- What stays of a hardware deque and what leaves it when the `n` oldest records that are not held are spilled, bottom
first (R83): a held record is never spilled away from its place (R164). -/
def spillSplit (n : Nat) (l : List DqItem) : List DqItem × List DqItem :=
  l.foldr (fun i (p : List DqItem × List DqItem) =>
    if i.held.isNone ∧ p.2.length < n then (p.1, i :: p.2) else (i :: p.1, p.2)) ([], [])

/-- The 32 oldest hardware records move to the bottom end of the extension; none when COUNT would pass 4,095 (R83), or
when every record there is held (DESIGN CHOICE, log 50). -/
def State.spill? (s : State) (k : Nat) : Option State :=
  let l := s.lc k
  let (stay, go) := spillSplit 32 l.hw
  if go.isEmpty ∨ extMax < l.ext.length + go.length then none
  else some (((s.modLc k (fun l => { l with hw := stay, ext := go ++ l.ext })).syncExt k).count (s.hostOf k) 0x0E)

/-- Room for one more record in hardware: with 64 there a spill comes first (R83). -/
def State.hwRoom? (s : State) (k : Nat) : Option State := if (s.lc k).hw.length < 64 then some s else s.spill? k

/-- A record enters at the bottom (R82); none when the spill that it needs is not made (R83). -/
def State.push? (s : State) (k : Nat) (i : DqItem) : Option State :=
  (s.hwRoom? k).map (fun s => s.modLc k (fun l => { l with hw := i :: l.hw }))

/-- A record enters at the top with REQ set (R82, R90): the hardware end while the extension is empty; none when there
is no room (R83). -/
def State.pushTop? (s : State) (k : Nat) (r : TaskRec) : Option State :=
  let i : DqItem := ⟨{ r with req := true, wait := false, exp := false }, none⟩
  (if (s.lc k).ext.isEmpty then s.hwRoom? k else some s).bind (fun s =>
    let l := s.lc k
    if l.ext.isEmpty then some (s.modLc k (fun l => { l with hw := l.hw ++ [i] }))
    else if extMax ≤ l.ext.length then none
    else some ((s.modLc k (fun l => { l with ext := l.ext ++ [i] })).syncExt k))

/-- An empty hardware deque is refilled with up to 32 records of the bottom end of the extension (R83). -/
def State.refill (s : State) (k : Nat) : State :=
  let l := s.lc k
  if l.hw.isEmpty && !l.ext.isEmpty then
    (s.modLc k (fun l => { l with hw := l.ext.take 32, ext := l.ext.drop 32 })).syncExt k
  else s

/-! ### Macro-ops: their steps and the slots they name (R107 to R114) -/

/-- Slots of an activation step of a format (R110). -/
def fmtSlots (t : Fmt) : Nat := if t = .f32 then 2 else 1

/-- The steps of a macro-op (R114, R322, R324, R325). -/
def MxKind.steps : MxKind → Nat
  | .mma _ _ _ _ p c => p * c
  | .mmag _ _ _ _ groups c => c * groups.foldl (fun n r => n + (r + 63) / 64) 0
  | .mmas _ _ _ _ nent _ _ _ => nent
  | .mldw .. | .mout .. | .mzero .. => 1

/-- The passes of a product: group, rows computed, first result row (R322, R324). -/
def groupPasses : List Nat → Nat → Nat → List (Nat × Nat × Nat)
  | [], _, _ => []
  | r :: t, i, base =>
    (List.range ((r + 63) / 64)).map (fun p => (i, Nat.min 64 (r - 64 * p), base + 64 * p)) ++ groupPasses t (i + 1) (base + r)

def MxKind.passes : MxKind → List (Nat × Nat × Nat)
  | .mma _ _ _ _ p _ => (List.range p).map (fun i => (0, 64, 64 * i))
  | .mmag _ _ _ _ groups _ => groupPasses groups 0 0
  | _ => []

/-- The weight tile that step `k` of an MMA or MMAG uses (R321, R322, R324). -/
def MxKind.tileOf (m : MxKind) (k : Nat) : Nat :=
  match m with
  | .mma _ _ _ _ _ c | .mmag _ _ _ _ _ c => (nth m.passes (k / c) (0, 0, 0)).1 * c + k % c
  | _ => 0

/-- The sequences that step `k` names (R109, R321, R322, R324, R325). -/
def MxKind.seqs (m : MxKind) (k : Nat) : List (BitVec 32) :=
  let run := fun (t : Fmt) (q : BitVec 32) =>
    (List.range (fmtSlots t)).map (fun i => q + BitVec.ofNat 32 (k * fmtSlots t + i))
  match m with
  | .mldw t _ (some q) => run t q
  | .mma _ t _ q _ _ | .mmag _ t _ q _ _ | .mmas _ t _ _ _ _ _ q => run t q
  | _ => []

/-- The slot of a sequence in the op's ring (R107). -/
def MxOp.slotOf (o : MxOp) (q : BitVec 32) : Nat := o.ring.1 + q.toNat % o.ring.2

/-- The first sequence of an op, and the sequences of each of its steps. -/
def MxKind.first : MxKind → Option (BitVec 32 × Nat)
  | .mldw t _ (some q) | .mma _ t _ q _ _ | .mmag _ t _ q _ _ | .mmas _ t _ _ _ _ _ q => some (q, fmtSlots t)
  | _ => none

/-- A step of an op from its next one to the one before `hi` names a slot, or the slot with a tag. The sequences of its
steps succeed each other, so that 64 of them meet every slot of a ring. -/
def MxOp.names (o : MxOp) (hi slot : Nat) (tag : Option (BitVec 32)) : Bool :=
  match o.kind.first with
  | none => false
  | some (q, n) =>
    match tag with
    | some x =>
      decide (o.step * n ≤ (x - q).toNat) && decide ((x - q).toNat < Nat.min hi o.kind.steps * n) && o.slotOf x == slot
    | none => (List.range (Nat.min 64 ((Nat.min hi o.kind.steps - o.step) * n))).any (fun i =>
        o.slotOf (q + BitVec.ofNat 32 (o.step * n + i)) == slot)

/-- The op is the strand's, or its gang's (R113). -/
def MxOp.of (o : MxOp) (k : Nat) : Bool := o.strand == k || has o.gang k
/-- The strands of an op in ascending column. -/
def MxOp.strands (o : MxOp) : List Nat := if o.gang.isEmpty then [o.strand] else o.gang

/-- An MLDW that will not load: the named source of its bank returns to the latched one (R321). -/
def State.unname (s : State) (o : MxOp) : State :=
  match o.kind with
  | .mldw .. =>
    s.modCore o.core (fun c => { c with named := c.named.setIfInBounds o.part ((c.latched.toList)[o.part]?.getD .none) })
  | _ => s

/-- A slot of a core is named by a step of an accepted macro-op (R107, R108). -/
def State.slotNamed (s : State) (core slot : Nat) (tag : Option (BitVec 32)) : Bool :=
  s.ops.any (fun o => o.core == core && o.names o.kind.steps slot tag)

/-- Slots whose release is pending are FREE once no fill is in progress and no step names them (R107, R108). -/
def State.settleSlots (s : State) (core : Nat) : State :=
  s.modCore core (fun c =>
    { c with slots := Vector.ofFn (fun i : Fin 32 =>
        let x := c.slots[i]
        if x.rel && x.st != 2 && x.pend.isNone && !s.slotNamed core i.val none then freeSlot else x) })

/-! ### Frames (R64, R126) -/

/-- The logical cores that a physical core hosts, by context and number (R50, R51); one that is evicted has left it. -/
def State.hostedBy (s : State) (core : Nat) : List Nat :=
  (s.lcs.filter (fun (e : Nat × LCore) =>
    !e.2.evicted && s.hostOf e.1 == core && (s.launch? (lcCtx e.1)).isSome)).map (fun e => e.1)

/-- The context is under eviction on the row of a core, or evicted from it (R170). -/
def State.evicting (s : State) (ctx core : Nat) : Bool :=
  ((s.ctx? ctx).bind (fun (c : Ctx) => c.evicts.find (rowOf core))).isSome

/-- Bytes of the frame area: what lies below every static area of the core (R125; log 15). -/
def State.frameArea (s : State) (core : Nat) : Nat :=
  (s.hostedBy core).foldl (fun n k => Nat.min n (s.lc k).sbase) Config.ldsBytes

/-- The free runs of [at, top) between frames in ascending base. -/
def freeRuns : List (Nat × Nat × Nat) → Nat → Nat → List (Nat × Nat)
  | [], at_, top => if at_ < top then [(at_, top - at_)] else []
  | (b, n, _) :: t, at_, top =>
    (if at_ < b then [(at_, b - at_)] else []) ++ freeRuns t (Nat.max at_ (b + n)) top

/-- The accesses of an ended task's engines that its frame still serves (R160, R264, R331), and its released effects
that are not performed yet (R96): messages in the send buffer, deposits at a splicer, starts of reserved strands. The
adds of a SCATA take nothing from the frame (log 35). DESIGN CHOICE (log 51): a deposit to a join on another chip
counts as performed once the exchange has it. -/
def State.frameBusy (s : State) (m : Nat) : Bool :=
  let k := markStrand m
  s.ops.any (fun o => o.of k && o.cancel)
    || s.cmds.any (fun c => c.mark == m && c.live && c.st != 2 && (match c.instr with
        | .fetch .. | .put .. => true
        | _ => false))
    || s.xfers.any (fun x => x.mark == m)
    || (s.strand k).send.toList.any (fun q => q.any (fun i => i.released && i.mark == m))
    || s.rows.any (fun (e : Nat × Row) => e.2.spl.any (fun x => match x with
        | .deposit _ _ _ _ n => n == m
        | .cover .. => false))
    || s.strands.any (fun (e : Nat × Strand) =>
        e.2.phase == .reserved k && ((e.2.spawnTask.map (fun r => r.answer.isSome)).getD false))

/-- The frame of a mark is in use: its task runs, or what it left is not over (R96). -/
def State.frameLive (s : State) (m : Nat) : Bool :=
  (s.mark (markStrand m) == m && (s.strand (markStrand m)).task.isSome) || s.frameBusy m

/-- The owner of a frame that a verdict has allocated for a leaf that is a relay, until its strands are free (R64, R94);
it is the mark of no task. -/
def relayMark : Nat := 8190

/-- The pending relay of a logical core is gone: the next one takes its place, with its frame. -/
def LCore.nextRelay (l : LCore) : LCore :=
  match l.relays with
  | [] => { l with relay := none, rframe := (0, 0) }
  | (i, f) :: t => { l with relay := some i, rframe := f, relays := t }

/-- A frame is that of a relay that is pending on a core. -/
def State.relayHolds (s : State) (core base len : Nat) : Bool :=
  (s.hostedBy core).any (fun k => (s.lc k).relay.isSome && (s.lc k).rframe == (base, len)
    || (s.lc k).relays.any (fun e => e.2 == (base, len)))

/-- The frames in use on a core, in ascending base. -/
def State.frames (s : State) (core : Nat) : List (Nat × Nat × Nat) :=
  (s.core core).frames.filter (fun f =>
    if f.2.2 = relayMark then s.relayHolds core f.1 f.2.1 else s.frameLive f.2.2)

/-- Live CAPLS: the largest free run of the frame area (R126). -/
def State.liveCapls (s : State) (core : Nat) : Nat :=
  (freeRuns (s.frames core) 0 (s.frameArea core)).foldl (fun m r => Nat.max m r.2) 0

/-- Insertion of a frame in ascending base. -/
def insFrame (f : Nat × Nat × Nat) : List (Nat × Nat × Nat) → List (Nat × Nat × Nat)
  | [] => [f]
  | g :: t => if f.1 ≤ g.1 then f :: g :: t else g :: insFrame f t

/-- A frame of `n` bytes (a multiple of 64) for the task of a mark, placed first fit and read as zeros (R126); none when
no run is long enough. -/
def State.allocFrame (s : State) (core n owner : Nat) : Option (Nat × State) :=
  if n = 0 then some (0, s)
  else
    let used := s.frames core
    match (freeRuns used 0 (s.frameArea core)).find? (fun r => decide (n ≤ r.2)) with
    | none => none
    | some (b, _) =>
      let s := s.modCore core (fun c => { c with frames := insFrame (b, n, owner) used })
      some (b, { s with lds := Mem.write s.lds (core * 2 ^ 21 + b) (List.replicate n 0) })

/-! ### Slots and batons at a task's end (R107, R131) -/

/-- A slot released: FREE at once, or when its fill and the steps that name it have ended (R107, R108). -/
def State.relSlot (s : State) (core slot : Nat) : State :=
  s.modCore core (fun c =>
    { c with slots := Vector.ofFn (fun i : Fin 32 =>
        let x := c.slots[i]
        if i.val = slot ∧ x.st ≠ 0 then
          if x.st = 2 ∨ x.pend.isSome ∨ (x.st = 3 ∧ s.slotNamed core slot none) then { x with rel := true } else freeSlot
        else x) })

/-- The slots of a task that ends are returned; a fill that has not started is dropped (R107). -/
def State.relRing (s : State) (k : Nat) (ring : Option (Nat × Nat)) : State :=
  match ring with
  | none => s
  | some (f, n) =>
    let s := s.modCore (coreOf k) (fun c =>
      { c with slots := Vector.ofFn (fun i : Fin 32 =>
          if f ≤ i.val ∧ i.val < f + n then { c.slots[i] with pend := none } else c.slots[i]) })
    (List.range n).foldl (fun s i => s.relSlot (coreOf k) (f + i)) s

def noSlot : BSlot := ⟨0, none, 0, false, 0⟩
def noBaton : Baton := ⟨0, 0, 1, false, 0, []⟩

/-- The physical place of a byte of a logical core's static area (R125), and of a slot of one of its batons (R130). -/
def State.staticPhys (s : State) (lck off : Nat) : Nat := s.hostOf lck * 2 ^ 21 + (s.lc lck).sbase + off
def State.slotPhys (s : State) (lck x slot off : Nat) : Nat :=
  let b := nth (s.lc lck).batons x noBaton
  s.staticPhys lck (b.off + slot * b.size + off)

/-- Baton slots of a strand at its task's end (R131): at an abort a local producer's FILLING slot becomes FREE and a
DRAINING slot FULL. -/
def batonAbort (k : Nat) (b : Baton) : Baton :=
  { b with slots := b.slots.map (fun x =>
      if x.owner = k ∧ x.st = 1 ∧ !x.remote then noSlot
      else if x.owner = k ∧ x.st = 3 then { x with st := 2, owner := 0 }
      else x) }

/-- NEXTREL advances over each consecutive freed sequence: slots listed as freed by their tags (R130, R262). -/
def advNext (depth : Nat) (slots : List BSlot) : Nat → BitVec 32 → BitVec 32
  | 0, n => n
  | f + 1, n =>
    let x := nth slots (n.toNat % depth) noSlot
    if x.st = 0 ∧ x.tag = some n then advNext depth slots f (n + 1) else n

/-- A baton slot freed by a release: FREE, its tag kept until NEXTREL has passed it. -/
def batonFree (b : Baton) (i : Nat) : Baton :=
  let x := nth b.slots i noSlot
  let slots := setNth b.slots i { x with st := 0, owner := 0, remote := false, got := 0 }
  let n := advNext b.depth slots b.depth b.nextrel
  { b with slots := slots, nextrel := n }

/-! ### Publish tags of an aborted attempt (R71) -/

/-- The physical places of a word of a context, as a core reaches them: its own die's, or all four of a replicated
word. -/
def State.copiesOf (s : State) (core ctx va : Nat) : List Nat :=
  match s.xlate core ctx va with
  | .error _ => []
  | .ok x => if x.replica then (List.range 4).map x.pa else [x.pa (dieOf core)]

/-- The tags that a strand's task has set are cleared on every die, also those still on their way (R71). -/
def State.clearTags (s : State) (k : Nat) (log : List (Nat × Nat)) : State :=
  let ctx := ((s.strand k).task.map (·.ctx)).getD 0
  let ws := log.flatMap (fun (va, n) => (wordsOf va n).flatMap (s.copiesOf (coreOf k) ctx))
  let m := s.mark k
  { s with dies := s.dies.map (fun d =>
      { d with view := { d.view with
          tags := setTags d.view.tags false ws
          pend := d.view.pend.map (fun w => if w.mark = m then { w with tag := none } else w) } }) }

/-! ### Ending tasks and launches -/

/-- The strand takes no task any more: it is free for dispatch, or, at this boundary, halted as a request asked
(R176). -/
def State.freeStrand (s : State) (k : Nat) : State :=
  let ctx := ((s.strand k).task.map (·.ctx)).getD 0
  ((s.modStrand k (fun t =>
      let t := if t.haltReq then { t with haltReq := false, halted := true, haltAt := s.cyc (coreOf k) } else t
      { t with phase := .free, task := none, wait := none, stall := none, held := false, spawn := none
               arr := Vector.replicate 4 none })).post k .strandDispatch).post ctx .launchEnd

/-- A connection is up (R29). -/
def State.connLive (s : State) (n : Nat) : Bool := ((s.conns.find n).map (·.live)).getD false

/-- A VCP message that the device sends: the header of 32 bytes with VER 1, and the body (R31). -/
def vcpBytes (cmd result seq ctx : Nat) (tag time : Word) (body : List Byte) : List Byte :=
  bytesOfNat 1 1 ++ bytesOfNat 1 cmd ++ bytesOfNat 2 result ++ bytesOfNat 4 seq ++ bytesOfNat 4 ctx
    ++ bytesOfNat 4 body.length ++ bytesOfNat 8 tag.toNat ++ bytesOfNat 8 time.toNat ++ body

/-- The response to a VCP command, on its connection while that is up (R29, R31). -/
def State.respond (s : State) (m : VcpMsg) (result ctx : Nat) (body : List Byte) : State :=
  if s.connLive m.conn then
    { s with outbox := s.outbox ++ [.send m.conn (vcpBytes m.cmd result m.seq ctx m.tag s.time.dtime body)] }
  else s

/-- The bytes of an event (R47); TAG, which no command gives, is 0 (DESIGN CHOICE, log 45). -/
def State.eventBytes (s : State) (code ctx seq : Nat) (body : List Byte) : List Byte :=
  vcpBytes 0x80 code seq ctx 0 s.time.dtime body

/-- An event to each connection that has created a context, or to all for the package (R47). SEQ counts the events of
the connection from 1, as R31 starts the SEQ of commands (DESIGN CHOICE, log 45). -/
def State.event (s : State) (code ctx : Nat) (body : List Byte) : State :=
  let hit := fun (c : Conn) => c.live && (ctx == 0 || !c.created.isEmpty)
  let tgt := s.conns.filter (fun (e : Nat × Conn) => hit e.2)
  let s := { s with
    outbox := s.outbox ++ tgt.map (fun (e : Nat × Conn) => HostMsg.send e.1 (s.eventBytes code ctx (e.2.events + 1) body)) }
  { s with conns := Table.mapv s.conns (fun c => if hit c then { c with events := c.events + 1 } else c) }

/-- The 64-byte completion record (R46). -/
def cplBytes (ltag : Word) (num status flags start end_ tasks traps last head : Nat) : List Byte :=
  bytesOfNat 8 ltag.toNat ++ bytesOfNat 4 num ++ bytesOfNat 2 status ++ bytesOfNat 1 flags ++ bytesOfNat 1 0
    ++ bytesOfNat 8 start ++ bytesOfNat 8 end_ ++ bytesOfNat 8 tasks ++ bytesOfNat 8 traps ++ bytesOfNat 4 last
    ++ bytesOfNat 4 head ++ bytesOfNat 8 0

/-- A launch ends (R46): its writes are performed on every die, everything of the context that is still queued or
running is dropped, what was kept for it looks for other work (R87), the completion record is written to the host, the
send with immediate follows, and the next record may start (R44). -/
def State.endLaunch (s : State) (ctx status : Nat) : State :=
  match s.ctx? ctx with
  | none => s
  | some c =>
    match c.launch with
    | none => s
    | some l =>
      let s := (List.finRange 4).foldl State.drain s
      let mine := fun (t : Strand) => ((t.task.map (·.ctx)).getD 0) == ctx && t.task.isSome
      let gone := (s.strands.filter (fun (e : Nat × Strand) => mine e.2)).map (fun e => e.1)
      let held := (s.ops.filter (fun o => o.ctx == ctx)).flatMap (fun o => o.core :: o.strands.map coreOf)
      let s := gone.foldl (fun s k => (s.relRing k ((s.strand k).task.bind (·.ring))).freeStrand k) s
      let kept := (s.strands.filter (fun (e : Nat × Strand) =>
        (e.2.spawnTask.map (fun (r : SpawnReq) => r.ctx)) == some ctx)).map (fun e => e.1)
      let wake := kept.map coreOf
        ++ (s.cores.filter (fun (e : Nat × Core) => e.2.q.toList.any (fun (q : List QMsg) =>
          q.any (fun i => i.msg.ctx.toNat == ctx)))).map (fun e => e.1)
        ++ (s.lcs.filter (fun (e : Nat × LCore) => lcCtx e.1 == ctx && e.2.relay.isSome)).map (fun e => s.hostOf e.1)
      let s := { s with
        agenda := s.agenda.filter (fun (e : Nat × Instr) => !(e.2 == Instr.spawnRelease && has kept e.1))
        strands := Table.mapv s.strands (fun t =>
          let t := { t with send := t.send.map (fun (q : List SendItem) => q.filter (fun i => i.msg.ctx.toNat != ctx)) }
          if (t.spawnTask.map (fun (r : SpawnReq) => r.ctx)) = some ctx then { t with phase := .free, spawnTask := none } else t)
        cores := Table.mapv s.cores (fun x =>
          { x with q := x.q.map (fun (q : List QMsg) => q.filter (fun i => i.msg.ctx.toNat != ctx))
                   hrun := x.hrun.map (fun (r : Option Nat) => r.filter (fun j => !has gone j))
                   inbound := x.inbound.filter (fun i => i.2.ctx.toNat != ctx) })
        rows := Table.mapv s.rows (fun x =>
          { x with spl := x.spl.filter (fun e => match e with
                     | .deposit c' .. => c' != ctx
                     | .cover c' .. => c' != ctx)
                   barr := x.barr.map (fun (l : List RowArr) => l.filter (fun a => !has gone a.strand)) })
        lcs := s.lcs.filter (fun (e : Nat × LCore) => lcCtx e.1 != ctx)
        ops := s.ops.filter (fun o => o.ctx != ctx)
        cmds := s.cmds.map (fun (x : Cmd) => if x.ctx = ctx then { x with live := false, cancel := true, st := 2 } else x)
        xfers := s.xfers.filter (fun x => lcCtx x.lc != ctx) }
      let s := (gone.map coreOf ++ held).foldl (fun s c => s.settleSlots c) s
      let s := s.posts (wake.flatMap (fun c => (List.range 4).map (fun i => (4 * c + i, Instr.strandDispatch))))
      let rec_ := cplBytes l.ltag c.number status l.flags.toNat l.start s.now l.tasks l.traps l.lastTrap c.trapHead
      let out := [HostMsg.write l.cplva l.cplrkey rec_] ++ (if l.csend && s.connLive l.conn then [.sendImm l.conn l.imm] else [])
      let s := { s with outbox := s.outbox ++ out }
      let s := s.modCtx ctx (fun c =>
        let parts : Table Nat := c.rowPart.filter (fun (e : Nat × Nat) => (c.evicts.find e.1).isNone)
        { c with launch := none, holds := [], evicts := [], rowPart := parts })
      s.post ctx .launchStart

/-! ### Barriers (R113, R256) -/

/-- The four words of a barrier record at its home: COUNT, GEN, N (R256). -/
def State.barRead (s : State) (pa : Nat) : Nat × Nat × Nat :=
  let l := s.gatomic pa 8 ++ s.gatomic (pa + 8) 8
  (leAt l 0 4, leAt l 4 4, leAt l 8 4)
def State.barWrite (s : State) (d : Fin 4) (pa count gen n : Nat) : State :=
  (s.gwrite d pa (bytesOfNat 4 count ++ bytesOfNat 4 gen) none nobody 0).gwrite d (pa + 8)
    (bytesOfNat 4 n ++ bytesOfNat 4 0) none nobody 0

/-- The barrier record at a VA, or its translation, lies in a line with an uncorrectable error (R135). -/
def State.barHit (s : State) (core ctx : Nat) (va : Word) : Bool :=
  !s.ecc.isEmpty && (s.walkHit .core core ctx va.toNat || (match s.xlate core ctx va.toNat with
    | .ok x => s.badLine (x.pa (dieOf core))
    | .error _ => false))

/-- The withdrawals of a strand's arrivals meet such a record (R135, R257). -/
def State.arrHit (s : State) (k : Nat) : Bool :=
  !s.ecc.isEmpty && (s.strand k).arr.toList.any (fun a => match a with
    | none => false
    | some a => !a.done && !(a.scope == .row) && a.reply && a.fail == 0
      && s.barHit (coreOf k) (((s.strand k).task.map (·.ctx)).getD 0) a.va)

/-- `withdraw(g)` at the home: true when the arrival was taken back, false when completion had won (R256). -/
def State.withdraw (s : State) (core ctx : Nat) (a : Arrival) : Bool × State :=
  match s.xlate core ctx a.va.toNat with
  | .error _ => (true, s)
  | .ok x =>
    let pa := x.pa (dieOf core)
    let (count, gen, n) := s.barRead pa
    if s.barHit core ctx a.va then (true, s)
    else if gen = a.gen then (true, s.barWrite (dieF core) pa (count - 1) gen (if count - 1 = 0 then 0 else n))
    else (false, s)

/-- The arrivals of an arrival's mask, in ascending column, when every column has one. -/
def gangOf (l : List RowArr) (a : RowArr) : Option (List RowArr) :=
  let ms := ((List.range 16).filter (fun c => a.mask.getLsbD c)).map (fun c =>
    l.find? (fun b => colOf (coreOf b.strand) == c))
  if ms.all Option.isSome && !ms.isEmpty then some (ms.filterMap id) else none

/-- The arrival is a product's whose gang has been found to disagree (R114, R323). -/
def RowArr.told (a : RowArr) : Bool := (a.op.map (fun (x : MxOp × BitVec 8) => x.1.bad)).getD false

/-- Every member of a strand's arrival has arrived, so that its barrier has completed, though what it completes may
still wait for room (R113, R155, R168). -/
def State.gangFull (s : State) (k slot : Nat) : Bool :=
  (s.row (rowOf (coreOf k))).barr.toList.any (fun (l : List RowArr) =>
    let l := l.filter (fun a => !a.told)
    l.any (fun a => ((gangOf l a).map (fun g => g.any (fun b => b.strand == k && b.slot == slot))).getD false))

/-- The slot mark of an arrival that its task has left behind after every member had arrived. -/
def leftSlot : Nat := 5

/-- A row arrival taken back from the wired barrier (R113, R256). -/
def State.withdrawRow (s : State) (k : Nat) (slot : Nat) : State :=
  s.modRow (rowOf (coreOf k)) (fun r =>
    { r with barr := r.barr.map (fun (l : List RowArr) => l.filter (fun a => !(a.strand == k && a.slot == slot))) })

/-! ### Items between chips (R157) -/

/-- Global number of a local logical core (R50). -/
def State.globalLc (s : State) (lck : Nat) : Nat :=
  ((s.launch? (lcCtx lck)).map (fun (l : Launch) => l.chipno * 1024)).getD 0 + lcLocal lck

/-- An item is released on XC: it takes the tick, the context, the launch number and the next exchange sequence of its
source core. -/
def State.xcSend (s : State) (lck chip : Nat) (body : XcBody) : State :=
  let ctx := lcCtx lck
  let n := ((s.launch? ctx).map (fun (l : Launch) => l.xseqs.get (lcLocal lck) 0)).getD 0 + 1
  let num := ((s.ctx? ctx).map (·.number)).getD 0
  let i : XcItem := ⟨s.time.tick.toNat, s.globalLc lck, n, ctx, num, chip, body⟩
  let s := s.modLaunch ctx (fun l => { l with xseqs := l.xseqs.set (lcLocal lck) n })
  { s with time := { s.time with xout := s.time.xout ++ [i] } }

/-- The home of system-scope barriers is the chip with CHIPNO 0 (R256). -/
def State.sysHome (s : State) (ctx : Nat) : Bool := ((s.launch? ctx).map (fun (l : Launch) => l.chipno == 0)).getD true

/-- When a task ends or aborts, its arrivals that have not completed are withdrawn (R257); a row arrival whose members
have all arrived stays, since completion has won (R155); that of a system-scope arrival at another chip travels on
XC. -/
def State.withdrawAll (s : State) (k : Nat) : State :=
  let ctx := ((s.strand k).task.map (·.ctx)).getD 0
  let lc := ((s.strand k).task.map (·.lc)).getD 0
  let stays := fun (a : RowArr) => a.op.isNone && s.gangFull k a.slot
  let s := { s with rows := Table.mapv s.rows (fun x =>
    { x with barr := x.barr.map (fun (l : List RowArr) =>
        (l.filter (fun (a : RowArr) => a.strand != k || stays a)).map (fun (a : RowArr) =>
          if a.strand = k then { a with slot := leftSlot } else a)) }) }
  (s.strand k).arr.toList.foldl (fun (s : State) (a : Option Arrival) =>
    match a with
    | none => s
    | some a =>
      if a.done ∨ a.scope = .row ∨ !a.reply ∨ a.fail ≠ 0 then s
      else if a.scope = .sys ∧ !s.sysHome ctx then s.xcSend lc 0 (.barWithdraw a.va.toNat a.gen (s.globalLc lc) nobody)
      else (s.withdraw (coreOf k) ctx a).2) s

/-! ### The arena and the owners of joins (R65, R367) -/

/-- Arena offset and geometry of a launch (R65, R367): base VA, bytes of the static region, of a dynamic region. -/
def Ctx.arena (c : Ctx) : Nat := c.area + c.off[2]
def Launch.staticBytes (l : Launch) : Nat := 64 * 2 ^ l.d
def dynBytes : Nat := 16384
def Launch.heapBase (c : Ctx) (l : Launch) : Nat := c.arena + l.staticBytes + dynBytes * l.remap.length

/-- A number with its lowest set bits cleared until it is below `n`. -/
def clearLow (n : Nat) : Nat → Nat → Nat
  | 0, x => x
  | f + 1, x => if x < n then x else clearLow n f (x &&& (x - 1))

/-- The logical core that owns the static record at index h: the lowest under the node (R65). DEDUCED (log 37): a node
that holds no logical core belongs to the one that keeps it (R57), whose number is that of the node's lowest place
without its lowest set bits. -/
def staticOwner (l : Launch) (h : Nat) : Nat :=
  let depth := flog2 h
  clearLow l.nlcore l.d ((h - 2 ^ depth) * 2 ^ (l.d - depth))

/-- The local logical core that owns a join record: of a dynamic record the one whose region holds it, of a static
record that of its node (R65). -/
def joinOwner (c : Ctx) (l : Launch) (jref : Nat) : Nat :=
  let off := jref / 64 * 64 - c.arena
  if off < l.staticBytes then staticOwner l (off / 64) - l.chipno * 1024 else (off - l.staticBytes) / dynBytes

/-- The chip that holds a record: of a static one the chip of its owner, else this one (R65). DESIGN CHOICE (log 49): so
a task that was stolen across chips deposits under a dynamic join in the arena of the chip that runs it. -/
def joinChip (c : Ctx) (l : Launch) (jref : Nat) : Nat :=
  let off := jref / 64 * 64 - c.arena
  if off < l.staticBytes then staticOwner l (off / 64) / 1024 else l.chipno

/-- An allocation given back. -/
def State.heapFree (s : State) (ctx va : Nat) : State :=
  match s.ctx? ctx with
  | none => s
  | some c => s.modLaunch ctx (fun l => { l with heap := l.heap.filter (fun e => l.heapBase c + e.1 != va) })

/-! ### What is discarded with a task (R160, R331, R335) -/

/-- A buffered effect is discarded: a reserved strand is released, held updates leave the tile heap. -/
def State.discardEffect (s : State) (ctx : Nat) (e : Effect) : State :=
  match e with
  | .spawn j => s.post j .spawnRelease
  | .scata _ _ _ _ _ heap _ => s.heapFree ctx heap
  | _ => s

/-! ### Holds and traps (R160 to R164) -/

/-- A reservation request that its strand no longer waits for (R92): a grant on its way back is released. -/
def State.dropSpawn (s : State) (k : Nat) : State :=
  let s := match (s.strand k).spawn.bind (·.answer) with
    | some (some j) => s.post j .spawnRelease
    | _ => s
  s.modStrand k (fun t => { t with spawn := none })

/-- What an abort discards and gives back (R160 steps 1 and 2), for one strand; REQUEUE does the same (R90) but for
its commands (`undo` false), which run on as they are (R331). Of an aborted task a FETCH into the frame is cancelled,
and what the others write sets no publish tag, since that log is cleared (R71). -/
def State.abortStrand (s : State) (k : Nat) (undo : Bool) : State :=
  let t := s.strand k
  match t.task with
  | none => s
  | some tk =>
    let m := s.mark k
    let s := s.withdrawAll k
    let s := s.clearTags k tk.tagLog
    let s := tk.effects.foldl (fun (s : State) e => s.discardEffect tk.ctx e) s
    let s := (s.dropSpawn k).modStrand k (fun t =>
      { t with send := t.send.map (fun (q : List SendItem) => q.filter (·.released)) })
    let s := s.posts ((s.ops.filter (fun o => o.of k)).flatMap (fun o =>
      o.strands.map (fun j => (coreOf j, Instr.sequencerStep))))
    let s := { s with
      ops := s.ops.map (fun (o : MxOp) => if o.of k then { o with cancel := true } else o)
      cmds := s.cmds.map (fun (c : Cmd) =>
        if c.mark = m ∧ c.live ∧ c.st < 2 then
          match c.instr with
          | .fetch .. => { c with undone := undo, cancel := undo && decide (c.b.toNat % 2 ^ 60 < tk.frameLen) }
          | .scata .. => { c with cancel := true, st := 2, final := sFAULT, reason := 0x80 }
          | _ => { c with undone := undo }
        else c) }
    let s := s.modLc tk.lc (fun l => { l with batons := l.batons.map (batonAbort k) })
    s.relRing k tk.ring

/-- Accesses of an attempt's tasks that are not over, which happen before those of a later attempt (R148); of a SCATA
nothing is left to come, since its updates are discarded with the group (R96). -/
def State.attemptBusy (s : State) (ms : List Nat) : Bool :=
  s.cmds.any (fun c => c.live && c.st != 2 && c.st != 4 && has ms c.mark && (match c.instr with
      | .scata .. => false
      | _ => true))
    || s.xfers.any (fun x => has ms x.mark)
    || s.ops.any (fun o => o.cancel && ms.any (fun m => o.of (markStrand m)))

/-- The trigger of an aborted task is held (R160 step 4): a record at the bottom of its deque, a message at the head of
its queue. None when the deque has no room for the record (log 34). -/
def State.holdTrigger (s : State) (k : Nat) (tk : Task) (ix : Nat) : Option State :=
  match tk.trigger with
  | .record => s.push? tk.lc ⟨tk.tr, some ix⟩
  | .msg vn =>
    some (s.modCore (coreOf k) (fun c =>
      let i : Fin 2 := if vn then 1 else 0
      { c with q := c.q.set i (match c.q[i] with
                 | [] => []
                 | m :: t => { m with held := some ix } :: t)
               hrun := c.hrun.set i none }))
  | .svc _ => some s

/-- The routing byte and the vector of a code, read when the trap is taken (R162). -/
def State.routeOf (s : State) (ctx code : Nat) : Nat × Nat :=
  match s.ctx? ctx with
  | none => (2, 0)
  | some c =>
    (natOfBytes ((s.ctxRead ctx (c.area + code) 1).getD []) % 4,
     natOfBytes ((s.ctxRead ctx (c.area + 0x100 + 4 * code) 4).getD []))

/-- Codes forced to SUP (R159). -/
def forcedSup (code : Nat) : Bool := code == tPRIV || code == tXLATE || code == tDLESC

/-- The 64-byte trap record (R161). -/
def trapBytes (code route fpsr strand lc va word key mseq msrc detail ea now : Nat) (msg relay svc vn : Bool)
    (leg : Nat) : List Byte :=
  bytesOfNat 1 code
    ++ bytesOfNat 1 (route + 4 * b2n msg + 8 * b2n relay + 16 * leg + 64 * b2n svc)
    ++ bytesOfNat 1 (fpsr % 32) ++ bytesOfNat 1 (strand % 4 + 4 * b2n vn) ++ bytesOfNat 4 lc ++ bytesOfNat 8 va
    ++ bytesOfNat 8 word ++ bytesOfNat 8 key ++ bytesOfNat 8 mseq ++ bytesOfNat 4 msrc ++ bytesOfNat 4 detail
    ++ bytesOfNat 8 ea ++ bytesOfNat 8 now

/-- A trap-ring entry is written and HEAD advances; an unread record that it overwrites counts as lost (R41, R161). -/
def State.trapRing (s : State) (ctx code : Nat) (l : List Byte) : State :=
  match s.ctx? ctx with
  | none => s
  | some c =>
    let va := c.area + c.off[1] + 64 * (c.trapHead % c.trapn)
    let s := s.ctxWrite ctx none va l
    let old := c.trapHead - c.trapn
    let ovw := decide (c.trapn ≤ c.trapHead) && has c.unread old
    s.modCtx ctx (fun c =>
      { c with trapHead := c.trapHead + 1, traprec := BitVec.ofNat 64 va, trapcode := BitVec.ofNat 64 code
               lost := c.lost + b2n ovw, unread := (c.unread.filter (fun i => !(ovw && i == old))) ++ [c.trapHead] })

/-- The route that a trap takes (R162, R163): forced codes to SUP, a trap in a service task to KILL, USER with a vector
of 0 or with 8 tasks queued to KILL. -/
def State.chooseRoute (s : State) (ctx lc code : Nat) (svc : Bool) : Nat × Nat :=
  let (r, v) := s.routeOf ctx code
  let r := if svc then 2 else if forcedSup code then 1 else if r = 3 then 2 else r
  if r = 0 ∧ (v = 0 ∨ 8 ≤ (s.lc lc).svc.length) then (2, v) else (r, v)

/-- The route applied (R162). -/
def State.applyRoute (s : State) (ctx lc ix route vec : Nat) (key : Word) : State :=
  if route = 0 then
    s.modLc lc (fun l => { l with svc := l.svc ++ [⟨BitVec.ofNat 32 vec, ix, key⟩] })
  else if route = 1 then s.post ctx (.supHoldService ix)
  else s.endLaunch ctx 1

/-- The strand is inside an instruction that has not completed: it waits, or its bank refreshes. -/
def Strand.midway (t : Strand) : Bool := t.wait.isSome || t.stall.isSome

/-- The legs of a relay, or the strand alone. -/
def Task.strands (t : Task) (k : Nat) : List Nat := if t.legs.isEmpty then [k] else t.legs

/-- The other legs of a relay stop at their next instruction boundary (R94, R249): one that is inside an instruction
when that ends. -/
def State.stopLegs (s : State) (k : Nat) (tk : Task) : State :=
  (tk.legs.filter (fun j => j != k)).foldl (fun (s : State) j =>
    s.modStrand j (fun t => { t with phase := if t.midway then .stopping else .legDone })) s

/-- A leg of the relay has not stopped yet. -/
def State.legsMoving (s : State) (tk : Task) : Bool := tk.legs.any (fun j => (s.strand j).phase == .stopping)

/-- The abort of the task of strand `k`, its relay whole, and the record and the route of its trap (R160 to R163). A
trap whose record finds no room in its deque is routed KILL (log 34); an uncorrectable error in the walk of an XLATE, or
in what the abort withdraws, ends the launch KILLED (R135). -/
def State.trapNow (s : State) (k : Nat) (tk : Task) (t : TrapInfo) : State :=
  let st := s.strand k
  let legs := tk.strands k
  let ctx := tk.ctx
  let (isMsg, vn) := match tk.trigger with
    | .msg v => (true, v)
    | _ => (false, false)
  let isSvc := match tk.trigger with
    | .svc _ => true
    | _ => false
  let qi : Fin 2 := if vn then 1 else 0
  let m := (s.core (coreOf k)).q[qi].head?.map (·.msg)
  let lnum := s.globalLc tk.lc
  let marks := legs.map s.mark
  let ix := ((s.ctx? ctx).map (·.trapHead)).getD 0
  let codeva := ((s.launch? ctx).map (·.codeva)).getD 0
  let (chosen, vec) := s.chooseRoute ctx tk.lc t.code isSvc
  let dead := t.code == tXLATE && s.walkHit .core (coreOf k) ctx t.ea.toNat || legs.any s.arrHit
  let s := legs.foldl (fun s j => s.abortStrand j true) s
  let (s, route) := match s.holdTrigger k tk ix with
    | some s => (s, chosen)
    | none => (s, 2)
  let rec_ := trapBytes t.code route (st.fpsr ||| t.raised.setWidth 64).toNat k lnum (codeva + st.pc.toNat)
    st.iword.toNat (boxKey tk.tr.box).toNat
    (if isMsg then (m.map (fun x => x.seq.toNat)).getD 0 else 0)
    (if isMsg then (m.map (fun x => x.src.toNat)).getD 0 else 0xFFFFFFFF)
    t.detail t.ea.toNat s.now isMsg (!tk.legs.isEmpty) isSvc vn tk.leg
  let s := s.trapRing ctx t.code rec_
  let s := s.modLaunch ctx (fun l => { l with traps := l.traps + 1, lastTrap := t.code })
  let s := s.count (coreOf k) 0x05
  let s := if t.code = tXLATE then
      ((s.count (coreOf k) 0x1B).countEv (dieF (coreOf k)) 0x1E 0 1).countEv (dieF (coreOf k)) 0x1F 0 1
    else s
  let s := s.modCtx ctx (fun c =>
    { c with holds := c.holds ++ [⟨ix, t.code, tk.lc, if isMsg then (if vn then 2 else 1) else 0, k, t.ea, route,
                                   false, marks, none⟩] })
  let s := legs.foldl (fun s j => s.freeStrand j) s
  if dead then s.endLaunch ctx 1 else s.applyRoute ctx tk.lc ix route vec (boxKey tk.tr.box)

/-! ### Yields (R88) -/

/-- Every unsatisfied and unexpired entry of a pool has its tests posted. -/
def State.poolPosts (s : State) (lck : Nat) : State :=
  let open_ := fun (i : Nat) => (((s.lc lck).pool[i]?).map (fun (p : PoolItem) => !p.satisfied && !p.tr.exp)).getD false
  (List.range (s.lc lck).pool.length).foldl (fun (s : State) i =>
    if !open_ i then s
    else
      [Instr.poolRetest i, Instr.poolExpiry i].foldl (fun (s : State) e =>
        if s.agenda.any (fun (x : Nat × Instr) => x.1 == lck && x.2 == e) then s else s.post lck e) s) s

/-- The yield of the task of strand `k`, its relay whole (R88): it is aborted without a trap record, and its record
enters the pool. -/
def State.yieldNow (s : State) (k : Nat) (tk : Task) (ctr tgt : Word) (expiry : Nat) : State :=
  let ks := tk.strands k
  let r := { tk.tr with wait := true, exp := false, wctr := ctr, wtgt := tgt }
  let marks := ks.map s.mark
  let dead := ks.any s.arrHit
  let s := ks.foldl (fun (s : State) j => s.abortStrand j true) s
  let s := (s.modLc tk.lc (fun l => { l with pool := l.pool ++ [⟨r, expiry, false, marks, 0⟩] })).count (coreOf k) 0x0F
  let s := (ks.foldl (fun (s : State) j => s.freeStrand j) s).poolPosts tk.lc
  if dead then s.endLaunch tk.ctx 1 else s

/-- A leg has stopped (R94): when it was the last to stop, the trap or the yield that stops the relay is taken. -/
def State.legStopped (s : State) (k : Nat) : State :=
  let s := s.modStrand k (fun t => { t with phase := .legDone, wait := none, stall := none })
  match (s.strand k).task with
  | none => s
  | some tk =>
    if s.legsMoving tk then s
    else
      (tk.legs.findSome? (fun j => match (s.strand j).phase, (s.strand j).task with
        | .trapping t, some x => some (s.trapNow j x t)
        | .yielding c n e, some x => some (s.yieldNow j x c n e)
        | _, _ => none)).getD s

/-- The task of the current strand yields (R88), of a relay once its other legs have stopped, as for a trap (R94). -/
def State.yield (s : State) (ctr tgt : Word) (dl : Nat) : State :=
  let k := s.cur
  match s.st.task with
  | none => s
  | some tk =>
    if s.st.phase = .stopping then s.legStopped k
    else
      let s := s.stopLegs k tk
      if s.legsMoving tk then
        s.modStrand k (fun x => { x with phase := .yielding ctr tgt (s.now + dl), wait := none, stall := none })
      else s.yieldNow k tk ctr tgt (s.now + dl)

/-- The issue of the current strand's instruction stalls before it is complete, and is tried again: it has been counted,
and what it reads at issue has been read (R28, R114, R272). -/
def State.hold (s : State) : State := s.mod (fun t => { t with held := true })
/-- The issue goes on. -/
def State.release (s : State) : State := s.mod (fun t => { t with held := false })

/-- TAKING A TRAP (R160 to R163): the task of the current strand is aborted, its trigger is held, the record is written,
and the route is applied; of a relay once its other legs have stopped (R94). A leg that is to stop has stopped. A strand
that runs no task (a management strand) only stops (log 16). Code 0, which no trap has, says that a read has met an
uncorrectable error: it ends the launch (R135). -/
def State.takeTrap (s : State) (t : TrapInfo) : State :=
  let k := s.cur
  match s.st.task with
  | none => s.freeStrand k
  | some tk =>
    if s.st.phase = .stopping then s.legStopped k
    else if t.code = 0 then s.endLaunch tk.ctx 1
    else
      let s := s.stopLegs k tk
      if s.legsMoving tk then s.modStrand k (fun x => { x with phase := .trapping t, wait := none, stall := none })
      else s.trapNow k tk t

/-- The outcome of a body: its next state, or the trap it takes. -/
def State.orTrap (s : State) (r : Except TrapInfo State) : Host.Outcome State Fault Refusal :=
  match r with
  | .ok t => .next t
  | .error t => .next (s.takeTrap t)

/-- An instruction of `n` bytes under its guard (R202): the body when it executes, else only the pc moves. -/
def guarded (g : Guard) (n : Nat) (s : State) (body : State → Except TrapInfo State) :
    Host.Outcome State Fault Refusal :=
  if s.guard g then s.orTrap (body s) else .next (s.adv n)

/-- A body that cannot trap and falls through to the next word. -/
def plain (g : Guard) (s : State) (f : State → State) : Host.Outcome State Fault Refusal :=
  guarded g 8 s (fun s => .ok ((f s).adv 8))

/-! ### Waits (R166 to R171) -/

/-- Why a blocking instruction is tested: at issue, again while it waits, at its deadline, at the eviction bound. -/
inductive Poll where
  | issue
  | again
  | expire
  | bound
deriving DecidableEq, Repr

/-- The eviction bound of a strand, when its context is being evicted from its row (R171). -/
def State.evBound (s : State) (k : Nat) : Option Nat := do
  let tk ← (s.strand k).task
  let c ← s.ctx? tk.ctx
  let e ← c.evicts.find (rowOf (coreOf k))
  return e.te + (s.regs (coreOf k) tk.ctx).grace.toNat

/-- The deadline min(S[L], DLMAX) (R166). -/
def State.deadline (s : State) (l : SReg) : Nat := Nat.min (s.rS l).toNat s.st.dlmax.toNat

/-- The instruction's own rule gives the detail of its EVICT: WAITC and VWAITC (R254, R255), the fences (R153, R154,
R258), LDW (R291) and MWAIT (R327). Of the others R171 says that bit 8 of D is 1. -/
def ownEvict : Instr → Bool
  | .waitc .. | .vwaitc .. | .fence .. | .fencesc .. | .ldw .. | .mwait .. => true
  | _ => false

/-- The strand waits in an instruction (R166): it issues nothing until the wait ends. -/
def State.block (s : State) (i : Instr) (dl : Nat) (stage : Nat) : State :=
  s.mod (fun t =>
    match t.wait with
    | some w => { t with wait := some { w with stage := stage } }
    | none => { t with wait := some ⟨i, s.now + dl, s.cyc (coreOf s.cur), stage⟩ })

/-- The wait in progress ends: cycles inside it do not count against BUDGET (R95). -/
def State.unblock (s : State) : State :=
  s.mod (fun t =>
    match t.wait with
    | none => t
    | some w =>
      { t with wait := none, readyAt := s.cyc (coreOf s.cur)
               task := t.task.map (fun k => { k with blocked := k.blocked + (s.cyc (coreOf s.cur) - w.cyc0) }) })

/-- A blocking instruction, tested (R166). `cond` gives the status OK and its effects when the condition holds, or a
status that ends the wait at once; `detail` the detail of TIMEOUT and EVICT; `late` what the deadline or the bound
leaves behind (R168). A deadline of 0 tests once. The instruction completes with its status in D and DLCOUNT counted;
an EVICT sets bit 8 of D (R171), or gives the detail that the rule of its instruction states (log 42). -/
def State.blocking (s : State) (p : Poll) (i : Instr) (d : SReg) (dl : Nat)
    (cond : State → Option (Nat × Nat × State)) (late : State → Nat × Nat × State) : State :=
  match cond s with
  | some (code, detail, s') => ((s'.unblock).statusB d code detail).adv 8
  | none =>
    let expired := p == .expire || (p == .issue && dl == 0)
    if expired then
      let (code, detail, s') := late s
      let r := ((s'.unblock).statusB d code detail).adv 8
      if code = sTIMEOUT then r.count (coreOf s.cur) 0x11 else r
    else if p == .bound then
      let (_, detail, s') := late s
      ((((s'.unblock).statusB d sEVICT (if ownEvict i ∨ detail % 2 = 1 then detail else detail + 1)).adv 8).count
        (coreOf s.cur) 0x12)
    else s.block i dl (((s.st.wait).map (·.stage)).getD 0)

end Sys2Proof.Machine
end

