-- ==== Sys2Proof/Machine/Operands.lean ====
section
/-! DEFINITION. Operand forms: address modes (R123, R124), the checks of an access in the order of R120 (R121, R122, R69
to R72, R137, R141), and the bytes that an access moves (R71, R126, R129, R134, R141). -/
namespace Sys2Proof.Machine

/-- Who makes an access: the strand, its core, the context, its mode, its task and launch, the TLBs that translate for
it, its path (R143), the mark of the task that caused it, and whether its writes set no publish tag, as those of an
aborted attempt's commands (R71, R148). -/
structure Who where
  k : Nat
  core : Nat
  ctx : Nat
  sup : Bool
  task : Option Task
  launch : Option Launch
  area : Nat
  areaSize : Nat
  wslen : Nat
  wsbase : Nat
  mmu : Mmu
  path : Nat
  mark : Nat
  quiet : Bool
deriving DecidableEq, Repr

/-- The maker of an access in a context, with the context's launch, area and weight-store grant: on path LS, through the
core's TLBs. -/
def State.whoFor (s : State) (k core ctx : Nat) (sup : Bool) (task : Option Task) (mark : Nat) : Who :=
  let c := s.ctx? ctx
  ⟨k, core, ctx, sup, task, c.bind (·.launch), (c.map (·.area)).getD 0, (c.map (·.areaSize)).getD 0,
   (c.map (·.wslen)).getD 0, (c.map (·.wsbase)).getD 0, .core, 0, mark, false⟩

/-- The maker of an access by strand `k`. -/
def State.whoOf (s : State) (k : Nat) : Who :=
  let t := s.strand k
  s.whoFor k (coreOf k) ((t.task.map (·.ctx)).getD 0) t.sup t.task (s.mark k)
def State.who (s : State) : Who := s.whoOf s.cur

/-- The translation that an access uses (R138, R139). -/
def State.xl (s : State) (w : Who) (va : Nat) : Except WalkErr Xl := s.xlateBy w.mmu w.core w.ctx va

/-- Exact mode: a launch whose MODE is 0 (R45). -/
def Who.exact (w : Who) : Bool := (w.launch.map (fun l => !l.arrival)).getD false
def Who.sa (w : Who) : Nat := (w.launch.map (·.sa)).getD 0
def Who.frameLen (w : Who) : Nat := (w.task.map (·.frameLen)).getD 0

/-! ### Generic pointers (R121, R122) -/

def window (ea : Word) : Nat := bits ea 63 60
def inWindowOff (ea : Word) : Nat := bits ea 59 0

/-- A range lies wholly in one part of the task's view of window 0x2 (R126). -/
def Who.viewOk (w : Who) (o n : Nat) : Bool :=
  decide (o + n ≤ w.frameLen) || (decide (Config.ldsBytes - w.sa ≤ o) && decide (o + n ≤ Config.ldsBytes))

/-- The first byte of a range that its window does not admit, for the record of the trap (R161). -/
def Who.viewBad (w : Who) (o : Nat) : Nat :=
  if o < w.frameLen then w.frameLen
  else if Config.ldsBytes - w.sa ≤ o ∧ o < Config.ldsBytes then Config.ldsBytes
  else o

/-- The logical core is hosted on this chip (R50, R122). -/
def Who.hosted (w : Who) (c : Nat) : Bool :=
  match w.launch with
  | none => false
  | some l => decide (l.chipno * 1024 ≤ c) && decide (c < l.chipno * 1024 + l.remap.length)

/-- ADDR_SPAN, ADDR_RANGE, ADDR_NONCANON, ADDR_REMOTE in that order (R120, R122). -/
def Who.addrCheck (w : Who) (ea : Word) (n : Nat) (sendClass : Bool) : Except TrapInfo Unit :=
  let win := window ea
  let o := inWindowOff ea
  let last := ea + BitVec.ofNat 64 (n - 1)
  if window last ≠ win ∨ 2 ^ 60 < n then .error ⟨tSPAN, n, BitVec.ofNat 64 ((win + 1) * 2 ^ 60), 0⟩
  else if win = 0 then
    if bits ea 59 48 = 0 ∧ bits last 59 48 ≠ 0 then .error ⟨tRANGE, n, BitVec.ofNat 64 (2 ^ 48), 0⟩
    else if bits ea 59 48 ≠ 0 then .error ⟨tNONCANON, n, ea, 0⟩
    else .ok ()
  else if win = 1 then
    if w.wslen ≤ inWindowOff last then .error ⟨tRANGE, n, BitVec.ofNat 64 (2 ^ 60 + Nat.max o w.wslen), 0⟩ else .ok ()
  else if win = 2 then
    if w.viewOk o n then .ok () else .error ⟨tRANGE, n, BitVec.ofNat 64 (2 * 2 ^ 60 + w.viewBad o), 0⟩
  else if win = 3 then
    let c := bits ea 59 40
    let so := bits ea 20 0
    let nl := (w.launch.map (·.nlcore)).getD 0
    if bits ea 39 21 ≠ 0 ∨ nl ≤ c ∨ !w.hosted c ∨ so < Config.ldsBytes - w.sa then .error ⟨tRANGE, n, ea, 0⟩
    else if Config.ldsBytes < so + n then .error ⟨tRANGE, n, ea + BitVec.ofNat 64 (Config.ldsBytes - so), 0⟩
    else if !sendClass then .error ⟨tREMOTE, n, ea, 0⟩
    else .ok ()
  else .error ⟨tRANGE, n, ea, 0⟩

/-- Alignment (R287), which is tested first. -/
def alignCheck (ea : Word) (n al : Nat) : Except TrapInfo Unit :=
  if ea.toNat % al = 0 then .ok () else .error ⟨tALIGN, n, ea, 0⟩

/-! ### Windows of exact mode (R69, R70) -/

/-- Some element whose indices keep to the box holds the byte at offset `o` of a tensor (R69): dimension by dimension,
`room` is the reach of the dimensions still to come and of the element. DESIGN CHOICE (log 51): a dimension whose axis
byte is 6 to 0xFE counts as unmapped, as one with 0xFF does (R231). -/
def coverDims (box : BoxImg) : List (Nat × Nat × Nat) → Nat → Nat → Bool
  | [], size, o => decide (o < size)
  | (ax, ext, stride) :: t, size, o =>
    let lo := if ax < 6 then boxLo box ax else 0
    let hi := if ax < 6 then Nat.min (boxHi box ax) ext else ext
    let room := t.foldl (fun r d => r + (d.2.1 - 1) * d.2.2) size
    if stride = 0 then decide (lo < hi) && coverDims box t size o
    else
      let first := Nat.max lo ((o + 1 - room + stride - 1) / stride)
      let last := Nat.min hi (o / stride + 1)
      (List.range (last - first)).any (fun i => coverDims box t size (o - (first + i) * stride))

/-- The size of an element in memory (R102, R188). -/
def fmtSize : Fmt → Nat
  | .f64 | .si64 | .ui64 => 8
  | .f32 | .si32 | .ui32 | .lg24 => 4
  | .f16 | .bf16 | .si16 | .ui16 => 2
  | .si8 | .ui8 => 1
  | .fb8 => 34
  | .fb5 => 22
  | .fb3 => 14

/-- Bytes that MOUT writes (R329). -/
def moutLen (t : Fmt) : Nat := if t.isFb then 128 * fmtSize t else 4096 * fmtSize t

/-- The tensor, with its table index, whose range holds an address (R45). -/
def tensorAt : List Tensor → Nat → Nat → Option (Nat × Tensor)
  | [], _, _ => none
  | t :: l, a, i => if t.base ≤ a ∧ a < t.base + t.len then some (i, t) else tensorAt l a (i + 1)

def Who.tensor (w : Who) (a : Nat) : Option (Nat × Tensor) :=
  match w.launch with
  | none => none
  | some l => tensorAt l.tensors a 0

/-- Self-descent rules, handlers and spawned tasks have an empty write window (R58, R69, R250). -/
def Task.windowEmpty (t : Task) : Bool := t.tr.kind == .handler || (t.tr.kind == .rule && t.tr.fitSd) || t.tr.spawned

/-- A byte lies in the task's write window (R69). -/
def Who.inWrite (w : Who) (t : Tensor) (a : Nat) : Bool :=
  match w.task with
  | none => false
  | some tk => t.cls != 0 && !tk.windowEmpty && coverDims tk.tr.box t.dims (fmtSize t.elem) (a - t.base)

/-- WINDOW for one byte (R70): a store outside the write window; a load of an OUT tensor outside the read window, or
during self-descent of any OUT or PUB tensor (R58). -/
def Who.windowByte (w : Who) (store : Bool) (a : Nat) : Option Nat :=
  match w.tensor a with
  | none => if store then some 0xFF else none
  | some (i, t) =>
    if store then (if w.inWrite t a then none else some i)
    else if t.cls = 0 then none
    else if (w.task.map (fun k => k.tr.kind == .rule && k.tr.fitSd)).getD false then some (i + 256)
    else if t.cls = 1 ∧ !w.inWrite t a then some (i + 256)
    else none

/-- The first byte of a range that a test finds, with what it found. -/
def scanBytes (f : Nat → Option Nat) : Nat → Nat → Option (Nat × Nat)
  | _, 0 => none
  | a, n + 1 =>
    match f a with
    | some d => some (a, d)
    | none => scanBytes f (a + 1) n

/-! ### Translation and permissions of a range (R137, R35) -/

/-- The addresses of a range at which a page begins, its first byte included. -/
def pageStarts (a n : Nat) : List Nat :=
  a :: ((List.range ((a + n - 1) / 65536 - a / 65536)).map (fun i => (a / 65536 + 1 + i) * 65536))

/-- The offset of a static-area byte, when the window-0x2 offset lies in the static area (R126). -/
def Who.staticOff (w : Who) (o : Nat) : Option Nat :=
  if Config.ldsBytes - w.sa ≤ o ∧ o < Config.ldsBytes ∧ w.frameLen ≤ o then some (o - (Config.ldsBytes - w.sa)) else none

/-- A range of window 0x2 touches a keep region (R128). -/
def Who.inKeep (w : Who) (o n : Nat) : Bool :=
  match w.launch, w.staticOff o with
  | some l, some so => l.desc.keeps.any (fun (off, size, _) => decide (size ≠ 0) && decide (so < off + size) && decide (off < so + n))
  | _, _ => false

/-- What kind of access is checked: a store, an AMO, an MSTORE, a load or store whose publish tags are not tested here
(LDW), a counter effect, an access that a unit translates later (R316), a table row of SCATA, whose WINDOW test R335
gives. -/
structure AccKind where
  store : Bool
  amo : Bool
  mstore : Bool
  tags : Bool
  counter : Bool
  late : Bool
  table : Bool
deriving DecidableEq, Repr
def kLoad : AccKind := ⟨false, false, false, true, false, false, false⟩
def kStore : AccKind := ⟨true, false, false, true, false, false, false⟩
def kMstore : AccKind := ⟨true, false, true, true, false, false, false⟩
def kAmo : AccKind := ⟨true, true, false, false, false, false, false⟩
def kCounter : AccKind := ⟨true, false, false, false, true, false, false⟩
def kLdw : AccKind := ⟨false, false, false, false, false, false, false⟩
/-- What a unit reads and writes later: SFILL, whose untagged words are the fill's matter (R319); FETCH; PUT. -/
def kFill : AccKind := ⟨false, false, false, false, false, true, false⟩
def kFetch : AccKind := ⟨false, false, false, true, false, true, false⟩
def kPut : AccKind := ⟨true, false, true, true, false, true, false⟩
/-- What engines write and the checks of their issue translate: SCATA's table rows, and NLBIN's work area. -/
def kTable : AccKind := ⟨true, false, true, false, false, false, true⟩
def kWork : AccKind := ⟨true, false, true, true, false, false, false⟩

/-- The first byte of word `wd` that an access of `n` bytes from `a` covers in a PUB tensor, with the tensor (R71). -/
def Who.pubByte (w : Who) (a n wd : Nat) : Option (Nat × Nat) :=
  let lo := Nat.max wd a
  scanBytes (fun b => (w.tensor b).bind (fun (i, t) => if t.cls = 2 then some i else none)) lo (Nat.min (wd + 8) (a + n) - lo)

/-- The PUBLISH test of a range (R71): a load of an untagged word, a store to a tagged one, of a PUB tensor. -/
def State.publishCheck (s : State) (w : Who) (store : Bool) (a n : Nat) : Option (Nat × Nat) :=
  ((wordsOf a n).findSome? (fun wd =>
    match w.pubByte a n wd with
    | none => none
    | some (b, i) =>
      match s.xl w wd with
      | .error _ => none
      | .ok x =>
        if s.tagged (dieF w.core) (x.pa (dieOf w.core)) = store then some (b, i + (if store then 256 else 0)) else none))

/-- The checks WINDOW to PUBLISH of R120 on a range that its window admits, each with its first failing byte (R161,
R290). An AMO of exact mode traps MODE (R240), on a word that no tensor names too, as the program of R350 has it, and
so before the WINDOW check (log 33). -/
def State.permCheck (s : State) (w : Who) (kd : AccKind) (ea : Word) (n : Nat) : Except TrapInfo Unit :=
  let win := window ea
  let a := ea.toNat
  let glob := win = 0
  let ex := w.exact
  let win? := if glob ∧ ex ∧ !kd.amo ∧ !kd.table then
      (if kd.counter then
         scanBytes (fun b => (w.tensor b).bind (fun (i, t) => if t.cls = 0 then none else some i)) a n
       else scanBytes (w.windowByte kd.store) a n)
    else none
  match win? with
  | some (b, d) => .error ⟨tWINDOW, d, BitVec.ofNat 64 b, 0⟩
  | none =>
    let xs := if glob then (pageStarts a n).map (fun p => (p, s.xl w p)) else []
    let rep := xs.find? (fun (_, x) => match x with
      | .ok x => x.replica
      | .error _ => false)
    let keep := if win = 2 ∧ kd.store ∧ (ex ∨ kd.amo) then
        scanBytes (fun b => if w.inKeep b 1 then some 1 else none) (inWindowOff ea) n
      else none
    if glob ∧ ex ∧ kd.store ∧ !kd.mstore ∧ rep.isSome then
      .error ⟨tREPLICA, 0, BitVec.ofNat 64 ((rep.map (·.1)).getD a), 0⟩
    else if ex ∧ kd.amo then .error ⟨tMODE, 0, ea, 0⟩
    else if keep.isSome then .error ⟨tMODE, 1, BitVec.ofNat 64 (2 * 2 ^ 60 + (keep.map (·.1)).getD 0), 0⟩
    else
      match (if kd.late then none else xs.findSome? (fun (p, x) => match x with
        | .error e => some (p, e)
        | .ok _ => none)) with
      | some (p, e) => .error ⟨tXLATE, if e = .malformed then 1 else 0, BitVec.ofNat 64 p, 0⟩
      | none =>
        if kd.store ∧ win = 1 then .error ⟨tPERM, 1, ea, 0⟩
        else if kd.store ∧ glob ∧ !w.sup ∧ a < w.area + w.areaSize ∧ w.area < a + n then
          .error ⟨tPERM, 2, BitVec.ofNat 64 (Nat.max a w.area), 0⟩
        else
          match (if kd.store then xs.find? (fun (_, x) => match x with
            | .ok x => !x.write
            | .error _ => false) else none) with
          | some (p, _) => .error ⟨tPERM, 0, BitVec.ofNat 64 p, 0⟩
          | none =>
            match (if glob ∧ ex ∧ kd.tags then s.publishCheck w kd.store a n else none) with
            | some (b, d) => .error ⟨tPUBLISH, d, BitVec.ofNat 64 b, 0⟩
            | none => .ok ()

/-- Every check of R120 on an access. -/
def State.access (s : State) (w : Who) (kd : AccKind) (ea : Word) (n al : Nat) : Except TrapInfo Unit := do
  alignCheck ea n al
  w.addrCheck ea n false
  s.permCheck w kd ea n

/-! ### The bytes that an access moves -/

/-- The physical offset of a byte of window 0x2: the frame, or the static area of the task's logical core (R126). -/
def State.ldsPhys (s : State) (w : Who) (o : Nat) : Nat :=
  match w.staticOff o with
  | some so =>
    w.core * 2 ^ 21 + (s.lc ((w.task.map (·.lc)).getD 0)).sbase + so
  | none => w.core * 2 ^ 21 + ((w.task.map (·.frame)).getD 0) + o

/-- The journaled byte over a byte of the static area (R129). -/
def journalAt : List (Nat × List Byte) → Nat → Byte → Byte
  | [], _, b => b
  | (off, l) :: t, o, b => journalAt t o (if off ≤ o ∧ o < off + l.length then nth l (o - off) 0 else b)

/-- One byte as an access of `w` reads it. -/
def State.ldByte (s : State) (w : Who) (ea : Word) : Byte :=
  let o := inWindowOff ea
  match window ea with
  | 0 =>
    match s.xl w ea.toNat with
    | .ok x => Mem.get (s.die (dieF w.core)).view.cells (x.pa (dieOf w.core))
    | .error _ => 0
  | 1 => Mem.get s.ws (dieOf w.core * Config.wsDieBytes + w.wsbase + o)
  | 2 =>
    let b := Mem.get s.lds (s.ldsPhys w o)
    match w.staticOff o with
    | some so => journalAt ((w.task.map (·.journal)).getD []) so b
    | none => b
  | _ => 0

/-- The bytes of a load. -/
def State.ldBytes (s : State) (w : Who) : Word → Nat → List Byte
  | _, 0 => []
  | ea, n + 1 => s.ldByte w ea :: s.ldBytes w (ea + 1) n

def State.ldNat (s : State) (w : Who) (ea : Word) (n : Nat) : Nat := natOfBytes (s.ldBytes w ea n)

/-- The pieces of a store: its bytes word by word (R144). -/
def pieces : Nat → Nat → List Byte → List (Nat × List Byte)
  | 0, _, _ => []
  | _, _, [] => []
  | f + 1, a, b :: t =>
    let n := 8 - a % 8
    (a, (b :: t).take n) :: pieces f (a + n) ((b :: t).drop n)

/-- The tag log after a run of words more (R71): runs that touch or overlap are one. -/
def addRun (log : List (Nat × Nat)) (a n : Nat) : List (Nat × Nat) :=
  let joins := fun (r : Nat × Nat) => decide (r.1 ≤ a + n) && decide (a ≤ r.1 + r.2)
  let lo := (log.filter joins).foldl (fun m r => Nat.min m r.1) a
  let hi := (log.filter joins).foldl (fun m r => Nat.max m (r.1 + r.2)) (a + n)
  log.filter (fun r => !joins r) ++ [(lo, hi - lo)]

/-- A write of `n` bytes from `a` covers a part of a word in a PUB tensor of an exact-mode launch, so that it sets the
word's tag (R71). -/
def Who.pubWord (w : Who) (a n wd : Nat) : Bool := w.exact && (w.pubByte a n wd).isSome

/-- The words whose tags a write of `n` bytes sets, as one run (R71, R333). -/
def Who.pubRun (w : Who) (ea : Word) (n : Nat) : Option (Nat × Nat) :=
  let ws := if window ea = 0 ∧ w.exact then (wordsOf ea.toNat n).filter (w.pubWord ea.toNat n) else []
  match ws.head?, ws.getLast? with
  | some a, some b => some (a, b + 8 - a)
  | _, _ => none

/-- The run of a write enters the task's tag log, which holds 256 runs (R71). -/
def State.logRun (s : State) (w : Who) (ea : Word) (n : Nat) : Except TrapInfo State :=
  match w.pubRun ea n with
  | none => .ok s
  | some (a, m) =>
    let log := addRun (((s.strand w.k).task.map (·.tagLog)).getD []) a m
    if 256 < log.length then .error ⟨tCAPACITY, 3, ea, 0⟩
    else .ok (s.modStrand w.k (fun t => { t with task := t.task.map (fun k => { k with tagLog := log }) }))

/-- The runs of the ranges that a unit writes for the task, in order. -/
def State.logRuns (s : State) (w : Who) : List (Word × Nat) → Except TrapInfo State
  | [] => .ok s
  | (a, n) :: t =>
    match s.logRun w a n with
    | .error e => .error e
    | .ok s => s.logRuns w t

/-- One word's piece of a write to global memory: to the executing or commanding die's copy, or with `all`, by MSTORE
and engines, to all four copies of a replicated word (R141); in exact mode a PUB word's tag is set (R71). A word that
does not translate is left. -/
def State.stGlob (s : State) (w : Who) (all : Bool) (a : Nat) (l : List Byte) : State :=
  match s.xl w a with
  | .error _ => s
  | .ok x =>
    let tag := if w.pubWord a l.length (a / 8 * 8) && !w.quiet then some true else none
    let d := dieF w.core
    if x.replica && all then (List.range 4).foldl (fun s e => s.gwrite d (x.pa e) l tag w.mark w.path) s
    else s.gwrite d (x.pa (dieOf w.core)) l tag w.mark w.path

/-- The bytes of a write to global memory, word by word (R144). -/
def State.stWords (s : State) (w : Who) (all : Bool) (ea : Word) (l : List Byte) : State :=
  (pieces l.length ea.toNat l).foldl (fun s (a, b) => s.stGlob w all a b) s

/-- Bytes of the keep journal in use (R129). -/
def journalUsed (j : List (Nat × List Byte)) : Nat := j.foldl (fun n e => n + roundUp e.2.length 8) 0

/-- The bytes of a store, after its checks: global memory, the keep journal, or local store (R71, R129). DESIGN CHOICE
(log 49): a store that overlaps a keep region only in part enters the journal whole. -/
def State.stBytes (s : State) (w : Who) (all : Bool) (ea : Word) (l : List Byte) : Except TrapInfo State :=
  let o := inWindowOff ea
  if window ea = 0 then (s.logRun w ea l.length).map (fun s => s.stWords w all ea l)
  else if window ea = 2 then
    if !w.exact && w.inKeep o l.length then
      let j := ((s.strand w.k).task.map (·.journal)).getD []
      let need := journalUsed j + roundUp l.length 8
      if 256 < need then .error ⟨tKEEPOVF, need, ea, 0⟩
      else .ok (s.modStrand w.k (fun t => { t with task := t.task.map (fun k =>
        { k with journal := j ++ [((w.staticOff o).getD 0, l)] }) }))
    else .ok { s with lds := Mem.write s.lds (s.ldsPhys w o) l }
  else .ok s

/-! ### Address modes (R123, R124) -/

/-- The effective address, and the base update that follows the access. -/
structure EffAddr where
  ea : Word
  upd : Option Word
  piw : Option (Nat × Nat)
deriving DecidableEq, Repr

/-- R123. In PIW the region (base, length) is checked with the access. -/
def State.effAddr (s : State) (a : SReg) (m : AMode) : EffAddr :=
  let b := s.rS a
  match m with
  | .bo _ i => ⟨b + i.signExtend 64, none, none⟩
  | .bi idx sh => ⟨b + (s.rS idx <<< sh.val), none, none⟩
  | .pi _ i => ⟨b, some (b + i.signExtend 64), none⟩
  | .piw _ w i =>
    let wr := s.st.wr[w]
    let base := bits wr 31 0
    let len := bits wr 63 32
    let off := inWindowOff b
    let n := ((off : Int) - base + sval 24 i.toNat) % (len : Int)
    ⟨b, some (putBits b 0 60 (base + n.toNat)), some (base, len)⟩
  | .pc _ i =>
    let codeva := (s.curLaunch.map (·.codeva)).getD 0
    ⟨BitVec.ofNat 64 codeva + s.st.pc + i.signExtend 64, none, none⟩

/-- The PIW conditions (R100, R124), an ADDR_RANGE in the order of R120. -/
def piwCheck (e : EffAddr) (n : Nat) : Except TrapInfo Unit :=
  match e.piw with
  | none => .ok ()
  | some (base, len) =>
    let off := inWindowOff e.ea
    if window e.ea ≠ 2 ∨ len = 0 ∨ len % 8 ≠ 0 ∨ Config.ldsBytes < base + len ∨ off < base ∨ base + len < off + n then
      .error ⟨tRANGE, n, e.ea, 0⟩
    else .ok ()

/-- The checks of an access through an address mode. -/
def State.accessEa (s : State) (w : Who) (kd : AccKind) (e : EffAddr) (n al : Nat) : Except TrapInfo Unit := do
  alignCheck e.ea n al
  if window (e.ea + BitVec.ofNat 64 (n - 1)) ≠ window e.ea then w.addrCheck e.ea n false
  piwCheck e n
  w.addrCheck e.ea n false
  s.permCheck w kd e.ea n

/-- The base update (R123), which a load into the base register discards (R287). -/
def State.baseUpdate (s : State) (a : SReg) (e : EffAddr) : State :=
  match e.upd with
  | none => s
  | some v => s.wS a v

/-! ### Refresh of the weight store (R134) -/

/-- The end of the refresh window of the line at a window-0x1 offset, when its bank refreshes at a die time. -/
def refreshEnd (off t : Nat) : Option Nat :=
  let b := off / 64 % 64
  let p := t % 64000
  if 1000 * b ≤ p ∧ p < 1000 * b + 1000 then some (t - p + 1000 * b + 1000) else none

/-- The weight-store offsets, from the context's WSBASE, of the 64-byte lines of an access to window 0x1. -/
def Who.lines (w : Who) (ea : Word) (n : Nat) : List Nat :=
  if window ea ≠ 1 ∨ n = 0 then []
  else
    let o := inWindowOff ea
    (List.range ((o + n - 1) / 64 - o / 64 + 1)).map (fun i => w.wsbase + (o / 64 + i) * 64)

/-- The first line from `first` on that lies in a refreshing bank: the end of that window, and the line after it. -/
def nextStall (lines : List Nat) (first now : Nat) : Option (Nat × Nat) :=
  ((List.range lines.length).drop first).findSome? (fun i =>
    (refreshEnd (nth lines i 0) now).map (fun e => (e, i + 1)))

/-- A strand's access to the weight store stalls line by line (R134): at the first line of a refreshing bank the strand
holds the instruction until that window ends; lines already passed are not tested again. -/
def State.stalls (s : State) (lines : List Nat) : Option State :=
  (nextStall lines ((s.st.stall.map (fun (e : Nat × Nat) => e.2)).getD 0) s.now).map (fun (e, i) =>
    (s.mod (fun t => { t with stall := some (e, i) })).post s.cur .refreshStallEnd)

/-- A unit's read of weight-store lines, at a cursor of its own: the cursor while it stalls, none when it may read
(R134). -/
def State.unitStalls (s : State) (lines : List Nat) (cur : Nat × Nat) : Option (Nat × Nat) :=
  if lines.isEmpty then none else if s.now < cur.1 then some cur else nextStall lines cur.2 s.now

/-- A body that first waits for the banks it reads (R134); its reads of the weight store are counted (R28). -/
def State.afterStall (s : State) (lines : List Nat) (f : State → Except TrapInfo State) : Except TrapInfo State :=
  match s.stalls lines with
  | some s' => .ok s'
  | none =>
    if lines.isEmpty then f s
    else f ((s.mod (fun t => { t with stall := none })).countEv (dieF (coreOf s.cur)) 0x20 0 lines.length)

/-! ### Uncorrectable errors (R135) -/

/-- The walk of a page of an access to global memory reads a line with an uncorrectable error. -/
def State.tableHit (s : State) (w : Who) (ea : Word) (n : Nat) : Bool :=
  !s.ecc.isEmpty && window ea == 0 && n != 0 && (pageStarts ea.toNat n).any (s.walkHit w.mmu w.core w.ctx)

/-- A byte of an access to global memory, or its translation, lies in a line with an uncorrectable error. -/
def State.eccHit (s : State) (w : Who) (ea : Word) (n : Nat) : Bool :=
  !s.ecc.isEmpty && window ea == 0 && ((List.range n).any (fun i =>
    match s.xl w (ea.toNat + i) with
    | .ok x => s.badLine (x.pa (dieOf w.core))
    | .error _ => false) || s.tableHit w ea n)

/-- A read: an uncorrectable error ends the launch KILLED, and the reader receives nothing. -/
def State.unlessHit (s : State) (w : Who) (hit : Bool) (f : State) : State := if hit then s.endLaunch w.ctx 1 else f

/-- A body that reads memory, on the same condition. -/
def State.unlessEcc (s : State) (w : Who) (hit : Bool) (r : Except TrapInfo State) : Except TrapInfo State :=
  if hit then .ok (s.endLaunch w.ctx 1) else r

/-! ### TLB misses (R138) and reads at issue -/

/-- The pages of an access that miss are counted, and their walks posted (R28, R138). -/
def State.touch (s : State) (w : Who) (ea : Word) (n : Nat) : State :=
  if window ea ≠ 0 then s
  else
    (pageStarts ea.toNat n).foldl (fun (s : State) p =>
      if (tlbFind (s.core w.core).tlb w.ctx p).isSome then s
      else
        let s := s.count w.core 0x1B
        let s := if (tlbFind (s.die (dieF w.core)).tlb w.ctx p).isSome then s
          else s.countEv (dieF w.core) 0x1E 0 1
        s.post w.core (.tableWalk w.ctx (BitVec.ofNat 64 p))) s

/-- A range that an instruction reads at its issue, when its checks let it be read. -/
def State.readable (s : State) (w : Who) (ea : Word) (n al : Nat) : List (Word × Nat) :=
  match s.access w kLoad ea n al with
  | .ok _ => [(ea, n)]
  | .error _ => []

/-- A body after the reads that its instruction makes at issue: an uncorrectable error in them ends the launch (R135),
a refreshing bank of the weight store holds the strand (R134), and their pages are translated (R138). -/
def State.withReads (s : State) (w : Who) (l : List (Word × Nat)) (f : State → Except TrapInfo State) :
    Except TrapInfo State :=
  match l with
  | [] => f s
  | l =>
    s.unlessEcc w (l.any (fun e => s.eccHit w e.1 e.2))
      (s.afterStall (l.flatMap (fun e => w.lines e.1 e.2)) (fun s =>
        f (l.foldl (fun (s : State) e => s.touch w e.1 e.2) s)))

end Sys2Proof.Machine
end

