-- ==== Sys2Proof/Machine/Flags.lean ====
section
/-! DEFINITION. The flags of FPSR, the FPX test (R183 to R185), and the conditions of R216. -/
namespace Sys2Proof.Machine

/-- Flags in FPSR's positions (R183). -/
abbrev FFlags := BitVec 5
def fNV : FFlags := 16
def fDZ : FFlags := 8
def fOF : FFlags := 4
def fUF : FFlags := 2
def fNX : FFlags := 1

/-- A flag when a condition holds. -/
def flagIf (b : Bool) (f : FFlags) : FFlags := if b then f else 0

/-- The trap enables TE of FPCR (R105). -/
def Strand.te (t : Strand) : FFlags := t.fpcr.extractLsb' 8 5

/-- Flags ORed into FPSR (R184). -/
def State.orFlags (s : State) (f : FFlags) : State := s.mod (fun t => { t with fpsr := t.fpsr ||| f.setWidth 64 })

/-- The end of an instruction that raised flags: FPX before any destination is written when one of them is enabled,
else the flags are ORed and the result is written (R184, R185). -/
def State.withFlags (s : State) (f : FFlags) (write : State → State) : Except TrapInfo State :=
  let en := f &&& s.st.te
  if en ≠ 0 then .error ⟨tFPX, en.toNat, 0, f⟩ else .ok (write (s.orFlags f))

/-- The mode in force: DYN reads FPCR.RM (R181). -/
def State.rm (s : State) (m : Rm) : Rm :=
  match m with
  | .dyn => (Rm.ofCode (s.st.fpcr.extractLsb' 0 3)).getD .rne
  | m => m

/-- An integer condition on two values of `w` bits (R216): `signed` compares as two's complement for LT to GE. -/
def icond (c : ICond) (a b : Word) : Bool :=
  match c with
  | .eq => a == b
  | .ne => a != b
  | .lt => a.slt b
  | .le => a.sle b
  | .gt => b.slt a
  | .ge => b.sle a
  | .ltu => a.ult b
  | .leu => a.ule b
  | .gtu => b.ult a
  | .geu => b.ule a
  | .tst => a &&& b != 0
  | .ntst => a &&& b == 0

end Sys2Proof.Machine
end

