-- ==== Sys2Proof/Machine/Float.lean ====
section
/-! DEFINITION. IEEE arithmetic (R179 to R182, R186, R197): exact values, one rounding to the destination format, and the
flags of R180. Every operation is a function of bit patterns. -/
namespace Sys2Proof.Machine

/-! ### Formats and values (R179) -/

/-- Exponent bits of an IEEE format. -/
def expBits : Fmt → Nat
  | .f64 => 11
  | .f16 => 5
  | _ => 8
/-- Fraction bits of an IEEE format. -/
def fracBits : Fmt → Nat
  | .f64 => 52
  | .f32 => 23
  | .f16 => 10
  | _ => 7
def precOf (t : Fmt) : Nat := fracBits t + 1
def biasOf (t : Fmt) : Int := 2 ^ (expBits t - 1) - 1
/-- The exponent of the unit in the last place of subnormals. -/
def qMin (t : Fmt) : Int := 2 - biasOf t - precOf t
/-- Bits of an IEEE format. -/
def ieeeBits (t : Fmt) : Nat := 1 + expBits t + fracBits t

def infBits (t : Fmt) (neg : Bool) : Nat :=
  (2 ^ expBits t - 1) * 2 ^ fracBits t + (if neg then 2 ^ (expBits t + fracBits t) else 0)
/-- The canonical NaN (R179). -/
def nanBits (t : Fmt) : Nat := (2 ^ expBits t - 1) * 2 ^ fracBits t + 2 ^ (fracBits t - 1)
def maxBits (t : Fmt) (neg : Bool) : Nat := infBits t neg - 1
def zeroBits (t : Fmt) (neg : Bool) : Nat := if neg then 2 ^ (expBits t + fracBits t) else 0

/-- A value: NaN (signalling or not), an infinity, or (−1)^neg × m × 2^e. -/
inductive FVal where
  | nan (sig : Bool)
  | inf (neg : Bool)
  | fin (neg : Bool) (m : Nat) (e : Int)
deriving DecidableEq, Repr

/-- The value of a bit pattern (R179). -/
def fval (t : Fmt) (b : Nat) : FVal :=
  let f := b % 2 ^ fracBits t
  let x := b / 2 ^ fracBits t % 2 ^ expBits t
  let neg := b / 2 ^ (fracBits t + expBits t) % 2 == 1
  if x = 2 ^ expBits t - 1 then
    if f = 0 then .inf neg else .nan (f / 2 ^ (fracBits t - 1) == 0)
  else if x = 0 then .fin neg f (qMin t)
  else .fin neg (f + 2 ^ fracBits t) (qMin t + (x - 1 : Nat))

def FVal.isNan : FVal → Bool
  | .nan _ => true
  | _ => false
def FVal.isSig : FVal → Bool
  | .nan s => s
  | _ => false
def FVal.isZero : FVal → Bool
  | .fin _ 0 _ => true
  | _ => false
def FVal.neg : FVal → Bool
  | .nan _ => false
  | .inf n => n
  | .fin n _ _ => n

/-- NV of signalling operands (R180). -/
def sigFlag (l : List FVal) : FFlags := flagIf (l.any FVal.isSig) fNV

/-! ### Rounding (R181) -/

/-- Is a magnitude rounded up? `low` is its last kept bit, `rem` what is dropped, out of `unit`. -/
def roundsUp (m : Rm) (neg low : Bool) (rem unit : Nat) : Bool :=
  match m with
  | .rne | .dyn => decide (unit < 2 * rem) || (2 * rem == unit && low)
  | .rtz => false
  | .rdn => neg && decide (0 < rem)
  | .rup => !neg && decide (0 < rem)
  | .rna => decide (unit ≤ 2 * rem)

/-- The magnitude m × 2^e rounded to a multiple of 2^q: the multiple, and whether it is inexact. -/
def roundAt (m : Rm) (neg : Bool) (mag : Nat) (e q : Int) : Nat × Bool :=
  if q ≤ e then (mag * 2 ^ (e - q).toNat, false)
  else
    let unit := 2 ^ (q - e).toNat
    let n := mag / unit
    let rem := mag % unit
    (if roundsUp m neg (n % 2 == 1) rem unit then n + 1 else n, rem != 0)

/-- A sticky remainder below the last bit: a bit more, which stands for it in every later rounding to fewer bits. -/
def sticky (mag : Nat) (e : Int) (s : Bool) : Nat × Int := if s then (2 * mag + 1, e - 1) else (mag, e)

/-- round((−1)^neg × mag × 2^e, t, m) with its flags (R180 to R182): overflow on the magnitude rounded with unbounded
exponent, tininess after rounding with unbounded exponent. A zero keeps its sign. -/
def roundF (t : Fmt) (m : Rm) (neg : Bool) (mag : Nat) (e : Int) : Nat × FFlags :=
  if mag = 0 then (zeroBits t neg, 0)
  else
    let p := precOf t
    let top : Int := e + Nat.log2 mag
    let qu := top + 1 - p
    let (nu, ixu) := roundAt m neg mag e qu
    let maxE : Int := biasOf t
    let huge := decide (maxE < qu) || decide (2 ^ (maxE + 1 - qu).toNat ≤ nu)
    if huge then
      let toInf := match m with
        | .rne | .rna | .dyn => true
        | .rtz => false
        | .rdn => neg
        | .rup => !neg
      (if toInf then infBits t neg else maxBits t neg, fOF ||| fNX)
    else
      let q := max qu (qMin t)
      let (n, ix) := if q = qu then (nu, ixu) else roundAt m neg mag e q
      let tiny := decide (qu < qMin t) && decide (nu < 2 ^ (p - 1) * 2 ^ (qMin t - qu).toNat)
      ((q - qMin t).toNat * 2 ^ fracBits t + n + zeroBits t neg,
       flagIf (tiny && ix) fUF ||| flagIf ix fNX)

/-- (−1)^neg × mag × 2^e rounded to an integer: its magnitude, and whether it is inexact. -/
def roundInt (m : Rm) (neg : Bool) (mag : Nat) (e : Int) : Nat × Bool := roundAt m neg mag e 0

/-- A NaN result: canonical, with NV when asked. -/
def nanR (t : Fmt) (nv : Bool) : Nat × FFlags := (nanBits t, flagIf nv fNV)

/-! ### Add, multiply, divide, square root (R180, R282) -/

/-- Sum of two finite values, exact: sign and magnitude at the lesser exponent; the sign of an exact zero by R182. -/
def sumFin (m : Rm) (n1 : Bool) (m1 : Nat) (e1 : Int) (n2 : Bool) (m2 : Nat) (e2 : Int) : Bool × Nat × Int :=
  let e := min e1 e2
  let a : Int := (m1 * 2 ^ (e1 - e).toNat : Nat)
  let b : Int := (m2 * 2 ^ (e2 - e).toNat : Nat)
  let v := (if n1 then -a else a) + (if n2 then -b else b)
  if v = 0 then
    (if a = 0 ∧ b = 0 ∧ n1 = n2 then n1 else m == .rdn, 0, e)
  else (decide (v < 0), v.natAbs, e)

/-- Addition (R180, R182). -/
def fadd (t : Fmt) (m : Rm) (x y : FVal) : Nat × FFlags :=
  match x, y with
  | .nan a, .nan b => nanR t (a || b)
  | .nan a, _ => nanR t a
  | _, .nan b => nanR t b
  | .inf a, .inf b => if a = b then (infBits t a, 0) else nanR t true
  | .inf a, _ => (infBits t a, 0)
  | _, .inf b => (infBits t b, 0)
  | .fin n1 m1 e1, .fin n2 m2 e2 =>
    let (n, mag, e) := sumFin m n1 m1 e1 n2 m2 e2
    roundF t m n mag e

/-- The value with its sign inverted. -/
def FVal.flip : FVal → FVal
  | .nan s => .nan s
  | .inf n => .inf (!n)
  | .fin n m e => .fin (!n) m e

/-- Multiplication (R180). -/
def fmul (t : Fmt) (m : Rm) (x y : FVal) : Nat × FFlags :=
  match x, y with
  | .nan a, .nan b => nanR t (a || b)
  | .nan a, _ => nanR t a
  | _, .nan b => nanR t b
  | .inf a, .inf b => (infBits t (xor a b), 0)
  | .inf a, .fin b m2 _ => if m2 = 0 then nanR t true else (infBits t (xor a b), 0)
  | .fin a m1 _, .inf b => if m1 = 0 then nanR t true else (infBits t (xor a b), 0)
  | .fin a m1 e1, .fin b m2 e2 => roundF t m (xor a b) (m1 * m2) (e1 + e2)

/-- x × y + z with one rounding; 0 × ∞ raises NV even with a quiet NaN addend (R180, R282). -/
def ffma (t : Fmt) (m : Rm) (x y z : FVal) : Nat × FFlags :=
  let bad := match x, y with
    | .inf _, .fin _ 0 _ => true
    | .fin _ 0 _, .inf _ => true
    | _, _ => false
  if bad then nanR t true
  else if x.isNan || y.isNan || z.isNan then nanR t (x.isSig || y.isSig || z.isSig)
  else
    match x, y, z with
    | .fin a m1 e1, .fin b m2 e2, .fin c m3 e3 =>
      let (n, mag, e) := sumFin m (xor a b) (m1 * m2) (e1 + e2) c m3 e3
      roundF t m n mag e
    | .fin _ _ _, .fin _ _ _, .inf c => (infBits t c, 0)
    | x, y, .inf c => if xor x.neg y.neg = c then (infBits t c, 0) else nanR t true
    | x, y, _ => (infBits t (xor x.neg y.neg), 0)

/-- A quotient of magnitudes with enough bits and a sticky remainder. -/
def quotient (m1 m2 : Nat) (e : Int) : Nat × Int :=
  let k := 140 + Nat.log2 (m2 + 1)
  let num := m1 * 2 ^ k
  sticky (num / m2) (e - k) (num % m2 != 0)

/-- Division (R180). -/
def fdiv (t : Fmt) (m : Rm) (x y : FVal) : Nat × FFlags :=
  match x, y with
  | .nan a, .nan b => nanR t (a || b)
  | .nan a, _ => nanR t a
  | _, .nan b => nanR t b
  | .inf _, .inf _ => nanR t true
  | .inf a, .fin b _ _ => (infBits t (xor a b), 0)
  | .fin a _ _, .inf b => (zeroBits t (xor a b), 0)
  | .fin a m1 e1, .fin b m2 e2 =>
    if m2 = 0 then (if m1 = 0 then nanR t true else (infBits t (xor a b), fDZ))
    else if m1 = 0 then (zeroBits t (xor a b), 0)
    else
      let (q, e) := quotient m1 m2 (e1 - e2)
      roundF t m (xor a b) q e

/-- The integer square root, by Newton steps from above. -/
def isqrtLoop : Nat → Nat → Nat → Nat
  | 0, _, x => x
  | f + 1, n, x =>
    let y := (x + n / x) / 2
    if y < x then isqrtLoop f n y else x
def isqrt (n : Nat) : Nat := if n = 0 then 0 else isqrtLoop (Nat.log2 n + 8) n (2 ^ (Nat.log2 n / 2 + 1))

/-- The square root of a magnitude with enough bits and a sticky remainder. -/
def rootOf (mag : Nat) (e : Int) : Nat × Int :=
  let k : Nat := 280 + (if (e - 280) % 2 = 0 then 0 else 1)
  let n := mag * 2 ^ k
  let r := isqrt n
  sticky r ((e - k) / 2) (r * r != n)

/-- Square root (R180, R282). -/
def fsqrt (t : Fmt) (m : Rm) (x : FVal) : Nat × FFlags :=
  match x with
  | .nan a => nanR t a
  | .inf n => if n then nanR t true else (infBits t false, 0)
  | .fin n mag e =>
    if mag = 0 then (zeroBits t n, 0)
    else if n then nanR t true
    else
      let (r, q) := rootOf mag e
      roundF t m false r q

/-! ### Comparison, minimum, maximum, class, sign (R216, R283, R284) -/

/-- The order of two values that are not NaN; −0 equals +0. -/
def fcmpVal (x y : FVal) : Ordering :=
  match x, y with
  | .inf a, .inf b => if a = b then .eq else if a then .lt else .gt
  | .inf a, _ => if a then .lt else .gt
  | _, .inf b => if b then .gt else .lt
  | .fin n1 m1 e1, .fin n2 m2 e2 =>
    let e := min e1 e2
    let a : Int := (m1 * 2 ^ (e1 - e).toNat : Nat)
    let b : Int := (m2 * 2 ^ (e2 - e).toNat : Nat)
    compare (if n1 then -a else a) (if n2 then -b else b)
  | _, _ => .eq

/-- A condition with its NV rule (R216). -/
def fcond (c : FCond) (x y : FVal) : Bool × FFlags :=
  let un := x.isNan || y.isNan
  let sig := flagIf (x.isSig || y.isSig) fNV
  let o := fcmpVal x y
  match c with
  | .eq => (!un && o == .eq, sig)
  | .ne => (un || o != .eq, sig)
  | .lt => (!un && o == .lt, flagIf un fNV)
  | .le => (!un && o != .gt, flagIf un fNV)
  | .gt => (!un && o == .gt, flagIf un fNV)
  | .ge => (!un && o != .lt, flagIf un fNV)
  | .un => (un, sig)
  | .or => (!un, sig)

/-- Minimum or maximum of two bit patterns (R283). -/
def fminmax (t : Fmt) (mx : Bool) (a b : Nat) : Nat × FFlags :=
  let x := fval t a
  let y := fval t b
  let fl := sigFlag [x, y]
  if x.isNan && y.isNan then (nanBits t, fl)
  else if x.isNan then (b, fl)
  else if y.isNan then (a, fl)
  else
    let aLess := match fcmpVal x y with
      | .lt => true
      | .gt => false
      | .eq => x.neg
    (if xor mx aLess then a else b, fl)

/-- The class bit (R284). -/
def fclass (t : Fmt) (b : Nat) : Nat :=
  match fval t b with
  | .nan sig => if sig then 256 else 512
  | .inf n => if n then 1 else 128
  | .fin n m _ =>
    if m = 0 then (if n then 8 else 16)
    else if m < 2 ^ fracBits t then (if n then 4 else 32)
    else (if n then 2 else 64)

/-- The sign bit cleared, inverted, or taken from another pattern (R284). -/
def fsgn (t : Fmt) (op : SgnOp) (a b : Nat) : Nat :=
  let w := expBits t + fracBits t
  let mag := a % 2 ^ w
  match op with
  | .abs => mag
  | .neg => mag + (1 - a / 2 ^ w % 2) * 2 ^ w
  | .copy _ => mag + b / 2 ^ w % 2 * 2 ^ w

/-! ### Conversions (R186) -/

/-- Bits of an integer format. -/
def intBits : Fmt → Nat
  | .si8 | .ui8 => 8
  | .si16 | .ui16 => 16
  | .si32 | .ui32 => 32
  | _ => 64
def intLo (t : Fmt) : Int := if t.isSigned then -(2 ^ (intBits t - 1)) else 0
def intHi (t : Fmt) : Int := if t.isSigned then 2 ^ (intBits t - 1) - 1 else 2 ^ intBits t - 1

/-- The integer that a pattern of an integer format stands for. -/
def intVal (t : Fmt) (b : Nat) : Int := if t.isSigned then sval (intBits t) b else ((b % 2 ^ intBits t : Nat) : Int)
/-- The pattern of an integer. -/
def intPat (t : Fmt) (v : Int) : Nat := (v % (2 ^ intBits t : Int)).toNat
/-- The nearest bound of the range. -/
def satInt (t : Fmt) (v : Int) : Int := max (intLo t) (min (intHi t) v)

/-- An exact value to an IEEE format. -/
def toIeee (t : Fmt) (m : Rm) (x : FVal) : Nat × FFlags :=
  match x with
  | .nan a => nanR t a
  | .inf n => (infBits t n, 0)
  | .fin n mag e => roundF t m n mag e

/-- IEEE to integer (R186): the value rounded, saturated with NV. -/
def toInt (t : Fmt) (m : Rm) (x : FVal) : Int × FFlags :=
  match x with
  | .nan _ => (0, fNV)
  | .inf n => (if n then intLo t else intHi t, fNV)
  | .fin n mag e =>
    let (r, ix) := roundInt m n mag e
    let v : Int := if n then -(r : Int) else r
    if v < intLo t ∨ intHi t < v then (satInt t v, fNV) else (v, flagIf ix fNX)

/-- Integer to IEEE (R186). -/
def ofInt (t : Fmt) (m : Rm) (v : Int) : Nat × FFlags := roundF t m (decide (v < 0)) v.natAbs 0

/-- Any pair of IEEE and integer formats (R285). -/
def convert (dst src : Fmt) (m : Rm) (b : Nat) : Nat × FFlags :=
  if src.isIeee then
    if dst.isIeee then toIeee dst m (fval src b)
    else
      let (v, f) := toInt dst m (fval src b)
      (intPat dst v, f)
  else if dst.isIeee then ofInt dst m (intVal src b)
  else (intPat dst (satInt dst (intVal src b)), 0)

/-! ### canon_add with presence (R59, R197) -/

/-- canon_add on optional patterns of the accumulator format. -/
def canonAdd (t : Fmt) (m : Rm) (l r : Option Nat) : Option Nat × FFlags :=
  match l, r with
  | none, none => (none, 0)
  | some a, none => (some a, 0)
  | none, some b => (some b, 0)
  | some a, some b =>
    let (v, f) := fadd t m (fval t a) (fval t b)
    (some v, f)

/-! ### Scalar operands (R265) -/

/-- The operand of a scalar instruction: the low bits of the register. -/
def operandBits (t : Fmt) (v : Word) : Nat := v.toNat % 2 ^ (8 * fmtSize t)

/-- The result of a scalar instruction, extended as its format says. -/
def resultWord (t : Fmt) (b : Nat) : Word :=
  if t.isSigned then sext64 (intBits t) b else BitVec.ofNat 64 (b % 2 ^ (8 * fmtSize t))

end Sys2Proof.Machine
end

