-- ==== Sys2Proof/Machine/Control.lean ====
section
/-! DEFINITION. Control registers (R100 to R106, R270) and what their writes do (R14, R18, R27, R93, R105, R169, R176). -/
namespace Sys2Proof.Machine

/-! ### Capacities (R64, R317) -/

/-- FREE slots of a core. -/
def State.freeSlots (s : State) (core : Nat) : Nat := (s.core core).slots.toList.countP (fun (x : Slot) => x.st == 0)
/-- The size T of the stack region for a ceiling CTXCAPTREE (R317). -/
def treeUnits (captree : Nat) : Nat := Nat.max 1 (Nat.min 32 captree)
/-- Stack units that no accepted, unended macro-op of the context on the row has reserved (R317). -/
def State.liveTree (s : State) (core ctx : Nat) : Nat :=
  treeUnits (s.regs core ctx).captree.toNat
    - ((s.ops.filter (fun o => o.ctx == ctx && rowOf o.core == rowOf core)).foldl (fun n o => n + o.spare.length) 0)
/-- The three capacities as the control registers read them: live values under the context's ceilings (R64). -/
def State.capls (s : State) (core ctx : Nat) : Nat := Nat.min (s.liveCapls core) (s.regs core ctx).capls.toNat
def State.capslot (s : State) (core ctx : Nat) : Nat := Nat.min (s.freeSlots core) (s.regs core ctx).capslot.toNat
def State.captree (s : State) (core ctx : Nat) : Nat := s.liveTree core ctx

/-! ### Reading (R104) -/

/-- TLEG (R77). -/
def Task.tleg (t : Task) : Nat := if t.legs.isEmpty then 0 else 256 + t.leg
/-- Accepted macro-ops of a strand that have not ended; a stopped one is not among them (R117, R359; log 33). -/
def State.pendOps (s : State) (k : Nat) : Nat := s.ops.countP (fun o => o.of k && o.stop.isNone)
/-- MXSTAT with its PEND field (R117). -/
def State.mxstat (s : State) (k : Nat) : Word := putBits (s.strand k).mxstat 8 8 (s.pendOps k)
/-- TID (R104). -/
def State.tid (s : State) (k : Nat) : Nat :=
  let ctx := ((s.strand k).task.map (·.ctx)).getD 0
  ((s.strand k).ntasks.get ctx 0 - 1) * 4096 + k % 4096

/-- A control register of strand `k`. The X-die has no event counters: a management core, which R27 gives none of its
own, reads and writes those of die 0 (DESIGN CHOICE, log 10). -/
def State.crRead (s : State) (k n : Nat) : Word :=
  let t := s.strand k
  let core := coreOf k
  let tk := t.task
  let ctx := (tk.map (·.ctx)).getD 0
  let c := s.ctx? ctx
  let l := c.bind (·.launch)
  let r := s.regs core ctx
  let d := s.die (dieF core)
  let nat := fun (x : Nat) => (BitVec.ofNat 64 x : Word)
  if n = 0x000 then t.vshape
  else if n = 0x001 then t.fpcr
  else if n = 0x002 then t.fpsr
  else if n = 0x010 then (tk.map (fun x => boxKey x.tr.box)).getD 0
  else if n = 0x011 then nat (s.tid k)
  else if n = 0x012 then nat ((tk.map (fun x => if x.legs.isEmpty then x.tr.role.toNat else x.leg)).getD 0)
  else if n = 0x013 then nat ((tk.map (·.tleg)).getD 0)
  else if n = 0x014 then nat ((tk.map (fun x => x.tr.launch.toNat)).getD 0)
  else if n = 0x015 then nat ctx
  else if n = 0x016 then nat ((tk.map (fun x => (l.map (fun y => y.chipno * 1024)).getD 0 + lcLocal x.lc)).getD 0)
  else if n = 0x017 then nat ((l.map (·.nlcore)).getD 0)
  else if n = 0x018 then nat ((l.map (fun y => b2n y.arrival)).getD 0)
  else if n = 0x020 then s.time.dtime
  else if n = 0x021 then s.time.tick
  else if n = 0x022 then nat d.cycle
  else if n = 0x028 then t.dlmax
  else if n = 0x029 then t.dlesc
  else if n = 0x02A then t.dlcount
  else if n = 0x02B then t.budget
  else if n = 0x030 then nat (s.capls core ctx)
  else if n = 0x031 then nat (s.capslot core ctx)
  else if n = 0x032 then nat (s.captree core ctx)
  else if n = 0x038 then (l.map (·.rseed)).getD 0
  else if n = 0x039 then t.rdraw
  else if n = 0x040 then (c.map (·.traprec)).getD 0
  else if n = 0x041 then (c.map (·.trapcode)).getD 0
  else if n = 0x050 then s.mxstat k
  else if n = 0x051 then t.mxstep
  else if n / 16 = 0x06 then (t.wr.toList)[n % 16]?.getD 0
  else if n = 0x800 then r.ttbase
  else if n = 0x801 then r.ctxcfg
  else if n = 0x802 then r.agemax
  else if n = 0x803 then r.remapbase
  else if n = 0x804 then r.capls
  else if n = 0x805 then r.capslot
  else if n = 0x806 then r.captree
  else if n = 0x807 then r.grace
  else if n = 0x820 then s.time.tstart
  else if n = 0x821 then s.time.tickp
  else if n = 0x822 then s.time.xetype
  else if n = 0x823 then s.power.plimit
  else if n = 0x824 then s.power.droopth
  else if n / 4 = 0x210 then (t.bp.toList)[n % 4]?.getD 0
  else if n = 0x880 then s.boot.ready0
  else if n = 0x881 then s.boot.ready1
  else if n / 16 = 0x90 then (d.evsel.toList)[n % 16]?.getD 0
  else if n / 16 = 0x91 then (d.evcnt.toList)[n % 16]?.getD 0
  else if 0xA00 ≤ n ∧ n < 0xA20 then ((s.hrec.get core (Vector.replicate 32 0)).toList)[n - 0xA00]?.getD 0
  else 0

/-! ### Writing -/

/-- A write of FPCR (R105): RM keeps its value when the written one is 101, 110 or 111. -/
def fpcrNew (old v : Word) : Word :=
  let rm := if bits v 2 0 ≤ 4 then bits v 2 0 else bits old 2 0
  BitVec.ofNat 64 (bits v 12 8 * 256 + rm)
/-- AGEMAX within its range (R93). -/
def agemaxNew (v : Word) : Word := BitVec.ofNat 64 (Nat.max 16 (Nat.min 65535 v.toNat))
/-- TICKP: a multiple of 256 from 512 to 65,536, else the old value (R14). -/
def tickpNew (old v : Word) : Word :=
  if v.toNat % 256 = 0 ∧ 512 ≤ v.toNat ∧ v.toNat ≤ 65536 then v else old
/-- PLIMIT, clamped (R18). -/
def plimitNew (v : Word) : Word := BitVec.ofNat 64 (Nat.min 2400 v.toNat)
/-- The writable bits of EVSEL (R27). -/
def evselNew (v : Word) : Word := v &&& 0xC01F00FF
/-- EVCNT: COUNT written, OVF cleared by 1 (R27). -/
def evcntNew (old v : Word) : Word :=
  putBits (BitVec.ofNat 64 (bits v 47 0)) 63 1 (if bits v 63 63 = 1 then 0 else bits old 63 63)

/-- The ticks of each port, forgotten with the old TSTART. -/
def Time.renumber (t : Time) : Time :=
  let zero : Vector Nat 8 := Vector.replicate 8 0
  { t with group := 0, ended := zero, part := zero, sent := zero }

/-- TSTART written (R14, R16; log 12). One that lies in the future restarts the generator: TICK reads 0 until then,
and a hold of delivery ends. A past one leaves a held generator as it is; a running one reads at once the tick that
R14 gives. -/
def State.writeTstart (s : State) (v : Word) : State :=
  let t := { s.time with tstart := v }
  let t :=
    if t.ptp < v.toNat then { t.renumber with tick := 0, hold := false, stepAt := none, started := false }
    else if t.hold then t
    else { t.renumber with tick := BitVec.ofNat 64 ((t.ptp - v.toNat) / t.tickp.toNat), started := true }
  let due := s.agenda.any (fun (e : Nat × Instr) => e.2 == .tickBoundary)
  let u : State := { s with time := t }
  if t.hold || due then u else u.post 0 .tickBoundary

/-- A halt released (R274, R176): the strand goes on where it stopped, and its halted cycles do not count against
BUDGET; the router takes writes again once every strand of the core that HALT.Q stopped has been released. -/
def State.releaseHalt (s : State) (v : Word) : State :=
  let k := bits v 11 0
  let t := s.strand k
  if bits v 63 12 = 0 ∧ t.halted then
    let c := s.cyc (coreOf k)
    let s := s.modStrand k (fun t =>
      { t with halted := false, haltReq := false, haltQ := false, readyAt := c
               task := t.task.map (fun x => { x with blocked := x.blocked + (c - t.haltAt) }) })
    let s := if t.task.isNone then s.post k .strandDispatch else s
    let left := (List.range 4).any (fun i => (s.strand (4 * coreOf k + i)).haltQ)
    s.modCore (coreOf k) (fun x => { x with refuse := x.refuse && left })
  else s

/-- One element of a vector of registers written. -/
def setAt {n : Nat} (v : Vector Word n) (i : Nat) (x : Word) : Vector Word n := v.setIfInBounds i x

/-- A control register of strand `k` written, bit by bit as the map allows (R5, R104); `sup` is the writer's mode.
DESIGN CHOICE (log 49): XETYPE, of which no width is stated, is the 16 bits of an EtherType; its other bits are
reserved. -/
def State.crWrite (s : State) (k n : Nat) (sup : Bool) (v : Word) : State :=
  let core := coreOf k
  let ctx := ((s.strand k).task.map (·.ctx)).getD 0
  let d := dieF core
  if n = 0x000 then s.modStrand k (fun t => { t with vshape := v &&& 0xFFFF })
  else if n = 0x001 then s.modStrand k (fun t => { t with fpcr := fpcrNew t.fpcr v })
  else if n = 0x002 then s.modStrand k (fun t => { t with fpsr := v &&& 0x1F })
  else if n / 16 = 0x06 then s.modStrand k (fun t => { t with wr := setAt t.wr (n % 16) v })
  else if !sup then s
  else if n = 0x028 then s.modStrand k (fun t => { t with dlmax := v })
  else if n = 0x029 then s.modStrand k (fun t => { t with dlesc := v })
  else if n = 0x02A then s.modStrand k (fun t => { t with dlcount := v })
  else if n = 0x02B then s.modStrand k (fun t => { t with budget := v })
  else if n = 0x800 then s.modRegs core ctx (fun r => { r with ttbase := BitVec.ofNat 64 (bits v 47 9 * 512) })
  else if n = 0x801 then s.modRegs core ctx (fun r => { r with ctxcfg := v &&& 0xC3 })
  else if n = 0x802 then s.modRegs core ctx (fun r => { r with agemax := agemaxNew v })
  else if n = 0x803 then s.modRegs core ctx (fun r => { r with remapbase := v })
  else if n = 0x804 then s.modRegs core ctx (fun r => { r with capls := v })
  else if n = 0x805 then s.modRegs core ctx (fun r => { r with capslot := v })
  else if n = 0x806 then s.modRegs core ctx (fun r => { r with captree := v })
  else if n = 0x807 then s.modRegs core ctx (fun r => { r with grace := v })
  else if n = 0x820 then s.writeTstart v
  else if n = 0x821 then { s with time := { s.time with tickp := tickpNew s.time.tickp v } }
  else if n = 0x822 then { s with time := { s.time with xetype := v &&& 0xFFFF } }
  else if n = 0x823 then { s with power := { s.power with plimit := plimitNew v } }
  else if n = 0x824 then { s with power := { s.power with droopth := v } }
  else if n / 4 = 0x210 then s.modStrand k (fun t => { t with bp := setAt t.bp (n % 4) (v &&& 0x80000000FFFFFFF8) })
  else if n / 16 = 0x90 then s.modDie d (fun x => { x with evsel := setAt x.evsel (n % 16) (evselNew v) })
  else if n / 16 = 0x91 then s.modDie d (fun x =>
    { x with evcnt := setAt x.evcnt (n % 16) (evcntNew ((x.evcnt.toList)[n % 16]?.getD 0) v) })
  else if n = 0xA20 then s.releaseHalt v
  else s

end Sys2Proof.Machine
end

