-- ==== Sys2Proof/Machine/Issue.lean ====
section
/-! DEFINITION. What a step runs: the device's next posted event, or the next instruction of a strand by R93, with what
is tested at an instruction boundary (R95, R169, R176, R177), the fetch (R98, R218) and the word checks (R219). The
interleaving of the chip's agents is the state's own list of turns (log 11). -/
namespace Sys2Proof.Machine

/-- What the step will do: run an instruction or event on a prepared state, or nothing more than this. -/
inductive Plan where
  | run (i : Instr) (s : State)
  | done (s : State)

/-! ### Fetch (R98, R218) -/

/-- The instruction-cache line size (R98). -/
def lineBytes : Nat := 64

/-- The 64 bytes of a code line: those of memory, or, when the core's instruction cache holds other bytes, one of the
two as a free value says (R98). A line that is read fills the cache, which holds 512 lines, and is translated as a
load is (R218). -/
def State.codeLine (s : State) (w : Who) (line : Nat) : List Byte × State :=
  let now := s.ldBytes w (BitVec.ofNat 64 line) lineBytes
  match (s.core w.core).icache.find? (fun (e : Nat × Nat × List Byte) => e.1 == w.ctx && e.2.1 == line) with
  | none => (now, (s.touch w (BitVec.ofNat 64 line) lineBytes).modCore w.core (fun c =>
      { c with icache := ((w.ctx, line, now) :: c.icache).take 512 }))
  | some (_, _, old) =>
    if old = now then (now, s)
    else
      let (n, s) := s.fresh
      if (Config.freeWord n).getLsbD 0 then (old, s)
      else (now, s.modCore w.core (fun c =>
        { c with icache := c.icache.map (fun (e : Nat × Nat × List Byte) =>
                   if e.1 = w.ctx ∧ e.2.1 = line then (w.ctx, line, now) else e) }))

/-- The checks of a fetch, those of an 8-byte load (R218): XLATE as such, every other failure as ADDR_RANGE. -/
def State.fetchCheck (s : State) (w : Who) (ea : Word) : Except TrapInfo Unit :=
  match s.access w kLoad ea 8 8 with
  | .ok _ => .ok ()
  | .error t => if t.code = tXLATE then .error ⟨tXLATE, t.detail, ea, 0⟩ else .error ⟨tRANGE, 8, t.ea, 0⟩

/-- The address of the code byte at a PC (R200). -/
def Who.code (w : Who) (pc : Word) : Word := BitVec.ofNat 64 ((w.launch.map (·.codeva)).getD 0) + pc

/-- One instruction word at a PC, which lies below 2^32 (R268). -/
def State.fetchWord (s : State) (pc : Word) : Except TrapInfo (Word × State) :=
  let w := s.who
  let ea := w.code pc
  match (if 2 ^ 32 ≤ pc.toNat then .error ⟨tRANGE, 8, ea, 0⟩ else s.fetchCheck w ea) with
  | .error t => .error t
  | .ok _ =>
    let (l, s) := s.codeLine w (ea.toNat / lineBytes * lineBytes)
    .ok (wordOfBytes ((l.drop (ea.toNat % lineBytes)).take 8), s)

/-- MOVX alone has a second word (R200). -/
def hasSecond (w : Word) : Bool := (wOp w).toNat == 0xF0

/-! ### The choice of a strand (R93) -/

/-- The role that a task runs with: a relay leg's number, else its record's ROLE (R76, R94). -/
def Task.role (t : Task) : Nat := if t.legs.isEmpty then t.tr.role.toNat else t.leg

/-- A refresh window holds the strand (R134). -/
def Strand.stalled (t : Strand) : Bool :=
  match t.stall with
  | none => false
  | some (e, _) => e != 0

/-- A strand that no blocking instruction, stall or halt holds, on a powered die (R20, R93); a leg that is to stop
comes to its boundary so (R94). -/
def State.ready (s : State) (k : Nat) : Bool :=
  let t := s.strand k
  (t.phase == .running || t.phase == .stopping) && t.wait.isNone && !t.stalled && !t.halted
    && (isMgmt (coreOf k) || (s.die (dieF (coreOf k))).power)

/-- AGEMAX in force for a strand's context (R93). -/
def State.agemax (s : State) (k : Nat) : Nat :=
  (s.regs (coreOf k) (((s.strand k).task.map (·.ctx)).getD 0)).agemax.toNat

/-- Ready for AGEMAX cycles without an issue (R93). -/
def State.aged (s : State) (k : Nat) : Bool := decide (s.agemax k ≤ s.cyc (coreOf k) - (s.strand k).readyAt)

/-- Of two ready strands the one of higher role, then the one that issued less recently (R93). DESIGN CHOICE (log 49):
of two that have never issued the one of lower number. -/
def State.before (s : State) (j k : Nat) : Bool :=
  let rj : Nat := ((s.strand j).task.map (·.role)).getD 0
  let rk : Nat := ((s.strand k).task.map (·.role)).getD 0
  decide (rj < rk) || (rj == rk && decide ((s.strand j).issuedAt ≤ (s.strand k).issuedAt))

/-- The strand that the core issues from (R93). -/
def State.pickStrand (s : State) (c : Nat) : Option Nat :=
  let l := [4 * c, 4 * c + 1, 4 * c + 2, 4 * c + 3].filter (fun k => s.ready k)
  match l.find? (fun k => s.aged k) with
  | some k => some k
  | none => l.foldl (fun (b : Option Nat) k =>
      match b with
      | none => some k
      | some j => if s.before j k then some j else some k) none

/-! ### The instruction boundary -/

/-- The task's cycles have reached BUDGET (R95). -/
def State.watchdogDue (s : State) (k : Nat) : Bool :=
  match (s.strand k).task with
  | none => false
  | some t => decide ((s.strand k).budget.toNat ≤ s.cyc (coreOf k) - t.cyc0 - t.blocked)

/-- The lowest enabled comparator that names the PC (R177). -/
def Strand.breakAt (t : Strand) : Option Nat :=
  (List.range 4).find? (fun n =>
    let b := (t.bp.toList)[n]?.getD 0
    b.getLsbD 63 && bits b 31 3 * 8 == t.pc.toNat)

/-- A fetch at a PC reads a line with an uncorrectable error (R135). -/
def State.fetchHit (s : State) (pc : Word) : Bool :=
  let w := s.who
  decide (pc.toNat < 2 ^ 32) && s.eccHit w (BitVec.ofNat 64 ((w.code pc).toNat / lineBytes * lineBytes)) lineBytes

/-- The instruction of the current strand: fetched, checked in the order of R219, and given to the step; one that goes
on after a stall has issued before, and is counted once (R28). DESIGN CHOICE (log 51): the trap record has 0 for the
instruction word whenever the first word is not fetched, for ADDR_RANGE as R218 states it for XLATE. -/
def State.planFetch (s : State) : Plan :=
  if s.fetchHit s.st.pc then .done (s.endLaunch s.curCtx 1) else
  match s.fetchWord s.st.pc with
  | .error t => .done ((s.mod (fun x => { x with iword := 0 })).takeTrap t)
  | .ok (w, s) =>
    let s := s.mod (fun x => { x with iword := w })
    if hasSecond w && s.fetchHit (s.st.pc + 8) then .done (s.endLaunch s.curCtx 1) else
    match (if hasSecond w then s.fetchWord (s.st.pc + 8) else .ok (0, s)) with
    | .error t => .done (s.takeTrap t)
    | .ok (w2, s) =>
      match decodeWord w w2 with
      | .ok i => .run i (if s.st.stall.isSome || s.st.held then s else s.count (coreOf s.cur) 0x03)
      | .error e =>
        if e ≠ .unassigned ∧ privWord w ∧ !s.st.sup then .done (s.takeTrap ⟨tPRIV, privDetail w, 0, 0⟩)
        else .done (s.takeTrap ⟨tILLOP, 0, 0, 0⟩)

/-- The word at the PC, for the record of a trap taken before the instruction (R161); 0 when it cannot be fetched. -/
def State.nextWord (s : State) : Word :=
  match s.fetchWord s.st.pc with
  | .ok (w, _) => w
  | .error _ => 0

/-- The boundary before the next instruction of strand `k`: a requested halt (R176), DEADLINE_ESC (R169), WATCHDOG
(R95), a breakpoint (R177), else the instruction. DESIGN CHOICE (log 50): in this order where several fall on one
boundary, which no rule orders. -/
def State.planStrand (s : State) (k : Nat) : Plan :=
  let s := { s with cur := k }
  let s := s.mod (fun t => { t with readyAt := s.cyc (coreOf k), issuedAt := s.steps })
  if s.st.stall.isSome then s.planFetch
  else if s.st.phase = .stopping then .done (s.legStopped k)
  else if s.st.haltReq then .run .haltStop s
  else if s.st.dlePend ∧ s.st.task.isSome then
    let s := s.mod (fun t => { t with dlePend := false, iword := s.nextWord })
    .done (s.takeTrap ⟨tDLESC, s.st.dlcount.toNat, 0, 0⟩)
  else if s.watchdogDue k then .run .watchdog (s.mod (fun t => { t with iword := s.nextWord }))
  else
    match s.st.breakAt with
    | some n => .done ((s.mod (fun t => { t with iword := s.nextWord })).takeTrap ⟨tBRK, n, 0, 0⟩)
    | none => s.planFetch

/-! ### Turns (log 11) -/

/-- A waiting strand is tested again: at its deadline or the eviction bound, whichever came first, else for its
condition (R166, R171). DESIGN CHOICE (log 49): where both are the same instant, the deadline. -/
def State.pollStrand (s : State) (k : Nat) : State :=
  match (s.strand k).wait with
  | none => s
  | some w =>
    if s.agenda.any (fun (e : Nat × Instr) => e.1 == k && (e.2 == .deadlineExpiry || e.2 == .evictionBound
        || e.2 == .waitSatisfied)) then s
    else
      let bound := (s.evBound k).getD (s.now + 1)
      if w.limit ≤ s.now ∧ w.limit ≤ bound then s.post k .deadlineExpiry
      else if bound ≤ s.now then s.post k .evictionBound
      else s.post k .waitSatisfied

/-- A core's turn: its waiting strands are tested again and one instruction issues. -/
def State.planCore (s : State) (c : Nat) : Plan :=
  let s := [4 * c, 4 * c + 1, 4 * c + 2, 4 * c + 3].foldl (fun (s : State) k => s.pollStrand k) s
  match s.pickStrand c with
  | none => .done s
  | some k => s.planStrand k

/-- The device's turn: the oldest event that is due. -/
def State.planEvent (s : State) : Plan :=
  match s.agenda with
  | [] => .done s
  | (u, i) :: t => .run i { s with cur := u, agenda := t }

/-- The cores on which some strand is not free, in ascending order. -/
def State.busyCores (s : State) : List Nat :=
  (s.strands.filter (fun (e : Nat × Strand) => !(e.2.phase == .free))).map (fun (e : Nat × Strand) => coreOf e.1)

/-- The busy core after the one served last. -/
def State.nextCore (s : State) : Option Nat :=
  match s.busyCores.find? (fun c => decide (s.lastCore < c)) with
  | some c => some c
  | none => s.busyCores.head?

/-- The next turn: as `order` says, else events and cores by turns. -/
def State.plan (s : State) : Plan :=
  match s.order with
  | .event :: o => State.planEvent { s with order := o }
  | .core c :: o => State.planCore { s with order := o, lastCore := c } c
  | [] =>
    if s.evNext && !s.agenda.isEmpty then State.planEvent { s with evNext := false }
    else
      match s.nextCore with
      | some c => State.planCore { s with lastCore := c, evNext := true } c
      | none => s.planEvent

/-! ### Clocks (R3, R13, R14; log 4) -/

/-- The codes whose number timing inside the units decides, row by row and for the die (R28; log 4). -/
def rowEvents : List Nat := [0x15, 0x18, 0x1A]
def dieEvents : List Nat := [0x1C, 0x1D, 0x22, 0x23]

/-- The accesses of a die that a refresh window of the weight store holds at the moment: those of its strands, of its
slots' fills, of macro-ops, of engine commands and of the tests of the pools (R134). -/
def State.stalledOn (s : State) (d : Fin 4) : Nat :=
  let on := fun (c : Nat) => dieF c == d
  s.strands.countP (fun (e : Nat × Strand) => on (coreOf e.1) && decide (s.now < (e.2.stall.map (·.1)).getD 0))
    + s.cores.foldl (fun n (e : Nat × Core) =>
        if on e.1 then n + e.2.slots.toList.countP (fun (x : Slot) => x.fill.isSome && decide (s.now < x.stall.1)) else n) 0
    + s.ops.countP (fun (o : MxOp) => on o.core && decide (s.now < o.stall.1))
    + s.ops.countP (fun (o : MxOp) => on o.core && decide (s.now < o.ahead.1))
    + s.cmds.countP (fun (c : Cmd) => c.live && decide (c.st < 2) && on c.core && decide (s.now < c.stall.1))
    + s.lcs.foldl (fun n (e : Nat × LCore) =>
        if on (s.hostOf e.1) then n + e.2.pool.countP (fun (p : PoolItem) => decide (s.now < p.stall)) else n) 0

/-- The strand of an arrival at a wired barrier waits at it: for its gang, or in a BAR or BARW of that arrival
(R113, R256, R257). -/
def State.waitsAt (s : State) (a : RowArr) : Bool :=
  a.op.isSome ||
    match (s.strand a.strand).wait with
    | some ⟨.bar .., _, _, st⟩ => st / 4 == a.slot
    | some ⟨.barw .., _, _, st⟩ => st / 4 == a.slot
    | _ => false

/-- The strands that wait at the wired gang barriers of a row of die `d` (R113, R155). -/
def State.gangWaits (s : State) (d : Fin 4) (r : Nat) : Nat :=
  (s.row (16 * d.val + r)).barr.toList.foldl (fun n (l : List RowArr) => n + l.countP s.waitsAt) 0

/-- What a powered die's counters count as the clocks move on (R28): `n` is the step, `stalled` the accesses that a
refresh window held as it began, and `gang` the strands of each row that waited at its gang barrier, each of which
does so in every cycle that passes. -/
def State.tickEvents (s : State) (d : Fin 4) (n stalled : Nat) (gang : Nat → Nat) : State :=
  if (s.die d).power then
    let s := s.countEv d 0x01 0 (Config.cycleAdvance n d.val)
    let s := s.countEv d 0x21 0 (stalled * Config.cycleAdvance n d.val)
    let s := s.countRows d 0x16 (fun r => gang r * Config.cycleAdvance n d.val)
    let s := if 0 < (s.die d).stretch ∨ (s.die d).droop then s.countEv d 0x02 0 (Config.cycleAdvance n d.val) else s
    let s := rowEvents.foldl (fun (s : State) c => s.countRows d c (Config.unitEvents n d.val c)) s
    dieEvents.foldl (fun (s : State) c => s.countEv d c 0 (Config.unitEvents n d.val c 0)) s
  else s

/-- PTP time moves on by `n` ns, and by at most 100 ppm of the time passed towards the correction that is left; time
that passed before a correction slews nothing of it (R16). -/
def Time.advancePtp (t : Time) (n : Nat) : Time :=
  let acc := t.slewAcc + n
  let k := Nat.min t.slew.natAbs (acc / 10000)
  let d : Int := if t.slew < 0 then -k else k
  { t with ptp := ((t.ptp + n : Nat) + d).toNat, slew := t.slew - d
           slewAcc := if t.slew = d then 0 else acc - 10000 * k }

/-- The clocks move on: DTIME, PTP time, and each powered die's cycles, which its counters count (R28). -/
def State.tick (s : State) : State :=
  let n := s.steps
  let held := fun (d : Fin 4) => s.stalledOn d
  let gang := fun (d : Fin 4) (r : Nat) => s.gangWaits d r
  let s := { s with
    steps := n + 1
    time := { s.time.advancePtp (Config.ptpAdvance n) with
      dtime := s.time.dtime + BitVec.ofNat 64 (Config.dtimeAdvance n) }
    dies := Vector.ofFn (fun d : Fin 4 =>
      let x := s.dies[d]
      if x.power then { x with cycle := x.cycle + Config.cycleAdvance n d.val } else x) }
  (List.finRange 4).foldl (fun (s : State) d => s.tickEvents d n (held d) (gang d)) s

end Sys2Proof.Machine
end

