-- ==== Sys2Proof/Machine/System.lean ====
section
/-! DEFINITION. System and control instructions (R266 to R274), and the register writes that the table lists as steps of
their own. -/
namespace Sys2Proof.Machine

/-- The PC moves to an offset. -/
def State.jump (s : State) (pc : Word) : State := s.mod (fun t => { t with pc := pc })

/-- A supervisor opcode (R207, R219 step 2): PRIV in user mode, whatever the guard. -/
def privileged (s : State) (detail : Nat) (r : Host.Outcome State Fault Refusal) : Host.Outcome State Fault Refusal :=
  if s.st.sup then r else .next (s.takeTrap ⟨tPRIV, detail, 0, 0⟩)

/-- ILLEGAL: every word with OP 0x00 traps ILLOP (R266). -/
def execIllegal (_w : BitVec 56) (s : State) : Host.Outcome State Fault Refusal := .next (s.takeTrap ⟨tILLOP, 0, 0, 0⟩)

/-- NOP (R266). -/
def execNop (g : Guard) (s : State) : Host.Outcome State Fault Refusal := plain g s (fun s => s)

/-- SKIP (R267). -/
def execSkip (g : Guard) (n : BitVec 20) (s : State) : Host.Outcome State Fault Refusal :=
  guarded g 8 s (fun s => .ok (s.adv (8 + 8 * (n.toNat + 1))))

/-- CALL (R268). -/
def execCall (g : Guard) (i : BitVec 34) (s : State) : Host.Outcome State Fault Refusal :=
  guarded g 8 s (fun s =>
    let t := s.st
    if 4 ≤ t.depth then trapc tCALLDEPTH 5
    else
      let s := (s.mod (fun t => { t with rs := setAt t.rs t.depth (t.pc + 8), depth := t.depth + 1 })).wS 61 (t.pc + 8)
      .ok (s.jump (t.pc + 8 * i.signExtend 64)))

/-- RET (R268). -/
def execRet (g : Guard) (s : State) : Host.Outcome State Fault Refusal :=
  guarded g 8 s (fun s =>
    let t := s.st
    if t.depth = 0 then trapc tILLOP 0
    else .ok ((s.mod (fun t => { t with depth := t.depth - 1 })).jump ((t.rs.toList)[t.depth - 1]?.getD 0)))

/-- TRAP (R269). -/
def execTrap (g : Guard) (i : BitVec 32) (s : State) : Host.Outcome State Fault Refusal :=
  guarded g 8 s (fun _ => trapc tSWTRAP i.toNat)

/-- BRK (R269). -/
def execBrk (g : Guard) (s : State) : Host.Outcome State Fault Refusal := guarded g 8 s (fun _ => trapc tBRK 4)

/-- The word checks of MOVC and MOVCW (R219 steps 2 and 6, R274): PRIV for 0x800 and above in user mode; the numbers
0xA00 to 0xA20 exist on management cores only. -/
def crChecked (n : BitVec 12) (s : State) (r : Host.Outcome State Fault Refusal) : Host.Outcome State Fault Refusal :=
  if 0x800 ≤ n.toNat ∧ !s.st.sup then .next (s.takeTrap ⟨tPRIV, n.toNat, 0, 0⟩)
  else if 0xA00 ≤ n.toNat ∧ !isMgmt (coreOf s.cur) then .next (s.takeTrap ⟨tILLOP, 0, 0, 0⟩)
  else r

/-- MOVC (R270). -/
def execMovc (g : Guard) (d : SReg) (n : BitVec 12) (s : State) : Host.Outcome State Fault Refusal :=
  crChecked n s (plain g s (fun s => s.wS d (s.crRead s.cur n.toNat)))

/-- MOVCW (R270). -/
def execMovcw (g : Guard) (a : SReg) (n : BitVec 12) (s : State) : Host.Outcome State Fault Refusal :=
  crChecked n s (plain g s (fun s => s.crWrite s.cur n.toNat s.st.sup (s.rS a)))

/-! ### Holds (R271) -/

/-- Whether an effect is one of the 32 of R96: messages have the bound of R81, and the held release of a CORE slot is
counted nowhere. -/
def Effect.counted : Effect → Bool
  | .send _ | .brel .. => false
  | _ => true

/-- A commit effect is buffered; the 33rd of those that R96 counts traps CAPACITY. -/
def State.commit (s : State) (e : Effect) : Except TrapInfo State :=
  let n : Nat := (s.st.task.map (fun t => t.effects.countP (·.counted))).getD 0
  if e.counted ∧ 32 ≤ n then trapc tCAPACITY 4
  else .ok (s.mod (fun t => { t with task := t.task.map (fun k => { k with effects := k.effects ++ [e] }) }))

/-- The hold that a handle names (R163): logical core, trigger kind and trap-ring index. -/
def State.findHold (s : State) (ctx : Nat) (h : Word) : Option Hold :=
  (s.ctx? ctx).bind (fun c =>
    let base := ((c.launch).map (fun l => l.chipno * 1024)).getD 0
    c.holds.find? (fun x => x.ix % 2 ^ 32 == bits h 31 0 && x.kind == bits h 39 32 && bits h 43 40 == 0
      && base + lcLocal x.lc == bits h 63 44))

/-- The held message of a hold, in a queue that contexts share. -/
def Hold.isMsg (x : Hold) (m : QMsg) : Bool := m.held == some x.ix && m.msg.ctx.toNat == lcCtx x.lc

/-- The held message of a hold and those behind it (R163, R271): in its handler queue, or, of one that has not entered
it again since RESUME (R175), in the mailbox. -/
def State.heldSeq (s : State) (x : Hold) : List QMsg :=
  if x.kind = 0 then []
  else
    let q := ((s.core (coreOf x.strand)).q[vnFin (x.kind == 2)]).dropWhile (fun m => !x.isMsg m)
    if q.isEmpty then
      ((s.lc x.lc).mailbox.filter (fun m => m.msg.vn == (x.kind == 2))).dropWhile (fun m => !x.isMsg m)
    else q

/-- Messages from the held one to the tail of its queue (R271). -/
def State.heldBehind (s : State) (x : Hold) : Nat := Nat.min 32 (s.heldSeq x).length

/-- TRESUME and TDROP (R271): the status, and the commit effect that ends the hold. -/
def endHold (drop : Bool) (d a : SReg) (c : BitVec 5) (s : State) : Except TrapInfo State :=
  let h := s.rS a
  let tk := s.st.task
  let ctx := s.curCtx
  let named := (tk.map (fun t => t.effects.any (fun e => match e with
    | .endHold h' _ _ => h' == h
    | _ => false))).getD false
  let mine := (tk.map (fun t => match t.trigger with
    | .svc _ => t.svcHandle == h
    | _ => false)).getD false
  let stale := fun n => .ok ((s.status d sSTALE n).adv 8)
  if !s.st.sup && !mine then stale 1
  else
    match s.findHold ctx h with
    | none => stale 1
    | some x =>
      if named then stale 1
      else
        let n : Nat := if s.st.sup then s.heldBehind x else (tk.map (·.svcN)).getD 0
        if (x.kind = 0 ∧ c.toNat ≠ 0) ∨ (x.kind ≠ 0 ∧ n - 1 < c.toNat) then stale 2
        else
          match s.commit (.endHold h c.toNat drop) with
          | .error t => .error t
          | .ok s => .ok ((s.status d sOK 0).adv 8)

/-- TRESUME (R271). -/
def execTresume (g : Guard) (d a : SReg) (c : BitVec 5) (s : State) : Host.Outcome State Fault Refusal :=
  guarded g 8 s (endHold false d a c)

/-- TDROP (R271). -/
def execTdrop (g : Guard) (d a : SReg) (c : BitVec 5) (s : State) : Host.Outcome State Fault Refusal :=
  guarded g 8 s (endHold true d a c)

/-! ### Caches of the package (R272, R273) -/

/-- Every store of a strand is performed on all four dies (R272). -/
def State.storesDone (s : State) (k : Nat) : Bool :=
  s.dies.toList.all (fun (d : Die) => d.view.pend.all (fun w => markStrand w.mark != k))

/-- Is a TLB entry dropped (R272)? CTXID 0 matches none. -/
def tlbDrop (sc : TlbScope) (ctx va : Nat) (e : TlbEnt) : Bool :=
  match sc with
  | .va => ctx != 0 && e.ctx == ctx && decide (e.va ≤ va) && decide (va < e.va + e.size)
  | .ctx => ctx != 0 && e.ctx == ctx
  | .all => true

/-- Entries dropped from every TLB of the package (R138, R272). -/
def State.tlbInvalidate (s : State) (sc : TlbScope) (ctx va : Nat) : State :=
  let keep := fun (l : List TlbEnt) => l.filter (fun e => !tlbDrop sc ctx va e)
  { s with cores := Table.mapv s.cores (fun c => { c with tlb := keep c.tlb })
           dies := s.dies.map (fun d => { d with tlb := keep d.tlb })
           baseTlb := Table.mapv s.baseTlb keep }

/-- TLBINV (R272). It stays where it is until the strand's stores are performed on all dies. -/
def execTlbinv (g : Guard) (sc : TlbScope) (a b : SReg) (s : State) : Host.Outcome State Fault Refusal :=
  privileged s 0 (guarded g 8 s (fun s =>
    if s.storesDone s.cur then .ok (((s.tlbInvalidate sc (bits (s.rS b) 3 0) (bits (s.rS a) 47 0)).release).adv 8)
    else .ok s.hold))

/-- ICINV (R273). -/
def execIcinv (g : Guard) (s : State) : Host.Outcome State Fault Refusal :=
  privileged s 0 (plain g s (fun s => { s with cores := Table.mapv s.cores (fun c => { c with icache := [] }) }))

/-! ### HALT (R176, R274) -/

/-- A write that a core's local store is to take: path, local-store offset, length, the sending logical core. -/
structure LdsWrite where
  path : Nat
  off : Nat
  len : Nat
  sender : Nat
deriving DecidableEq, Repr

/-- What an accepted MOUT into window 0x2 of its core is to write (R143, R329). -/
def State.moutWrite (s : State) (o : MxOp) : Option LdsWrite :=
  match o.kind with
  | .mout _ t _ _ dst =>
    let w := s.whoOf o.strand
    if window dst = 2 then
      some ⟨3, s.ldsPhys w (inWindowOff dst) % 2 ^ 21, moutLen t, s.globalLc ((w.task.map (·.lc)).getD 0)⟩
    else none
  | _ => none

/-- Writes accepted into a core's local store that have not landed (R176): SENDB transfers, and MOUTs. -/
def State.notLanded (s : State) (core : Nat) : List LdsWrite :=
  (s.xfers.filter (fun x => s.hostOf x.lc == core)).map (fun x =>
      ⟨x.path, s.slotPhys x.lc x.baton x.slot x.off % 2 ^ 21, x.len, s.globalLc x.sender⟩)
    ++ (s.ops.filter (fun o => o.core == core && !o.cancel)).filterMap s.moutWrite

/-- One entry of a halt record (R176): path, the local-store offset that is written, length, the sending logical core. -/
def haltEntry (x : LdsWrite) : List Byte :=
  bytesOfNat 1 x.path ++ bytesOfNat 1 0 ++ bytesOfNat 4 x.off ++ bytesOfNat 4 x.len ++ bytesOfNat 4 x.sender
    ++ bytesOfNat 2 0

/-- The halt record of the management core after a HALT.Q (R274). -/
def State.haltRecord (s : State) (l : List LdsWrite) : State :=
  let b := (l.take 16).flatMap haltEntry
  { s with hrec := s.hrec.set (coreOf s.cur) (Vector.ofFn (fun i : Fin 32 => BitVec.ofNat 64 (leAt b (8 * i.val) 8))) }

/-- The strand is stopped at a boundary, and with Q the core's writes have landed (R274). -/
def haltCond (q : Bool) (k : Nat) (s : State) : Option (Nat × Nat × State) :=
  if !(s.strand k).halted then none
  else if !q then some (sOK, 0, s)
  else if (s.notLanded (coreOf k)).isEmpty then
    some (sOK, 0, ((s.haltRecord []).modStrand k (fun t => { t with haltQ := true })).modCore (coreOf k)
      (fun c => { c with refuse := true }))
  else none

/-- What HALT leaves at its deadline (R274). -/
def haltLate (q : Bool) (k : Nat) (s : State) : Nat × Nat × State :=
  let l := s.notLanded (coreOf k)
  (sTIMEOUT, Nat.min l.length 255 + 256 * b2n (s.strand k).halted, if q then s.haltRecord l else s)

/-- HALT, tested (R274). -/
def haltPoll (p : Poll) (g : Guard) (q : Bool) (d a l : SReg) (s : State) : Except TrapInfo State :=
  let v := s.rS a
  let k := bits v 11 0
  if !isMgmt (coreOf s.cur) then .ok ((s.statusB d sFAULT 3).adv 8)
  else if p = .issue ∧ (bits v 63 12 ≠ 0 ∨ !s.boot.ready0.getLsbD (rowOf (coreOf k))) then .ok ((s.statusB d sFAULT 1).adv 8)
  else
    let s := if p = .issue ∧ !(s.strand k).halted then
        (s.modStrand k (fun t => { t with haltReq := true })).post k .haltStop
      else s
    .ok (s.blocking p (.halt g q d a l) d (s.deadline l) (haltCond q k) (haltLate q k))

/-- HALT (R274). -/
def execHalt (g : Guard) (q : Bool) (d a l : SReg) (s : State) : Host.Outcome State Fault Refusal :=
  privileged s 0 (guarded g 8 s (haltPoll .issue g q d a l))

/-- A strand with a requested halt stops at a boundary (R176): at once when no blocking instruction or stall holds it. -/
def execHaltStop (s : State) : Host.Outcome State Fault Refusal :=
  let t := s.st
  if t.haltReq ∧ !t.midway then
    .next (s.mod (fun t => { t with haltReq := false, halted := true, haltAt := s.cyc (coreOf s.cur) }))
  else .next s

/-! ### Register writes listed as steps -/

/-- TSTART (R14). -/
def execTstartWrite (v : Word) (s : State) : Host.Outcome State Fault Refusal := .next (s.writeTstart v)
/-- TICKP (R14). DESIGN CHOICE (log 50): while the generator runs TICK goes on from its number, and the next tick begins
at TSTART + (TICK + 1) × the new TICKP. -/
def execTickpWrite (v : Word) (s : State) : Host.Outcome State Fault Refusal :=
  .next { s with time := { s.time with tickp := tickpNew s.time.tickp v } }
/-- PLIMIT (R18). -/
def execPlimitWrite (v : Word) (s : State) : Host.Outcome State Fault Refusal :=
  .next { s with power := { s.power with plimit := plimitNew v } }
/-- FPCR of the current strand (R105). -/
def execFpcrWrite (v : Word) (s : State) : Host.Outcome State Fault Refusal :=
  .next (s.mod (fun t => { t with fpcr := fpcrNew t.fpcr v }))
/-- FPSR of the current strand (R104). -/
def execFpsrWrite (v : Word) (s : State) : Host.Outcome State Fault Refusal :=
  .next (s.mod (fun t => { t with fpsr := v &&& 0x1F }))
/-- AGEMAX of the context of the current strand's task, on its core (R93). -/
def execAgemaxWrite (v : Word) (s : State) : Host.Outcome State Fault Refusal :=
  .next (s.modRegs (coreOf s.cur) s.curCtx (fun r => { r with agemax := agemaxNew v }))
/-- DLESC of the current strand (R169). -/
def execDlescWrite (v : Word) (s : State) : Host.Outcome State Fault Refusal :=
  .next (s.mod (fun t => { t with dlesc := v }))
/-- EVSEL of the die of the current strand's core (R27, R28). -/
def execEvselWrite (n : Fin 16) (v : Word) (s : State) : Host.Outcome State Fault Refusal :=
  .next (s.modDie (dieF (coreOf s.cur)) (fun x => { x with evsel := setAt x.evsel n.val (evselNew v) }))
/-- EVCNT of the die of the current strand's core (R27). -/
def execEvcntWrite (n : Fin 16) (v : Word) (s : State) : Host.Outcome State Fault Refusal :=
  .next (s.modDie (dieF (coreOf s.cur)) (fun x =>
    { x with evcnt := setAt x.evcnt n.val (evcntNew ((x.evcnt.toList)[n.val]?.getD 0) v) }))
/-- HALTREL (R274). -/
def execHaltrelWrite (v : Word) (s : State) : Host.Outcome State Fault Refusal := .next (s.releaseHalt v)
/-- Any other control register of the unit's strand, its writable bits stored (R103). The writer is firmware, or the
debugger through it, which sets and disables the breakpoints of a user's strand (R177, R352): it writes in supervisor
mode (log 47). -/
def execRegisterWrite (n : BitVec 12) (v : Word) (s : State) : Host.Outcome State Fault Refusal :=
  .next (s.crWrite s.cur n.toNat true v)
/-- A counter has set OVF while OVI was 1 (R27): the supervisor event EV_OVF is raised. The unit is the die. -/
def execEvOvf (n : Fin 16) (s : State) : Host.Outcome State Fault Refusal :=
  let d : Fin 4 := Fin.ofNat 4 s.cur
  if (s.die d).ovi[n] = 0 then .next s
  else
    let t := s.modDie d (fun x => { x with ovi := x.ovi.set n (x.ovi[n] - 1) })
    .next { t with supEvents := t.supEvents ++ [.evOvf d.val n.val] }

end Sys2Proof.Machine
end

