-- ==== Sys2Proof/Machine/Memory.lean ====
section
/-! DEFINITION. Memory instructions (R287 to R291), box loads and stores (R241), AMO (R259), and the steps of a table walk
and of the end of a refresh stall (R134, R138). -/
namespace Sys2Proof.Machine

/-- The type and size that an address mode moves: TY, or in BI the unsigned type of 2^I bytes (R205, R288). -/
def AccTy (m : AMode) : Fmt :=
  match m with
  | .bo ty _ | .pi ty _ | .piw ty _ _ | .pc ty _ => ty
  | .bi _ sh =>
    match sh.val with
    | 0 => .ui8
    | 1 => .ui16
    | 2 => .ui32
    | _ => .ui64

/-! ### Scalar loads and stores (R288) -/

/-- A load of `n` bytes through an address mode: checks, stalls, the value's use, the base update first so that a load
into the base register wins (R287). -/
def loadVia (a : SReg) (m : AMode) (n al : Nat) (use : Nat → State → State) (s : State) : Except TrapInfo State :=
  let w := s.who
  let e := s.effAddr a m
  match s.accessEa w kLoad e n al with
  | .error t => .error t
  | .ok _ =>
    s.unlessEcc w (s.eccHit w e.ea n) (s.afterStall (w.lines e.ea n) (fun s =>
      let v := s.ldNat w e.ea n
      .ok ((use v ((s.touch w e.ea n).baseUpdate a e)).adv 8)))

/-- A store of bytes through an address mode, with the data read before the base update (R287); a walk that reads an
uncorrectable error ends the launch (R135). -/
def storeVia (a : SReg) (m : AMode) (kd : AccKind) (all : Bool) (al : Nat) (data : List Byte) (s : State) :
    Except TrapInfo State :=
  let w := s.who
  let e := s.effAddr a m
  match s.accessEa w kd e data.length al with
  | .error t => .error t
  | .ok _ =>
    s.unlessEcc w (s.tableHit w e.ea data.length)
      (((s.touch w e.ea data.length).stBytes w all e.ea data).map (fun s => (s.baseUpdate a e).adv 8))

/-- LD (R288). -/
def execLd (g : Guard) (d a : SReg) (m : AMode) (_o : MemOrd) (s : State) : Host.Outcome State Fault Refusal :=
  let n := fmtSize (AccTy m)
  guarded g 8 s (loadVia a m n n (fun v s => s.wS d (resultWord (AccTy m) v)))

/-- The low bytes of a data register. -/
def State.dataBytes (s : State) (r : SReg) (n : Nat) : List Byte := bytesOfNat n (s.rS r).toNat

/-- ST (R288). -/
def execSt (g : Guard) (d a : SReg) (m : AMode) (_o : MemOrd) (s : State) : Host.Outcome State Fault Refusal :=
  let n := fmtSize (AccTy m)
  guarded g 8 s (fun s => storeVia a m kStore false n (s.dataBytes d n) s)

/-- MSTORE: all four copies of a replicated word (R288, R141). -/
def execMstore (g : Guard) (d a : SReg) (m : AMode) (_o : MemOrd) (s : State) : Host.Outcome State Fault Refusal :=
  let n := fmtSize (AccTy m)
  guarded g 8 s (fun s => storeVia a m kMstore true n (s.dataBytes d n) s)

/-! ### Box images (R241) -/

/-- BOXLD (R241); D = b0 has no encoding (R54). -/
def execBoxld (g : Guard) (d : BReg) (a : SReg) (m : AMode) (s : State) : Host.Outcome State Fault Refusal :=
  guarded g 8 s (loadVia a m 64 64 (fun v s => s.wB d (BitVec.ofNat 512 v)))

/-- BOXST (R241). -/
def execBoxst (g : Guard) (d : BReg) (a : SReg) (m : AMode) (s : State) : Host.Outcome State Fault Refusal :=
  guarded g 8 s (fun s => storeVia a m kStore false 64 (boxBytes (s.rB d)) s)

/-! ### Tiles (R102, R289, R290) -/

/-- Rows and columns of VSHAPE (R101). -/
def Strand.rows (t : Strand) : Nat := bits t.vshape 7 0
def Strand.cols (t : Strand) : Nat := bits t.vshape 15 8

/-- The elements of a tile of elements of `size` bytes, or SHAPE (R102). -/
def State.tile (s : State) (size : Nat) : Except TrapInfo Nat :=
  let r := s.st.rows
  let c := s.st.cols
  if r = 0 ∨ 64 < r ∨ c = 0 ∨ 64 < c ∨ 1024 < r * c * size then trapc tSHAPE (bits s.st.vshape 15 0) else .ok (r * c)

/-- The alignment of a tile (R289). -/
def tileAlign : Fmt → Nat
  | .fb8 | .fb5 | .fb3 => 2
  | t => fmtSize t

/-- An element of a vector register, and the register with it replaced (R102). -/
def velem (v : VWord) (size i : Nat) : Nat := v.toNat >>> (8 * size * i) % 2 ^ (8 * size)
def vset (v : VWord) (size i x : Nat) : VWord := putBits v (8 * size * i) (8 * size) x

/-- LDV (R289). -/
def execLdv (g : Guard) (d : VReg) (a : SReg) (m : AMode) (_o : MemOrd) (s : State) :
    Host.Outcome State Fault Refusal :=
  let ty := AccTy m
  guarded g 8 s (fun s =>
    match s.tile (fmtSize ty) with
    | .error t => .error t
    | .ok e => loadVia a m (e * fmtSize ty) (tileAlign ty)
        (fun v s => s.wV d (putBits (s.rV d) 0 (8 * (e * fmtSize ty)) v)) s)

/-- STV (R289). -/
def execStv (g : Guard) (d : VReg) (a : SReg) (m : AMode) (_o : MemOrd) (s : State) :
    Host.Outcome State Fault Refusal :=
  let ty := AccTy m
  guarded g 8 s (fun s =>
    match s.tile (fmtSize ty) with
    | .error t => .error t
    | .ok e => storeVia a m kStore false (tileAlign ty) (bytesOfNat (e * fmtSize ty) (s.rV d).toNat) s)

/-- The address of element `i` of LDVX and STVX (R290). -/
def State.elemAddr (s : State) (a : SReg) (b : VReg) (sh i : Nat) : Word :=
  s.rS a + (sext64 32 (velem (s.rV b) 4 i) <<< sh)

/-- The elements that a mask governs (R102). -/
def State.active (s : State) (k : KReg) (e : Nat) : List Nat := (List.range e).filter (fun i => (s.rK k).getLsbD i)

/-- The first failing check of the active elements, in ascending order (R290). -/
def State.elemChecks (s : State) (w : Who) (kd : AccKind) (addr : Nat → Word) (n al : Nat) :
    List Nat → Except TrapInfo Unit
  | [] => .ok ()
  | i :: l =>
    match s.access w kd (addr i) n al with
    | .error t => .error t
    | .ok _ => s.elemChecks w kd addr n al l

/-- Element stores in ascending order, the higher index winning a shared byte (R290). -/
def State.elemStores (w : Who) (addr : Nat → Word) (data : Nat → List Byte) : List Nat → State → Except TrapInfo State
  | [], s => .ok s
  | i :: l, s =>
    match s.stBytes w false (addr i) (data i) with
    | .error t => .error t
    | .ok s => State.elemStores w addr data l s

/-- LDVX (R290). -/
def execLdvx (g : Guard) (t : Fmt) (k : Msk) (d : VReg) (a : SReg) (b : VReg) (sh : Fin 4) (s : State) :
    Host.Outcome State Fault Refusal :=
  let n := fmtSize t
  guarded g 8 s (fun s =>
    match s.tile n, s.tile 4 with
    | .error t, _ => .error t
    | _, .error t => .error t
    | .ok e, .ok _ =>
      let w := s.who
      let act := s.active k.k e
      let addr := fun i => s.elemAddr a b sh.val i
      match s.elemChecks w kLoad addr n (tileAlign t) act with
      | .error t => .error t
      | .ok _ =>
        s.unlessEcc w (act.any (fun i => s.eccHit w (addr i) n)) (s.afterStall (act.flatMap (fun i => w.lines (addr i) n)) (fun s =>
          let v := (List.range e).foldl (fun (v : VWord) i =>
            if (s.rK k.k).getLsbD i then vset v n i (s.ldNat w (addr i) n)
            else if k.z then vset v n i 0 else v) (s.rV d)
          let s := act.foldl (fun (s : State) i => s.touch w (addr i) n) s
          .ok ((s.wV d v).adv 8))))

/-- STVX (R290). -/
def execStvx (g : Guard) (t : Fmt) (k : KReg) (d : VReg) (a : SReg) (b : VReg) (sh : Fin 4) (s : State) :
    Host.Outcome State Fault Refusal :=
  let n := fmtSize t
  guarded g 8 s (fun s =>
    match s.tile n, s.tile 4 with
    | .error t, _ => .error t
    | _, .error t => .error t
    | .ok e, .ok _ =>
      let w := s.who
      let act := s.active k e
      let addr := fun i => s.elemAddr a b sh.val i
      let v := s.rV d
      match s.elemChecks w kStore addr n (tileAlign t) act with
      | .error t => .error t
      | .ok _ =>
        s.unlessEcc w (act.any (fun i => s.tableHit w (addr i) n))
          ((State.elemStores w addr (fun i => bytesOfNat n (velem v n i)) act
            (act.foldl (fun (s : State) i => s.touch w (addr i) n) s)).map (fun s => s.adv 8)))

/-! ### LDW (R291) -/

/-- The word of LDW lies in a PUB tensor of an exact-mode launch. -/
def Who.ldwWaits (w : Who) (ea : Word) : Bool :=
  w.exact && window ea == 0 && ((w.tensor ea.toNat).map (fun (e : Nat × Tensor) => e.2.cls == 2)).getD false

/-- Its tag is set on the executing die (R71). -/
def State.ldwReady (s : State) (w : Who) (ea : Word) : Bool :=
  !w.ldwWaits ea ||
    (match s.xl w ea.toNat with
     | .ok x => s.tagged (dieF w.core) (x.pa (dieOf w.core))
     | .error _ => false)

/-- LDW, tested (R291). -/
def ldwPoll (p : Poll) (g : Guard) (d a b l : SReg) (i : BitVec 24) (s : State) : Except TrapInfo State :=
  let w := s.who
  let ea := s.rS a + i.signExtend 64
  match s.access w kLdw ea 8 8 with
  | .error t => .error t
  | .ok _ =>
    s.unlessEcc w (s.eccHit w ea 8) (s.afterStall (w.lines ea 8) (fun s =>
      .ok ((s.touch w ea 8).blocking p (.ldw g d a b l i) d (s.deadline l)
        (fun s => if s.ldwReady w ea then some (sOK, 0, s.wS b (BitVec.ofNat 64 (s.ldNat w ea 8))) else none)
        (fun s => (sTIMEOUT, 0, s)))))

/-- LDW (R291). -/
def execLdw (g : Guard) (d a b l : SReg) (i : BitVec 24) (s : State) : Host.Outcome State Fault Refusal :=
  guarded g 8 s (ldwPoll .issue g d a b l i)

/-! ### AMO (R259) -/

/-- The new value of an AMO on `w` bits. -/
def amoNew (op : AmoOp) (w old b c : Nat) : Nat :=
  let o := old % 2 ^ w
  let x := b % 2 ^ w
  match op with
  | .swap => x
  | .cas => if o = c % 2 ^ w then x else o
  | .add => (o + x) % 2 ^ w
  | .and => o &&& x
  | .or => o ||| x
  | .xor => o ^^^ x
  | .min => if sval w x < sval w o then x else o
  | .max => if sval w o < sval w x then x else o
  | .minu => Nat.min o x
  | .maxu => Nat.max o x

/-- The latest bytes of a word in coherence order, as an atomic finds them (R144, R145). -/
def State.atomicNat (s : State) (w : Who) (ea : Word) (n : Nat) : Nat :=
  if window ea = 0 then
    match s.xl w ea.toNat with
    | .ok x => natOfBytes (s.gatomic (x.pa (dieOf w.core)) n)
    | .error _ => 0
  else s.ldNat w ea n

/-- AMO (R259). -/
def execAmo (g : Guard) (t : Fmt) (op : AmoOp) (d a b c : SReg) (s : State) : Host.Outcome State Fault Refusal :=
  let n := fmtSize t
  guarded g 8 s (fun s =>
    let w := s.who
    let ea := s.rS a
    match s.access w kAmo ea n n with
    | .error t => .error t
    | .ok _ =>
      let old := s.atomicNat w ea n
      let new := amoNew op (8 * n) old (s.rS b).toNat (s.rS c).toNat
      s.unlessEcc w (s.eccHit w ea n)
        (((s.touch w ea n).stBytes w false ea (bytesOfNat n new)).map (fun s => (s.wS d (resultWord t old)).adv 8)))

/-! ### Steps of translation and refresh -/

/-- A table walk for a context's VA completes on the core of the unit (R137, R138): a valid translation is cached in the
core's TLB and the die's; nothing is cached of a walk that ends with XLATE, and one that reads a line with an
uncorrectable error ends the launch (R135). -/
def execTableWalk (ctx : Nat) (va : Word) (s : State) : Host.Outcome State Fault Refusal :=
  let core := s.cur
  let d := dieF core
  let a := va.toNat
  let put := fun (s : State) (e : TlbEnt) =>
    (s.modCore core (fun c => { c with tlb := tlbInstall c.tlb 512 e })).modDie d
      (fun x => { x with tlb := tlbInstall x.tlb 16384 e })
  match (s.die d).tlb.find? (fun e => e.ctx == ctx && decide (e.va ≤ a) && decide (a < e.va + e.size)) with
  | some e => .next (s.modCore core (fun c => { c with tlb := tlbInstall c.tlb 512 e }))
  | none =>
    let s := s.countEv d 0x1F 0 1
    let tt := l1base (s.regs core ctx).ttbase
    if s.walkBad d tt a then .next (s.endLaunch ctx 1)
    else
      match s.walk d tt a with
      | .error _ => .next s
      | .ok x => .next (put s ⟨ctx, a - x.off, x.page, x.size, x.write, x.replica⟩)

/-- A refresh window ends (R134): the stalled strand goes on; before its end the step waits. -/
def execRefreshStallEnd (s : State) : Host.Outcome State Fault Refusal :=
  match s.st.stall with
  | none => .next s
  | some (e, i) =>
    if s.now < e then .next (s.post s.cur .refreshStallEnd)
    else .next (s.mod (fun t => { t with stall := some (0, i), readyAt := s.cyc (coreOf s.cur) }))

/-- The write at an index may be applied: the die's clock admits it, and no earlier one on its way covers a word of it
(R145, R152). -/
def View.admits (v : View) (j : Nat) : Bool :=
  match v.pend[j]? with
  | none => false
  | some w =>
    vcAdmits v.vc w.vc w.src && (v.pend.take j).all (fun u => !u.meets (wordsOf w.pa w.bytes.length))

/-- A die applies one of the writes on their way to it (R152): the one at an index if it may, else the oldest if it may,
else none yet. The unit is the die. -/
def execWriteApply (i : Nat) (s : State) : Host.Outcome State Fault Refusal :=
  let d : Fin 4 := Fin.ofNat 4 s.cur
  let v := (s.die d).view
  let j := if v.admits i then i else 0
  match v.pend[j]? with
  | none => .next s
  | some w =>
    if v.admits j then .next (s.modDie d (fun x => { x with view := { v.receive w with pend := dropNth v.pend j } }))
    else .next (s.post d.val (.writeApply i))

end Sys2Proof.Machine
end

