-- ==== Sys2Proof/Machine/Tasks.lean ====
section
/-! DEFINITION. Rules and tasks (R54 to R68, R76 to R96, R240 to R252, R368): fit tests, joins, the start of a task on a
strand, verdicts, and the release of a task's group. -/
namespace Sys2Proof.Machine

/-! ### Fit tests (R63, R64) -/

/-- The value of a class of a footprint descriptor for a box (R63). -/
def footVal (box : BoxImg) (l : List (Nat × List Nat)) : Nat :=
  Nat.min (2 ^ 64 - 1)
    (l.foldl (fun n (t : Nat × List Nat) => n + t.1 * t.2.foldl (fun p a => p * boxFactor box a) 1) 0)

/-- The three capacities that a test compares with: the ceilings during self-descent (R58), else the live values under
them (R64). -/
def State.capacities (s : State) (core ctx : Nat) (ceilings : Bool) : List Nat :=
  let r := s.regs core ctx
  if ceilings then [r.capls.toNat, r.capslot.toNat, treeUnits r.captree.toNat]
  else [s.capls core ctx, s.capslot core ctx, s.captree core ctx]

/-- fits(B) for a footprint descriptor (R64). -/
def State.fits (s : State) (core ctx : Nat) (ceilings : Bool) (foot : List (List (Nat × List Nat))) (box : BoxImg) :
    Bool :=
  let caps := s.capacities core ctx ceilings
  (List.range 3).all (fun i => decide (footVal box (nth foot i []) ≤ nth caps i 0))

/-- The footprint descriptor that a record's unit header names, if any (R230). -/
def Launch.footOf (l : Launch) (foot : BitVec 16) : Option (List (List (Nat × List Nat))) :=
  if foot = 0 then none else l.desc.foots[foot.toNat - 1]?

/-- FRAME of a record (R126). -/
def Launch.frameOf (l : Launch) (tr : TaskRec) : Nat :=
  if tr.kind = .handler then 0
  else
    match l.footOf tr.foot with
    | none => 0
    | some f => roundUp (footVal tr.box (nth f 0 [])) 64

/-- A self-descent node (R368). -/
def Task.sd (t : Task) : Bool := t.tr.kind == .rule && t.tr.fitSd

/-! ### Box registers (R242 to R245) -/

/-- BOXGET's result (R242). -/
def boxField (b : BoxImg) (sel : BoxSel) (x : Nat) : Word :=
  match sel with
  | .lo => BitVec.ofNat 64 (boxLo b x)
  | .hi => BitVec.ofNat 64 (boxHi b x)
  | .ext => BitVec.ofNat 64 (boxExt b x)
  | .cls => BitVec.ofNat 64 (boxClass b x)
  | .rank => BitVec.ofNat 64 (boxRank b x)
  | .depth => BitVec.ofNat 64 (boxDepth b)
  | .nkey => boxKey b
  | .points => BitVec.ofNat 64 (Nat.min (2 ^ 64 - 1) (boxPoints b))

/-- BOXGET (R242). -/
def execBoxget (g : Guard) (d : SReg) (a : BReg) (sel : BoxSel) (x : Fin 8) (s : State) :
    Host.Outcome State Fault Refusal :=
  plain g s (fun s => s.wS d (boxField (s.rB a) sel x.val))

/-- BOXSET (R243). -/
def execBoxset (g : Guard) (d a : BReg) (b : SReg) (hi : Bool) (x : Fin 8) (s : State) :
    Host.Outcome State Fault Refusal :=
  plain g s (fun s =>
    let v := bits (s.rS b) 31 0
    s.wB d (if hi then setBoxHi (s.rB a) x.val v else setBoxLo (s.rB a) x.val v))

/-- BOXKEY (R244). -/
def execBoxkey (g : Guard) (d : SReg) (a : BReg) (sel : KeySel) (s : State) : Host.Outcome State Fault Refusal :=
  plain g s (fun s =>
    let k := boxKey (s.rB a)
    s.wS d (match sel with
      | .self => k
      | .left => leftKey k
      | .right => rightKey k))

/-- FITS's test (R245). -/
def State.fitsIndex (s : State) (box : BoxImg) (x : Nat) : Bool :=
  match s.curLaunch.bind (fun l => l.desc.foots[x]?) with
  | none => false
  | some f => s.fits (coreOf s.cur) s.curCtx ((s.st.task.map (·.sd)).getD false) f box

/-- FITS (R245). -/
def execFits (g : Guard) (d : PReg) (a : BReg) (x : BitVec 16) (s : State) : Host.Outcome State Fault Refusal :=
  plain g s (fun s => s.wP d (s.fitsIndex (s.rB a) x.toNat))

/-! ### Work that has arrived -/

/-- The free strands of a core look for work (R87). -/
def State.wakeCore (s : State) (core : Nat) : State :=
  (List.range 4).foldl (fun (s : State) i =>
    let k := 4 * core + i
    if (s.strand k).phase = .free then s.postOnce k .strandDispatch else s) s

/-- A record pushed at the bottom of a deque, or CAPACITY (R82, R83). -/
def State.pushRec (s : State) (lck : Nat) (r : TaskRec) : Except TrapInfo State :=
  match s.push? lck ⟨r, none⟩ with
  | none => trapc tCAPACITY 1
  | some s => .ok (s.wakeCore (s.host (lcCtx lck) (lcLocal lck)))

/-- A record that arrives at a logical core: at the bottom of its deque, or, from the first step of its eviction on,
at the bottom end of its extension (R82, R175); none when there is no room (R83). -/
def State.arriveRec (s : State) (lck : Nat) (r : TaskRec) : Option State :=
  if s.evicting (lcCtx lck) (s.hostOf lck) then
    if extMax ≤ (s.lc lck).ext.length then none
    else some ((s.modLc lck (fun l => { l with ext := ⟨r, none⟩ :: l.ext })).syncExt lck)
  else (s.push? lck ⟨r, none⟩).map (fun s => s.wakeCore (s.hostOf lck))

/-- A deque entry that must find room: without it the launch ends KILLED (log 34). -/
def State.mustPush (s : State) (lck : Nat) (i : DqItem) : State := (s.push? lck i).getD (s.endLaunch (lcCtx lck) 1)

/-- A record that must find room, as it arrives. -/
def State.placeRec (s : State) (lck : Nat) (r : TaskRec) : State := (s.arriveRec lck r).getD (s.endLaunch (lcCtx lck) 1)

/-! ### The splice arena (R65, R66, R367) -/

/-- A byte field of a context's memory as firmware and the splicer read it. -/
def State.ctxNat (s : State) (ctx va n : Nat) : Nat := natOfBytes ((s.ctxRead ctx va n).getD [])

/-- Bytes of a context's memory as a die sees them (R156). -/
def State.dieRead (s : State) (d : Fin 4) (ctx : Nat) : Nat → Nat → Option (List Byte)
  | _, 0 => some []
  | va, n + 1 => do
    let x ← s.ctxWalk ctx va
    let t ← s.dieRead d ctx (va + 1) n
    return Mem.get (s.die d).view.cells (x.pa d) :: t
/-- Such a read, or a walk for it, meets a line with an uncorrectable error (R135). -/
def State.dieHit (s : State) (d : Fin 4) (ctx va n : Nat) : Bool :=
  !s.ecc.isEmpty && (List.range n).any (fun i =>
    s.walkBad 0 (((s.ctx? ctx).map (·.ttpa)).getD 0) (va + i) ||
    ((s.ctxWalk ctx (va + i)).map (fun x => s.badLine (x.pa d))).getD false)
/-- The word that holds the unit header of a PC lies there (R230). -/
def State.hdrHit (s : State) (ctx : Nat) (pc : BitVec 32) : Bool :=
  let at_ := ((s.launch? ctx).map (·.codeva)).getD 0 + pc.toNat
  decide (8 ≤ at_) && s.dieHit 0 ctx (at_ - 8) 8
def State.dieNat (s : State) (d : Fin 4) (ctx va n : Nat) : Nat := natOfBytes ((s.dieRead d ctx va n).getD [])

/-- Bytes of a context's memory written by an agent of a die, word by word, on path SP (R144, R152, R156). -/
def State.dieWrite (s : State) (d : Fin 4) (ctx va : Nat) (l : List Byte) : State :=
  (pieces l.length va l).foldl (fun (s : State) (e : Nat × List Byte) =>
    match s.ctxWalk ctx e.1 with
    | none => s
    | some x => s.gwrite d (x.pa d) e.2 none nobody 7) s

/-- Bytes of a tile of `e` elements (R66, R252). -/
def tileLen (e size : Nat) : Nat := roundUp (e * size) 8 + 8 * ((e + 63) / 64)

/-- First-fit place in the tile heap for `n` bytes (R367). -/
def heapPlace : List (Nat × Nat) → Nat → Nat → Nat → Option Nat
  | [], at_, n, size => if at_ + n ≤ size then some at_ else none
  | (o, l) :: t, at_, n, size => if at_ + n ≤ o then some at_ else heapPlace t (Nat.max at_ (o + l)) n size

/-- Last-fit place in the tile heap for `n` bytes. -/
def heapPlaceLast : List (Nat × Nat) → Nat → Nat → Nat → Option Nat
  | [], at_, n, size => if at_ + n ≤ size then some (size - n) else none
  | (o, l) :: t, at_, n, size =>
    (heapPlaceLast t (Nat.max at_ (o + l)) n size).or (if at_ + n ≤ o then some (o - n) else none)

/-- An allocation entered in ascending order. -/
def heapInsert (o n : Nat) : List (Nat × Nat) → List (Nat × Nat)
  | [] => [(o, n)]
  | (p, m) :: t => if o ≤ p then (o, n) :: (p, m) :: t else (p, m) :: heapInsert o n t

/-- Bytes of the tile heap of a launch. -/
def Launch.heapSize (l : Launch) : Nat := 2 ^ 28 - l.staticBytes - dynBytes * l.remap.length

/-- The record of a STATE whose box image and tiles lie in the allocation at a VA, if any. -/
def State.recordAt (s : State) (ctx : Nat) (c : Ctx) (l : Launch) (st va : Nat) : Option Nat :=
  ((List.range (2 ^ l.d + 256 * l.remap.length)).find? (fun i =>
    s.ctxNat ctx (c.arena + 64 * i) 1 == st && s.ctxNat ctx (c.arena + 64 * i + 40) 8 == va)).map (fun i => c.arena + 64 * i)

/-- A record is that of the continuation whose tiles lie in the allocation at a VA (R66, R67), and no attempt of it has
yielded or asked to run again, so that nothing but the record names them. -/
def TaskRec.contOf (r : TaskRec) (va : Nat) : Bool :=
  r.kind == .cont && !r.spawned && !r.wait && !r.req && !r.exp && r.args[0] == BitVec.ofNat 64 (va + 64)

/-- The records of a logical core's deque, and that on its way to it, changed one by one. -/
def LCore.mapRecs (f : TaskRec → TaskRec) (l : LCore) : LCore :=
  let g := fun (i : DqItem) => { i with tr := f i.tr }
  { l with hw := l.hw.map g, ext := l.ext.map g
           thief := { l.thief with grant := l.thief.grant.map f } }

/-- The continuation whose tiles lie in the allocation at a VA waits in a deque of this chip, or on its way to one. -/
def State.contWaits (s : State) (ctx va : Nat) : Bool :=
  s.lcs.any (fun (e : Nat × LCore) => lcCtx e.1 == ctx &&
    ((e.2.hw ++ e.2.ext).any (fun i => i.tr.contOf va) || e.2.thief.grant.toList.any (fun r => r.contOf va)))

/-- The waiting continuation at a VA follows its tiles to another. -/
def State.moveCont (s : State) (ctx va dst : Nat) : State :=
  let f := fun (r : TaskRec) => if r.contOf va then { r with args := r.args.set 0 (BitVec.ofNat 64 (dst + 64)) } else r
  let ks := (s.lcs.filter (fun (e : Nat × LCore) => lcCtx e.1 == ctx)).map (fun e => e.1)
  ks.foldl (fun (s : State) k =>
    let old := (s.lc k).ext
    let s := s.modLc k (LCore.mapRecs f)
    if (s.lc k).ext = old then s else s.syncExt k) s

/-- The updates of a SCATA are held at a VA, of one whose task has not ended or of one that waits (R335). -/
def Effect.heldAt (va : Nat) : Effect → Bool
  | .scata _ _ _ _ _ h _ => h == va
  | _ => false
def State.pieceAt (s : State) (ctx va : Nat) (l : Launch) : Bool :=
  l.scata.any (fun h => h.heap == va) || s.strands.any (fun (e : Nat × Strand) =>
    (e.2.task.map (fun (t : Task) => t.ctx == ctx && t.effects.any (Effect.heldAt va))).getD false)

/-- Held updates move from a VA to another. -/
def State.movePiece (s : State) (ctx va dst : Nat) : State :=
  let f := fun (e : Effect) => match e with
    | .scata b i z t v h c => .scata b i z t v (if h = va then dst else h) c
    | e => e
  { s.modLaunch ctx (fun l =>
      { l with scata := l.scata.map (fun (h : HeldScata) => if h.heap = va then { h with heap := dst } else h) }) with
    strands := Table.mapv s.strands (fun (t : Strand) =>
      { t with task := t.task.map (fun k => if k.ctx = ctx then { k with effects := k.effects.map f } else k) }) }

/-- What holds the allocation at a VA, when it may move: the record of an open join or of a continuation that waits to
run, or held updates, which no record names. -/
def State.heapOwner (s : State) (ctx : Nat) (c : Ctx) (l : Launch) (va : Nat) : Option (Option Nat) :=
  match s.recordAt ctx c l 1 va, (if s.contWaits ctx va then s.recordAt ctx c l 2 va else none) with
  | some r, _ | none, some r => some (some r)
  | none, none => if s.pieceAt ctx va l then some none else none

/-- The pointers of a join record to its box image and its tiles follow them from one heap place to another (R66). -/
def State.movePtrs (s : State) (ctx r o dst : Nat) : State :=
  [40, 48, 56].foldl (fun (s : State) f =>
    let v := s.ctxNat ctx (r + f) 8
    if v = 0 then s else s.ctxWrite ctx none (r + f) (bytesOfNat 8 (v - o + dst))) s

/-- The allocations that may move go down, each to the lowest place that it fits in, in ascending order, and what names
them follows. -/
def State.packHeap (ctx : Nat) (c : Ctx) (l : Launch) : List (Nat × Nat) → State → State
  | [], s => s
  | (o, n) :: t, s =>
    let rest := (((s.launch? ctx).map (fun (x : Launch) => x.heap)).getD []).filter (fun e => e.1 != o)
    let at_ := (heapPlace rest 0 n l.heapSize).getD o
    let va := l.heapBase c + o
    let dst := l.heapBase c + at_
    let put := fun (s : State) => s.modLaunch ctx (fun l => { l with heap := heapInsert at_ n rest })
    State.packHeap ctx c l t (match (if at_ < o then s.heapOwner ctx c l va else none) with
      | none => s
      | some none => put (s.movePiece ctx va dst)
      | some (some r) =>
        let s := s.ctxWrite ctx none dst ((s.ctxRead ctx va n).getD [])
        put ((s.movePtrs ctx r o at_).moveCont ctx va dst))

/-- The answer of an operation that has read a line with an uncorrectable error, which ends the launch KILLED (R135):
no trap has code 0. -/
def uncorrectable : TrapInfo := ⟨0, 0, 0, 0⟩

/-- A tile of the heap, or the walk for it, lies in a line with an uncorrectable error. -/
def State.heapHit (s : State) (ctx : Nat) (c : Ctx) (l : Launch) : Bool :=
  l.heap.any (fun e => s.dieHit 0 ctx (l.heapBase c + e.1) e.2)

/-- A tile-heap allocation at 64-byte granularity, as a VA; CAPACITY, detail 2, when there is no place (R367). Where
no gap is long enough although at most half the heap is in use, what no running task names is first moved together;
what a running continuation names lies in the upper half (`State.pinCont`), so that there is a place then (log 38). -/
def State.heapAlloc (s : State) (ctx n : Nat) : Except TrapInfo (Nat × State) :=
  let m := roundUp n 64
  let place := fun (s : State) (c : Ctx) (l : Launch) =>
    (heapPlace l.heap 0 m l.heapSize).map (fun o =>
      (l.heapBase c + o, s.modLaunch ctx (fun l => { l with heap := heapInsert o m l.heap })))
  match s.ctx? ctx, s.launch? ctx with
  | some c, some l =>
    match place s c l with
    | some r => .ok r
    | none =>
      let used := l.heap.foldl (fun k (e : Nat × Nat) => k + e.2) 0
      if l.heapSize < 2 * (used + m) then trapc tCAPACITY 2
      else if s.heapHit ctx c l then .error uncorrectable
      else
        let s := (List.finRange 4).foldl (fun (s : State) d => s.drain d) s
        let s := State.packHeap ctx c l l.heap s
        match (s.launch? ctx).bind (place s c) with
        | some r => .ok r
        | none => trapc tCAPACITY 2
  | _, _ => trapc tCAPACITY 2

/-- A continuation is about to run, so that its registers will name its tiles: they go to the upper half of the heap if
they lie below it, so that the rest of the heap stays free to be moved together (R367; DESIGN CHOICE, log 38). None
while those of running continuations leave no place there: the record waits until one of them has ended. Tiles that do
not fit there at all go to the end of the heap. -/
def State.pinCont (s : State) (ctx : Nat) (r : TaskRec) : Option (TaskRec × State) :=
  match s.ctx? ctx, s.launch? ctx with
  | some c, some l =>
    let va := r.args[0].toNat - 64
    match l.heap.find? (fun e => r.contOf va && l.heapBase c + e.1 == va) with
    | none => some (r, s)
    | some (o, n) =>
      if l.heapSize ≤ 2 * o then some (r, s)
      else if s.heapHit ctx c l then some (r, s.endLaunch ctx 1)
      else
        let data := (s.ctxRead ctx va n).getD []
        let rec_ := s.recordAt ctx c l 2 va
        let rest := l.heap.filter (fun e => e.1 != o)
        let s := (List.finRange 4).foldl (fun (s : State) d => s.drain d) s
        let s := s.modLaunch ctx (fun l => { l with heap := rest })
        let held := rest.any (fun e => (s.heapOwner ctx c l (l.heapBase c + e.1)).isNone)
        let place := fun (s : State) (any : Bool) => do
          let l ← s.launch? ctx
          let at_ ← heapPlaceLast l.heap 0 n l.heapSize
          if l.heapSize ≤ 2 * at_ || any then
            let dst := l.heapBase c + at_
            let s := (s.modLaunch ctx (fun l => { l with heap := heapInsert at_ n l.heap })).ctxWrite ctx none dst data
            some ({ r with args := r.args.set 0 (BitVec.ofNat 64 (dst + 64)) },
              (rec_.map (fun a => s.movePtrs ctx a o at_)).getD s)
          else none
        match place s false with
        | some x => some x
        | none => place (State.packHeap ctx c l rest s) (!held)
  | _, _ => some (r, s)

/-- STATE, flags and fields of a join record (R66). -/
structure Join where
  st : Nat
  static : Bool
  arrival : Bool
  cont : Bool
  acc : Fmt
  rm : Rm
  pc : BitVec 32
  parent : Nat
  cov0 : Nat
  cov1 : Nat
  image : Nat
  left : Nat
  right : Nat
deriving DecidableEq, Repr

/-- A join record as a die sees it. -/
def State.join (s : State) (d : Fin 4) (ctx va : Nat) : Join :=
  let l := (s.dieRead d ctx va 64).getD []
  let f := leAt l 1 1
  { st := leAt l 0 1, static := f % 2 == 1, arrival := f / 2 % 2 == 1, cont := f / 4 % 2 == 1
    acc := Fmt.ofCode (BitVec.ofNat 4 (leAt l 2 1)), rm := (Rm.ofCode (BitVec.ofNat 3 (leAt l 3 1))).getD .rne
    pc := BitVec.ofNat 32 (leAt l 4 4), parent := leAt l 16 8, cov0 := leAt l 24 8, cov1 := leAt l 32 8
    image := leAt l 40 8, left := leAt l 48 8, right := leAt l 56 8 }

/-- The reference names an ARRIVAL record, or in arrival mode any enclosing record (R68). -/
def Launch.underArrival (l : Launch) (jref : BitVec 48) : Bool := l.arrival && jref != 0

/-- Where the record of a split of `box` by a logical core lies (R65): static below depth d, at 64 × h; else the first
FREE record of the core's dynamic region. None when that region is exhausted. -/
def State.joinPlace (s : State) (c : Ctx) (l : Launch) (lck : Nat) (box : BoxImg) : Option (Nat × Bool) :=
  if boxDepth box < l.d then
    some (c.arena + 64 * (2 ^ boxDepth box + (boxKey box).toNat >>> (64 - boxDepth box)), true)
  else
    let base := c.arena + l.staticBytes + dynBytes * lcLocal lck
    ((List.range 256).find? (fun i => s.dieNat (dieF (s.hostOf lck)) (lcCtx lck) (base + 64 * i) 1 == 0)).map (fun i => (base + 64 * i, false))

/-- A record that the launch has not written: FREE, and without the node key that a record used before still shows
(launch start clears it). -/
def State.joinFresh (s : State) (d : Fin 4) (ctx va : Nat) : Bool :=
  s.dieNat d ctx va 1 == 0 && s.dieNat d ctx (va + 8) 8 == 0

/-- A join record at an address, its box image and its tiles with every presence bit 0, written by an agent of a die
(R66). DESIGN CHOICE (log 38): one allocation of the tile heap holds the box image, for which R66 gives an address and
no place, and behind it the tiles. -/
def State.openJoin (s : State) (d : Fin 4) (ctx : Nat) (l : Launch) (va : Nat) (static : Bool) (box : BoxImg)
    (parent : BitVec 48) (cont : Option (BitVec 32)) (arrival : Bool) : Except TrapInfo State :=
  let e := boxFree box
  let size := fmtSize l.desc.acc
  let n := roundUp (tileLen e size) 64
  match s.heapAlloc ctx (64 + n * (if arrival then 1 else 2)) with
  | .error t => .error t
  | .ok (p, s) =>
    let left := p + 64
    let right := if arrival then 0 else p + 64 + n
    let clear := List.replicate (8 * ((e + 63) / 64)) (0 : Byte)
    let rec_ := bytesOfNat 1 1 ++ bytesOfNat 1 (b2n static + 2 * b2n arrival + 4 * b2n cont.isSome)
      ++ bytesOfNat 1 l.desc.acc.code.toNat ++ bytesOfNat 1 l.desc.accRm.code.toNat
      ++ bytesOfNat 4 ((cont.map (·.toNat)).getD 0) ++ bytesOfNat 8 (boxKey box).toNat
      ++ bytesOfNat 8 parent.toNat ++ bytesOfNat 16 0 ++ bytesOfNat 8 p ++ bytesOfNat 8 left ++ bytesOfNat 8 right
    let s := (s.dieWrite d ctx p (boxBytes box)).dieWrite d ctx (left + roundUp (e * size) 8) clear
    let s := if arrival then s else s.dieWrite d ctx (right + roundUp (e * size) 8) clear
    .ok (s.dieWrite d ctx va rec_)

/-- A join is created over a box (R61, R65, R68, R135), as the die of the logical core sees and writes it. A static
record that the launch has written before is left as it is, and one of another chip is written there, by an item on XC
(log 37). The reference is the record's address. -/
def State.newJoin (s : State) (lck : Nat) (box : BoxImg) (parent : BitVec 48) (cont : Option (BitVec 32))
    (arrival : Bool) : Except TrapInfo (Nat × State) :=
  let ctx := lcCtx lck
  let d := dieF (s.hostOf lck)
  let s := s.drain d
  match s.ctx? ctx with
  | none => trapc tCAPACITY 2
  | some c =>
    match c.launch with
    | none => trapc tCAPACITY 2
    | some l =>
      match s.joinPlace c l lck box with
      | none => trapc tCAPACITY 2
      | some (va, static) =>
        if static ∧ joinChip c l va ≠ l.chipno then
          .ok (va, s.xcSend lck (joinChip c l va) (.join va box parent cont arrival))
        else if s.dieHit d ctx va 64 then .error uncorrectable
        else if static ∧ !s.joinFresh d ctx va then .ok (va, s)
        else (s.openJoin d ctx l va static box parent cont arrival).map (fun s => (va, s))

/-- An event for the splicer that serves a join (R65, R67): its row here, or the exchange to the chip that holds the
record. -/
def State.toSplicer (s : State) (lck jref : Nat) (ev : SplEv) : State :=
  let ctx := lcCtx lck
  match s.ctx? ctx with
  | none => s
  | some c =>
    match c.launch with
    | none => s
    | some l =>
      let chip := joinChip c l jref
      if chip ≠ l.chipno then
        s.xcSend lck chip (match ev with
          | .deposit _ j t b _ => .deposit j t b
          | .cover _ j b => .cover j b)
      else
        let row := rowOf (nth l.remap (joinOwner c l jref) 0)
        (s.modRow row (fun r => { r with spl := r.spl ++ [ev] })).post row (match ev with
          | .deposit .. => .splicerDeposit
          | .cover .. => .splicerCover)

/-- Points of a box that get no deposit are told to its join (R67). -/
def State.cover (s : State) (lck : Nat) (jref : BitVec 48) (box : BoxImg) : State :=
  if jref = 0 then s else s.toSplicer lck jref.toNat (.cover (lcCtx lck) jref.toNat box)

/-! ### Counter increments (R253) -/

/-- The saturating addition of CINC and CADD. -/
def satAdd (a b : Nat) : Nat := Nat.min (2 ^ 64 - 1) (a + b)

/-- Wait-pool entries that wait on a word are tested again (R89). -/
def State.retestPool (s : State) (ctx : Nat) (ea : Word) : State :=
  s.posts (s.lcs.flatMap (fun (e : Nat × LCore) =>
    if lcCtx e.1 ≠ ctx then []
    else (List.range e.2.pool.length).filterMap (fun i =>
      if ((e.2.pool[i]?).map (fun (p : PoolItem) => p.tr.wctr == ea && !p.satisfied && !p.tr.exp)).getD false then
        some (e.1, Instr.poolRetest i)
      else none)))

/-- An increment is applied: one atomic read-modify-write, after every write that the word's last write had seen
(R145, R149, R253); an uncorrectable error in it ends the launch (R135). -/
def State.addCounter (s : State) (w : Who) (ea n : Word) : State :=
  s.unlessHit w (s.eccHit w ea 8) (
  let s := if window ea = 0 then
      match s.xl w ea.toNat with
      | .error _ => s
      | .ok x =>
        let d := dieF w.core
        let pa := x.pa (dieOf w.core)
        s.gwrite d pa (bytesOfNat 8 (satAdd (natOfBytes (s.gatomic pa 8)) n.toNat)) none w.mark w.path
    else if window ea = 2 then
      let p := s.ldsPhys w (inWindowOff ea)
      { s with lds := Mem.write s.lds p (bytesOfNat 8 (satAdd (natOfBytes (Mem.read s.lds p 8)) n.toNat)) }
    else s
  s.retestPool w.ctx ea)

/-! ### The start of a task (R76, R99, R104, R126, R230) -/

/-- The first four argument registers. -/
def argRegs (a : Vector Word 4) : Vector Word 64 :=
  ((((Vector.replicate 64 (0 : Word)).set 1 a[0]).set 2 a[1]).set 3 a[2]).set 4 a[3]

/-- The strand's registers at dispatch (R99, R104). -/
def State.seat (s : State) (k : Nat) (tk : Task) (pc : BitVec 32) : State :=
  let l := s.launch? tk.ctx
  let c := s.cyc (coreOf k)
  let tr := if tk.tr.req then { tk.tr with req := false, wait := false, exp := false } else tk.tr
  s.modStrand k (fun t =>
    { idleStrand with
      sr := argRegs tr.args
      br := (Vector.replicate 8 zeroBox).set 0 tr.box
      pc := pc.setWidth 64
      dlmax := (l.map (·.dlmax)).getD 0
      dlesc := (l.map (·.dlesc)).getD 0
      dlcount := t.dlcount
      budget := (l.map (·.budget)).getD 0
      bp := t.bp
      ntasks := t.ntasks.set tk.ctx (t.ntasks.get tk.ctx 0 + 1)
      phase := .running
      task := some { tk with tr := tr, cyc0 := c }
      readyAt := c
      issuedAt := t.issuedAt
      serial := t.serial + 1
      send := t.send
      haltReq := t.haltReq
      halted := t.halted
      haltAt := t.haltAt, haltQ := t.haltQ })

/-- A trap that a task takes before its first instruction, at a PC; its record names the word there, or the word given,
as that of an invalid header (R230). -/
def State.trapAt (s : State) (pc : Word) (word : Option Word) (t : TrapInfo) : State :=
  let s := s.mod (fun x => { x with pc := pc })
  (s.mod (fun x => { x with iword := word.getD s.nextWord })).takeTrap t

/-- The FREE axis of a mask with the largest extent of 2 or more, the lowest on a tie (R62). -/
def freeAxis (box : BoxImg) (mask : BitVec 6) : Option Nat :=
  (List.range 6).foldl (fun (b : Option Nat) a =>
    if mask.getLsbD a && boxClass box a == 1 && decide (2 ≤ boxExt box a) then
      match b with
      | some c => if boxExt box c < boxExt box a then some a else b
      | none => some a
    else b) none

/-- One split of the loop of R62: the state with the join made and the right child pushed, the left box and its
reference. -/
def State.fitSplit (s : State) (lck : Nat) (l : Launch) (tr : TaskRec) (pc : BitVec 32) (mask : BitVec 6) (box : BoxImg)
    (jref : BitVec 48) : Except TrapInfo (State × BoxImg × BitVec 48) :=
  let core := s.host (lcCtx lck) (lcLocal lck)
  let push := fun (s : State) (a : Nat) (jl jr : BitVec 48) => do
    if 63 ≤ boxDepth box then trapc tCAPACITY 6
    if s.hdrHit (lcCtx lck) pc then .error uncorrectable
    let (left, right) := splitBox box a
    let r := s.mkRec (lcCtx lck) right pc .leaf true jr tr.launch tr.args false
    let s ← s.pushRec lck { r with mask := mask }
    return (s.count core 0x08, left, jl)
  match freeAxis box mask with
  | some a => push s a jref jref
  | none =>
    match keyAxis box with
    | none => trapc tCAPACITY 7
    | some a =>
      if jref = 0 then trapc tVERDICT 5
      else if l.arrival then push s a jref jref
      else do
        let (va, s) ← s.newJoin lck box jref none false
        push s a (BitVec.ofNat 48 va) (BitVec.ofNat 48 (va + 1))

/-- The loop of R62 on a box; each test is made against the capacities of its moment. -/
def State.fitLoop (lck : Nat) (l : Launch) (tr : TaskRec) (pc : BitVec 32) (foot : Option (List (List (Nat × List Nat))))
    (mask : BitVec 6) : Nat → State → BoxImg → BitVec 48 → Except TrapInfo (State × BoxImg × BitVec 48)
  | 0, s, box, jref => .ok (s, box, jref)
  | f + 1, s, box, jref =>
    let ok := match foot with
      | none => true
      | some x => s.fits (s.host (lcCtx lck) (lcLocal lck)) (lcCtx lck) false x box
    if ok then .ok (s, box, jref)
    else
      match s.fitSplit lck l tr pc mask box jref with
      | .error t => .error t
      | .ok (s, box, jref) => State.fitLoop lck l tr pc foot mask f s box jref

/-- What a record's dispatch needs beyond its registers: for a FIT leaf the loop of R62, then the frame (R62, R64). -/
def State.fitRecord (s : State) (l : Launch) (tk : Task) : Except TrapInfo (State × TaskRec) :=
  if tk.tr.kind = .leaf ∧ tk.tr.fitSd then do
    let (s, box, jref) ← State.fitLoop tk.lc l tk.tr tk.tr.pc (l.footOf tk.tr.foot) tk.tr.mask 65 s tk.tr.box tk.tr.jref
    return (s, { tk.tr with box := box, jref := jref })
  else .ok (s, tk.tr)

/-- A task starts on a strand: what its creator made visible is applied to its die (R148), its registers are set
(R99), an invalid unit header traps ILLOP at PC − 8 (R230), a FIT leaf enters the loop of R62, and a frame is
allocated unless it has one (R64, R126). -/
def State.startTask (s : State) (k : Nat) (tk : Task) : State :=
  let core := coreOf k
  let s := ({ s with cur := k }.drain (dieF core)).seat k tk tk.tr.pc
  let s := match tk.tr.kind with
    | .rule => s.count core 0x06
    | .leaf => s.count core 0x07
    | _ => s
  match s.launch? tk.ctx with
  | none => s
  | some l =>
    if !tk.tr.hdrOk then s.trapAt (tk.tr.pc.setWidth 64 - 8) (some tk.tr.hdr) ⟨tILLOP, 0, 0, 0⟩
    else
      match s.fitRecord l tk with
      | .error t => s.trapAt (tk.tr.pc.setWidth 64) none t
      | .ok (s', tr) =>
        let s' := s'.mod (fun t =>
          { t with br := t.br.set 0 tr.box
                   task := t.task.map (fun x => { x with tr := { x.tr with box := tr.box, jref := tr.jref } }) })
        let n := l.frameOf tr
        if tk.frameLen ≠ 0 ∨ n = 0 then s'
        else
          match s'.allocFrame core n (s'.mark k) with
          | none => s'.trapAt (tk.tr.pc.setWidth 64) none ⟨tCAPACITY, 0, 0, 0⟩
          | some (b, s') =>
            s'.mod (fun t => { t with task := t.task.map (fun x => { x with frame := b, frameLen := n }) })

/-- A task made from a record of a logical core. DESIGN CHOICE (log 49): of a relay dispatched with EXP each leg's first
WAITC.Y meets it (R89). -/
def taskOfRec (lck : Nat) (tr : TaskRec) (trig : Trigger) : Task :=
  { tr := tr, ctx := lcCtx lck, lc := lck, trigger := trig, leg := 0, legs := [], svcHandle := 0, svcN := 0
    expArmed := tr.exp && tr.wait && !tr.req, frame := 0, frameLen := 0, tagLog := [], journal := [], effects := []
    deposited := false, ring := none, cyc0 := 0, blocked := 0, mxFlags := 0 }

/-! ### Ending a task (R96, R107, R131, R257) -/

/-- Baton slots of a strand whose task has ended keep their state and lose their owner. -/
def batonOrphan (k : Nat) (b : Baton) : Baton :=
  { b with slots := b.slots.map (fun x => if x.owner = k ∧ !x.remote then { x with owner := nobody } else x) }

/-- The slices of a row on which an op stands look for a step again (R114). -/
def State.wakeSlices (s : State) (row : Nat) : State :=
  ((s.ops.filter (fun o => rowOf o.core == row)).flatMap (fun o => o.strands.map coreOf)).foldl
    (fun (s : State) c => s.postOnce c .sequencerStep) s

/-- The stopped op of a strand and the ops held behind it are cancelled, and their stack units are free (R323); what
they held on the slices of their rows may go on (R114). -/
def State.dropOps (s : State) (k : Nat) : State :=
  let gone := s.ops.filter (fun o => o.of k)
  gone.foldl (fun (s : State) o => ((s.unname o).settleSlots o.core).wakeSlices (rowOf o.core)) { s with ops := s.ops.filter (fun o => !o.of k) }

/-- The record whose continuation a CONT task is: DONE, with the box image before the tile that s1 names (R66, R67). -/
def State.contRecord (s : State) (d : Fin 4) (ctx : Nat) (tr : TaskRec) : Option Nat :=
  match s.ctx? ctx with
  | none => none
  | some c =>
    match c.launch with
    | none => none
    | some l =>
      let p := tr.args[0].toNat - 64
      let is := fun (va : Nat) => s.dieNat d ctx va 1 == 2 && s.dieNat d ctx (va + 40) 8 == p
      let depth := boxDepth tr.box
      if depth < l.d then
        let va := c.arena + 64 * (2 ^ depth + (boxKey tr.box).toNat >>> (64 - depth))
        if is va then some va else none
      else
        let base := c.arena + l.staticBytes
        ((List.range (256 * l.remap.length)).find? (fun i => is (base + 64 * i))).map (fun i => base + 64 * i)

/-- A record and its tiles are freed by an agent of a die (R67). -/
def State.freeJoin (s : State) (d : Fin 4) (ctx va : Nat) : State :=
  (s.heapFree ctx (s.dieNat d ctx (va + 40) 8)).dieWrite d ctx va [0]

/-- What the end of a continuation frees, by its record (R67). -/
def State.freeContRec (s : State) (lck : Nat) (r : TaskRec) : State :=
  if r.kind = .cont ∧ !r.spawned then
    let d := dieF (s.hostOf lck)
    match s.contRecord d (lcCtx lck) r with
    | none => s
    | some va => s.freeJoin d (lcCtx lck) va
  else s

/-- The record that the end of a continuation frees lies in a line with an uncorrectable error (R67, R135). -/
def State.contHit (s : State) (tk : Task) : Bool :=
  let d := dieF (s.hostOf tk.lc)
  !s.ecc.isEmpty && tk.tr.kind == .cont && !tk.tr.spawned &&
    ((s.contRecord d tk.ctx tk.tr).map (fun va => s.dieHit d tk.ctx va 64)).getD false

/-- The end of a task on a strand, after its effects: arrivals withdrawn, slots returned, the message removed from its
queue (R80), the strand free; an uncorrectable error in what it withdraws ends the launch (R135). -/
def State.endTask (s : State) (k : Nat) : State :=
  match (s.strand k).task with
  | none => s.freeStrand k
  | some tk =>
    let dead := s.arrHit k || s.contHit tk
    let s := (((s.freeContRec tk.lc tk.tr).dropOps k).withdrawAll k).relRing k tk.ring
    let s := s.modLc tk.lc (fun l => { l with batons := l.batons.map (batonOrphan k) })
    let s := match tk.trigger with
      | .msg vn =>
        let i : Fin 2 := if vn then 1 else 0
        s.modCore (coreOf k) (fun c => { c with q := c.q.set i (c.q[i].drop 1), hrun := c.hrun.set i none })
      | _ => s
    let s := (s.freeStrand k).wakeCore (coreOf k)
    if dead then s.endLaunch tk.ctx 1 else s

/-! ### The release of a group (R96, R129, R150, R240) -/

/-- The number of the next message from a logical core to another on a VN (R78). -/
def seqKey (src dest : Nat) (vn : Bool) : Nat := (src * 2 ^ 20 + dest) * 2 + b2n vn

/-- The first unreleased message of a strand on a VN is released (R81): it takes its sequence number (R78), its place in
the core's release order (R119), and on XC its tick and exchange sequence (R157). -/
def State.releaseMsg (s : State) (k : Nat) (tk : Task) (vn : Bool) : State :=
  let q := (s.strand k).send[vnFin vn]
  match findIdx (fun (m : SendItem) => !m.released) q 0 with
  | none => s
  | some j =>
    match q[j]? with
    | none => s
    | some m =>
      let l := s.launch? tk.ctx
      let key := seqKey (lcLocal tk.lc) m.msg.dest.toNat m.msg.vn
      let n := (l.map (fun (l : Launch) => l.seqs.get key 0)).getD 0 + 1
      let xn := (l.map (fun (l : Launch) => l.xseqs.get (lcLocal tk.lc) 0)).getD 0 + 1
      let o := (s.core (coreOf k)).ords + 1
      let x := { m with msg := { m.msg with seq := BitVec.ofNat 64 n }, released := true, tick := s.time.tick.toNat
                        xseq := if m.xc then xn else 0, ord := o }
      let s := s.modLaunch tk.ctx (fun l =>
        { l with seqs := l.seqs.set key n, xseqs := if m.xc then l.xseqs.set (lcLocal tk.lc) xn else l.xseqs })
      let s := (s.modCore (coreOf k) (fun c => { c with ords := o })).modStrand k (fun t =>
        { t with send := t.send.set (vnFin vn) (setNth q j x) })
      s.post k (.messageInject vn)

/-- The first `c` messages of a VN leave a list. -/
def dropVn (vn : Bool) : Nat → List QMsg → List QMsg
  | _, [] => []
  | 0, l => l
  | c + 1, m :: l => if m.msg.vn == vn then dropVn vn c l else m :: dropVn vn (c + 1) l

/-- What the end of a hold leaves of a handler queue or a mailbox that holds its message (R163): without the `c`
messages of the VN behind it, and without it or with its mark cleared. -/
def endHeld (x : Hold) (vn : Bool) (c : Nat) (drop : Bool) : List QMsg → List QMsg
  | [] => []
  | m :: l =>
    if x.isMsg m then (if drop then [] else [{ m with held := none }]) ++ dropVn vn c l
    else m :: endHeld x vn c drop l

/-- A hold ends (R163, R271): resumed or dropped with `c` messages behind it, in the queue, and in the mailbox what has
not entered it again since RESUME (R175). A re-run comes after the accesses of the
aborted attempt (R148): while some are not over, a resumption is kept for SUP_HOLD_SERVICE to finish. DESIGN CHOICE
(log 50): the join record and the tiles of a continuation that is dropped are freed with it. -/
def State.finishHold (s : State) (ctx : Nat) (h : Word) (c : Nat) (drop : Bool) : State :=
  match s.findHold ctx h with
  | none => s
  | some x =>
    if !drop && s.attemptBusy x.marks then
      (s.modCtx ctx (fun y =>
        { y with holds := y.holds.map (fun z => if z.ix = x.ix then { z with ending := some c } else z) })).post ctx
        (.supHoldService x.ix)
    else
    let s := s.modCtx ctx (fun y => { y with holds := y.holds.filter (fun z => z.ix != x.ix) })
    if x.kind = 0 then
      let l := s.lc x.lc
      let mine := fun (i : DqItem) => i.held == some x.ix
      let upd := fun (q : List DqItem) =>
        if drop then q.filter (fun i => !mine i) else q.map (fun i => if mine i then { i with held := none } else i)
      let s := (s.modLc x.lc (fun l => { l with hw := upd l.hw, ext := upd l.ext })).syncExt x.lc
      let s := if drop then
          match (l.hw ++ l.ext).find? mine with
          | none => s
          | some i => (s.cover x.lc i.tr.jref i.tr.box).freeContRec x.lc i.tr
        else s
      s.wakeCore (coreOf x.strand)
    else
      let vn := x.kind == 2
      let core := coreOf x.strand
      let behind := ((s.core core).q[vnFin vn].dropWhile (fun m => !x.isMsg m)).length
      let left := if behind = 0 then c else c - (behind - 1)
      let old := (s.lc x.lc).mailbox
      let new := if behind = 0 then endHeld x vn c drop old else dropVn vn left old
      let s := s.modCore core (fun y => { y with q := y.q.set (vnFin vn) (endHeld x vn c drop y.q[vnFin vn]) })
      let s := if new = old then s else (s.modLc x.lc (fun l => { l with mailbox := new })).syncMailbox x.lc
      s.wakeCore core

/-- One buffered effect is released (R96). -/
def State.perform (s : State) (w : Who) (tk : Task) (e : Effect) : State :=
  match e with
  | .send vn => s.releaseMsg w.k tk vn
  | .add ea n => s.addCounter w ea n
  | .deposit j tile t box =>
    let n := tileLen (boxFree box) (fmtSize t)
    s.unlessHit w (s.eccHit w tile n)
      (s.toSplicer tk.lc j.toNat (.deposit tk.ctx j.toNat (s.ldBytes w tile n) box w.mark))
  | .spawn j =>
    (s.modStrand j (fun t => { t with spawnTask := t.spawnTask.map (fun r => { r with answer := some (some j) }) })).post j
      .strandDispatch
  | .endHold h c drop => s.finishHold tk.ctx h c drop
  | .scata base idx z t vals heap cmd =>
    (s.modLaunch tk.ctx (fun l =>
      { l with scata := l.scata ++ [⟨boxKey tk.tr.box, w.core, base, idx, z, t, vals, heap, cmd⟩] })).post tk.ctx .scataApply
  | .brel lck baton slot =>
    s.modLc lck (fun l =>
      { l with batons := setNth l.batons baton (batonFree (nth l.batons baton noBaton) slot) })

/-- The keep journal is applied to the static area in program order (R129). -/
def State.applyJournal (s : State) (w : Who) (j : List (Nat × List Byte)) : State :=
  { s with lds := j.foldl (fun m (e : Nat × List Byte) =>
      Mem.write m (s.ldsPhys w (Config.ldsBytes - w.sa + e.1)) e.2) s.lds }

/-- The effects of one strand's task are released in program order, as one group (R96), unless the launch ends under
it. -/
def State.releaseGroup (s : State) (k : Nat) : State :=
  match (s.strand k).task with
  | none => s
  | some tk =>
    let w := s.whoOf k
    let s := s.applyJournal w tk.journal
    tk.effects.foldl (fun (s : State) e => if (s.strand k).task.isNone then s else s.perform w tk e) s

/-- The effects of a self-descent rule on a core that is not the lowest under its node are discarded (R240). -/
def State.discardGroup (s : State) (k : Nat) : State :=
  match (s.strand k).task with
  | none => s
  | some tk =>
    let s := tk.effects.foldl (fun (s : State) e => s.discardEffect tk.ctx e) s
    let s := s.modLc tk.lc (fun l => { l with batons := l.batons.map (batonAbort k) })
    s.modStrand k (fun t => { t with send := t.send.map (fun (q : List SendItem) => q.filter (·.released)) })

/-- A task is counted as completed, and its flags enter the launch flag word (R46, R96, R184). -/
def State.countTask (s : State) (k : Nat) (strands : List Nat) : State :=
  let ctx := ((s.strand k).task.map (·.ctx)).getD 0
  let f : BitVec 5 := strands.foldl (fun (f : BitVec 5) j => f ||| (s.strand j).fpsr.extractLsb' 0 5) 0
  (s.modLaunch ctx (fun l => { l with tasks := l.tasks + 1, flags := l.flags ||| f })).count (coreOf k) 0x04

/-- The leg PCs of a record that is a relay (R94). DESIGN CHOICE (log 50): a RELAY beyond the relay table names
none, and the record runs as an ordinary task (R230). -/
def Launch.legsOf (l : Launch) (r : TaskRec) : List (BitVec 32) :=
  if r.relay = 0 ∨ !r.hdrOk then [] else nth l.desc.relays (r.relay.toNat - 1) []

/-! ### Verdicts (R55 to R62, R246, R247, R368) -/

/-- What a verdict leaves to run on its strand: a record and a frame already allocated for it. -/
abbrev Follow := Option (TaskRec × Nat × Nat)

/-- The static checks of a split of an axis (R55, R61, R70, R247). -/
def splitCheck (l : Launch) (tr : TaskRec) (a : Nat) (splitk : Bool) : Except TrapInfo Unit :=
  let box := tr.box
  if boxClass box a = 0 ∨ boxExt box a < 2 ∨ 6 ≤ a then trapc tVERDICT 3
  else if !splitk ∧ boxClass box a = 2 ∧ tr.jref = 0 then trapc tVERDICT 5
  else if !splitk ∧ boxClass box a = 2 ∧ !l.arrival ∧ keyAxis box ≠ some a then trapc tSPLITORDER a
  else if 63 ≤ boxDepth box then trapc tCAPACITY 6
  else .ok ()

/-- The join that a split makes, if it makes one, and the references of the two children (R61, R66, R68). -/
def State.splitJoin (s : State) (lck : Nat) (l : Launch) (tr : TaskRec) (a : Nat) (cont : Option (BitVec 32)) :
    Except TrapInfo (State × BitVec 48 × BitVec 48) :=
  if boxClass tr.box a ≠ 2 ∨ l.underArrival tr.jref then .ok (s, tr.jref, tr.jref)
  else do
    let (va, s) ← s.newJoin lck tr.box tr.jref cont l.arrival
    return (s, BitVec.ofNat 48 va, BitVec.ofNat 48 (va + 1))

/-- SPLIT and SPLITK (R61, R246), and R57 at a node of self-descent. The left child is pushed and popped at once: what
that leaves is the spill that its push needs (R83). -/
def State.doSplit (s : State) (k : Nat) (tk : Task) (l : Launch) (a : Nat) (cont : Option (BitVec 32)) :
    Except TrapInfo (State × Follow) := do
  let tr := tk.tr
  let (s, jl, jr) ← s.splitJoin tk.lc l tr a cont
  let (bl, br) := splitBox tr.box a
  let child := fun (box : BoxImg) (j : BitVec 48) (sd : Bool) =>
    s.mkRec tk.ctx box tr.pc .rule sd j tr.launch tr.args false
  let s := s.count (coreOf k) 0x08
  if s.hdrHit tk.ctx tr.pc then .error uncorrectable
  if tk.sd then
    let n := l.chipno * 1024 + lcLocal tk.lc
    let i := boxDepth tr.box
    let right := n >>> (l.d - i - 1) % 2 == 1
    let keep := !right && n % 2 ^ (l.d - i) == 0 && decide (l.nlcore ≤ (2 * (n >>> (l.d - i)) + 1) * 2 ^ (l.d - i - 1))
    let s ← (if keep then s.pushRec tk.lc (child br jr false) else .ok s)
    let sd := decide (i + 1 < l.d)
    return (s, some (if right then child br jr sd else child bl jl sd, 0, 0))
  else
    let s ← s.pushRec tk.lc (child br jr false)
    match s.hwRoom? tk.lc with
    | none => trapc tCAPACITY 1
    | some s => return (s, some (child bl jl false, 0, 0))

/-- The leaf that LEAF and SPLITF run on the strand, with its frame allocated as part of the verdict, while the rule
still holds its own (R61, R64, R247). A leaf that is a relay is pending with its frame until its strands are free (R94),
behind one that is pending already; while the context leaves the row it waits in the deque without (log 17). -/
def State.doLeaf (s : State) (k : Nat) (tk : Task) (l : Launch) (box : BoxImg) (jref : BitVec 48) (pc : BitVec 32) :
    Except TrapInfo (State × Follow) :=
  let r := s.mkRec tk.ctx box pc .leaf false jref tk.tr.launch tk.tr.args false
  let n := l.frameOf r
  if s.hdrHit tk.ctx pc then .error uncorrectable
  else if !(l.legsOf r).isEmpty then
    match s.allocFrame (coreOf k) n relayMark with
    | none => trapc tCAPACITY 0
    | some (b, t) =>
      if s.evicting tk.ctx (coreOf k) then (s.pushRec tk.lc r).map (fun s => (s, none))
      else if (s.lc tk.lc).relay.isSome then
        .ok (t.modLc tk.lc (fun c => { c with relays := c.relays ++ [(⟨r, none⟩, b, n)] }), none)
      else .ok (t.modLc tk.lc (fun c => { c with relay := some ⟨r, none⟩, rframe := (b, n) }), none)
  else
    if n = 0 ∨ !r.hdrOk then .ok (s, some (r, 0, 0))
    else
      match s.allocFrame (coreOf k) n (s.nextMark k) with
      | none => trapc tCAPACITY 0
      | some (b, s) => .ok (s, some (r, b, n))

/-- A verdict carried out on the state that the task's other effects have left (R246). -/
def State.verdict (s : State) (k : Nat) (tk : Task) (l : Launch) (e : EndKind) : Except TrapInfo (State × Follow) :=
  match e with
  | .done | .requeue => .ok (s, none)
  | .split a => s.doSplit k tk l a.val none
  | .splitk pc =>
    match keyAxis tk.tr.box with
    | none => trapc tVERDICT 4
    | some a => s.doSplit k tk l a (some pc)
  | .prune => .ok ((s.cover tk.lc tk.tr.jref tk.tr.box).count (coreOf k) 0x09, none)
  | .leaf pc => s.doLeaf k tk l tk.tr.box tk.tr.jref pc
  | .splitf mask pc => do
    if s.hdrHit tk.ctx pc then .error uncorrectable
    let foot := (s.mkRec tk.ctx tk.tr.box pc .leaf false tk.tr.jref tk.tr.launch tk.tr.args false).foot
    let (s, box, jref) ← State.fitLoop tk.lc l tk.tr pc (l.footOf foot) mask 65 s tk.tr.box tk.tr.jref
    s.doLeaf k tk l box jref pc

/-- The core is not the lowest under its self-descent node, so that it only passes through (R57, R240). -/
def Task.passes (t : Task) (l : Launch) : Bool :=
  t.sd && (l.chipno * 1024 + lcLocal t.lc) % 2 ^ (l.d - boxDepth t.tr.box) != 0

/-- The verdict that a core carries out: a core that only passes through carries out splits alone (R57). -/
def Task.carries (t : Task) (l : Launch) (e : EndKind) : Bool :=
  !t.passes l || (match e with
    | .split _ | .splitk _ => true
    | _ => false)

/-- What follows a verdict starts on the same strand, ahead of R87, as a task of the same logical core (R246); while the
context is being evicted from the row no task starts, so that its record goes to the bottom of the deque, without a
frame (R170, R171, R246); nothing follows in a launch that has ended. -/
def State.follow (s : State) (k : Nat) (lck : Nat) (f : Follow) : State :=
  match f with
  | none => s
  | some (tr, b, n) =>
    if (s.launch? (lcCtx lck)).isNone then s
    else if s.evicting (lcCtx lck) (coreOf k) then
      (s.modCore (coreOf k) (fun c => { c with frames := c.frames.filter (fun f => f.2.2 != s.nextMark k) })).mustPush lck
        ⟨tr, none⟩
    else s.startTask k { taskOfRec lck tr .record with frame := b, frameLen := n }

/-- A verdict is released (R61, R96, R246): the other effects first, then its joins and pushes; a trap leaves nothing of
it. -/
def State.releaseVerdict (s : State) (k : Nat) (tk : Task) (l : Launch) (e : EndKind) : State :=
  let s1 := if tk.passes l then s.discardGroup k else s.releaseGroup k
  if (s1.strand k).task.isNone then s1
  else
  match (if tk.carries l e then s1.verdict k tk l e else .ok (s1, none)) with
  | .error t => s.takeTrap t
  | .ok (s2, f) => ((s2.countTask k [k]).endTask k).follow k tk.lc f

/-- The lines of the weight store that the deposits of a strand's group read at its release (R67, R134, R252). -/
def State.depositLines (s : State) (k : Nat) : List Nat :=
  (((s.strand k).task.map (·.effects)).getD []).flatMap (fun e =>
    match e with
    | .deposit _ tile t box => (s.whoOf k).lines tile (tileLen (boxFree box) (fmtSize t))
    | _ => [])

/-- DONE is released (R96, R248): when the last leg of a relay has executed it, the legs' effects in leg order; a task
under a join that has made no deposit counts its points as absent (R67). A tile in a refreshing bank of the weight store
holds the release until that window ends (R134). -/
def State.releaseDone (s : State) (k : Nat) (tk : Task) : State :=
  let ks := tk.strands k
  let s0 := s
  let s := if tk.legs.isEmpty then s else s.modStrand k (fun t => { t with phase := .legDone })
  if !tk.legs.isEmpty ∧ ks.any (fun j => (s.strand j).phase != .legDone) then s
  else
    let lines := ks.flatMap s.depositLines
    match s.unitStalls lines (((s.strand k).stall).getD (0, 0)) with
    | some e => (s0.modStrand k (fun t => { t with stall := some e })).post k .commitGroupRelease
    | none =>
    let s := if lines.isEmpty then s else s.countEv (dieF (coreOf k)) 0x20 0 lines.length
    let dep := ks.any (fun j => (((s.strand j).task.map (fun (t : Task) => t.deposited)).getD false))
    let s := ks.foldl (fun (s : State) j => s.releaseGroup j) s
    if (s.strand k).task.isNone then s
    else
    let s := if dep then s else s.cover tk.lc tk.tr.jref tk.tr.box
    let s := s.countTask k ks
    ks.foldl (fun (s : State) j => s.endTask j) s

/-- REQUEUE is released (R90, R249): everything that the task buffered is discarded, and its trigger re-enters with REQ
set; a deque without room for the record gives CAPACITY (R83). -/
def State.releaseRequeue (s : State) (k : Nat) (tk : Task) : State :=
  let ks := tk.strands k
  let dead := ks.any s.arrHit
  let t := ks.foldl (fun (s : State) j => s.abortStrand j false) s
  let back := match tk.trigger with
    | .record => t.pushTop? tk.lc tk.tr
    | .msg vn =>
      let i := vnFin vn
      some (t.modCore (coreOf k) (fun c =>
        { c with q := c.q.set i (c.q[i].drop 1 ++ c.q[i].take 1), hrun := c.hrun.set i none }))
    | .svc ix => some (t.modLc tk.lc (fun l => { l with svc := l.svc ++ [(⟨tk.tr.pc, ix, boxKey tk.tr.box⟩ : SvcItem)] }))
  match back with
  | none => s.takeTrap ⟨tCAPACITY, 1, 0, 0⟩
  | some t =>
    let t := (ks.foldl (fun (s : State) j => s.freeStrand j) (t.count (coreOf k) 0x10)).wakeCore (coreOf k)
    if dead then t.endLaunch tk.ctx 1 else t

/-- Macro-ops that hold the end of a strand's task: accepted, not ended, not stopped (R116, R326). -/
def State.opsHold (s : State) (k : Nat) : Bool :=
  let l := s.ops.filter (fun o => o.of k)
  (l.takeWhile (fun o => o.stop.isNone)).any (fun o => !o.cancel)

/-- The release of the task's group (R96): held until every macro-op that the task issued has ended (R116) and its
SENDB transfers have landed (R149), with the FPX test of R185 at that point; a relay that requeues first stops its
other legs (R249). The unit is the strand. DESIGN CHOICE (log 51): in a relay each leg's DONE or REQUEUE waits for and
tests the macro-ops that this leg issued; a REQUEUE cancels those of the other legs. -/
def execCommitGroupRelease (s : State) : Host.Outcome State Fault Refusal :=
  let k := s.cur
  match s.st.phase, s.st.task with
  | .ending e, some tk =>
    if s.opsHold k ∨ s.xfers.any (fun x => x.mark == s.mark k) then .next (s.post k .commitGroupRelease)
    else if tk.mxFlags &&& s.st.te ≠ 0 then .next (s.takeTrap ⟨tFPX, (tk.mxFlags &&& s.st.te).toNat, 0, 0⟩)
    else
      match e, s.launch? tk.ctx with
      | .done, _ => .next (s.releaseDone k tk)
      | .requeue, _ =>
        let s := s.stopLegs k tk
        .next (if s.legsMoving tk then s.post k .commitGroupRelease else s.releaseRequeue k tk)
      | e, some l => .next (s.releaseVerdict k tk l e)
      | _, none => .next (s.endTask k)
  | _, _ => .next s

/-- A task's last instruction: its end is pending until its group is released (R96, R116). -/
def State.ending (s : State) (e : EndKind) : State :=
  (s.mod (fun t => { t with phase := .ending e })).post s.cur .commitGroupRelease

/-- A verdict is executed (R61, R240, R247): its kind, its operands and its box are checked, and the task ends. -/
def State.rule (s : State) (e : EndKind) (check : Launch → TaskRec → Except TrapInfo Unit) : Except TrapInfo State :=
  match s.st.task, s.curLaunch with
  | some tk, some l =>
    if tk.tr.kind ≠ .rule ∨ !tk.legs.isEmpty then trapc tVERDICT 2
    else if s.st.phase ≠ .running then trapc tVERDICT 1
    else
      match check l tk.tr with
      | .error t => .error t
      | .ok _ => .ok (s.ending e)
  | _, _ => trapc tVERDICT 2

/-- SPLIT (R61, R246, R247). -/
def execSplit (g : Guard) (x : Fin 8) (s : State) : Host.Outcome State Fault Refusal :=
  guarded g 8 s (fun s => s.rule (.split x) (fun l tr => splitCheck l tr x.val false))
/-- SPLITK (R61, R246, R247). -/
def execSplitk (g : Guard) (pc : BitVec 32) (s : State) : Host.Outcome State Fault Refusal :=
  guarded g 8 s (fun s => s.rule (.splitk pc) (fun l tr =>
    match keyAxis tr.box with
    | none => trapc tVERDICT 4
    | some a => splitCheck l tr a true))
/-- SPLITF (R61, R62, R247). -/
def execSplitf (g : Guard) (mask : BitVec 6) (pc : BitVec 32) (s : State) : Host.Outcome State Fault Refusal :=
  guarded g 8 s (fun s => s.rule (.splitf mask pc) (fun _ _ => .ok ()))
/-- PRUNE (R61, R247). -/
def execPrune (g : Guard) (s : State) : Host.Outcome State Fault Refusal :=
  guarded g 8 s (fun s => s.rule .prune (fun _ _ => .ok ()))
/-- LEAF (R61, R247). -/
def execLeaf (g : Guard) (pc : BitVec 32) (s : State) : Host.Outcome State Fault Refusal :=
  guarded g 8 s (fun s => s.rule (.leaf pc) (fun _ _ => .ok ()))

/-- DONE (R248). -/
def execDone (g : Guard) (s : State) : Host.Outcome State Fault Refusal :=
  guarded g 8 s (fun s =>
    if (s.st.task.map (fun (t : Task) => t.tr.kind == .rule)).getD false then trapc tVERDICT 0 else .ok (s.ending .done))

/-- The commit effects that R96 counts. Each leg of a relay counts its own (DESIGN CHOICE, log 39: R96 does not say). -/
def Task.counted (t : Task) : Nat := t.effects.countP (·.counted)

/-- REQUEUE (R249); it is itself one of the 32 effects of R96. -/
def execRequeue (g : Guard) (s : State) : Host.Outcome State Fault Refusal :=
  guarded g 8 s (fun s =>
    if 32 ≤ (s.st.task.map (·.counted)).getD 0 then trapc tCAPACITY 4 else .ok (s.ending .requeue))

/-! ### SPAWN, SEND and DEPOSIT (R250 to R252) -/

/-- Five consecutive registers from A on: the first and the four behind it. -/
def State.run5 (s : State) (a : SReg) : Vector Word 4 :=
  Vector.ofFn (fun i : Fin 4 => (s.st.sr.toList)[a.val + 1 + i.val]?.getD 0)

/-- SPAWN's answer has reached the strand: granted or BUSY (R92, R250). -/
def spawnCond (s : State) : Option (Nat × Nat × State) :=
  match s.st.spawn.bind (·.answer), (s.st.wait.map (·.stage)).getD 0 with
  | some (some j), 1 =>
    let s := s.mod (fun t => { t with spawn := none })
    match s.commit (.spawn j) with
    | .ok s => some (sOK, 0, s)
    | .error _ => none
  | some none, 1 => some (sBUSY, 0, s.mod (fun t => { t with spawn := none }))
  | _, _ => none

/-- A grant has reached the strand (R92). -/
def State.spawnGranted (s : State) : Bool :=
  (s.st.wait.map (·.stage)).getD 0 == 1 && ((s.st.spawn.bind (·.answer)).map (·.isSome)).getD false

/-- SPAWN, tested (R250). A grant that would be the 33rd commit effect traps CAPACITY, and its strand is released. -/
def spawnPoll (p : Poll) (g : Guard) (kd : Kind) (d a : SReg) (b : BReg) (l : SReg) (pc : BitVec 24) (s : State) :
    Except TrapInfo State :=
  let m := (s.rS a).toNat
  let nl := (s.curLaunch.map (·.nlcore)).getD 0
  if nl ≤ m then .ok ((s.statusB d sFAULT 1).adv 8)
  else if boxMalformed (s.rB b) then .ok ((s.statusB d sFAULT 2).adv 8)
  else if s.spawnGranted ∧ 32 ≤ (s.st.task.map (·.counted)).getD 0 then trapc tCAPACITY 4
  else
    let s := if p = .issue then
        (s.mod (fun t =>
          { t with spawn := some ⟨s.curCtx, m, kd, pc.setWidth 32 * 8, s.rB b, s.run5 a, none⟩ })).post s.cur .spawnReservationRequest
      else s
    .ok (s.blocking p (.spawn g kd d a b l pc) d (s.deadline l) spawnCond
      (fun s => (sTIMEOUT, 0, s.dropSpawn s.cur)))

/-- SPAWN (R250). -/
def execSpawn (g : Guard) (kd : Kind) (d a : SReg) (b : BReg) (l : SReg) (pc : BitVec 24) (s : State) :
    Host.Outcome State Fault Refusal :=
  guarded g 8 s (spawnPoll .issue g kd d a b l pc)

/-- SEND (R251). -/
def execSend (g : Guard) (vn : Bool) (a : SReg) (pc : BitVec 32) (s : State) : Host.Outcome State Fault Refusal :=
  guarded g 8 s (fun s =>
    let m := s.rS a
    let l := s.curLaunch
    let i : Fin 2 := if vn then 1 else 0
    let tk := s.st.task
    if (l.map (·.nlcore)).getD 0 ≤ m.toNat then .error ⟨tRANGE, 64, m, 0⟩
    else if 16 ≤ s.st.send[i].length then trapc tSENDQ (b2n vn)
    else
      let src := (tk.map (fun t => s.globalLc t.lc)).getD 0
      let key := (tk.map (fun t => boxKey t.tr.box)).getD 0
      let msg : Msg := ⟨m.setWidth 32, vn, BitVec.ofNat 4 s.curCtx, pc, BitVec.ofNat 32 src, 0, s.run5 a, key⟩
      let far := m.toNat / 1024 != (l.map (·.chipno)).getD 0
      let item : SendItem := ⟨msg, false, false, 0, far, 0, 0, 0, s.mark s.cur⟩
      .ok ((s.mod (fun t =>
        { t with send := t.send.set i (t.send[i] ++ [item])
                 task := t.task.map (fun k => { k with effects := k.effects ++ [.send vn] }) })).adv 8))

/-- DEPOSIT (R252). -/
def execDeposit (g : Guard) (t : Fmt) (a : SReg) (s : State) : Host.Outcome State Fault Refusal :=
  guarded g 8 s (fun s =>
    match s.st.task with
    | none => trapc tENGINE 0x0404
    | some tk =>
      let acc := (s.curLaunch.map (fun (l : Launch) => l.desc.acc)).getD .f32
      let dep := (tk.strands s.cur).any (fun j =>
        (((s.strand j).task.map (fun (x : Task) => x.deposited)).getD false))
      if tk.tr.kind ≠ .leaf ∧ tk.tr.kind ≠ .cont then trapc tENGINE 0x0404
      else if tk.tr.jref = 0 then trapc tENGINE 0x0401
      else if t ≠ acc then trapc tENGINE 0x0402
      else if dep then trapc tENGINE 0x0403
      else
        let n := tileLen (boxFree tk.tr.box) (fmtSize t)
        match s.access s.who kLoad (s.rS a) n 8 with
        | .error e => .error e
        | .ok _ =>
          match s.commit (.deposit tk.tr.jref (s.rS a) t tk.tr.box) with
          | .error e => .error e
          | .ok s =>
            .ok ((s.mod (fun x => { x with task := x.task.map (fun y => { y with deposited := true }) })).adv 8))

end Sys2Proof.Machine
end

