-- ==== Sys2Proof/Machine/Sync.lean ====
section
/-! DEFINITION. Counters and their waits (R88, R89, R253 to R255), barriers (R155, R256, R257) and fences (R153, R154,
R258). -/
namespace Sys2Proof.Machine

/-! ### Counters (R253) -/

/-- CINC and CADD: the checks of an 8-byte store, and the commit effect. -/
def counterAdd (a : SReg) (n : State → Word) (s : State) : Except TrapInfo State :=
  let w := s.who
  match s.access w kCounter (s.rS a) 8 8 with
  | .error t => .error t
  | .ok _ => ((s.touch w (s.rS a) 8).commit (.add (s.rS a) (n s))).map (fun s => s.adv 8)

/-- CINC (R253). -/
def execCinc (g : Guard) (a : SReg) (s : State) : Host.Outcome State Fault Refusal :=
  guarded g 8 s (counterAdd a (fun _ => 1))

/-- CADD (R253). -/
def execCadd (g : Guard) (a b : SReg) (s : State) : Host.Outcome State Fault Refusal :=
  guarded g 8 s (counterAdd a (fun s => s.rS b))

/-! ### The wait pool (R88, R89) -/

/-- Who tests a pool entry: the unlayer of the core that hosts the logical core, for the entry's task. -/
def State.poolWho (s : State) (lck : Nat) (tr : TaskRec) : Who :=
  let core := s.host (lcCtx lck) (lcLocal lck)
  s.whoFor (4 * core) core (lcCtx lck) false (some (taskOfRec lck tr .record)) nobody

/-- The counter of a pool entry has reached its target (R88); a word of the frame that the task has left is not there. -/
def State.poolMet (s : State) (lck : Nat) (tr : TaskRec) : Bool :=
  let w := s.poolWho lck tr
  match w.addrCheck tr.wctr 8 false with
  | .error _ => false
  | .ok _ => decide (tr.wtgt.toNat ≤ s.ldNat w tr.wctr 8)

/-- A pool entry is tested again (R89): a satisfied one is ready for dispatch; a counter that cannot be read ends the
launch (R135), and one in a refreshing bank of the weight store holds the test (R134). The saved pool of an evicted
logical core is left as it is (R171). The unit is the logical core. -/
def execPoolRetest (i : Nat) (s : State) : Host.Outcome State Fault Refusal :=
  let k := s.cur
  match (s.lc k).pool[i]? with
  | none => .next s
  | some p =>
    if p.satisfied ∨ p.tr.exp ∨ (s.lc k).evicted then .next s
    else if s.eccHit (s.poolWho k p.tr) p.tr.wctr 8 then .next (s.endLaunch (lcCtx k) 1)
    else
    let lines := (s.poolWho k p.tr).lines p.tr.wctr 8
    match s.unitStalls lines (p.stall, 0) with
    | some (e, _) => .next ((s.modLc k (fun l => { l with pool := setNth l.pool i { p with stall := e } })).poolPosts k)
    | none =>
    let s := if lines.isEmpty then s
      else s.countEv (dieF (s.host (lcCtx k) (lcLocal k))) 0x20 0 lines.length
    if s.poolMet k p.tr then
      .next ((s.modLc k (fun l => { l with pool := setNth l.pool i { p with satisfied := true } })).wakeCore
        (s.host (lcCtx k) (lcLocal k)))
    else .next (s.poolPosts k)

/-- A pool entry's expiry time passes (R89): an unsatisfied one is given EXP, but in the saved pool of an evicted
logical core (R171, R175). The unit is the logical core. -/
def execPoolExpiry (i : Nat) (s : State) : Host.Outcome State Fault Refusal :=
  let k := s.cur
  match (s.lc k).pool[i]? with
  | none => .next s
  | some p =>
    if p.satisfied ∨ p.tr.exp ∨ (s.lc k).evicted then .next s
    else if p.expiry ≤ s.now then
      .next ((s.modLc k (fun l =>
        { l with pool := setNth l.pool i { p with tr := { p.tr with exp := true } } })).wakeCore
          (s.host (lcCtx k) (lcLocal k)))
    else .next (s.poolPosts k)

/-- Entries of a logical core's pool, and relays that are to enter it once their legs have stopped (R88). -/
def State.poolUse (s : State) (lck : Nat) : Nat :=
  (s.lc lck).pool.length + s.strands.countP (fun (e : Nat × Strand) => match e.2.phase with
    | .yielding .. => (e.2.task.map (fun (t : Task) => t.lc)) == some lck
    | _ => false)

/-- The task has a record to place in the pool, and the pool has room (R88). -/
def State.canYield (s : State) : Bool :=
  match s.st.task with
  | none => false
  | some tk => tk.trigger == .record && decide (s.poolUse tk.lc < 16)

/-! ### WAITC and VWAITC (R254, R255) -/

/-- The first Y wait of a task dispatched with EXP finds its counter unmet (R89). -/
def State.expHere (s : State) (ea : Word) : Bool :=
  (s.st.task.map (fun (t : Task) => t.expArmed && t.tr.wctr == ea)).getD false

/-- A wait for counters at the given addresses to reach a target, tested; `detail` is the detail of its status. What EXP
turns into TIMEOUT is done with for this run of the task; the record keeps EXP for a re-run (R89, R165). -/
def countPoll (p : Poll) (i : Instr) (y : Bool) (d l : SReg) (eas : List Word) (tgt : Word)
    (detail : State → List Word → Nat) (s : State) : Except TrapInfo State :=
  let w := s.who
  match s.elemChecks w kLoad (fun j => nth eas j 0) 8 8 (List.range eas.length) with
  | .error t => .error t
  | .ok _ =>
    s.afterStall (eas.flatMap (fun ea => w.lines ea 8)) (fun s =>
      let s := eas.foldl (fun (s : State) ea => s.touch w ea 8) s
      let miss := fun (s : State) => eas.filter (fun ea => decide (s.ldNat w ea 8 < tgt.toNat))
      let spin := s.blocking p i d (s.deadline l)
        (fun s => if (miss s).isEmpty then some (sOK, detail s (miss s), s) else none)
        (fun s => (sTIMEOUT, detail s (miss s), s))
      s.unlessEcc w (eas.any (fun ea => s.eccHit w ea 8)) (match miss s with
      | [] => .ok spin
      | m :: _ =>
        if !y ∨ p ≠ .issue then .ok spin
        else if s.expHere m then
          let s' := s.mod (fun t => { t with task := t.task.map (fun x => { x with expArmed := false }) })
          .ok (((s'.statusB d sTIMEOUT (detail s (miss s))).adv 8).count (coreOf s.cur) 0x11)
        else if s.canYield then .ok (s.yield m tgt (s.deadline l))
        else .ok spin))

/-- WAITC, tested (R254); the detail is the low 56 bits of the value last read. -/
def waitcPoll (p : Poll) (g : Guard) (y : Bool) (d a b l : SReg) (s : State) : Except TrapInfo State :=
  let w := s.who
  let ea := s.rS a
  countPoll p (.waitc g y d a b l) y d l [ea] (s.rS b) (fun s _ => s.ldNat w ea 8 % 2 ^ 56) s

/-- WAITC (R254). -/
def execWaitc (g : Guard) (y : Bool) (d a b l : SReg) (s : State) : Host.Outcome State Fault Refusal :=
  guarded g 8 s (waitcPoll .issue g y d a b l)

/-- VWAITC, tested (R255); the detail is the number of unmet words. -/
def vwaitcPoll (p : Poll) (g : Guard) (y : Bool) (d a : SReg) (b : VReg) (l : SReg) (i : BitVec 24) (s : State) :
    Except TrapInfo State :=
  match s.tile 8 with
  | .error t => .error t
  | .ok e =>
    let eas := (List.range e).map (fun j => s.rS a + BitVec.ofNat 64 (velem (s.rV b) 8 j))
    countPoll p (.vwaitc g y d a b l i) y d l eas (i.setWidth 64) (fun _ m => m.length) s

/-- VWAITC (R255). -/
def execVwaitc (g : Guard) (y : Bool) (d a : SReg) (b : VReg) (l : SReg) (i : BitVec 24) (s : State) :
    Host.Outcome State Fault Refusal :=
  guarded g 8 s (vwaitcPoll .issue g y d a b l i)

/-! ### Barriers (R155, R256, R257) -/

/-- An outstanding-arrival slot changed. -/
def State.modArr (s : State) (k slot : Nat) (f : Arrival → Arrival) : State :=
  s.modStrand k (fun t => { t with arr := t.arr.setIfInBounds slot (((t.arr.toList)[slot]?.getD none).map f) })
def Strand.arrAt (t : Strand) (slot : Nat) : Option Arrival := (t.arr.toList)[slot]?.getD none
def State.freeArr (s : State) (slot : Nat) : State := s.mod (fun t => { t with arr := t.arr.setIfInBounds slot none })

/-- Strands of a context whose arrival at a record belongs to a generation (R256). -/
def State.members (s : State) (ctx : Nat) (va : Word) (gen : Nat) : List Nat :=
  (s.strands.filter (fun (e : Nat × Strand) =>
    ((e.2.task.map (·.ctx)).getD 0) == ctx && e.2.arr.toList.any (fun a =>
      match a with
      | none => false
      | some a => a.va == va && a.gen == gen && a.reply && !a.done && !(a.scope == .row)))).map (fun e => e.1)

/-- arrive(rec, n) at the home (R256), for an arrival from die `d`: its failure detail or 0, its generation, and the
state, in which a completed generation is news to its participants, on other chips too for system scope; an
uncorrectable error in the record ends the launch (R135). -/
def State.arriveHome (s : State) (core ctx : Nat) (sc : Scope) (va : Word) (n : Nat) : Nat × Nat × State :=
  match s.xlate core ctx va.toNat with
  | .error _ => (2, 0, s)
  | .ok x =>
    let pa := x.pa (dieOf core)
    let d := dieF core
    let (count, gen, nn) := s.barRead pa
    if s.barHit core ctx va then (2, 0, s.endLaunch ctx 1)
    else if n = 0 ∨ 2 ^ 32 ≤ n then (2, 0, s)
    else if 0 < count ∧ nn ≠ n then (1, 0, s)
    else if sc = .die ∧ 0 < count ∧ s.barDie.get pa 0 ≠ d.val then (3, 0, s)
    else
      let s := { s with barDie := s.barDie.set pa (if count = 0 then d.val else s.barDie.get pa 0) }
      if count + 1 = n then
        let s := s.barWrite d pa 0 ((gen + 1) % 2 ^ 32) 0
        let s := s.posts ((s.members ctx va gen).map (fun k => (k, Instr.barrierComplete)))
        let far := match sc, s.launch? ctx with
          | .sys, some l => (List.range l.nchip).filter (fun c => c != l.chipno)
          | _, _ => []
        (0, gen, far.foldl (fun (s : State) c => s.xcSend (lcKey ctx 0) c (.barComplete va.toNat gen)) s)
      else (0, gen, s.barWrite d pa (count + 1) gen n)

/-- The operands of the barrier arrival that a strand waits in: scope, record and participants. -/
def arrivalOf (s : State) (k : Nat) : Option (Scope × Word × Word) :=
  match ((s.strand k).wait.map (fun (w : Wait) => w.instr)) with
  | some (.bar _ sc _ a b _) => some (sc, (s.strand k).rS a, (s.strand k).rS b)
  | some (.bara _ sc _ a b) => some (sc, (s.strand k).rS a, (s.strand k).rS b)
  | _ => none

/-- An arrival reaches its home (R256): the wired barrier of the row, the record, or, for a system-scope barrier of
another chip, the exchange to chip 0. The unit is the strand. -/
def execBarrierArrival (s : State) : Host.Outcome State Fault Refusal :=
  let k := s.cur
  let core := coreOf k
  let slot : Nat := (s.st.wait.map (·.stage)).getD 0 / 4
  match arrivalOf s k, s.st.arrAt slot, s.st.task with
  | some (sc, va, n), some a, some tk =>
    if a.reply then .next s
    else
      match sc with
      | .row =>
        let part : Fin 4 := Fin.ofNat 4 (s.part core tk.ctx)
        if bits n 63 16 ≠ 0 ∨ !n.getLsbD (colOf core) then
          .next (s.modArr k slot (fun a => { a with reply := true, fail := 3 }))
        else
          let s := s.modRow (rowOf core) (fun r =>
            { r with barr := r.barr.set part (r.barr[part] ++ [⟨k, n.setWidth 16, none, slot⟩]) })
          .next ((s.modArr k slot (fun a => { a with reply := true })).post (rowOf core) (.gangBarrier part))
      | sc =>
        if sc = .sys ∧ !s.sysHome tk.ctx then
          .next (s.xcSend tk.lc 0 (.barArrive va.toNat n.toNat (s.globalLc tk.lc) (s.mark k)))
        else
          let (f, g, s) := s.arriveHome core tk.ctx sc va n.toNat
          let s := s.modArr k slot (fun a => { a with reply := true, fail := f, gen := g })
          .next (s.post k .barrierComplete)
  | _, _, _ => .next s

/-- A withdrawal reaches the home (R155, R256): the arrival is taken back unless its generation has completed. The unit
is the strand. -/
def execBarrierWithdraw (s : State) : Host.Outcome State Fault Refusal :=
  let k := s.cur
  let core := coreOf k
  let st : Nat := (s.st.wait.map (·.stage)).getD 0
  let slot := st / 4
  match s.st.arrAt slot, s.st.task with
  | some a, some tk =>
    if st % 4 = 0 ∨ a.done ∨ a.fail ≠ 0 then .next s
    else
      match a.scope with
      | .row => .next (if s.gangFull k slot then s else (s.withdrawRow k slot).modArr k slot (fun a => { a with fail := 8 }))
      | sc =>
        if sc = .sys ∧ !s.sysHome tk.ctx then
          .next (s.xcSend tk.lc 0 (.barWithdraw a.va.toNat a.gen (s.globalLc tk.lc) (s.mark k)))
        else
          let (ok, t) := s.withdraw core tk.ctx a
          if s.barHit core tk.ctx a.va then .next (s.endLaunch tk.ctx 1)
          else
          let s := t
          if ok then .next (s.modArr k slot (fun a => { a with fail := 8 }))
          else .next ((s.modArr k slot (fun a => { a with done := true })).drain (dieF core))
  | _, _ => .next s

/-- News of a generation's completion reaches a participant (R155): what every arrival had made visible is visible to
it; a record in a line with an uncorrectable error ends the launch (R135). The unit is the strand. -/
def execBarrierComplete (s : State) : Host.Outcome State Fault Refusal :=
  let k := s.cur
  let core := coreOf k
  let ctx := s.curCtx
  let fin := fun (a : Arrival) =>
    a.reply && !a.done && !(a.scope == .row) && (a.scope != .sys || s.sysHome ctx) &&
      (match s.xlate core ctx a.va.toNat with
       | .ok x => (s.barRead (x.pa (dieOf core))).2.1 != a.gen
       | .error _ => false)
  if s.arrHit k then .next (s.endLaunch ctx 1)
  else if s.st.arr.toList.any (fun a => (a.map fin).getD false) then
    .next ((s.mod (fun t =>
      { t with arr := t.arr.map (fun a => a.map (fun a => if fin a then { a with done := true } else a)) })).drain
        (dieF core))
  else .next s

/-- A BAR or BARW on its slot, tested (R155, R257): at the deadline or the bound the arrival is withdrawn, and what the
home answers decides the status. -/
def barTest (p : Poll) (i : Instr) (d : SReg) (dl slot : Nat) (s : State) : State :=
  let st : Nat := (s.st.wait.map (·.stage)).getD 0
  let c := st % 4
  let fin := fun (code detail : Nat) => (((s.freeArr slot).unblock).statusB d code detail).adv 8
  match s.st.arrAt slot with
  | none => ((s.unblock).statusB d sSTALE 0).adv 8
  | some a =>
    if !a.reply then s.block i dl (4 * slot + c)
    else if a.done then fin sOK 0
    else if a.fail = 8 then
      if c = 2 then (fin sEVICT 1).count (coreOf s.cur) 0x12 else (fin sTIMEOUT 0).count (coreOf s.cur) 0x11
    else if a.fail ≠ 0 then fin sFAULT a.fail
    else if c ≠ 0 then s.block i dl st
    else if p = .expire ∨ (p = .issue ∧ dl = 0) then (s.block i dl (4 * slot + 1)).post s.cur .barrierWithdraw
    else if p = .bound then (s.block i dl (4 * slot + 2)).post s.cur .barrierWithdraw
    else s.block i dl (4 * slot)

/-- A BARA handle (R257). -/
def barHandle (gen slot : Nat) : Word := BitVec.ofNat 64 (gen % 2 ^ 32 * 2 ^ 32 + slot * 512 + 256)
/-- The handle of an arrival that was not made. -/
def barFailed (detail : Nat) : Word := BitVec.ofNat 64 (3 + detail * 2 ^ 11)

/-- The address checks of a barrier record (R256). DESIGN CHOICE (log 51): a pointer outside window 0x0 traps
ADDR_RANGE. -/
def State.barCheck (s : State) (sc : Scope) (ea : Word) : Except TrapInfo Unit :=
  if sc = .row then .ok ()
  else
    match alignCheck ea 16 16 with
    | .error t => .error t
    | .ok _ => if window ea ≠ 0 then .error ⟨tRANGE, 16, ea, 0⟩ else s.access s.who kCounter ea 16 16

/-- The arrival of a BAR or BARA is sent (R256, R257): it takes the lowest free slot, none when four are in use. -/
def State.sendArrival (s : State) (i : Instr) (sc : Scope) (va : Word) (dl : Nat) : Option (Nat × State) :=
  match (List.range 4).find? (fun j => (s.st.arrAt j).isNone) with
  | none => none
  | some j =>
    let s := s.mod (fun t => { t with arr := t.arr.setIfInBounds j (some ⟨sc, va, 0, false, false, 0⟩) })
    some (j, (s.block i dl (4 * j)).post s.cur .barrierArrival)

/-- BAR, tested (R257). -/
def barPoll (p : Poll) (g : Guard) (sc : Scope) (d a b l : SReg) (s : State) : Except TrapInfo State :=
  let i := Instr.bar g sc d a b l
  if p = .issue then
    match s.barCheck sc (s.rS a) with
    | .error t => .error t
    | .ok _ =>
      match s.sendArrival i sc (s.rS a) (s.deadline l) with
      | none => .ok ((s.statusB d sFAULT 5).adv 8)
      | some (_, s) => .ok s
  else .ok (barTest p i d (s.deadline l) ((s.st.wait.map (·.stage)).getD 0 / 4) s)

/-- BAR (R257). -/
def execBar (g : Guard) (sc : Scope) (d a b l : SReg) (s : State) : Host.Outcome State Fault Refusal :=
  guarded g 8 s (barPoll .issue g sc d a b l)

/-- BARA, tested (R257): it holds its strand until the home has answered. -/
def baraPoll (p : Poll) (g : Guard) (sc : Scope) (d a b : SReg) (s : State) : Except TrapInfo State :=
  if p = .issue then
    match s.barCheck sc (s.rS a) with
    | .error t => .error t
    | .ok _ =>
      match s.sendArrival (.bara g sc d a b) sc (s.rS a) (2 ^ 64) with
      | none => .ok ((s.wS d (barFailed 5)).adv 8)
      | some (_, s) => .ok s
  else
    let slot : Nat := (s.st.wait.map (·.stage)).getD 0 / 4
    match s.st.arrAt slot with
    | none => .ok (((s.unblock).wS d (barFailed 5)).adv 8)
    | some x =>
      if !x.reply then .ok s
      else if x.fail ≠ 0 then .ok ((((s.freeArr slot).unblock).wS d (barFailed x.fail)).adv 8)
      else .ok (((s.unblock).wS d (barHandle x.gen slot)).adv 8)

/-- BARA (R257). -/
def execBara (g : Guard) (sc : Scope) (d a b : SReg) (s : State) : Host.Outcome State Fault Refusal :=
  guarded g 8 s (baraPoll .issue g sc d a b)

/-- The slot that a BARW handle names, when its arrival is outstanding (R257). -/
def Strand.barSlot (t : Strand) (h : Word) : Option Nat :=
  let slot := bits h 10 9
  match t.arrAt slot with
  | none => none
  | some a => if h.getLsbD 8 && a.gen == bits h 63 32 then some slot else none

/-- BARW, tested (R257). -/
def barwPoll (p : Poll) (g : Guard) (d a l : SReg) (s : State) : Except TrapInfo State :=
  match s.st.barSlot (s.rS a) with
  | none => .ok (((s.unblock).statusB d sSTALE 0).adv 8)
  | some slot => .ok (barTest p (.barw g d a l) d (s.deadline l) slot s)

/-- BARW (R257). -/
def execBarw (g : Guard) (d a l : SReg) (s : State) : Host.Outcome State Fault Refusal :=
  guarded g 8 s (barwPoll .issue g d a l)

/-! ### Fences (R153, R154, R258) -/

/-- The source latched in a bank of a core (R321). -/
def State.latchedSrc (s : State) (core part : Nat) : WSrc := ((s.core core).latched.toList)[part]?.getD .none

/-- What an op may leave in its bank of the weight store: nothing, or a tile by its number where that is known. An op
that no strand of the next one has issued may stop, or be held behind a stop, and then changes the bank only in part or
not at all (R321, R323). -/
def MxOp.leaves (x : MxOp) (sure : Bool) (b : Option (Option Nat)) : List (Option (Option Nat)) :=
  let or := fun (l : List (Option (Option Nat))) => if sure then l else b :: l
  match x.kind with
  | .mldw _ (.ws ..) none => or [some (some 0)]
  | .mldw .. => or [none]
  | .mma .. | .mmag .. =>
    let tiles := (List.range (x.kind.steps - x.step)).map (fun j => some (x.kind.tileOf (x.step + j)))
    if b.isNone then [none] else if sure then [some (some (x.kind.tileOf (x.kind.steps - 1)))] else b :: tiles.map some
  | .mmas .. => if b.isNone then [none] else or [some none]
  | .mout .. | .mzero .. => [b]

/-- What a core's weight bank may hold of the weight store when op `o` begins, after the ops before it (R321). -/
def State.banksAt (s : State) (core : Nat) (o : MxOp) : List (Option (Option Nat)) :=
  (s.ops.takeWhile (fun x => x.id != o.id)).foldl (fun l (x : MxOp) =>
    if x.cancel || x.part != o.part || x.strands.all (fun k => coreOf k != core) then l
    else (l.flatMap (x.leaves (x.strands.any (has o.strands)))).eraseDups)
    [match s.latchedSrc core o.part with
     | .ws _ _ i _ => some (some i)
     | _ => none]

/-- Entries of an MMAS that are not read yet, whose tiles are not fetched yet either (R325). -/
def MxOp.entriesLeft (o : MxOp) : Bool :=
  match o.kind with
  | .mmas .. => decide (o.step + o.ents.length < o.kind.steps)
  | _ => false

/-- A product may have tiles of the weight store to read, into the bank of a member (R321). -/
def State.weightsLeft (s : State) (o : MxOp) : Bool :=
  o.strands.any (fun k => (s.banksAt (coreOf k) o).any (fun b =>
    match b with
    | none => false
    | some i =>
      match o.kind with
      | .mmas .. => o.ents.any (fun e => !e.absent && i != some e.c)
      | m => (List.range (m.steps - o.step)).any (fun j => i != some (m.tileOf (o.step + j)))))

/-- A macro-op has accesses to make on path MX (R143): MLDW's reads of the weight store, MOUT's writes, a product's
reads of weight tiles (R321), MMAS's of its tile list (R325). -/
def State.onPath (s : State) (o : MxOp) : Bool :=
  match o.kind with
  | .mldw _ _ none | .mout .. => true
  | .mldw _ _ (some _) | .mzero .. => false
  | .mma .. | .mmag .. | .mmas .. => o.entriesLeft || s.weightsLeft o

/-- An engine command makes accesses before its task ends; SCATA's adds are issued after DONE (R335). -/
def Cmd.early (c : Cmd) : Bool :=
  match c.instr with
  | .scata .. => false
  | _ => true

/-- Every access on a path that the strand's task has issued is performed on its die (R143, R154): LS accesses are at
issue, and the splicer's belong to released groups; a command that is stopped for eviction has accesses to come. -/
def State.pathDrained (s : State) (k n : Nat) : Bool :=
  let m := s.mark k
  match n with
  | 1 => s.xfers.all (fun x => !(x.mark == m && x.path == 1))
  | 2 => (s.core (coreOf k)).slots.toList.all (fun (x : Slot) => !(x.owner == m && (x.st == 2 || x.pend.isSome)))
    && s.ops.all (fun o => !(o.of k && !o.cancel && o.entriesLeft))
  | 3 => s.ops.all (fun o => !(o.of k && !o.cancel && s.onPath o))
  | 4 | 5 | 6 => s.cmds.all (fun x =>
      !(x.mark == m && x.engine == n - 3 && x.live && !x.cancel && x.st != 2 && x.st != 4 && x.early))
  | _ => true

/-- The drained paths of a mask. -/
def State.drained (s : State) (k mask : Nat) : Nat :=
  (List.range 8).foldl (fun m n => if mask / 2 ^ n % 2 = 1 ∧ s.pathDrained k n then m + 2 ^ n else m) 0

/-- FENCE, tested (R154). -/
def fencePoll (p : Poll) (g : Guard) (d l : SReg) (before after : BitVec 8) (s : State) : Except TrapInfo State :=
  .ok (s.blocking p (.fence g d l before after) d (s.deadline l)
    (fun s => if before = 0 ∨ after = 0 ∨ s.drained s.cur before.toNat = before.toNat then some (sOK, 0, s) else none)
    (fun s => (sPARTIAL, s.drained s.cur before.toNat, s)))

/-- FENCE (R154, R258). -/
def execFence (g : Guard) (d l : SReg) (before after : BitVec 8) (s : State) : Host.Outcome State Fault Refusal :=
  guarded g 8 s (fencePoll .issue g d l before after)

/-- Every write that a die has performed is performed on all four dies (R153). -/
def State.settled (s : State) (d : Fin 4) : Bool :=
  (List.finRange 4).all (fun e => (List.finRange 4).all (fun i =>
    ((s.die e).view.vc[i] - (s.die d).view.vc[i]).msb == false))

/-- No write that the strand's task made on a path is still on its way to a die (R153). -/
def State.pathLanded (s : State) (k n : Nat) : Bool :=
  s.dies.toList.all (fun d => d.view.pend.all (fun w => !(w.mark == s.mark k && w.path == n)))

/-- The paths on which every access of the strand's task is performed on all four dies. -/
def State.drainedAll (s : State) (k : Nat) : Nat :=
  (List.range 8).foldl (fun m n => if s.pathDrained k n && s.pathLanded k n then m + 2 ^ n else m) 0

/-- FENCESC, tested (R153): its place in the order of all FENCESC is the step at which it ends OK, with every path
drained in D[15:8] (R258). -/
def fencescPoll (p : Poll) (g : Guard) (d l : SReg) (s : State) : Except TrapInfo State :=
  .ok (s.blocking p (.fencesc g d l) d (s.deadline l)
    (fun s => if s.drainedAll s.cur = 255 ∧ s.settled (dieF (coreOf s.cur)) then some (sOK, 255, s) else none)
    (fun s => (sTIMEOUT, s.drainedAll s.cur, s)))

/-- FENCESC (R153, R258). -/
def execFencesc (g : Guard) (d l : SReg) (s : State) : Host.Outcome State Fault Refusal :=
  guarded g 8 s (fencescPoll .issue g d l)

end Sys2Proof.Machine
end

