-- ==== Sys2Proof/Machine/Batons.lean ====
section
/-! DEFINITION. Batons (R130 to R132, R260 to R264). -/
namespace Sys2Proof.Machine

/-- The descriptor entry of a baton: offset, slot size, depth, CORE, relay (R231, R237). -/
def Launch.baton (l : Launch) (x : Nat) : Option (Nat × Nat × Nat × Bool × Nat) := l.desc.batons[x]?

/-- A baton handle (R260). -/
def batonHandle (lcore index : Nat) (remote : Bool) : Word :=
  BitVec.ofNat 64 (lcore * 2 ^ 44 + 2 ^ 43 + b2n remote * 2 ^ 42 + index * 2 ^ 32)

/-- BDECL's handle (R260). -/
def State.declare (s : State) (remote : Bool) (a : SReg) (x : Nat) : Word :=
  match s.st.task, s.curLaunch with
  | some tk, some l =>
    match l.baton x with
    | none => 0
    | some (_, _, _, core, _) =>
      let c := (s.rS a).toNat
      if remote then
        if l.nlcore ≤ c ∨ !s.who.hosted c ∨ !core then 0 else batonHandle c x true
      else if !core ∧ tk.legs.isEmpty then 0
      else batonHandle (s.globalLc tk.lc) x false
  | _, _ => 0

/-- BDECL (R260). -/
def execBdecl (g : Guard) (rem : Bool) (d a : SReg) (x : Fin 16) (s : State) : Host.Outcome State Fault Refusal :=
  plain g s (fun s => s.wS d (s.declare rem a x.val))

/-! ### Tables (R130) -/

def State.batonOf (s : State) (lck x : Nat) : Baton := nth (s.lc lck).batons x noBaton
def State.modBaton (s : State) (lck x : Nat) (f : Baton → Baton) : State :=
  s.modLc lck (fun l => { l with batons := setNth l.batons x (f (nth l.batons x noBaton)) })
/-- The slot of a sequence (R130). -/
def Baton.index (b : Baton) (q : BitVec 32) : Nat := q.toNat % b.depth
def Baton.slot (b : Baton) (q : BitVec 32) : BSlot := nth b.slots (b.index q) noSlot
def Baton.put (b : Baton) (q : BitVec 32) (x : BSlot) : Baton := { b with slots := setNth b.slots (b.index q) x }
/-- q − NEXTREL, read as signed (R130). -/
def Baton.rel (b : Baton) (q : BitVec 32) : Int := (q - b.nextrel).toInt
/-- The slot holds tag q. One that is FREE again holds no tag, so that q may be accepted anew while NEXTREL has not
passed it (R131, R132, R363). -/
def Baton.tagged (b : Baton) (q : BitVec 32) : Bool := (b.slot q).st != 0 && (b.slot q).tag == some q
/-- The slot's offset in the task's view of window 0x2 (R126, R261). -/
def Baton.viewOff (b : Baton) (sa : Nat) (q : BitVec 32) : Nat :=
  (if b.core then Config.ldsBytes - sa else 0) + b.off + b.index q * b.size

/-- The baton that a handle names, as WAITB requires it: VALID, not REMOTE, of the task's logical core (R261). DESIGN
CHOICE (log 51): a handle whose INDEX is no baton of the launch names none, and WAITB then gives STALE 3. -/
def State.ownBaton (s : State) (h : Word) : Option (Nat × Nat) :=
  match s.st.task with
  | none => none
  | some tk =>
    let x := bits h 35 32
    if h.getLsbD 43 && !h.getLsbD 42 && bits h 63 44 == s.globalLc tk.lc && decide (x < (s.lc tk.lc).batons.length) then
      some (tk.lc, x)
    else none

/-- A slot belongs to the task of the strand, or to a leg of its relay (R262). -/
def State.ownsSlot (s : State) (x : BSlot) : Bool :=
  !x.remote && (match s.st.task with
    | none => false
    | some tk => has (tk.strands s.cur) x.owner)

/-! ### WAITB, BADV, BREL, BSTAT (R261 to R263) -/

/-- One evaluation of WAITB (R261): the status when it ends. -/
def waitbCond (prod : Bool) (a b : SReg) (s : State) : Option (Nat × Nat × State) :=
  let q : BitVec 32 := (s.rS b).setWidth 32
  match s.ownBaton (s.rS a) with
  | none => some (sSTALE, 3, s)
  | some (lck, x) =>
    let t := s.batonOf lck x
    let sl := t.slot q
    let r := t.rel q
    let off := t.viewOff ((s.curLaunch.map (fun (l : Launch) => l.sa)).getD 0) q
    if r < 0 then some (sSTALE, 2, s)
    else if prod ∧ (sl.st = 2 ∨ sl.st = 3) ∧ t.tagged q then some (sSTALE, 1, s)
    else if !prod ∧ sl.st = 2 ∧ t.tagged q then
      some (sOK, off, (s.modBaton lck x (fun t => t.put q { sl with st := 3, owner := s.cur, remote := false })).drain
        (dieF (coreOf s.cur)))
    else if prod ∧ r < t.depth ∧ sl.st = 0 then
      some (sOK, off, s.modBaton lck x (fun t => t.put q ⟨1, some q, s.cur, false, 0⟩))
    else none

/-- WAITB, tested (R261). -/
def waitbPoll (p : Poll) (g : Guard) (prod : Bool) (d a b l : SReg) (s : State) : Except TrapInfo State :=
  .ok (s.blocking p (.waitb g prod d a b l) d (s.deadline l) (waitbCond prod a b) (fun s => (sTIMEOUT, 0, s)))

/-- WAITB (R261). -/
def execWaitb (g : Guard) (prod : Bool) (d a b l : SReg) (s : State) : Host.Outcome State Fault Refusal :=
  guarded g 8 s (waitbPoll .issue g prod d a b l)

/-- BADV (R262). -/
def execBadv (g : Guard) (d a b : SReg) (s : State) : Host.Outcome State Fault Refusal :=
  plain g s (fun s =>
    let q : BitVec 32 := (s.rS b).setWidth 32
    match s.ownBaton (s.rS a) with
    | none => s.status d sSTALE 3
    | some (lck, x) =>
      let t := s.batonOf lck x
      if (t.slot q).st = 1 ∧ t.tagged q ∧ s.ownsSlot (t.slot q) then
        (s.modBaton lck x (fun t => t.put q { t.slot q with st := 2, owner := nobody })).status d sOK 0
      else s.status d sSTALE 4)

/-- BREL (R262): a RELAY slot is FREE at once, a CORE slot at the group's release. -/
def execBrel (g : Guard) (d a b : SReg) (s : State) : Host.Outcome State Fault Refusal :=
  guarded g 8 s (fun s =>
    let q : BitVec 32 := (s.rS b).setWidth 32
    match s.ownBaton (s.rS a) with
    | none => .ok ((s.status d sSTALE 3).adv 8)
    | some (lck, x) =>
      let t := s.batonOf lck x
      if (t.slot q).st = 3 ∧ t.tagged q ∧ s.ownsSlot (t.slot q) then
        if t.core then (s.commit (.brel lck x (t.index q))).map (fun s => (s.status d sOK 0).adv 8)
        else .ok (((s.modBaton lck x (fun t => batonFree t (t.index q))).status d sOK 0).adv 8)
      else .ok ((s.status d sSTALE 4).adv 8))

/-- BSTAT's word (R263). -/
def Baton.word (b : Baton) (q : BitVec 32) : Word :=
  BitVec.ofNat 64 (b.nextrel.toNat * 2 ^ 32 + b.depth % 256 * 2 ^ 24 + b.size / 64 % 65536 * 256 + b2n b.core * 128
    + b2n (b.tagged q) * 64 + (b.slot q).st % 4)

/-- BSTAT (R263). -/
def execBstat (g : Guard) (d a b : SReg) (s : State) : Host.Outcome State Fault Refusal :=
  plain g s (fun s =>
    match s.ownBaton (s.rS a) with
    | none => s.wS d (BitVec.allOnes 64)
    | some (lck, x) => s.wS d ((s.batonOf lck x).word ((s.rS b).setWidth 32)))

/-! ### SENDB (R132, R264) -/

/-- The baton that a handle names on this chip, when it is VALID (R264). -/
def State.anyBaton (s : State) (h : Word) : Option (Nat × Nat) :=
  let c := bits h 63 44
  let base := (s.curLaunch.map (fun (l : Launch) => l.chipno * 1024)).getD 0
  let lck := lcKey s.curCtx (c - base)
  if h.getLsbD 43 && s.who.hosted c && decide (bits h 35 32 < (s.lc lck).batons.length) then some (lck, bits h 35 32)
  else none

/-- The router of the core that hosts a logical core answers writes with RETRY: while the quiet of a HALT.Q lasts, and
from step 4 of an eviction (R170, R176). -/
def State.retries (s : State) (lck : Nat) : Bool :=
  (s.lc lck).draining || (s.lc lck).evicted || (s.core (s.host (lcCtx lck) (lcLocal lck))).refuse

/-- What an offer meets at a CORE baton (R132): 1 accepted, 2 and 3 refused STALE 1 and 2, 4 NACK, 5 RETRY. -/
def State.offer (s : State) (lck x : Nat) (q : BitVec 32) : Nat :=
  let t := s.batonOf lck x
  if s.retries lck then 5
  else if t.rel q < 0 then 3
  else if t.tagged q then 2
  else if (t.depth : Int) ≤ t.rel q ∨ (t.slot q).st ≠ 0 then 4
  else 1

/-- Bytes that land in a baton slot at an offset (R131); the slot is FULL when they are the last. -/
def State.land (s : State) (lck x slot off : Nat) (l : List Byte) (last : Bool) : State :=
  let s := { s with lds := Mem.write s.lds (s.slotPhys lck x slot off) l }
  s.modBaton lck x (fun t =>
    let y := nth t.slots slot noSlot
    { t with slots := setNth t.slots slot
               (if last then { y with st := 2, owner := nobody, remote := false, got := 0 }
                else { y with got := y.got + l.length }) })

/-- The length of a SENDB, 0 in its field standing for the slot size. -/
def sendbLen (len : BitVec 11) (size : Nat) : Nat := if len = 0 then size else 64 * len.toNat

/-- SENDB's source checks (R264). -/
def State.sendbCheck (s : State) (src : Word) (n : Nat) : Except TrapInfo Unit := do
  alignCheck src n 64
  if window (src + BitVec.ofNat 64 (n - 1)) ≠ window src then s.who.addrCheck src n false
  if window src ≠ 2 ∧ window src ≠ 3 then .error ⟨tRANGE, n, src, 0⟩
  s.access s.who kLoad src n 64

/-- SENDB, tested (R264): the stage of its wait holds what its offer met, or the cycle from which it is offered again. -/
def sendbPoll (p : Poll) (g : Guard) (d a b c l : SReg) (len : BitVec 11) (s : State) : Except TrapInfo State :=
  let i := Instr.sendb g d a b c l len
  let stage : Nat := (s.st.wait.map (·.stage)).getD 0
  let fin := fun (code detail : Nat) => ((s.unblock).statusB d code detail).adv 8
  if p = .issue then
    match s.anyBaton (s.rS b) with
    | none => .ok ((s.statusB d sSTALE 3).adv 8)
    | some (lck, x) =>
      let t := s.batonOf lck x
      let n := sendbLen len t.size
      if !t.core then .ok ((s.statusB d sFAULT 2).adv 8)
      else if t.size < n then .ok ((s.statusB d sFAULT 1).adv 8)
      else
        match s.sendbCheck (s.rS a) n with
        | .error t => .error t
        | .ok _ => .ok ((s.block i (s.deadline l) 0).post s.cur .sendbArrival)
  else if stage = 1 then .ok (fin sOK 0)
  else if stage = 2 then .ok (fin sSTALE 1)
  else if stage = 3 then .ok (fin sSTALE 2)
  else if 16 ≤ stage ∧ p = .expire then .ok ((fin sTIMEOUT 0).count (coreOf s.cur) 0x11)
  else if 16 ≤ stage ∧ p = .bound then .ok ((fin sEVICT 1).count (coreOf s.cur) 0x12)
  else .ok s

/-- SENDB (R264). -/
def execSendb (g : Guard) (d a b c l : SReg) (len : BitVec 11) (s : State) : Host.Outcome State Fault Refusal :=
  guarded g 8 s (sendbPoll .issue g d a b c l len)

/-- The stage of the current wait. -/
def State.setStage (s : State) (n : Nat) : State :=
  s.mod (fun t => { t with wait := t.wait.map (fun w => { w with stage := n }) })

/-- A SENDB offer reaches the baton (R132): accepted, it is FILLING and its bytes are on their way; refused with NACK or
RETRY, it is offered again no sooner than 64 or 256 cycles later (R79, R170). The unit is the sending strand. -/
def execSendbArrival (s : State) : Host.Outcome State Fault Refusal :=
  let k := s.cur
  match s.st.wait with
  | none => .next s
  | some w =>
    match w.instr with
    | .sendb _ _ a b c _ len =>
      let q : BitVec 32 := (s.rS c).setWidth 32
      if 0 < w.stage ∧ w.stage < 16 then .next s
      else if s.cyc (coreOf k) < w.stage - 16 then .next (s.post k .sendbArrival)
      else
        match s.anyBaton (s.rS b) with
        | none => .next (s.setStage 2)
        | some (lck, x) =>
          match s.offer lck x q with
          | 1 =>
            let t := s.batonOf lck x
            let n := sendbLen len t.size
            let sender := (s.st.task.map (fun (t : Task) => t.lc)).getD 0
            let xf : Xfer := ⟨s.mark k, 1, coreOf k, sender, s.rS a, s.st.task, n, lck, x, t.index q, q, 0, true⟩
            let s := s.modBaton lck x (fun t => t.put q ⟨1, some q, k, true, 0⟩)
            .next (({ s with xfers := s.xfers ++ [xf] }.setStage 1).post k .sendbLanded)
          | 2 => .next (s.setStage 2)
          | 3 => .next (s.setStage 3)
          | 4 => .next ((s.setStage (16 + s.cyc (coreOf k) + 64)).post k .sendbArrival)
          | _ => .next ((s.setStage (16 + s.cyc (coreOf k) + 256)).post k .sendbArrival)
    | _ => .next s

/-- Who reads the source of a transfer: its task as it was at issue, whose journaled keep stores come first (R147). -/
def State.xferWho (s : State) (x : Xfer) : Who :=
  { s.whoFor (markStrand x.mark) x.core (lcCtx x.lc) false x.maker x.mark with path := x.path }

/-- The last byte of the strand's oldest accepted SENDB lands (R131, R264): the source is read and the slot is FULL. The
unit is the sending strand. -/
def execSendbLanded (s : State) : Host.Outcome State Fault Refusal :=
  match findIdx (fun (x : Xfer) => markStrand x.mark == s.cur && x.path == 1) s.xfers 0 with
  | none => .next s
  | some j =>
    match s.xfers[j]? with
    | none => .next s
    | some x =>
      let l := s.ldBytes (s.xferWho x) x.src x.len
      let s := { s with xfers := dropNth s.xfers j }
      .next ((s.land x.lc x.baton x.slot x.off l x.last).wakeCore x.core)

end Sys2Proof.Machine
end

