-- ==== Sys2Proof/Machine/Elementary.lean ====
section
/-! DEFINITION. The correctly rounded functions (R196): enclosures of e^x, ln x, erf x and erfc x in fixed point with
outward rounding, refined until both ends round to the same value. -/
namespace Sys2Proof.Machine

/-! ### Intervals: numbers between lo × 2^−W and hi × 2^−W -/

/-- An enclosure in units of 2^−W. -/
structure Iv where
  lo : Int
  hi : Int
deriving DecidableEq, Repr

def fdivI (a : Int) (n : Int) : Int := a / n
def cdivI (a : Int) (n : Int) : Int := -((-a) / n)
def Iv.add (a b : Iv) : Iv := ⟨a.lo + b.lo, a.hi + b.hi⟩
def Iv.sub (a b : Iv) : Iv := ⟨a.lo - b.hi, a.hi - b.lo⟩
def Iv.neg (a : Iv) : Iv := ⟨-a.hi, -a.lo⟩
def Iv.scale (a : Iv) (k : Int) : Iv := if 0 ≤ k then ⟨a.lo * k, a.hi * k⟩ else ⟨a.hi * k, a.lo * k⟩
def Iv.mul (w : Nat) (a b : Iv) : Iv :=
  let p1 := a.lo * b.lo
  let p2 := a.lo * b.hi
  let p3 := a.hi * b.lo
  let p4 := a.hi * b.hi
  ⟨fdivI (min (min p1 p2) (min p3 p4)) (2 ^ w), cdivI (max (max p1 p2) (max p3 p4)) (2 ^ w)⟩
def Iv.divN (a : Iv) (n : Nat) : Iv := ⟨fdivI a.lo n, cdivI a.hi n⟩
/-- Division by a positive enclosure. -/
def Iv.div (w : Nat) (a b : Iv) : Iv :=
  ⟨fdivI (a.lo * 2 ^ w) (if 0 ≤ a.lo then b.hi else b.lo), cdivI (a.hi * 2 ^ w) (if 0 ≤ a.hi then b.lo else b.hi)⟩
def Iv.mag (a : Iv) : Int := max a.lo.natAbs a.hi.natAbs
/-- A little wider: by `n` units. -/
def Iv.pad (a : Iv) (n : Int) : Iv := ⟨a.lo - n, a.hi + n⟩
def ivOne (w : Nat) : Iv := ⟨2 ^ w, 2 ^ w⟩
/-- ±m × 2^e. -/
def ivDyadic (w : Nat) (neg : Bool) (m : Nat) (e : Int) : Iv :=
  let x : Iv := if 0 ≤ e + w then ⟨m * 2 ^ (e + w).toNat, m * 2 ^ (e + w).toNat⟩
    else ⟨fdivI m (2 ^ (-(e + w)).toNat), cdivI m (2 ^ (-(e + w)).toNat)⟩
  if neg then x.neg else x
def ivSqrt (w : Nat) (a : Iv) : Iv := ⟨isqrt (a.lo * 2 ^ w).toNat, isqrt (a.hi * 2 ^ w).toNat + 1⟩

/-! ### Series -/

/-- Σ z^(2i+1) / (2i+1) over the remaining terms; `alt` alternates signs (arc tangent). -/
def atanhLoop (w : Nat) (z2 : Iv) (alt : Bool) : Nat → Nat → Iv → Iv → Iv
  | 0, _, t, acc => acc.pad (2 * t.mag + 2)
  | f + 1, i, t, acc =>
    let q := t.divN (2 * i + 1)
    atanhLoop w z2 alt f (i + 1) (t.mul w z2) (acc.add (if alt && i % 2 == 1 then q.neg else q))
/-- atanh z (or atan z) for |z| ≤ 1/3. -/
def atanhIv (w : Nat) (alt : Bool) (z : Iv) : Iv := atanhLoop w (z.mul w z) alt (w / 3 + 8) 0 z ⟨0, 0⟩
def ln2Iv (w : Nat) : Iv := (atanhIv w false ((ivOne w).divN 3)).scale 2
def piIv (w : Nat) : Iv :=
  ((atanhIv w true ((ivOne w).divN 5)).scale 16).sub ((atanhIv w true ((ivOne w).divN 239)).scale 4)

def expLoop (w : Nat) (r : Iv) : Nat → Nat → Iv → Iv → Iv
  | 0, _, t, acc => acc.pad (2 * t.mag + 2)
  | f + 1, n, t, acc => expLoop w r f (n + 1) ((t.mul w r).divN (n + 1)) (acc.add t)
/-- e^x of an enclosure: a mantissa enclosure and a power of two. -/
def expIv (w : Nat) (x : Iv) : Iv × Int :=
  let l2 := ln2Iv w
  let k := x.lo / l2.hi
  let r := x.sub (l2.scale k)
  (expLoop w r (w / 4 + 20) 0 (ivOne w) ⟨0, 0⟩, k)

/-- ln of m × 2^e, m > 0: y in [3/4, 3/2) with x = 2^k y, ln x = k ln 2 + 2 atanh((y − 1) / (y + 1)). -/
def lnIv (w : Nat) (m : Nat) (e : Int) : Iv :=
  let l : Int := Nat.log2 m
  let up := decide (3 * 2 ^ (Nat.log2 m) ≤ 2 * m)
  let k : Int := e + l + (if up then 1 else 0)
  let y := ivDyadic w false m (e - k)
  let z := (y.sub (ivOne w)).div w (y.add (ivOne w))
  ((ln2Iv w).scale k).add ((atanhIv w false z).scale 2)

def erfLoop (w : Nat) (x2 : Iv) : Nat → Nat → Iv → Iv → Iv
  | 0, _, t, acc => acc.pad (2 * t.mag + 2)
  | f + 1, n, t, acc => erfLoop w x2 f (n + 1) (((t.mul w x2).scale 2).divN (2 * n + 3)) (acc.add t)
/-- erf(x) / x for x = m × 2^e: 2/√π × e^−x² × Σ (2x²)^n / (1·3·…·(2n+1)), as an enclosure and a power of two;
`c` bounds x² above. -/
def erfIv (w : Nat) (m : Nat) (e : Int) (c : Nat) : Iv × Int :=
  let x2 := ivDyadic w false (m * m) (2 * e)
  let s := erfLoop w x2 (w / 2 + 8 * c + 32) 0 (ivOne w) ⟨0, 0⟩
  let (ex, k) := expIv w x2.neg
  let c2 := ivSqrt w (((ivOne w).scale 4).div w (piIv w))
  ((c2.mul w s).mul w ex, k)

/-! ### Rounding an enclosed value (R196) -/

/-- An enclosure of a positive number: between lo × 2^e and hi × 2^e. -/
abbrev Enc := Int × Int × Int

/-- The value inside each enclosure in turn, once both ends round alike; past the last one the two ends are told apart
by the implementation (log 7). -/
def ziv (fn : Nat) (t : Fmt) (m : Rm) (neg : Bool) (bits : Nat) : List Enc → Nat × FFlags
  | [] => (0, fNX)
  | (lo, hi, e) :: rest =>
    let r1 := roundF t m neg (2 * lo.toNat + 1) (e - 1)
    let r2 := roundF t m neg (2 * hi.toNat - 1) (e - 1)
    if 0 < lo ∧ r1 = r2 then r1
    else if rest.isEmpty then
      (if Config.crHard fn t.code.toNat m.code.toNat bits % 2 = 0 then r1 else r2)
    else ziv fn t m neg bits rest

/-- Values next to a number, and beyond every format. -/
def justAbove (t : Fmt) (m : Rm) (neg : Bool) (n : Nat) : Nat × FFlags := roundF t m neg (n * 2 ^ 200 + 1) (-200)
def justBelow (t : Fmt) (m : Rm) (neg : Bool) (n : Nat) : Nat × FFlags := roundF t m neg (n * 2 ^ 200 - 1) (-200)
def hugeF (t : Fmt) (m : Rm) (neg : Bool) : Nat × FFlags := roundF t m neg 1 5000
def tinyF (t : Fmt) (m : Rm) (neg : Bool) : Nat × FFlags := roundF t m neg 1 (-5000)
def oneBits (t : Fmt) (neg : Bool) : Nat := biasOf t |>.toNat |> (· * 2 ^ fracBits t + zeroBits t neg)
def twoBits (t : Fmt) : Nat := ((biasOf t).toNat + 1) * 2 ^ fracBits t

/-- The exponent of the leading bit of m × 2^e. -/
def topExp (m : Nat) (e : Int) : Int := e + Nat.log2 m
/-- The working precisions. -/
def zivW : List Nat := [160, 320, 640]

/-- e^x (R196). -/
def crExp (t : Fmt) (m : Rm) (b : Nat) : Nat × FFlags :=
  match fval t b with
  | .nan s => nanR t s
  | .inf n => (if n then zeroBits t false else infBits t false, 0)
  | .fin n mag e =>
    if mag = 0 then (oneBits t false, 0)
    else if 12 ≤ topExp mag e then (if n then tinyF t m false else hugeF t m false)
    else if topExp mag e < -100 then (if n then justBelow t m false 1 else justAbove t m false 1)
    else ziv 0 t m false b (zivW.map (fun w =>
      let (v, k) := expIv w (ivDyadic w n mag e)
      (v.lo, v.hi, k - w)))

/-- ln x (R196). -/
def crLn (t : Fmt) (m : Rm) (b : Nat) : Nat × FFlags :=
  match fval t b with
  | .nan s => nanR t s
  | .inf n => if n then nanR t true else (infBits t false, 0)
  | .fin n mag e =>
    if mag = 0 then (infBits t true, fDZ)
    else if n then nanR t true
    else if b = oneBits t false then (zeroBits t false, 0)
    else
      let neg := decide (topExp mag e < 0)
      ziv 1 t m neg b (zivW.map (fun w =>
        let v := lnIv w mag e
        if neg then (-v.hi, -v.lo, -(w : Int)) else (v.lo, v.hi, -(w : Int))))

/-- A bound of x² above, for x = m × 2^e. -/
def sqBound (m : Nat) (e : Int) : Nat :=
  if 0 ≤ e then m * m * 2 ^ (2 * e).toNat else m * m / 2 ^ (-2 * e).toNat + 1

/-- The enclosures of erf x for x > 0. -/
def erfEnc (m : Nat) (e : Int) (c w : Nat) : Enc :=
  let (v, k) := erfIv w m e c
  (v.lo * m, v.hi * m, k + e - w)

/-- erf x (R196). -/
def crErf (t : Fmt) (m : Rm) (b : Nat) : Nat × FFlags :=
  match fval t b with
  | .nan s => nanR t s
  | .inf n => (oneBits t n, 0)
  | .fin n mag e =>
    if mag = 0 then (zeroBits t n, 0)
    else if 3 ≤ topExp mag e then justBelow t m n 1
    else
      let c := sqBound mag e
      if 37 ≤ c then justBelow t m n 1
      else ziv 2 t m n b (zivW.map (fun w => erfEnc mag e c w))

/-- 1 − v and 1 + v of an enclosure with a negative exponent. -/
def oneMinus (v : Enc) : Enc := (2 ^ (-v.2.2).toNat - v.2.1, 2 ^ (-v.2.2).toNat - v.1, v.2.2)
def onePlus (v : Enc) : Enc := (2 ^ (-v.2.2).toNat + v.1, 2 ^ (-v.2.2).toNat + v.2.1, v.2.2)

/-- erfc x (R196). -/
def crErfc (t : Fmt) (m : Rm) (b : Nat) : Nat × FFlags :=
  match fval t b with
  | .nan s => nanR t s
  | .inf n => (if n then twoBits t else zeroBits t false, 0)
  | .fin n mag e =>
    if mag = 0 then (oneBits t false, 0)
    else if topExp mag e < -100 then (if n then justAbove t m false 1 else justBelow t m false 1)
    else if 5 ≤ topExp mag e then (if n then justBelow t m false 2 else tinyF t m false)
    else
      let c := sqBound mag e
      if n then
        if 37 ≤ c then justBelow t m false 2 else ziv 3 t m false b (zivW.map (fun w => onePlus (erfEnc mag e c w)))
      else if 784 ≤ c then tinyF t m false
      else ziv 3 t m false b (zivW.map (fun w => oneMinus (erfEnc mag e c (w + 3 * c))))

end Sys2Proof.Machine
end

