-- ==== Sys2Proof/Machine/Blocks.lean ====
section
/-! DEFINITION. FB blocks (R188 to R191), LG24 (R192 to R194), the fast functions (R195) and random draws (R199). -/
namespace Sys2Proof.Machine

/-! ### FB blocks as little-endian numbers (R188, R189) -/

/-- The magnitude bits n of an FB format. -/
def fbN : Fmt → Nat
  | .fb8 => 7
  | .fb5 => 4
  | _ => 2

/-- Shared exponent of a block. -/
def fbExp (b : Nat) : Nat := b % 256
/-- The shift of an octet. -/
def fbShift (b g : Nat) : Nat := b / 256 / 4 ^ g % 4
/-- The element field. -/
def fbField (t : Fmt) (b i : Nat) : Nat := b >>> (16 + i * (fbN t + 1)) % 2 ^ (fbN t + 1)

/-- The value of an element: +0 in a zero block, a quiet NaN in a NaN block (R189). -/
def fbVal (t : Fmt) (b i : Nat) : FVal :=
  if fbExp b = 0 then .fin false 0 0
  else if fbExp b = 255 then .nan false
  else
    let f := fbField t b i
    .fin (f / 2 ^ fbN t == 1) (f % 2 ^ fbN t) ((fbExp b : Int) - 127 - (fbN t - 1 : Nat) - fbShift b (i / 8))

/-- A block from exponent, shifts and element fields. -/
def fbMake (t : Fmt) (e : Nat) (shifts fields : List Nat) : Nat :=
  let sh := shifts.foldr (fun x n => x + 4 * n) 0
  let fs := fields.foldr (fun x n => x + 2 ^ (fbN t + 1) * n) 0
  e + 256 * sh + 65536 * fs

/-- |v × 2^−e| rounded to an integer, rm acting on the signed value, and whether it is inexact (R190). -/
def fbQ (m : Rm) (v : FVal) (e : Int) : Nat × Bool :=
  match v with
  | .fin n mag x => roundAt m n mag x e
  | _ => (0, false)

/-- fb_encode (R190), with the exponent chosen, or fixed as VREQ does (R191). -/
def fbEncode (t : Fmt) (m : Rm) (xs : List FVal) (fixed : Option Nat) : Nat × FFlags :=
  let bad := xs.any (fun x => match x with
    | .fin .. => false
    | _ => true)
  if bad then (255, fNV)
  else if xs.all FVal.isZero then (0, 0)
  else
    let n := fbN t
    let top := xs.foldl (fun (a : Int) x => match x with
      | .fin _ mag e => if mag = 0 then a else max a (topExp mag e)
      | _ => a) (-100000)
    let e0 : Nat := match fixed with
      | some e => e
      | none => (min (max (top + 127) 1) 254).toNat
    let s0 : Int := (e0 : Int) - 127 - (n - 1 : Nat)
    let inc := fixed.isNone && decide (e0 < 254) && xs.any (fun x => decide (2 ^ n - 1 < (fbQ m x s0).1))
    let e : Nat := if inc then e0 + 1 else e0
    let s : Int := if inc then s0 + 1 else s0
    let sig : List Nat := (List.range 4).map (fun g =>
      let oct := (xs.drop (8 * g)).take 8
      let fits := fun (v : Nat) => oct.all (fun x => decide ((fbQ m x (s - (v : Int))).1 ≤ 2 ^ n - 1))
      if fits 3 then 3 else if fits 2 then 2 else if fits 1 then 1 else 0)
    let qs := xs.mapIdx (fun i x => (x, fbQ m x (s - (nth sig (i / 8) 0 : Nat))))
    let sat := qs.any (fun q => decide (2 ^ n - 1 < q.2.1))
    let ms := qs.map (fun q => Nat.min q.2.1 (2 ^ n - 1))
    let lost := qs.any (fun q => !q.1.isZero && q.2.1 == 0)
    let ix := sat || qs.any (fun q => q.2.2)
    let fl := flagIf sat fOF ||| flagIf lost fUF ||| flagIf ix fNX
    if ms.all (· == 0) then (0, fl)
    else (fbMake t e sig (qs.map (fun q => Nat.min q.2.1 (2 ^ n - 1) + (if q.1.neg then 2 ^ n else 0))), fl)

/-- VREQ's move of a block to a new shared exponent (R191). -/
def fbRequant (t : Fmt) (m : Rm) (b e : Nat) : Nat × FFlags :=
  if e = 0 ∨ e = 255 then (255, fNV)
  else if fbExp b = 0 then (0, 0)
  else if fbExp b = 255 then (255, 0)
  else fbEncode t m ((List.range 32).map (fbVal t b)) (some e)

/-! ### LG24 (R192, R193) -/

/-- A container from sign, zero flag and L. -/
def lgMake (neg z : Bool) (l : Int) : Nat :=
  (l % 2 ^ 22).toNat + (if z then 2 ^ 22 else 0) + (if neg then 2 ^ 23 else 0)
def lgL (b : Nat) : Int := sval 22 b
def lgZ (b : Nat) : Bool := b / 2 ^ 22 % 2 == 1
def lgS (b : Nat) : Bool := b / 2 ^ 23 % 2 == 1

/-- 16,384 × log2 of m × 2^e, rounded to the nearest integer (R193). -/
def lgRound (t : Fmt) (b mag : Nat) (e : Int) : Int × Bool :=
  if mag = 2 ^ Nat.log2 mag then (16384 * topExp mag e, true)
  else
    let near := zivW.map (fun w =>
      let v := ((lnIv w mag e).div w (ln2Iv w)).scale 32768
      ((v.lo + 2 ^ w) / 2 ^ (w + 1), (v.hi + 2 ^ w) / 2 ^ (w + 1)))
    match near.find? (fun p => p.1 == p.2) with
    | some p => (p.1, false)
    | none => (((near.getLast?).map (·.1)).getD 0 + (Config.crHard 5 t.code.toNat 0 b % 2 : Nat), false)

/-- VLNT (R193). -/
def lgOfIeee (t : Fmt) (b : Nat) : Nat × FFlags :=
  match fval t b with
  | .nan _ => (0x1FFFFF, fNV)
  | .inf n => (lgMake n false 0x1FFFFF, fOF ||| fNX)
  | .fin n mag e =>
    if mag = 0 then (lgMake n true 0, 0)
    else
      let (l, exact) := lgRound t b mag e
      if 0x1FFFFF < l then (lgMake n false 0x1FFFFF, fOF ||| fNX)
      else if l < -2097152 then (lgMake n false (-2097152), fUF ||| fNX)
      else (lgMake n false l, flagIf (!exact) fNX)

/-- VLNF (R193). -/
def lgToIeee (t : Fmt) (m : Rm) (b : Nat) : Nat × FFlags :=
  if lgZ b then (zeroBits t (lgS b), 0)
  else
    let l := lgL b
    let i := l / 16384
    let f := (l % 16384).toNat
    if f = 0 then roundF t m (lgS b) 1 i
    else ziv 4 t m (lgS b) b (zivW.map (fun w =>
      let (v, k) := expIv w (((ln2Iv w).scale f).divN 16384)
      (v.lo, v.hi, k + i - w)))

/-! ### VXEXP, VXRCP, VXRSQ, VXSIG, VXTANH (R195; log 6) -/

/-- The five functions. -/
inductive VxFn where
  | exp | rcp | rsq | sig | tanh
deriving DecidableEq, Repr
def VxFn.code : VxFn → Nat
  | .exp => 0 | .rcp => 1 | .rsq => 2 | .sig => 3 | .tanh => 4

/-- An enclosure of e^(±m × 2^e) as mantissa and power of two; beyond every format when the argument is large. -/
def expEnc (w : Nat) (neg : Bool) (m : Nat) (e : Int) : Iv × Int :=
  if 12 ≤ topExp m e then (⟨2 ^ w, 2 ^ (w + 1)⟩, if neg then -5000 else 5000)
  else expIv w (ivDyadic w neg m e)

/-- x × 2^k as an enclosure in the same units. -/
def Iv.shift (a : Iv) (k : Int) : Iv :=
  if 0 ≤ k then ⟨a.lo * 2 ^ k.toNat, a.hi * 2 ^ k.toNat⟩
  else ⟨fdivI a.lo (2 ^ (-k).toNat), cdivI a.hi (2 ^ (-k).toNat)⟩

/-- The enclosure of a power of two that the function gives exactly. -/
def exactEnc (k : Int) : Enc := (2 ^ 160, 2 ^ 160, k - 160)

/-- The sign and an enclosure of the magnitude of f(x) for a finite x that the table of R195 does not list; it is exact
where f(x) is a power of two. -/
def vxEnc (f : VxFn) (neg : Bool) (m : Nat) (e : Int) : Bool × Enc :=
  let w := 160
  match f with
  | .exp =>
    let (v, k) := expEnc w neg m e
    (false, (v.lo, v.hi, k - w))
  | .rcp =>
    let (q, x) := quotient 1 m (-e)
    (neg, if m = 2 ^ Nat.log2 m then exactEnc (-topExp m e) else (q - 1, q + 1, x))
  | .rsq =>
    let (q, x) := quotient 1 m (-e)
    if m = 2 ^ Nat.log2 m ∧ topExp m e % 2 = 0 then (false, exactEnc (-(topExp m e / 2))) else
    let k : Nat := 280 + (if (x - 280) % 2 = 0 then 0 else 1)
    (false, (isqrt ((q - 1) * 2 ^ k), isqrt ((q + 1) * 2 ^ k) + 1, (x - k) / 2))
  | .sig =>
    let (v, k) := expEnc w true m e
    let d := (ivOne w).add (v.shift k)
    if neg then
      let r := v.div w d
      (false, (r.lo, r.hi, k - w))
    else
      let r := (ivOne w).div w d
      (false, (r.lo, r.hi, -(w : Int)))
  | .tanh =>
    if topExp m e < -30 then (neg, ((m : Int) * (2 ^ 60 - 1), (m : Int) * 2 ^ 60, e - 60))
    else
      let (v, k) := expEnc w true m (e + 1)
      let d := v.shift k
      let r := ((ivOne w).sub d).div w ((ivOne w).add d)
      (neg, (r.lo, r.hi, -(w : Int)))

/-- Is a candidate result within the bounds of R195? Its error is taken to the nearest value of the enclosure, whose
width is below what tells one candidate from the next. DESIGN CHOICE (log 50): it has the sign of f(x), also where the
absolute bound alone would admit the other; DESIGN CHOICE (log 51): the ulp, and the normal or subnormal range, are
those of the binade of f(x). -/
def vxAdmits (t : Fmt) (neg : Bool) (en : Enc) (c : Nat) : Bool :=
  match fval t c with
  | .fin n mag e =>
    let x := min e en.2.2
    let cv : Int := (mag * 2 ^ (e - x).toNat : Nat)
    let lo := en.1 * 2 ^ (en.2.2 - x).toNat
    let hi := en.2.1 * 2 ^ (en.2.2 - x).toNat
    let err : Int := if cv < lo then lo - cv else if hi < cv then cv - hi else 0
    let top := topExp en.1.toNat en.2.2
    n == neg && (match t with
      | .f32 =>
        if -126 ≤ top then decide (err * 2 ^ 14 ≤ (if cv < lo then lo else hi))
        else decide (err ≤ 2 ^ (-140 - x).toNat) && decide (x ≤ -140)
      | t => let u := max (top - fracBits t) (qMin t)
             if x ≤ u then decide (err < 2 ^ (u - x).toNat) else decide (err = 0))
  | _ => false

/-- The unit's result: the implementation's bits where they keep the bounds, else the nearest value; NX always, UF for a
tiny result (R180, R195). DESIGN CHOICE (log 50): the RNE rounding of f(x) says whether it overflows, and UF is raised
when the bits delivered are subnormal or zero. -/
def vxResult (f : VxFn) (t : Fmt) (b : Nat) (neg : Bool) (en : Enc) : Nat × FFlags :=
  let near := roundF t .rne neg (2 * en.1.toNat + 1) (en.2.2 - 1)
  if near.2 &&& fOF ≠ 0 then (near.1, fOF ||| fNX)
  else
    let c := Config.vxBits f.code t.code.toNat b % 2 ^ ieeeBits t
    let r := if vxAdmits t neg en c then c else near.1
    (r, fNX ||| flagIf (r % 2 ^ (expBits t + fracBits t) < 2 ^ fracBits t) fUF)

/-- The function on a pattern: the table of R195, then the unit. -/
def vxFun (f : VxFn) (t : Fmt) (b : Nat) : Nat × FFlags :=
  let one := oneBits t
  match fval t b with
  | .nan s => nanR t s
  | .inf n =>
    match f with
    | .exp => (if n then zeroBits t false else infBits t false, 0)
    | .rcp => (zeroBits t n, 0)
    | .rsq => if n then nanR t true else (zeroBits t false, 0)
    | .sig => (if n then zeroBits t false else one false, 0)
    | .tanh => (one n, 0)
  | .fin n mag e =>
    if mag = 0 then
      match f with
      | .exp => (one false, 0)
      | .rcp | .rsq => (infBits t n, fDZ)
      | .sig => (one false - 2 ^ fracBits t, 0)
      | .tanh => (zeroBits t n, 0)
    else if f = .rsq ∧ n then nanR t true
    else
      let (neg, en) := vxEnc f n mag e
      vxResult f t b neg en

/-! ### Random draws (R199) -/

def mix (z : Word) : Word :=
  let z := (z ^^^ (z >>> 31)) * 0xA24B1C5D3E976F83
  let z := (z ^^^ (z >>> 29)) * 0xC3D2E1F05A697B87
  z ^^^ (z >>> 32)

/-- Draw `d` of a task of a kind code and leg under a seed and key. -/
def draw (kind leg : Nat) (seed key : Word) (d : Word) : Word :=
  let c : Word := (BitVec.ofNat 64 kind <<< 62) ||| (BitVec.ofNat 64 leg <<< 60) ||| (d &&& 0x0FFFFFFFFFFFFFFF)
  mix (mix (mix seed ^^^ key) ^^^ c)

end Sys2Proof.Machine
end

