-- ==== Sys2Proof/Machine/Matrix.lean ====
section
/-! DEFINITION. Operand slots, the row's sequencer and the matrix slices (R107 to R117, R317 to R330). -/
namespace Sys2Proof.Machine

/-! ### Slots (R107, R108, R318 to R320) -/

def State.slot (s : State) (core i : Nat) : Slot := ((s.core core).slots.toList)[i]?.getD freeSlot
def State.modSlot (s : State) (core i : Nat) (f : Slot → Slot) : State :=
  s.modCore core (fun c => { c with slots := c.slots.setIfInBounds i (f ((c.slots.toList)[i]?.getD freeSlot)) })

/-- The task's ring, or SLOT. -/
def State.ring (s : State) : Except TrapInfo (Nat × Nat) :=
  match s.st.task.bind (·.ring) with
  | none => trapc tSLOT 0xFF
  | some r => .ok r
def State.setRing (s : State) (r : Option (Nat × Nat)) : State :=
  s.mod (fun t => { t with task := t.task.map (fun k => { k with ring := r }) })

/-- The lowest run of `x` FREE slots, and the longest run. -/
def freeRun (free : Nat → Bool) (x : Nat) : Option Nat :=
  (List.range (33 - x)).find? (fun s => (List.range x).all (fun j => free (s + j)))
def longestRun (free : Nat → Bool) : Nat :=
  (List.range 33).foldl (fun m x => if (freeRun free x).isSome then x else m) 0

/-- SCLAIM (R318). -/
def execSclaim (g : Guard) (d : SReg) (x : BitVec 6) (s : State) : Host.Outcome State Fault Refusal :=
  guarded g 8 s (fun s =>
    match s.ring with
    | .ok r => trapc tSLOT r.1
    | .error _ =>
      let core := coreOf s.cur
      let n := x.toNat
      let free := fun i => (s.slot core i).st == 0
      match (if s.capslot core s.curCtx < n then none else freeRun free n) with
      | none => .ok ((s.status d sBUSY (longestRun free)).adv 8)
      | some f =>
        let s := (List.range n).foldl (fun (s : State) i =>
          s.modSlot core (f + i) (fun _ => { freeSlot with st := 1, owner := s.mark s.cur })) s
        .ok (((s.setRing (some (f, n))).status d sOK f).adv 8))

/-- SREL (R318). -/
def execSrel (g : Guard) (a : SReg) (x : BitVec 6) (s : State) : Host.Outcome State Fault Refusal :=
  guarded g 8 s (fun s =>
    let v := (s.rS a).toNat
    match s.ring with
    | .error _ => trapc tSLOT (v % 32)
    | .ok (f, n) =>
      if v ≠ f ∨ x.toNat ≠ n then trapc tSLOT (v % 32)
      else .ok ((((List.range n).foldl (fun (s : State) i => s.relSlot (coreOf s.cur) (f + i)) s).setRing none).adv 8))

/-- A fill starts (R108). -/
def State.startFill (s : State) (core i : Nat) (q : BitVec 32) (f : Fill) : State :=
  (s.modSlot core i (fun x =>
    { x with st := 2, tag := q, fill := some f, pend := none, fva := 0, fcode := 0, stall := (0, 0) })).post core
      (.slotFillEnd (Fin.ofNat 32 i))

/-- SFILL (R319): of a CLAIMED or FAULTED slot it starts at once, of a FULL one after the readers of the old tag. -/
def execSfill (g : Guard) (a b c : SReg) (len : BitVec 8) (s : State) : Host.Outcome State Fault Refusal :=
  guarded g 8 s (fun s =>
    let core := coreOf s.cur
    let q : BitVec 32 := (s.rS c).setWidth 32
    let i := (s.rS b).toNat
    let n := if len = 0 then 8192 else 64 * len.toNat
    let src := s.rS a
    match s.ring with
    | .error t => .error t
    | .ok (f, depth) =>
      if i ≠ f + q.toNat % depth then trapc tSLOT (i % 32)
      else
        match s.access s.who kFill src n 64 with
        | .error t => .error t
        | .ok _ =>
          let x := s.slot core i
          let fill : Fill := ⟨src, n, s.st.task⟩
          if x.st = 1 ∨ x.st = 4 then .ok ((s.startFill core i q fill).adv 8)
          else if x.st = 3 ∧ x.pend.isNone then
            .ok (((s.modSlot core i (fun x => { x with pend := some (q, fill), lim := s.nextOp })).post core
              (.slotFillStart (Fin.ofNat 32 i))).adv 8)
          else trapc tSLOT (i % 32))

/-- SSTAT's word (R320); a pending fill reads as FILLING with its tag (R108). -/
def Slot.word (x : Slot) (mine : Bool) : Word :=
  let st := if x.pend.isSome then 2 else x.st
  let tag := match x.pend with
    | some (q, _) => q.toNat
    | none => x.tag.toNat
  let low := 8 * b2n mine + st
  if st = 4 then BitVec.ofNat 64 (x.fva.toNat % 2 ^ 48 * 2 ^ 16 + x.fcode * 256 + low)
  else BitVec.ofNat 64 (tag * 2 ^ 32 + low)

/-- SSTAT (R320). -/
def execSstat (g : Guard) (d a : SReg) (s : State) : Host.Outcome State Fault Refusal :=
  plain g s (fun s =>
    let v := (s.rS a).toNat
    let x := s.slot (coreOf s.cur) v
    if 32 ≤ v then s.wS d (BitVec.allOnes 64) else s.wS d (x.word (x.st != 0 && x.owner == s.mark s.cur)))

/-- The pending fill of a FULL slot starts (R108), once every step that names the old tag and was accepted before it has
ended. The unit is the core. -/
def execSlotFillStart (slot : Fin 32) (s : State) : Host.Outcome State Fault Refusal :=
  let core := s.cur
  let x := s.slot core slot.val
  match x.pend with
  | none => .next s
  | some (q, f) =>
    if s.ops.any (fun o => o.core == core && decide (o.id < x.lim) && o.names o.kind.steps slot.val (some x.tag)) then
      .next (s.post core (.slotFillStart slot))
    else .next (s.startFill core slot.val q f)

/-! ### Reads and writes of units (R141, R316) -/

/-- The first page of a range that does not translate: its address, and whether its entry is malformed. -/
def State.xfail (s : State) (w : Who) (ea : Word) (n : Nat) : Option (Word × Bool) :=
  if window ea ≠ 0 then none
  else
    (pageStarts ea.toNat n).findSome? (fun p =>
      match s.xl w p with
      | .ok _ => none
      | .error e => some (BitVec.ofNat 64 p, e == .malformed))

/-- A translation failure of a unit is news to the host (R316, R47). -/
def State.xlateWait (s : State) (ctx : Nat) (va key : Word) : State :=
  s.event 4 ctx (bytesOfNat 8 va.toNat ++ bytesOfNat 8 key.toNat)

/-- Bytes that a unit writes: all four copies of a replicated word, a PUB word's tag set in exact mode, the frame or the
static area of the task in window 0x2 (R71, R141). Words that do not translate are left. -/
def State.unitWrite (s : State) (w : Who) (ea : Word) (l : List Byte) : State :=
  if window ea = 2 then { s with lds := Mem.write s.lds (s.ldsPhys w (inWindowOff ea)) l }
  else if window ea ≠ 0 then s
  else s.stWords w true ea l

/-- A unit's read of weight-store lines at the place it has come to: it stalls, with the place kept by `keep`, or goes
on and its lines are counted (R28, R134). -/
def State.unitLines (s : State) (core : Nat) (lines : List Nat) (cur : Nat × Nat) (keep : State → Nat × Nat → State)
    (go : State → State) : State :=
  match s.unitStalls lines cur with
  | some e => keep s e
  | none => go (if lines.isEmpty then s else s.countEv (dieF core) 0x20 0 lines.length)

/-- The place of a slot's bytes. -/
def slotAt (core i : Nat) : Nat := (core * 32 + i) * 8192

/-- The maker of a fill's reads (R147). -/
def State.fillWho (s : State) (core owner : Nat) (f : Fill) : Who :=
  { s.whoFor (markStrand owner) core ((f.maker.map (·.ctx)).getD 0) false f.maker owner with path := 2 }

/-- A fill ends (R108, R319): FULL with its bytes, or FAULTED with code 1 or 2 of a translation failure or 3 of an
untagged PUB word; a slot whose release is pending is then FREE unless a step names it. From the weight store it stalls
on refresh (R134). The unit is the core. -/
def execSlotFillEnd (slot : Fin 32) (s : State) : Host.Outcome State Fault Refusal :=
  let core := s.cur
  let i := slot.val
  let x := s.slot core i
  match x.fill with
  | none => .next s
  | some f =>
    let w := s.fillWho core x.owner f
    let fault := fun (s : State) (code : Nat) (va : Word) =>
      (s.modSlot core i (fun x => { x with st := 4, fill := none, fcode := code, fva := va })).settleSlots core
    match w.addrCheck f.src f.len false, s.xfail w f.src f.len with
    | .error t, _ => .next (fault s 1 t.ea)
    | _, some (va, mal) =>
      let s := s.touch w f.src (va.toNat + 1 - f.src.toNat)
      .next ((fault s (if mal then 2 else 1) va).xlateWait w.ctx va ((f.maker.map (fun (t : Task) =>
        boxKey t.tr.box)).getD 0))
    | _, none =>
      let s := s.touch w f.src f.len
      match (if window f.src = 0 ∧ w.exact then s.publishCheck w false f.src.toNat f.len else none) with
      | some (va, _) => .next (fault s 3 (BitVec.ofNat 64 va))
      | none =>
        .next (s.unlessHit w (s.eccHit w f.src f.len) (s.unitLines core (w.lines f.src f.len) x.stall
          (fun s e => (s.modSlot core i (fun x => { x with stall := e })).post core (.slotFillEnd slot))
          (fun s => (({ s with opmem := Mem.write s.opmem (slotAt core i) (s.ldBytes w f.src f.len) }.modSlot core i
            (fun x => { x with st := 3, fill := none })).settleSlots core).count core 0x17)))

/-! ### Accumulator units (R317) -/

/-- The key of element `e` of a unit of a partition. -/
def accKey (row part u e : Nat) : Nat := ((row * 4 + part) * 64 + u) * 4096 + e

/-- The values at `n` successive keys. -/
def spread : Nat → Nat → Table (BitVec 32) → List (Option Nat)
  | 0, _, _ => []
  | n + 1, k, [] => none :: spread n (k + 1) []
  | n + 1, k, (j, v) :: t => if j = k then some v.toNat :: spread n (k + 1) t else none :: spread n (k + 1) ((j, v) :: t)

/-- `n` elements from one on; an element not listed is absent. -/
def State.accRead (s : State) (key n : Nat) : List (Option Nat) :=
  spread n key (s.acc.filter (fun (e : Nat × BitVec 32) => decide (key ≤ e.1)))
/-- Elements replaced from one on. -/
def State.accWrite (s : State) (key : Nat) (l : List (Option Nat)) : State :=
  let new := (List.range l.length).filterMap (fun i => (nth l i none).map (fun v => (key + i, BitVec.ofNat 32 v)))
  { s with acc := s.acc.filter (fun (e : Nat × BitVec 32) => decide (e.1 < key)) ++ new
                    ++ s.acc.filter (fun (e : Nat × BitVec 32) => decide (key + l.length ≤ e.1)) }

/-- canon_add in F32 RNE, element by element (R59, R115). -/
def addTiles : List (Option Nat) → List (Option Nat) → List (Option Nat) × FFlags
  | x :: xs, y :: ys =>
    let (v, f) := canonAdd .f32 .rne x y
    let (l, f') := addTiles xs ys
    (v :: l, f ||| f')
  | _, _ => ([], 0)

/-! ### Column sums (R110, R111) -/

/-- A list in pieces of `n`. -/
def chunks {α : Type} (n : Nat) : Nat → List α → List (List α)
  | 0, _ => []
  | f + 1, l => l.take n :: chunks n f (l.drop n)

/-- Half of a line of 64 K values: 0 values, 1 a zero block, 2 a NaN block. -/
structure Half where
  kind : Nat
  vals : List FVal
deriving DecidableEq, Repr

/-- The 128 halves of 64 lines: weight columns or activation rows (R110). -/
def halves (t : Fmt) (l : List Byte) : List Half :=
  if t.isFb then
    (chunks (fmtSize t) 128 l).map (fun b =>
      let n := natOfBytes b
      ⟨if fbExp n = 0 then 1 else if fbExp n = 255 then 2 else 0, (List.range 32).map (fbVal t n)⟩)
  else
    (chunks (32 * fmtSize t) 128 l).map (fun b => ⟨0, (chunks (fmtSize t) 32 b).map (fun x => fval t (natOfBytes x))⟩)

/-- Neighbours added (R111). -/
def pairAdd : List (Option Nat) → List (Option Nat) × FFlags
  | x :: y :: t =>
    let (v, f) := canonAdd .f32 .rne x y
    let (l, f') := pairAdd t
    (v :: l, f ||| f')
  | l => (l, 0)

/-- The root of the canonical tree over 2^n terms. -/
def treeAdd : Nat → List (Option Nat) → Option Nat × FFlags
  | 0, l => (nth l 0 none, 0)
  | n + 1, l =>
    let (l, f) := pairAdd l
    let (v, f') := treeAdd n l
    (v, f ||| f')

/-- The exact sum of products of two FB blocks, rounded once to F32 RNE (R111). -/
def exactSum : List FVal → List FVal → Option (Bool × Nat × Int) → Bool × Nat × Int
  | .fin a m e :: xs, .fin b n f :: ys, acc =>
    exactSum xs ys (some (match acc with
      | none => (xor a b, m * n, e + f)
      | some (c, k, h) => sumFin .rne c k h (xor a b) (m * n) (e + f)))
  | _, _, acc => acc.getD (false, 0, 0)

/-- The level-5 node of 32 K values (R111). -/
def halfNode (tw ta : Fmt) (w a : Half) : Option Nat × FFlags :=
  if w.kind = 1 ∨ a.kind = 1 then (none, 0)
  else if w.kind = 2 ∨ a.kind = 2 then (some (nanBits .f32), 0)
  else if tw.isFb && ta.isFb then
    let (n, m, e) := exactSum w.vals a.vals none
    let (v, f) := roundF .f32 .rne n m e
    (some v, f)
  else
    let ps := (List.zip w.vals a.vals).map (fun (x, y) => fmul .f32 .rne x y)
    let (v, f) := treeAdd 5 (ps.map (fun p => some p.1))
    (v, ps.foldl (fun (f : FFlags) p => f ||| p.2) f)

/-- The column sums of the first `rows` activation rows, row by row (R111). -/
def columnSums (tw : Fmt) (w : List Byte) (ta : Fmt) (a : List Byte) (rows : Nat) : List (Option Nat) × FFlags :=
  let hw := (halves tw w).toArray
  let ha := (halves ta a).toArray
  let at_ := fun (h : Array Half) (i : Nat) => (h[i]?).getD ⟨1, []⟩
  let l := (List.range rows).flatMap (fun m => (List.range 64).map (fun n =>
    let (x, f) := halfNode tw ta (at_ hw (2 * n)) (at_ ha (2 * m))
    let (y, g) := halfNode tw ta (at_ hw (2 * n + 1)) (at_ ha (2 * m + 1))
    let (v, h) := canonAdd .f32 .rne x y
    (v, f ||| g ||| h)))
  (l.map (fun p => p.1), l.foldl (fun (f : FFlags) p => f ||| p.2) 0)

/-! ### Acceptance (R114, R115, R317) -/

/-- Bytes of a weight tile (R110). -/
def tileBytes : Fmt → Nat
  | .f32 => 16384
  | .fb8 => 4352
  | .fb5 => 2816
  | .fb3 => 1792
  | _ => 8192

/-- T of a context on a core (R317). -/
def State.stackTop (s : State) (core ctx : Nat) : Nat := 64 - treeUnits (s.regs core ctx).captree.toNat

/-- Stack units of a context on a row that no op has reserved, in ascending order (R317). -/
def State.spareUnits (s : State) (core ctx : Nat) : List Nat :=
  let t := s.stackTop core ctx
  ((List.range (64 - t)).map (fun i => t + i)).filter (fun u =>
    !s.ops.any (fun o => o.ctx == ctx && rowOf o.core == rowOf core && has o.spare u))

/-- The partition's queue has an entry (R114). -/
def State.queueFree (s : State) (core part : Nat) : Bool :=
  decide (s.ops.countP (fun o => rowOf o.core == rowOf core && o.part == part) < 8)

/-- A macro-op of the current strand, not yet accepted. -/
def State.newOp (s : State) (kind : MxKind) (dl : Nat) : MxOp :=
  let core := coreOf s.cur
  { id := 0, strand := s.cur, core := core, part := s.part core s.curCtx, ctx := s.curCtx, kind := kind, gang := []
    ring := (s.st.task.bind (·.ring)).getD (0, 1), dl := dl, step := 0, since := none, stack := [], spare := []
    flags := 0, stop := none, ents := [], last := none, cancel := false, check := true, bad := false, stall := (0, 0)
    ahead := (0, 0) }

/-- Acceptance (R114): the op enters the queue with `n` stack units reserved, and the slices look for a step. -/
def State.accept (s : State) (o : MxOp) (n : Nat) : State :=
  let o := { o with id := s.nextOp, spare := (s.spareUnits o.core o.ctx).take n }
  let s := { s with ops := s.ops ++ [o], nextOp := s.nextOp + 1 }
  o.strands.foldl (fun (s : State) k => s.postOnce (coreOf k) .sequencerStep) s

/-- The issue of an op that no gang shares: accepted, or held while the queue is full (R114). -/
def State.issueOp (s : State) (kind : MxKind) (dl n : Nat) (f : State → State) : State :=
  let o := s.newOp kind dl
  if s.queueFree o.core o.part then (((f s).accept o n).release).adv 8 else s.hold

/-- The bank of the current strand's context on its slice (R321). -/
def State.namedSrc (s : State) : WSrc :=
  let core := coreOf s.cur
  ((s.core core).named.toList)[s.part core s.curCtx]?.getD .none
def State.nameSrc (s : State) (core part : Nat) (x : WSrc) : State :=
  s.modCore core (fun c => { c with named := c.named.setIfInBounds part x })
def State.latchSrc (s : State) (core part : Nat) (x : WSrc) : State :=
  s.modCore core (fun c => { c with latched := c.latched.setIfInBounds part x })

/-- MLDW (R321). -/
def execMldw (g : Guard) (t : Fmt) (ws : Bool) (a l : SReg) (s : State) : Host.Outcome State Fault Refusal :=
  guarded g 8 s (fun s =>
    let core := coreOf s.cur
    let part := s.part core s.curCtx
    let p := s.rS a
    if ws then
      match alignCheck p (tileBytes t) 64 with
      | .error e => .error e
      | .ok _ =>
        if window p ≠ 1 then trapc tENGINE 0x0501
        else
          match s.access s.who kLoad p (tileBytes t) 64 with
          | .error e => .error e
          | .ok _ =>
            .ok (s.issueOp (.mldw t (.ws t p 0 []) none) (s.deadline l) 0 (fun s => s.nameSrc core part (.ws t p 0 [])))
    else
      match s.ring with
      | .error e => .error e
      | .ok _ =>
        .ok (s.issueOp (.mldw t .none (some (p.setWidth 32))) (s.deadline l) 0
          (fun s => s.nameSrc core part (.slot t []))))

/-! ### Products: their checks at issue (R322, R324, R325) -/

def oneIf (b : Bool) (code detail : Nat) : Except TrapInfo Unit := if b then trapc code detail else .ok ()

/-- Stack tiles of a tree over `c` blocks (R115). -/
def stackTiles (c : Nat) : Nat := if c ≤ 1 then 0 else flog2 c + 1

/-- The named source serves `tiles` weight tiles (R321, R322). -/
def State.srcCheck (s : State) (tiles : Nat) (slotErr : Nat) : Except TrapInfo Unit :=
  match s.namedSrc with
  | .none => trapc tENGINE 0x0509
  | .slot _ _ => oneIf (decide (2 ≤ tiles)) tENGINE slotErr
  | .ws t p _ _ =>
    if 2 ≤ tiles then s.who.addrCheck p (tiles * tileBytes t) false else .ok ()

/-- Members of the gang that E names, at least 1. -/
def gangSize (m : Option (BitVec 16)) : Nat :=
  match m with
  | none => 1
  | some x => (List.range 16).countP (fun i => x.getLsbD i)

/-- MMA's checks and its op with the stack units it reserves (R322). -/
def mmaOp (o : MxOpt) (tile : Fin 64) (a b c : SReg) (s : State) : Except TrapInfo (MxKind × Nat) := do
  let core := coreOf s.cur
  let cb := (s.rS c).toNat
  let n := (s.rS b).toNat
  let sa := fmtSlots o.t
  let gm := gangSize o.gang
  oneIf (decide (cb = 0 ∨ 4096 < cb ∨ n = 0 ∨ n % (cb * sa) ≠ 0)) tENGINE 0x0502
  let p := n / (cb * sa)
  oneIf (decide (s.stackTop core s.curCtx < tile.val + p * gm)) tENGINE 0x0503
  s.srcCheck cb 0x0505
  oneIf (decide (s.captree core s.curCtx < stackTiles cb * gm)) tCAPACITY 5
  let _ ← s.ring
  return (.mma tile.val o.t o.z ((s.rS a).setWidth 32) p cb, stackTiles cb * gm)

/-- The group at which the running sum of rows first passes a bound, which may be below 0 (R324). -/
def passBound (bound : Int) : List Nat → Nat → Nat → Option Nat
  | [], _, _ => none
  | r :: t, sum, i => if bound < (sum + r : Nat) then some i else passBound bound t (sum + r) (i + 1)

/-- MMAG's checks and its op (R324). -/
def mmagOp (o : MxOpt) (tile : Fin 64) (a b c : SReg) (s : State) : Except TrapInfo (MxKind × Nat) := do
  let core := coreOf s.cur
  let cb := (s.rS c).toNat
  let sa := fmtSlots o.t
  let gm := gangSize o.gang
  let w := s.who
  let p := (s.st.sr.toList)[a.val + 1]?.getD 0
  s.access w kLoad p 8 8
  let n := s.ldNat w p 4
  let rsv := s.ldNat w (p + 4) 4
  oneIf (decide (rsv ≠ 0 ∨ n = 0 ∨ 256 < n)) tENGINE 0x0507
  s.access w kLoad p (8 + 4 * n) 8
  let groups := (List.range n).map (fun i => s.ldNat w (p + BitVec.ofNat 64 (8 + 4 * i)) 4)
  let top := s.stackTop core s.curCtx
  match passBound (((top : Int) - tile.val) * 64) groups 0 0 with
  | some i => trapc tGROUP i
  | none => pure ()
  oneIf (decide (cb = 0 ∨ 4096 < cb)) tENGINE 0x0502
  let passes := groups.foldl (fun n r => n + (r + 63) / 64) 0
  oneIf (decide ((s.rS b).toNat ≠ sa * cb * passes)) tENGINE 0x0506
  oneIf (decide (top < tile.val + (groups.foldl (· + ·) 0 + 63) / 64 * gm)) tENGINE 0x0503
  s.srcCheck (n * cb) 0x0505
  oneIf (decide (s.captree core s.curCtx < stackTiles cb * gm)) tCAPACITY 5
  let _ ← s.ring
  return (.mmag tile.val o.t o.z ((s.rS a).setWidth 32) groups cb, stackTiles cb * gm)

/-- MMAS's checks and its op (R325). -/
def mmasOp (o : MxOpt) (tile : Fin 64) (a b c : SReg) (s : State) : Except TrapInfo (MxKind × Nat) := do
  let core := coreOf s.cur
  let gm := gangSize o.gang
  let w := s.who
  let p := s.rS a
  s.access w kLoad p 32 8
  let h := s.ldBytes w p 32
  let nent := leAt h 4 4
  let nbr := leAt h 8 2
  let nbc := leAt h 10 2
  let n := (s.rS b).toNat
  let slotSrc := match s.namedSrc with
    | .slot .. => decide (2 ≤ nbc)
    | _ => false
  oneIf (decide (leAt h 0 4 ≠ 1 ∨ nent < n ∨ leAt h 12 1 ≠ o.t.code.toNat ∨ leAt h 13 19 ≠ 0 ∨ nbr = 0 ∨ 48 < nbr
    ∨ nbc = 0 ∨ 4096 < nbc) || slotSrc) tENGINE 0x0508
  s.srcCheck nbc 0x0508
  oneIf (decide (s.stackTop core s.curCtx < tile.val + nbr * gm)) tENGINE 0x0503
  oneIf (decide (s.captree core s.curCtx < nbr * gm * stackTiles nbc)) tCAPACITY 5
  let _ ← s.ring
  return (.mmas tile.val o.t o.z p n nbr nbc ((s.rS c).setWidth 32), nbr * gm * stackTiles nbc)

/-- The slot mark of a gang arrival, which no BARA handle names. -/
def gangSlot : Nat := 4

/-- An arrival at the row's wired barrier with what every member must agree in (R113). -/
def State.gangArrive (s : State) (mask : BitVec 16) (op : MxOp) (code : BitVec 8) (i : Instr) (dl : Nat) : State :=
  let row := rowOf op.core
  let part : Fin 4 := Fin.ofNat 4 op.part
  let s := s.modRow row (fun r => { r with barr := r.barr.set part (r.barr[part] ++ [⟨s.cur, mask, some (op, code), gangSlot⟩]) })
  (s.block i dl 0).post row (.gangBarrier part)

/-- A product of a strand whose gang has been found to disagree waits for its place in the queue (R114, R323). -/
def State.gangTold (s : State) (k : Nat) : Bool :=
  (s.row (rowOf (coreOf k))).barr.toList.any (fun (l : List RowArr) => l.any (fun a => a.strand == k && a.told))

/-- A strand's wait at the wired barrier, tested (R113, R168, R171): stage 1 says that the barrier has completed; at the
deadline or the bound the arrival is withdrawn, unless every member has arrived. -/
def State.gangTest (s : State) (p : Poll) : State :=
  let stage : Nat := (s.st.wait.map (·.stage)).getD 0
  let fin := fun (s : State) (code : Nat) => ((s.unblock).mod (fun t => t.dlResult code)).adv 8
  if stage = 1 then fin s sOK
  else if s.gangFull s.cur gangSlot ∨ s.gangTold s.cur then s
  else if p = .expire then (fin (s.withdrawRow s.cur gangSlot) sTIMEOUT).count (coreOf s.cur) 0x11
  else if p = .bound then (fin (s.withdrawRow s.cur gangSlot) sEVICT).count (coreOf s.cur) 0x12
  else s

/-- The issue of a product, tested, after the reads that it makes: its checks trap; without gang it is accepted, with
one it arrives at the wired barrier (R113, R114); a mask without the issuing column is a gang disagreement (R323). -/
def productPoll (p : Poll) (i : Instr) (code : BitVec 8) (gang : Option (BitVec 16)) (l : SReg)
    (reads : State → List (Word × Nat)) (op : State → Except TrapInfo (MxKind × Nat)) (s : State) :
    Except TrapInfo State :=
  if p ≠ .issue then .ok (s.gangTest p)
  else
    (if s.st.held then (fun f => f s) else s.withReads s.who (reads s)) (fun s => match op s with
    | .error t => .error t
    | .ok (k, n) =>
      match gang with
      | none => .ok (s.issueOp k (s.deadline l) n (fun s => s))
      | some m =>
        let o := s.newOp k (s.deadline l)
        if m.getLsbD (colOf (coreOf s.cur)) then .ok (s.gangArrive m o code i (s.deadline l))
        else if s.queueFree o.core o.part then .ok (((s.accept { o with bad := true } 0).release).adv 8)
        else .ok s.hold)

/-- What MMAG reads at issue: its group list, as far as its checks let it be read (R324). -/
def mmagReads (a : SReg) (s : State) : List (Word × Nat) :=
  let p := (s.st.sr.toList)[a.val + 1]?.getD 0
  let n := s.ldNat s.who p 4
  if (s.readable s.who p 8 8).isEmpty then []
  else if n = 0 ∨ 256 < n ∨ (s.readable s.who p (8 + 4 * n) 8).isEmpty then [(p, 8)]
  else [(p, 8 + 4 * n)]

def mmaPoll (p : Poll) (g : Guard) (o : MxOpt) (tile : Fin 64) (a b c l : SReg) : State → Except TrapInfo State :=
  productPoll p (.mma g o tile a b c l) 0xD5 o.gang l (fun _ => []) (mmaOp o tile a b c)
def mmagPoll (p : Poll) (g : Guard) (o : MxOpt) (tile : Fin 64) (a b c l : SReg) : State → Except TrapInfo State :=
  productPoll p (.mmag g o tile a b c l) 0xD6 o.gang l (mmagReads a) (mmagOp o tile a b c)
def mmasPoll (p : Poll) (g : Guard) (o : MxOpt) (tile : Fin 64) (a b c l : SReg) : State → Except TrapInfo State :=
  productPoll p (.mmas g o tile a b c l) 0xD7 o.gang l (fun s => s.readable s.who (s.rS a) 32 8)
    (mmasOp o tile a b c)

/-- MMA (R322). -/
def execMma (g : Guard) (o : MxOpt) (tile : Fin 64) (a b c l : SReg) (s : State) : Host.Outcome State Fault Refusal :=
  guarded g 8 s (mmaPoll .issue g o tile a b c l)
/-- MMAG (R324). -/
def execMmag (g : Guard) (o : MxOpt) (tile : Fin 64) (a b c l : SReg) (s : State) : Host.Outcome State Fault Refusal :=
  guarded g 8 s (mmagPoll .issue g o tile a b c l)
/-- MMAS (R325). -/
def execMmas (g : Guard) (o : MxOpt) (tile : Fin 64) (a b c l : SReg) (s : State) : Host.Outcome State Fault Refusal :=
  guarded g 8 s (mmasPoll .issue g o tile a b c l)

/-! ### The wired barrier of a row (R113, R256) -/

/-- The first arrival whose mask has an arrival of every column, with those arrivals in ascending column. -/
def gangGroup (l : List RowArr) : Option (List RowArr) :=
  let l := l.filter (fun a => !a.told)
  l.findSome? (gangOf l)

/-- What the members of a gang must agree in beside mask and opcode: T, C, row count, D, B and Z (R113, R323). -/
def MxKind.same : MxKind → MxKind → Bool
  | .mma d t z _ p c, .mma d' t' z' _ p' c' => d == d' && t == t' && z == z' && p == p' && c == c'
  | .mmag d t z _ r c, .mmag d' t' z' _ r' c' => d == d' && t == t' && z == z' && r == r' && c == c'
  | .mmas d t z _ n r c _, .mmas d' t' z' _ n' r' c' _ => d == d' && t == t' && z == z' && n == n' && r == r' && c == c'
  | _, _ => false

/-- MRESUME's code at the wired barrier. -/
def codeResume : BitVec 8 := 0xD9

/-- The arrivals of a complete group agree. -/
def gangAgree (a : RowArr) (l : List RowArr) : Bool :=
  l.all (fun b => b.mask == a.mask && (match a.op, b.op with
    | none, none => true
    | some (o, c), some (o', c') => c == c' && (if c = codeResume then o.id == o'.id else o.kind.same o'.kind)
    | _, _ => false))

/-- A member's wait has its barrier completed. -/
def State.gangGo (s : State) (k : Nat) : State :=
  s.modStrand k (fun t => { t with wait := t.wait.map (fun w => { w with stage := 1 }) })

/-- One arrival of a group that disagrees: a BAR fails with detail 4, and a resumed op ends at its step k (R113, R256,
R328); a product stays at the barrier, marked, until the queue takes it and its step 0 ends it (R114, R323). -/
def State.gangBad (s : State) (b : RowArr) : State :=
  match b.op with
  | none => s.modArr b.strand b.slot (fun a => { a with fail := 4 })
  | some (o, c) =>
    if c = codeResume then
      (({ s with ops := s.ops.map (fun (x : MxOp) => if x.id = o.id then { x with bad := true, stop := none } else x) }.gangGo
        b.strand).wakeSlices (rowOf o.core))
    else s

/-- A complete group that agrees: a barrier of BARs completes; one op is accepted for a gang; a stopped op resumes. -/
def State.gangDone (s : State) (row : Nat) (l : List RowArr) : State :=
  match l with
  | [] => s
  | a :: _ =>
    match a.op with
    | none => l.foldl (fun (s : State) b =>
        (s.modArr b.strand b.slot (fun x => { x with done := true })).drain (Fin.ofNat 4 (row / 16))) s
    | some (o, c) =>
      let dl := l.foldl (fun n b => Nat.min n ((b.op.map (fun (x : MxOp × BitVec 8) => x.1.dl)).getD n)) o.dl
      let s := if c = codeResume then
          let s := { s with ops := s.ops.map (fun (x : MxOp) =>
            if x.id = o.id then
              { x with stop := none, check := true, since := none, ents := [], dl := dl, stall := (0, 0), ahead := (0, 0) }
            else x) }
          s.wakeSlices row
        else
          let n := match o.kind with
            | .mma _ _ _ _ _ c | .mmag _ _ _ _ _ c => stackTiles c * l.length
            | .mmas _ _ _ _ _ nbr nbc _ => nbr * l.length * stackTiles nbc
            | _ => 0
          s.accept { o with gang := l.map (fun b => b.strand), dl := dl } n
      l.foldl (fun (s : State) b => s.gangGo b.strand) s

/-- Room for what a complete group would have accepted: queue entries, and stack units for one op (R114, R115). -/
def State.gangRoom (s : State) (l : List RowArr) : Bool :=
  l.all (fun b => match b.op with
    | none => true
    | some (o, c) => c == codeResume || (s.queueFree o.core o.part && (match o.kind with
        | .mma _ _ _ _ _ c | .mmag _ _ _ _ _ c => decide (stackTiles c * l.length ≤ (s.spareUnits o.core o.ctx).length)
        | .mmas _ _ _ _ _ nbr nbc _ =>
          decide (nbr * l.length * stackTiles nbc ≤ (s.spareUnits o.core o.ctx).length)
        | _ => true)))

/-- What stays at the barrier when a group has disagreed: its products, marked. -/
def gangLeft (l g : List RowArr) : List RowArr :=
  (l.filter (fun a => !has g a || (a.op.map (fun (x : MxOp × BitVec 8) => x.2 != codeResume)).getD false)).map (fun a =>
    if has g a then { a with op := a.op.map (fun (x : MxOp × BitVec 8) => ({ x.1 with bad := true }, x.2)) } else a)

/-- Every member of a mask has arrived at the row's wired barrier of a partition (R113, R256); marked products enter the
queue one by one, as it has entries (R114). The unit is the row. -/
def execGangBarrier (part : Fin 4) (s : State) : Host.Outcome State Fault Refusal :=
  let row := s.cur
  let l := (s.row row).barr[part]
  let put := fun (l : List RowArr) => s.modRow row (fun r => { r with barr := r.barr.set part l })
  let again := fun (s : State) => Host.Outcome.next (s.post row (.gangBarrier part))
  match l.findSome? (fun a => match a.op with
      | some (o, _) => if o.bad ∧ s.queueFree o.core o.part then some (a, o) else none
      | none => none), gangGroup l with
  | some (a, o), _ => again (((put (l.erase a)).accept o 0).gangGo a.strand)
  | none, none => if l.any (·.told) then again s else .next s
  | none, some g =>
    if !(g.head?.map (fun a => gangAgree a g)).getD false then
      again (g.foldl (fun (s : State) b => s.gangBad b) (put (gangLeft l g)))
    else if !s.gangRoom g then again s
    else again ((put (l.filter (fun a => !has g a))).gangDone row g)

/-! ### The end of an op (R116, R117, R323, R327) -/

/-- MXSTAT without PEND (R117). -/
def mxWord (detail fcode : Nat) (f : FFlags) : Word :=
  BitVec.ofNat 64 (detail % 2 ^ 32 * 2 ^ 32 + fcode * 2 ^ 16 + f.toNat)

/-- The op's flags reach FPSR of its strands, with MXSTAT and MXSTEP; `keep` reports an end at a step to the next
MWAIT. -/
def State.report (s : State) (o : MxOp) (fcode detail step : Nat) (keep : Bool) : State :=
  o.strands.foldl (fun (s : State) k => s.modStrand k (fun t =>
    { t with fpsr := t.fpsr ||| o.flags.setWidth 64, mxstat := mxWord detail fcode o.flags
             mxstep := BitVec.ofNat 64 step
             task := t.task.map (fun x => { x with mxFlags := x.mxFlags ||| o.flags })
             mxRep := if keep then t.mxRep ++ [(fcode, step)] else t.mxRep })) s

/-- The op leaves the sequencer; slots and frames that waited for it are free (R107, R160), and what was held behind it
may run (R114). -/
def State.leave (s : State) (o : MxOp) : State :=
  let s := { s with ops := s.ops.filter (fun x => x.id != o.id) }
  (o.strands.foldl (fun (s : State) k => (s.settleSlots (coreOf k)).wakeCore (coreOf k)) s).wakeSlices (rowOf o.core)

/-- An op completes, or ends at step `k` with an FCODE. -/
def State.finish (s : State) (o : MxOp) : State := (s.leave o).report o 0 0 0 false
def State.endAt (s : State) (o : MxOp) (fcode detail : Nat) : State := (s.leave o).report o fcode detail o.step true

/-- An op stops at the boundary before its step (R323): its stack units stay reserved; a stopped MLDW gives its name
back (R321). -/
def State.stopOp (s : State) (o : MxOp) (fcode detail : Nat) (va : Word) : State :=
  let s := { s with ops := s.ops.map (fun (x : MxOp) =>
    if x.id = o.id then { x with stop := some (fcode, detail, va), since := none } else x) }
  let s := (s.unname o).report o fcode detail o.step false
  o.strands.foldl (fun (s : State) k =>
    s.modStrand k (fun t => { t with mxfva := if fcode = 1 ∨ fcode = 3 then va else 0 })) s

/-- An op changed in place. -/
def State.putOp (s : State) (o : MxOp) : State :=
  { s with ops := s.ops.map (fun (x : MxOp) => if x.id = o.id then o else x) }

/-! ### Steps (R109, R114, R115, R322 to R326) -/

/-- A slot as an op sees it: a pending fill counts for the ops accepted after it (R108). -/
def MxOp.sees (o : MxOp) (x : Slot) : Nat × BitVec 32 :=
  match x.pend with
  | some (q, _) => if x.lim ≤ o.id then (2, q) else (x.st, x.tag)
  | none => (x.st, x.tag)

/-- The slot check of step 0 or of a resumed step (R323, R328): FCODE and slot. -/
def State.slotCheck (s : State) (o : MxOp) : Option (Nat × Nat) :=
  let qs := ((List.range (Nat.min o.ring.2 (o.kind.steps - o.step))).flatMap (fun i => o.kind.seqs (o.step + i))).take o.ring.2
  qs.findSome? (fun q =>
    let i := o.slotOf q
    let (st, tag) := o.sees (s.slot o.core i)
    if st = 4 then some (1, i)
    else if (st = 2 ∨ st = 3) ∧ 0 < (tag - q).toInt then some (2, i)
    else none)

/-- The first slot of a step that is FAULTED, and the first that is not yet FULL with its tag (R109). -/
def State.slotFault (s : State) (o : MxOp) : Option Nat :=
  ((o.kind.seqs o.step).map o.slotOf).find? (fun i => (s.slot o.core i).st == 4)
def State.slotWait (s : State) (o : MxOp) : Option Nat :=
  ((o.kind.seqs o.step).find? (fun q => o.sees (s.slot o.core (o.slotOf q)) != (3, q))).map o.slotOf

/-- The bytes of the slots of a step. -/
def State.stepBytes (s : State) (o : MxOp) : List Byte :=
  (o.kind.seqs o.step).flatMap (fun q => Mem.read s.opmem (slotAt o.core (o.slotOf q)) 8192)

/-- Weight tile `j` of a member's latched source, when its bank holds it (R321). -/
def State.weightTile (s : State) (k part j : Nat) : Option (Fmt × List Byte) :=
  match s.latchedSrc (coreOf k) part with
  | .none => none
  | .slot t l => if j = 0 then some (t, l) else none
  | .ws t _ i l => if i = j then some (t, l) else none

/-- Where tile `j` of a weight-store source lies (R321). -/
def tileAt (t : Fmt) (w0 : Word) (j : Nat) : Word := w0 + BitVec.ofNat 64 (j * tileBytes t)

/-- The weight-store lines that a member reads for tile `j`: none when its bank holds that tile (R325). -/
def State.tileLines (s : State) (part j k : Nat) : List Nat :=
  match s.latchedSrc (coreOf k) part with
  | .ws t p i _ => if i = j then [] else (s.whoOf k).lines (tileAt t p j) (tileBytes t)
  | _ => []

/-- Tile `j` of the weight store loaded into a member's bank (R321, R325). -/
def State.loadTile (part j : Nat) (s : State) (k : Nat) : State :=
  match s.latchedSrc (coreOf k) part with
  | .ws t p i _ =>
    if i = j then s
    else s.latchSrc (coreOf k) part (.ws t p j (s.ldBytes (s.whoOf k) (tileAt t p j) (tileBytes t)))
  | _ => s

/-- Values of a stack entry or a result: one 64 × 64 tile for each member. -/
abbrev Tiles := List (List (Option Nat))

/-- The units of a list read and written (R317). -/
def State.readUnits (s : State) (o : MxOp) (us : List Nat) : Tiles :=
  us.map (fun u => s.accRead (accKey (rowOf o.core) o.part u 0) 4096)
def State.writeUnits (s : State) (o : MxOp) : List Nat → Tiles → State
  | u :: us, t :: ts => State.writeUnits (s.accWrite (accKey (rowOf o.core) o.part u 0) t) o us ts
  | _, _ => s

/-- canon_add of two lists of tiles. -/
def addAll : Tiles → Tiles → Tiles × FFlags
  | x :: xs, y :: ys =>
    let (v, f) := addTiles x y
    let (l, f') := addAll xs ys
    (v :: l, f ||| f')
  | _, _ => ([], 0)

/-- The entries of one tree of the stack, top first: extent and units, none for an absent partial. -/
abbrev Stk := List (Nat × Nat × List Nat)

/-- Two entries combined into the lower one (R115). -/
def State.mergeTop (s : State) (o : MxOp) (y x : Nat × Nat × List Nat) : State × (Nat × Nat × List Nat) × FFlags :=
  if x.2.2.isEmpty then (s, (x.1, y.2.1, y.2.2), 0)
  else if y.2.2.isEmpty then (s, (x.1, y.2.1, x.2.2), 0)
  else
    let (t, f) := addAll (s.readUnits o x.2.2) (s.readUnits o y.2.2)
    (s.writeUnits o x.2.2 t, (x.1, y.2.1, x.2.2), f)

/-- The loop of R115: merged while the top two have equal extent and the lower is aligned, or, at the end, all. -/
def State.merge (o : MxOp) (all : Bool) : Nat → State → Stk → FFlags → State × Stk × FFlags
  | 0, s, st, f => (s, st, f)
  | n + 1, s, st, f =>
    match st with
    | y :: x :: t =>
      let e := x.2.1 - x.1
      if all || (e == y.2.1 - y.1 && x.1 % (2 * e) == 0) then
        let (s, z, g) := s.mergeTop o y x
        State.merge o all n s (z :: t) (f ||| g)
      else (s, st, f)
    | _ => (s, st, f)

/-- Absent partials pushed for blocks `lo` to `hi` - 1 (R59, R325). -/
def State.padStack (o : MxOp) : Nat → Nat → State → Stk → FFlags → State × Stk × FFlags
  | 0, _, s, st, f => (s, st, f)
  | n + 1, j, s, st, f =>
    let (s, st, f) := State.merge o false 64 s ((j, j + 1, []) :: st) f
    State.padStack o n (j + 1) s st f

/-- Block `j` of a tree over `c` blocks pushed with its tiles, in units that the op has reserved (R115). -/
def State.pushBlock (s : State) (o : MxOp) (used : List Nat) (st : Stk) (j : Nat) (t : Tiles) : State × Stk × FFlags :=
  let pos := match st with
    | [] => 0
    | e :: _ => e.2.1
  let (s, st, f) := State.padStack o (j - pos) pos s st 0
  let live := used ++ st.flatMap (fun e => e.2.2)
  let us := (o.spare.filter (fun u => !has live u)).take t.length
  State.merge o false 64 (s.writeUnits o us t) ((j, j + 1, us) :: st) f

/-- The tree's root: the rest padded and merged; none when it is absent (R115). -/
def State.rootOf (s : State) (o : MxOp) (st : Stk) (c : Nat) : State × Option Tiles × FFlags :=
  let pos := match st with
    | [] => 0
    | e :: _ => e.2.1
  let (s, st, f) := State.padStack o (c - pos) pos s st 0
  let (s, st, f) := State.merge o true 64 s st f
  match st with
  | e :: _ => (s, if e.2.2.isEmpty then none else some (s.readUnits o e.2.2), f)
  | [] => (s, none, f)

/-- `rows` result rows of every member stored from result row `base` of D on (R115, R317, R324). -/
def State.storeRows (s : State) (o : MxOp) (tile : Nat) (z : Bool) (base rows : Nat) (t : Tiles) : State × FFlags :=
  let g := o.strands.length
  (List.range t.length).foldl (fun (acc : State × FFlags) i =>
    (List.range rows).foldl (fun (acc : State × FFlags) m =>
      let (s, f) := acc
      let r := base + m
      let key := accKey (rowOf o.core) o.part (tile + r / 64 * g + i) (r % 64 * 64)
      let new := ((nth t i []).drop (64 * m)).take 64
      if z then (s.accWrite key new, f)
      else
        let (v, h) := addTiles (s.accRead key 64) new
        (s.accWrite key v, f ||| h)) acc) (s, 0)

/-- The column sums of a step for every member (R111, R113); none when a latched source does not serve the tile. -/
def State.stepSums (s : State) (o : MxOp) (t : Fmt) (j rows : Nat) : Option (Tiles × FFlags) :=
  let a := s.stepBytes o
  let ws := o.strands.map (fun k => s.weightTile k o.part j)
  if ws.any Option.isNone then none
  else
    let l := ws.filterMap (fun x => x.map (fun (y : Fmt × List Byte) => columnSums y.1 y.2 t a rows))
    some (l.map (fun x => x.1 ++ List.replicate (4096 - x.1.length) none), l.foldl (fun (f : FFlags) x => f ||| x.2) 0)

/-- Step k of MMA or MMAG (R115, R322, R324). -/
def State.productStep (s : State) (o : MxOp) (tile : Nat) (t : Fmt) (z : Bool) (c : Nat) : Option (State × MxOp) :=
  let (grp, rows, base) := nth o.kind.passes (o.step / c) (0, 0, 0)
  let j := o.step % c
  match s.stepSums o t (grp * c + j) rows with
  | none => none
  | some (sums, f) =>
    if c = 1 then
      let (s, g) := s.storeRows o tile z base rows sums
      some (s, { o with flags := o.flags ||| f ||| g })
    else
      let st : Stk := o.stack.map (fun e => (e.2.1, e.2.2.1, e.2.2.2))
      let (s, st, g) := s.pushBlock o [] st j sums
      if j + 1 = c then
        let (s, root, h) := s.rootOf o st c
        let (s, h') := match root with
          | none => s.storeRows o tile z base rows (List.replicate o.strands.length (List.replicate 4096 none))
          | some r => s.storeRows o tile z base rows r
        some (s, { o with stack := [], flags := o.flags ||| f ||| g ||| h ||| h' })
      else some (s, { o with stack := st.map (fun e => (0, e.1, e.2.1, e.2.2)), flags := o.flags ||| f ||| g })

/-- The part of the stack that belongs to a block row, and the rest. -/
def MxOp.rowStack (o : MxOp) (r : Nat) : Stk :=
  (o.stack.filter (fun e => e.1 == r)).map (fun e => (e.2.1, e.2.2.1, e.2.2.2))
def MxOp.otherStack (o : MxOp) (r : Nat) : List (Nat × Nat × Nat × List Nat) := o.stack.filter (fun e => e.1 != r)

/-- Step e of MMAS with its entry (R325). -/
def State.mmasStep (s : State) (o : MxOp) (tile : Nat) (t : Fmt) (z : Bool) (nbc : Nat) (e : MmasEnt) :
    Option (State × MxOp) :=
  if e.absent then some (s, o)
  else
    match s.stepSums o t e.c 64 with
    | none => none
    | some (sums, f) =>
      if nbc = 1 then
        let (s, g) := s.storeRows o tile z (64 * e.r) 64 sums
        some (s, { o with stack := (e.r, 0, 1, []) :: o.stack, flags := o.flags ||| f ||| g })
      else
        let rest := o.otherStack e.r
        let (s, st, g) := s.pushBlock o (rest.flatMap (fun x => x.2.2.2)) (o.rowStack e.r) e.c sums
        some (s, { o with stack := st.map (fun x => (e.r, x.1, x.2.1, x.2.2)) ++ rest, flags := o.flags ||| f ||| g })

/-- The end of MMAS (R325): each block row's sum into its units. -/
def State.mmasEnd (s : State) (o : MxOp) (tile : Nat) (z : Bool) (nbr nbc : Nat) : State × MxOp :=
  let blank := List.replicate o.strands.length (List.replicate 4096 (none : Option Nat))
  let (s, f) := (List.range nbr).foldl (fun (acc : State × FFlags) r =>
    let (s, f) := acc
    let st := o.rowStack r
    if nbc = 1 then
      if st.isEmpty && z then ((s.storeRows o tile true (64 * r) 64 blank).1, f) else (s, f)
    else
      let (s, root, g) := s.rootOf o st nbc
      match root with
      | none => if z then ((s.storeRows o tile true (64 * r) 64 blank).1, f ||| g) else (s, f ||| g)
      | some t =>
        let (s, h) := s.storeRows o tile z (64 * r) 64 t
        (s, f ||| g ||| h)) (s, 0)
  (s, { o with stack := [], flags := o.flags ||| f })

/-- A present element times the scale, exactly (R329). -/
def scaled (x : FVal) (y : Option FVal) : FVal × FFlags :=
  match y with
  | none => (x, 0)
  | some y =>
    match x, y with
    | _, .nan _ => (.nan false, fNV)
    | .nan _, _ => (.nan false, 0)
    | .inf a, .inf b => (.inf (xor a b), 0)
    | .inf a, .fin b m _ => if m = 0 then (.nan false, fNV) else (.inf (xor a b), 0)
    | .fin a m _, .inf b => if m = 0 then (.nan false, fNV) else (.inf (xor a b), 0)
    | .fin a m e, .fin b n f => (.fin (xor a b) (m * n) (e + f), 0)

/-- MOUT's bytes and flags (R329). -/
def moutBytes (t : Fmt) (m : Rm) (scale : Option (BitVec 32)) (unit : List (Option Nat)) : List Byte × FFlags :=
  let sc := scale.map (fun b => fval .f32 b.toNat)
  let vs : List (Option FVal × FFlags) := unit.map (fun x =>
    match x with
    | none => (none, (0 : FFlags))
    | some b => ((some (scaled (fval .f32 b) sc).1 : Option FVal), (scaled (fval .f32 b) sc).2))
  let fl := vs.foldl (fun (f : FFlags) v => f ||| v.2) 0
  if t.isFb then
    let bs := (chunks 32 128 (vs.map (fun v => v.1.getD (.fin false 0 0)))).map (fun l => fbEncode t m l none)
    (bs.flatMap (fun b => bytesOfNat (fmtSize t) b.1), bs.foldl (fun (f : FFlags) b => f ||| b.2) fl)
  else
    let rs := vs.map (fun v =>
      match v.1 with
      | none => (0, (0 : FFlags))
      | some x => toIeee t m x)
    (rs.flatMap (fun r => bytesOfNat (fmtSize t) r.1), rs.foldl (fun (f : FFlags) r => f ||| r.2) fl)

/-- The op of a partition that is next on a slice (R114, R323): the first accepted one that neither is stopped nor held
behind a stop of its strand, and of a gang on every member's slice. What a held op's other members issued later is held
with it. -/
def nextOn (core part : Nat) : List MxOp → List Nat → Option MxOp
  | [], _ => none
  | o :: t, held =>
    if o.stop.isSome then nextOn core part t (held ++ o.strands)
    else if o.strands.any (fun k => has held k) then nextOn core part t (held ++ o.strands)
    else if o.part == part && o.strands.any (fun k => coreOf k == core) then some o
    else nextOn core part t held
def State.current (s : State) (core part : Nat) : Option MxOp :=
  match nextOn core part s.ops [] with
  | none => none
  | some o =>
    if o.strands.all (fun k => (nextOn (coreOf k) part s.ops []).map (fun (x : MxOp) => x.id) == some o.id) then some o
    else none

/-- What came of trying a step: it waits (the state notes since when), or the op ran, stopped or ended. -/
inductive Tried where
  | waits (s : State)
  | acted (s : State)

/-- A step that cannot run waits for a slot under the op's deadline, and no longer than the eviction bound of its strand
(R109, R117, R171, R326); both stop it with FCODE 5 (log 49). -/
def State.slotDelay (s : State) (o : MxOp) (slot : Nat) : Tried :=
  let t0 := o.since.getD s.now
  if t0 + o.dl ≤ s.now ∨ ((s.evBound o.strand).map (fun b => decide (b ≤ s.now))).getD false then
    .acted (s.stopOp o 5 slot 0)
  else .waits (if o.since.isSome then s else (s.putOp { o with since := some s.now }).count o.core 0x14)

/-- After a step that ran: the next one is due, or the op has ended. -/
def State.stepped (s : State) (o : MxOp) : State :=
  let s := (s.count o.core 0x13).modRow (rowOf o.core) (fun r =>
    { r with rr := Vector.ofFn (fun i : Fin 16 =>
        if o.strands.any (fun k => colOf (coreOf k) == i.val) then o.part else r.rr[i]) })
  if o.step + 1 = o.kind.steps then
    match o.kind with
    | .mmas tile _ z _ _ nbr nbc _ =>
      let (s, o) := s.mmasEnd o tile z nbr nbc
      s.finish o
    | _ => s.finish o
  else
    let s := s.putOp { o with step := o.step + 1, since := none, check := false, stall := (0, 0) }
    o.strands.foldl (fun (s : State) k => s.settleSlots (coreOf k)) s

/-- The entries of a macro-op before its first step, or of none at all. -/
def State.emptyOp (s : State) (o : MxOp) : Tried :=
  match o.kind with
  | .mmas tile _ z _ _ nbr nbc _ =>
    let (s, o) := s.mmasEnd o tile z nbr nbc
    .acted (s.finish o)
  | _ => .acted (s.finish o)

/-- A step that reads weight-store lines: it waits while a bank of them refreshes (R134), else it goes on. -/
def State.afterLines (s : State) (o : MxOp) (lines : List Nat) (go : State → Tried) : Tried :=
  match s.unitStalls lines o.stall with
  | some e => .waits (s.putOp { o with stall := e })
  | none => go (if lines.isEmpty then s else s.countEv (dieF o.core) 0x20 0 lines.length)

/-- A step that needs weight tile `j` in every member's bank (R321, R325). -/
def State.withTile (s : State) (o : MxOp) (j : Nat) (go : State → Tried) : Tried :=
  s.afterLines o (o.strands.flatMap (s.tileLines o.part j)) (fun s => go (o.strands.foldl (State.loadTile o.part j) s))

/-- The boundary before the next step of an op (R321 to R329). An MOUT into the local store of a core that a HALT.Q has
made quiet waits (R176). -/
def State.tryStep (s : State) (o : MxOp) : Tried :=
  if o.bad then .acted (s.endAt o 4 0)
  else if o.kind.steps ≤ o.step then s.emptyOp o
  else
    match o.kind with
    | .mzero tile =>
      .acted ((s.accWrite (accKey (rowOf o.core) o.part tile 0) (List.replicate 4096 none)).stepped o)
    | .mout tile t m scale dst =>
      let (l, f) := moutBytes t m scale (s.accRead (accKey (rowOf o.core) o.part tile 0) 4096)
      if window dst = 2 ∧ (s.core o.core).refuse then .waits s
      else .acted ((s.unitWrite { s.whoOf o.strand with path := 3 } dst l).stepped { o with flags := o.flags ||| f })
    | .mldw t src seq =>
      match seq with
      | none =>
        match src with
        | .ws t p _ _ =>
          let w := s.whoOf o.strand
          s.afterLines o (w.lines p (tileBytes t)) (fun s =>
            .acted ((s.latchSrc o.core o.part (.ws t p 0 (s.ldBytes w p (tileBytes t)))).stepped o))
        | _ => .acted ((s.latchSrc o.core o.part src).stepped o)
      | some _ =>
        match s.slotFault o, s.slotWait o with
        | some i, _ => .acted (s.stopOp o 1 i (s.slot o.core i).fva)
        | none, some i => s.slotDelay o i
        | none, none => .acted ((s.latchSrc o.core o.part (.slot t ((s.stepBytes o).take (tileBytes t)))).stepped o)
    | .mma tile t z _ _ c | .mmag tile t z _ _ c =>
      match (if o.check then s.slotCheck o else none) with
      | some (fc, i) => .acted (s.endAt o fc i)
      | none =>
        if o.strands.any (fun k => s.latchedSrc (coreOf k) o.part == .none) then .acted (s.endAt o 6 0)
        else
          let s := s.putOp { o with check := false }
          let o := { o with check := false }
          match s.slotFault o, s.slotWait o with
          | some i, _ => .acted (s.stopOp o 1 i (s.slot o.core i).fva)
          | none, some i => s.slotDelay o i
          | none, none =>
            s.withTile o (o.kind.tileOf o.step) (fun s =>
              match s.productStep o tile t z c with
              | none => .acted (s.endAt o 6 0)
              | some (s, o) => .acted (s.stepped o))
    | .mmas tile t z _ _ _ nbc _ =>
      if o.strands.any (fun k => s.latchedSrc (coreOf k) o.part == .none) then .acted (s.endAt o 6 0)
      else
        match o.ents with
        | [] => s.slotDelay o ((o.kind.seqs o.step).map o.slotOf |>.headD 0)
        | e :: es =>
          match e.flt with
          | some va => .acted (s.stopOp o 3 o.step va)
          | none =>
            let done := fun (s : State) (o : MxOp) => s.stepped { o with ents := es, last := some (e.c, e.r) }
            if e.absent then .acted (done s o)
            else
              match s.slotFault o, s.slotWait o with
              | some i, _ =>
                let x := s.slot o.core i
                .acted (if x.fcode = 3 then s.stopOp o 1 i x.fva else s.stopOp o 3 o.step x.fva)
              | none, some i => s.slotDelay o i
              | none, none =>
                s.withTile o e.c (fun s =>
                  match s.mmasStep o tile t z nbc e with
                  | none => .acted (s.endAt o 6 0)
                  | some (s, o) => .acted (done s o))

/-- Cancelled ops of a slice go at its boundary (R116). -/
def State.dropCancelled (s : State) (core : Nat) : State :=
  (s.ops.filter (fun o => o.cancel && o.strands.any (fun k => coreOf k == core))).foldl
    (fun (s : State) o => (s.unname o).leave o) s

/-- The partitions of a slice in round-robin order after the one served last (R114). -/
def State.partOrder (s : State) (core : Nat) : List Nat :=
  let last := ((s.row (rowOf core)).rr.toList)[colOf core]?.getD 0
  (List.range 4).map (fun i => (last + 1 + i) % 4)

/-- The first partition whose next step can act. -/
def State.tryParts (core : Nat) : List Nat → State → State
  | [], s => s
  | p :: ps, s =>
    match s.current core p with
    | none => State.tryParts core ps s
    | some o =>
      match s.tryStep o with
      | .waits s => State.tryParts core ps s
      | .acted s => s

/-- MMAS ops in progress on a slice whose next entry may be read ahead (R325). -/
def State.prefetching (s : State) (core : Nat) : Option MxOp :=
  (List.range 4).findSome? (fun p =>
    match s.current core p with
    | none => none
    | some o =>
      match o.kind with
      | .mmas .. =>
        if o.core = core ∧ o.ents.length < 9 ∧ o.step + o.ents.length < o.kind.steps ∧ !o.bad
            ∧ o.ents.all (fun e => e.flt.isNone) then some o
        else none
      | _ => none)

/-- A step boundary of a slice (R114). The unit is the core. -/
def execSequencerStep (s : State) : Host.Outcome State Fault Refusal :=
  let core := s.cur
  let s := s.dropCancelled core
  let s := State.tryParts core (s.partOrder core) s
  let s := if (s.prefetching core).isSome then s.postOnce core .mmasPrefetch else s
  .next (if (List.range 4).any (fun p => (nextOn core p s.ops []).isSome) then s.postOnce core .sequencerStep else s)

/-! ### MMAS entries (R325) -/

/-- The slots of an entry's tile are free of earlier readers and of fills (R108, R325). -/
def State.slotsClear (s : State) (o : MxOp) (e : Nat) (slots : List Nat) : Bool :=
  slots.all (fun i =>
    let x := s.slot o.core i
    (x.st == 1 || x.st == 3 || x.st == 4) && x.pend.isNone && !o.names e i none
      && !s.ops.any (fun p => p.core == o.core && decide (p.id < o.id) && p.names p.kind.steps i none))

/-- Entry `e` of a tile list, read and checked (R325). -/
def State.readEntry (s : State) (w : Who) (list : Word) (e nbr nbc : Nat) (prev : Option (Nat × Nat)) :
    MmasEnt × Word :=
  let a := list + BitVec.ofNat 64 (32 + 16 * e)
  match w.addrCheck a 16 false, s.xfail w a 16 with
  | .error t, _ => (⟨0, 0, false, 0, some t.ea⟩, 0)
  | _, some (va, _) => (⟨0, 0, false, 0, some va⟩, va)
  | .ok _, none =>
    let l := s.ldBytes w a 16
    let r := leAt l 0 2
    let c := leAt l 2 2
    let fl := leAt l 4 4
    let va : Word := BitVec.ofNat 64 (leAt l 8 8)
    let order := match prev with
      | none => true
      | some (pc, pr) => decide (pc < c) || (pc == c && decide (pr < r))
    if 2 ≤ fl ∨ nbr ≤ r ∨ nbc ≤ c ∨ !order then (⟨r, c, false, va, some a⟩, 0)
    else (⟨r, c, fl == 1, va, none⟩, 0)

/-- The sequencer reads the next entry ahead and starts the fetch of its tile into the ring, once the slot is free of
earlier readers (R325). From the weight store it stalls on refresh (R134). The unit is the core. -/
def execMmasPrefetch (s : State) : Host.Outcome State Fault Refusal :=
  let core := s.cur
  match s.prefetching core with
  | none => .next s
  | some o =>
    match o.kind with
    | .mmas _ t _ list _ nbr nbc _ =>
      let e := o.step + o.ents.length
      let qs := o.kind.seqs e
      let w := s.whoOf o.strand
      let prev := match o.ents.getLast? with
        | some x => some (x.c, x.r)
        | none => o.last
      let at_ := list + BitVec.ofNat 64 (32 + 16 * e)
      let lines := w.lines at_ 16
      match s.unitStalls lines o.ahead with
      | some c => .next ((s.putOp { o with ahead := c }).postOnce core .mmasPrefetch)
      | none =>
      let (x, fail) := s.readEntry w list e nbr nbc prev
      if s.eccHit w at_ 16 then .next (s.endLaunch o.ctx 1) else
      let fetch := x.flt.isNone && !x.absent
      if fetch && !s.slotsClear o e (qs.map o.slotOf) then .next (s.postOnce core .mmasPrefetch)
      else
        let s := (if lines.isEmpty then s else s.countEv (dieF core) 0x20 0 lines.length).touch w at_ 16
        let s := if fail ≠ 0 then s.xlateWait o.ctx fail ((w.task.map (fun (t : Task) => boxKey t.tr.box)).getD 0) else s
        let n := Nat.min 8192 (tileBytes t)
        let s := if fetch then
            (List.range qs.length).foldl (fun (s : State) i =>
              s.startFill core (o.slotOf (nth qs i 0)) (nth qs i 0) ⟨x.va + BitVec.ofNat 64 (8192 * i), n, w.task⟩) s
          else s
        let s := s.putOp { o with ents := o.ents ++ [x], ahead := (0, 0) }
        .next ((s.postOnce core .mmasPrefetch).postOnce core .sequencerStep)
    | _ => .next s

/-! ### MWAIT, MRESUME, MOUT, MZERO, MSTAT (R327 to R330) -/

/-- The detail of MWAIT's status (R327). -/
def State.mwDetail (s : State) (fcode step : Nat) : Nat := fcode + step % 2 ^ 32 * 2 ^ 8 + s.pendOps s.cur % 256 * 2 ^ 40

/-- What MWAIT finds (R327): an op that ended at a step, reported once; the oldest op stopped; nothing unended. -/
def mwaitCond (s : State) : Option (Nat × Nat × State) :=
  match s.st.mxRep with
  | (fc, k) :: r => some (sFAULT, s.mwDetail fc k, s.mod (fun t => { t with mxRep := r }))
  | [] =>
    match s.ops.find? (fun o => o.of s.cur && !o.cancel) with
    | none => some (sOK, 0, s)
    | some o =>
      match o.stop with
      | none => none
      | some (fc, _, _) =>
        if fc = 5 then some (sTIMEOUT, s.mwDetail 5 o.step, s.count (coreOf s.cur) 0x11)
        else some (sFAULT, s.mwDetail fc o.step, s)

/-- MWAIT, tested (R327). -/
def mwaitPoll (p : Poll) (g : Guard) (d l : SReg) (s : State) : Except TrapInfo State :=
  .ok (s.blocking p (.mwait g d l) d (s.deadline l) mwaitCond (fun s => (sTIMEOUT, s.mwDetail 0 0, s)))

/-- MWAIT (R327). -/
def execMwait (g : Guard) (d l : SReg) (s : State) : Host.Outcome State Fault Refusal :=
  guarded g 8 s (mwaitPoll .issue g d l)

/-- The columns of a gang (R113). -/
def MxOp.mask (o : MxOp) : BitVec 16 :=
  BitVec.ofNat 16 (o.strands.foldl (fun n k => n ||| 2 ^ colOf (coreOf k)) 0)

/-- MRESUME, tested (R328): the stopped op goes on from its step; of a gang when every member has executed it. -/
def mresumePoll (p : Poll) (g : Guard) (l : SReg) (s : State) : Except TrapInfo State :=
  if p ≠ .issue then .ok (s.gangTest p)
  else
    match s.ops.find? (fun o => o.of s.cur && !o.cancel) with
    | none => .ok (s.adv 8)
    | some o =>
      if o.stop.isNone then .ok (s.adv 8)
      else if !o.gang.isEmpty then
        .ok (s.gangArrive o.mask { o with dl := s.deadline l, core := coreOf s.cur } codeResume (.mresume g l) (s.deadline l))
      else
        let o := { o with stop := none, check := true, since := none, ents := [], dl := s.deadline l, stall := (0, 0)
                          ahead := (0, 0) }
        let s := match o.kind with
          | .mldw t src seq => s.nameSrc o.core o.part (if seq.isSome then .slot t [] else src)
          | _ => s
        .ok (((s.putOp o).wakeSlices (rowOf o.core)).adv 8)

/-- MRESUME (R328). -/
def execMresume (g : Guard) (l : SReg) (s : State) : Host.Outcome State Fault Refusal :=
  guarded g 8 s (mresumePoll .issue g l)

/-- MOUT (R329): the destination is checked at issue, in window 0x0 or 0x2. -/
def execMout (g : Guard) (t : Fmt) (m : Rm) (sc : Bool) (tile : Fin 64) (a b : SReg) (s : State) :
    Host.Outcome State Fault Refusal :=
  guarded g 8 s (fun s =>
    let dst := s.rS a
    let w := s.who
    let core := coreOf s.cur
    match s.access w kMstore dst (moutLen t) 64 with
    | .error e => .error e
    | .ok _ =>
      if s.stackTop core s.curCtx < tile.val + 1 then trapc tENGINE 0x0503
      else if !s.queueFree core (s.part core s.curCtx) then .ok s.hold
      else
        match s.logRun w dst (moutLen t) with
        | .error e => .error e
        | .ok s =>
          let scale := if sc then some ((s.rS b).setWidth 32) else none
          .ok (s.issueOp (.mout tile.val t (s.rm m) scale dst) 0 0 (fun s => s.touch w dst (moutLen t))))

/-- MZERO (R329). -/
def execMzero (g : Guard) (tile : Fin 64) (s : State) : Host.Outcome State Fault Refusal :=
  guarded g 8 s (fun s =>
    if s.stackTop (coreOf s.cur) s.curCtx < tile.val + 1 then trapc tENGINE 0x0503
    else .ok (s.issueOp (.mzero tile.val) 0 0 (fun s => s)))

/-- MSTAT (R330). -/
def execMstat (g : Guard) (d : SReg) (sel : MstatSel) (s : State) : Host.Outcome State Fault Refusal :=
  plain g s (fun s => s.wS d (match sel with
    | .stat => s.mxstat s.cur
    | .step => s.st.mxstep
    | .fva => s.st.mxfva))

end Sys2Proof.Machine
end

