-- ==== Sys2Proof/Machine/Engines.lean ====
section
/-! DEFINITION. Engine commands (R316, R331 to R341): FETCH, PUT, GATHER, SCATA, the neighbour-list engine, CONV, EWAIT
and ESTAT, with the steps of the engines. -/
namespace Sys2Proof.Machine

/-! ### Commands (R331) -/

/-- The number by which the steps of an engine name a command: its logical core and its count. -/
def cmdKey (c : Cmd) : Nat := c.lc * 2 ^ 32 + c.count

/-- The tag of a command, as D >> 8 gives it (R331). -/
def cmdTag (c : Cmd) : Nat := c.engine * 2 ^ 48 + c.unit * 2 ^ 44 + c.count % 2 ^ 32

/-- SCATA alone is held in the tile heap, not in an engine's queue (R335). -/
def Cmd.isScata (c : Cmd) : Bool :=
  match c.instr with
  | .scata .. => true
  | _ => false

/-- A command that has not ended. -/
def Cmd.open_ (c : Cmd) : Bool := c.live && c.st != 2

def State.findCmd (s : State) (key : Nat) : Option Cmd := s.cmds.find? (fun c => cmdKey c == key && c.live)
def State.putCmd (s : State) (c : Cmd) : State :=
  { s with cmds := s.cmds.map (fun (x : Cmd) => if cmdKey x = cmdKey c ∧ x.live then c else x) }

/-- A command of the current strand, queued. -/
def State.newCmd (s : State) (engine unit : Nat) (i : Instr) (a b c : Word) : Cmd :=
  { engine := engine, unit := unit, count := 0, ctx := s.curCtx, lc := (s.st.task.map (·.lc)).getD 0, mark := s.mark s.cur
    core := coreOf s.cur, live := true, instr := i, a := a, b := b, c := c, idx := [], vals := [], maker := s.st.task
    st := 0, final := 0, progress := 0, reason := 0, fva := 0, p0 := 0, p1 := 0, retryAt := 0, cancel := false, spill := []
    key := (s.st.task.map (fun (t : Task) => boxKey t.tr.box)).getD 0, stall := (0, 0), undone := false, reread := false }

/-- Room for a command: at most 8 unended ones of the task, and 64 of the context in the engine's queue (R331). -/
def State.cmdRoom (s : State) (c : Cmd) : Bool :=
  decide (s.cmds.countP (fun x => x.open_ && x.mark == c.mark) < 8)
    && (c.isScata || decide (s.cmds.countP (fun x => x.open_ && x.ctx == c.ctx && x.engine == c.engine
      && x.unit == c.unit && !x.isScata) < 64))

/-- Acceptance: the command takes the next count of its logical core and its first step is due. -/
def State.acceptCmd (s : State) (c : Cmd) (first : Option Instr) : Cmd × State :=
  let n := (s.lc c.lc).cmds + 1
  let c := { c with count := n }
  let s := (s.modLc c.lc (fun l => { l with cmds := n }))
  let s := { s with cmds := s.cmds ++ [c] }
  (c, match first with
    | none => s
    | some i => s.post (cmdKey c) i)

/-- What the checks of an engine command give: a status at once, the state in which it is accepted, the command and its
first step, or that the tile heap has no place yet for its updates (R367). -/
inductive Issued where
  | status (code detail : Nat) (s : State)
  | cmd (s : State) (c : Cmd) (first : Option Instr)

/-- An engine command, tested (R331): its traps, its operand checks, then the wait for an entry under L. -/
def engineTest (p : Poll) (i : Instr) (d l : SReg) (check : State → Except TrapInfo Issued) (s : State) :
    Except TrapInfo State :=
  match check s with
  | .error t => .error t
  | .ok (.status code detail s) => .ok (((s.unblock).statusB d code detail).adv 8)
  | .ok (.cmd s' c first) =>
    .ok (s.blocking p i d (s.deadline l)
      (fun _ => if s'.cmdRoom c then
          let (c, s) := s'.acceptCmd c first
          some (sOK, cmdTag c, s)
        else none)
      (fun s => (sTIMEOUT, 0, s)))

/-- An engine command, tested, at its issue after the reads that its checks make then (R134, R135). -/
def enginePoll (p : Poll) (i : Instr) (d l : SReg) (reads : State → List (Word × Nat))
    (check : State → Except TrapInfo Issued) (s : State) : Except TrapInfo State :=
  if p = .issue then s.withReads s.who (reads s) (engineTest p i d l check) else engineTest p i d l check s

/-- The engine of a unit is ready (R22, R331). -/
def State.unitReady (s : State) (bit : Nat) : Bool := s.boot.ready1.getLsbD bit

/-- Who makes an engine's accesses (R138, R143, R147): the command's task as it was at issue, on the engine's path,
through the TLB of the base die whose GDE received the command, or, of an NLE and an FCE, the die's. -/
def State.cmdWho (s : State) (c : Cmd) : Who :=
  { s.whoFor (markStrand c.mark) c.core c.ctx false c.maker c.mark with
    mmu := if c.engine = 1 then .base c.unit else .die, path := c.engine + 3, quiet := c.undone }

/-- The pages of a unit's access that miss the TLB that it uses are counted with their walks, and a walk that gives a
translation enters it there (R28, R138). -/
def State.unitTouch (s : State) (w : Who) (ea : Word) (n : Nat) : State :=
  if window ea ≠ 0 ∨ n = 0 then s
  else
    (pageStarts ea.toNat n).foldl (fun (s : State) p =>
      let d := dieF w.core
      let put := fun (cap : Nat) (l : List TlbEnt) =>
        match s.xl w p with
        | .error _ => l
        | .ok x => tlbInstall l cap ⟨w.ctx, p - x.off, x.page, x.size, x.write, x.replica⟩
      match w.mmu with
      | .core => s
      | .die =>
        if (tlbFind (s.die d).tlb w.ctx p).isSome then s
        else ((s.countEv d 0x1E 0 1).countEv d 0x1F 0 1).modDie d (fun x => { x with tlb := put 16384 x.tlb })
      | .base g =>
        let l := s.baseTlb.get g []
        if (tlbFind l w.ctx p).isSome then s
        else { s.countEv d 0x1F 0 1 with baseTlb := s.baseTlb.set g (put 4096 l) }) s

/-- A command has its final status; it becomes visible with ENGINE_COMMAND_END (R332). -/
def State.endCmd (s : State) (c : Cmd) (final reason : Nat) (va : Word) : State :=
  (s.putCmd { c with st := 4, final := final, reason := reason, fva := va }).post (cmdKey c) .engineCommandEnd

/-- A translation failure of an engine (R316), whose walk is counted (R28); one whose walk meets an uncorrectable error
ends the launch (R135). -/
def State.failCmd (s : State) (c : Cmd) (reason : Nat) (va : Word) : State :=
  s.unlessHit (s.cmdWho c) (s.tableHit (s.cmdWho c) va 1)
    (((s.unitTouch (s.cmdWho c) va 1).endCmd c sFAULT reason va).xlateWait c.ctx va c.key)

/-- Rows of a GATHER or SCATA: n, z. -/
def rowCount (n : BitVec 8) : Nat := n.toNat + 1
def rowBytes (z : BitVec 10) : Nat := 8 * (z.toNat + 1)

/-- The step with which a command goes on. -/
def Cmd.nextStep (c : Cmd) : Option Instr :=
  match c.instr with
  | .fetch .. | .put .. => some .gdeTransferBlock
  | .gather .. => some .gdeRowFetch
  | .nlbin .. => some .nlbinComplete
  | .nlpairs .. => some .nleBlock
  | .conv .. => some .convPhase
  | _ => none

/-- Bytes that a command read at issue, read again from memory (R341); a frame, which no save keeps (R172), is not there
any more. -/
def State.readAgain (s : State) (w : Who) (ea : Word) (n : Nat) (old : List Byte) : List Byte :=
  if (window ea = 2 ∧ (w.staticOff (inWindowOff ea)).isNone) ∨ (s.xfail w ea n).isSome then old else s.ldBytes w ea n

/-- The numbers of an index list. -/
def idxOf (n : Nat) (l : List Byte) : List Nat := (List.range n).map (fun i => leAt l (4 * i) 4)
def idxBytes (l : List Nat) : List Byte := l.flatMap (bytesOfNat 4)

/-- The ranges that a stopped command reads again. -/
def Cmd.rereads (c : Cmd) : List (Word × Nat) :=
  match c.instr with
  | .gather _ _ _ _ _ _ n _ => [(c.a, 4 * rowCount n)]
  | .scata _ _ _ _ _ _ _ n z => [(c.a, 4 * rowCount n), (c.c, rowCount n * rowBytes z)]
  | .conv .. => [(c.a, 64), (c.b, 64)]
  | _ => []

/-- A stopped command with its index list or its descriptors read again (R341). -/
def State.rereadCmd (s : State) (c : Cmd) : Cmd :=
  let w := s.cmdWho c
  match c.instr with
  | .gather _ _ _ _ _ _ n _ => { c with idx := idxOf (rowCount n) (s.readAgain w c.a (4 * rowCount n) (idxBytes c.idx)) }
  | .conv .. => { c with vals := s.readAgain w c.a 64 (c.vals.take 64) ++ s.readAgain w c.b 64 (c.vals.drop 64) }
  | _ => c

/-- What a command read at issue is read again before it goes on after RESUME (R341): the read stalls where a bank of
the weight store refreshes (R134), and an uncorrectable error there ends the launch (R135). `stay` waits, `f` goes on. -/
def State.rereadFirst (s : State) (c : Cmd) (stay : State → State) (f : State → Cmd → State) : State :=
  let w := s.cmdWho c
  if !c.reread then f s c
  else
    s.unlessHit w (c.rereads.any (fun e => s.eccHit w e.1 e.2))
      (s.unitLines c.core (c.rereads.flatMap (fun e => w.lines e.1 e.2)) c.stall
        (fun s e => stay (s.putCmd { c with stall := e }))
        (fun s => f s { s.rereadCmd c with reread := false, stall := (0, 0) }))

/-- The step of a command that runs on this turn: the command, unless it has ended, is stopped for eviction, or is
cancelled, which ends it at this boundary (R331, R336, R341). -/
def State.cmdStep (s : State) (f : State → Cmd → State) : State :=
  match s.findCmd s.cur with
  | none => s
  | some c =>
    if 2 ≤ c.st then s
    else if c.cancel then
      match c.instr with
      | .fetch .. => (s.endCmd c sFAULT 0x80 0).wakeCore c.core
      | _ => s.endCmd c sSTALE 7 0
    else
      s.rereadFirst c (fun s => match c.nextStep with
        | some i => s.post s.cur i
        | none => s) (fun s c => f s { c with st := 1 })

/-- A command ends with its final status, for EWAIT and ESTAT to see (R332). The unit is the command. -/
def execEngineCommandEnd (s : State) : Host.Outcome State Fault Refusal :=
  match s.findCmd s.cur with
  | none => .next s
  | some c => .next (if c.st = 4 then (s.putCmd { c with st := 2 }).wakeCore c.core else s)

/-! ### FETCH and PUT (R333) -/

/-- The checks of FETCH (`fetch`) and PUT. -/
def copyCheck (fetch : Bool) (i : Instr) (a b c : SReg) (s : State) : Except TrapInfo Issued :=
  let w := s.who
  let src := s.rS a
  let dst := s.rS b
  let n := (s.rS c).toNat
  let unit := 2 * dieOf w.core
  if n % 8 ≠ 0 ∨ n < 8 ∨ 2 ^ 24 < n ∨ src.toNat % 8 ≠ 0 ∨ dst.toNat % 8 ≠ 0 then .ok (.status sFAULT 1 s)
  else if (fetch ∧ (1 < window src ∨ window dst ≠ 2)) ∨ (!fetch ∧ (window src ≠ 2 ∨ window dst ≠ 0)) then
    .ok (.status sFAULT 6 s)
  else
    match s.access w kFetch src n 8, s.access w kPut dst n 8 with
    | .error t, _ => .error t
    | _, .error t => .error t
    | .ok _, .ok _ =>
      match (if fetch then .ok s else s.logRun w dst n) with
      | .error t => .error t
      | .ok s' =>
        if !s.unitReady (12 + unit) then .ok (.status sFAULT 0xFE s)
        else .ok (.cmd s' (s.newCmd 1 unit i src dst (s.rS c)) (some .gdeTransferBlock))

def fetchPoll (p : Poll) (g : Guard) (d a b c l : SReg) : State → Except TrapInfo State :=
  enginePoll p (.fetch g d a b c l) d l (fun _ => []) (copyCheck true (.fetch g d a b c l) a b c)
def putPoll (p : Poll) (g : Guard) (d a b c l : SReg) : State → Except TrapInfo State :=
  enginePoll p (.put g d a b c l) d l (fun _ => []) (copyCheck false (.put g d a b c l) a b c)

/-- FETCH (R333). -/
def execFetch (g : Guard) (d a b c l : SReg) (s : State) : Host.Outcome State Fault Refusal :=
  guarded g 8 s (fetchPoll .issue g d a b c l)
/-- PUT (R333). -/
def execPut (g : Guard) (d a b c l : SReg) (s : State) : Host.Outcome State Fault Refusal :=
  guarded g 8 s (putPoll .issue g d a b c l)

/-- The next 64-byte block of a FETCH or PUT (R333): a translation failure ends the command with reason 2. A FETCH
reads the weight store when its banks allow (R134); while the core's router is quiet under HALT.Q, its write is
answered with RETRY and offered again 256 cycles later (R170, R176). The unit is the command. -/
def execGdeTransferBlock (s : State) : Host.Outcome State Fault Refusal :=
  .next (s.cmdStep (fun s c =>
    let w := s.cmdWho c
    let n := Nat.min 64 (c.c.toNat - c.p1)
    let src := c.a + BitVec.ofNat 64 c.p1
    let dst := c.b + BitVec.ofNat 64 c.p1
    let far := if window dst = 2 then src else dst
    let stay := fun (s : State) (c : Cmd) => (s.putCmd c).post s.cur .gdeTransferBlock
    if window dst = 2 ∧ (s.core c.core).refuse then
      stay s (if s.cyc c.core < c.retryAt then c else { c with retryAt := s.cyc c.core + 256 })
    else if s.cyc c.core < c.retryAt then stay s c
    else
      match s.xfail w far n with
      | some (va, _) => s.failCmd c 2 va
      | none =>
        s.unlessHit w (s.eccHit w src n || s.tableHit w dst n)
          (s.unitLines c.core (w.lines src n) c.stall (fun s e => stay s { c with stall := e }) (fun s =>
          let s := (s.unitWrite w dst (s.ldBytes w src n)).unitTouch w far n
          let c := { c with p1 := c.p1 + n, progress := (c.p1 + n) / 64, stall := (0, 0) }
          if c.p1 = c.c.toNat then s.endCmd c sOK 0 0 else stay s c))))

/-! ### Index lists and rows (R334, R335) -/

/-- The checks of the index list, and its indices (R334). -/
def State.indexList (s : State) (w : Who) (a : Word) (n : Nat) : Except TrapInfo (List Nat) := do
  alignCheck a (4 * n) 4
  w.addrCheck a (4 * n) false
  if window a = 1 then .error ⟨tRANGE, 4 * n, a, 0⟩
  s.access w kLoad a (4 * n) 4
  return (List.range n).map (fun i => s.ldNat w (a + BitVec.ofNat 64 (4 * i)) 4)

/-- An index list, as far as its checks let it be read. -/
def State.listRead (s : State) (w : Who) (a : Word) (n : Nat) : List (Word × Nat) :=
  match s.indexList w a n with
  | .ok _ => [(a, 4 * n)]
  | .error _ => []

/-- A row's address. -/
def rowAt (base : Word) (z i : Nat) : Word := base + BitVec.ofNat 64 (i * z)

/-- The checks of every row, which lies in window 0x0, in ascending position (R316). -/
def State.rowChecks (s : State) (w : Who) (kd : AccKind) (base : Word) (z : Nat) : List Nat → Except TrapInfo Unit
  | [] => .ok ()
  | i :: t =>
    match w.addrCheck (rowAt base z i) z false with
    | .error e => .error e
    | .ok _ =>
      match (if window (rowAt base z i) ≠ 0 then .error ⟨tRANGE, z, rowAt base z i, 0⟩
          else s.access w kd (rowAt base z i) z 8) with
      | .error e => .error e
      | .ok _ => s.rowChecks w kd base z t

/-! ### GATHER (R334) -/

/-- The checks of the baton of a GATHER or an NLPAIRS: FAULT 4 of a handle that is not of a CORE baton, FAULT 5 of a
slot below `n` bytes. -/
def State.sinkCheck (s : State) (h : Word) (n : Nat) : Nat :=
  match s.anyBaton h with
  | none => 4
  | some (lck, x) =>
    let t := s.batonOf lck x
    if !t.core then 4 else if t.size < n then 5 else 0

/-- The checks of GATHER (R334). -/
def gatherCheck (i : Instr) (a b c : SReg) (n : BitVec 8) (z : BitVec 10) (s : State) : Except TrapInfo Issued :=
  let w := s.who
  let unit := 2 * dieOf w.core
  match s.indexList w (s.rS a) (rowCount n) with
  | .error t => .error t
  | .ok idx =>
    match alignCheck (s.rS b) (rowBytes z) 8 with
    | .error t => .error t
    | .ok _ =>
      match s.rowChecks w kFetch (s.rS b) (rowBytes z) idx with
      | .error t => .error t
      | .ok _ =>
        if 4096 < rowBytes z then .ok (.status sFAULT 3 s)
        else if s.sinkCheck (s.rS c) (rowBytes z) ≠ 0 then .ok (.status sFAULT (s.sinkCheck (s.rS c) (rowBytes z)) s)
        else if !s.unitReady (12 + unit) then .ok (.status sFAULT 0xFE s)
        else
          let cmd := s.newCmd 1 unit i (s.rS a) (s.rS b) (s.rS c)
          .ok (.cmd s { cmd with idx := idx, p1 := bits (s.rS c) 31 0 } (some .gdeRowFetch))

def gatherPoll (p : Poll) (g : Guard) (d a b c l : SReg) (n : BitVec 8) (z : BitVec 10) :
    State → Except TrapInfo State :=
  enginePoll p (.gather g d a b c l n z) d l (fun s => s.listRead s.who (s.rS a) (rowCount n))
    (gatherCheck (.gather g d a b c l n z) a b c n z)

/-- GATHER (R334). -/
def execGather (g : Guard) (d a b c l : SReg) (n : BitVec 8) (z : BitVec 10) (s : State) :
    Host.Outcome State Fault Refusal :=
  guarded g 8 s (gatherPoll .issue g d a b c l n z)

/-- Bytes of the spill region of a logical core (R172). -/
def spillBytes : Nat := 0x20_0000 - 0x10_4000

/-- Where the block of a local logical core, and its spill region, lie in the save area (R172). -/
def Ctx.saveAt (c : Ctx) (l : Nat) : Nat := c.area + c.off[5] + 0x4100000 + 0x200000 * l
def Ctx.spillAt (c : Ctx) (l : Nat) : Nat := c.saveAt l + 0x10_4000

/-- The logical core has left its core, or is leaving it: its batons are out of reach (R170 step 4). -/
def State.away (s : State) (lck : Nat) : Bool := (s.lc lck).draining || (s.lc lck).evicted
/-- Commands of a logical core spill (R173): ESAVE of CTXCFG on its core is SPILL (R106). -/
def State.spills (s : State) (lck : Nat) : Bool := (s.regs (s.hostOf lck) (lcCtx lck)).ctxcfg.getLsbD 0

/-- The baton handle of a GATHER or an NLPAIRS. -/
def Cmd.handle (c : Cmd) : Word :=
  match c.instr with
  | .nlpairs .. => c.b
  | _ => c.c

/-- The baton that a command delivers to, when its handle names one of this chip (R260). -/
def State.sinkOf (s : State) (c : Cmd) : Option (Nat × Nat) :=
  let h := c.handle
  let w := s.cmdWho c
  let base := (w.launch.map (fun (l : Launch) => l.chipno * 1024)).getD 0
  let lck := lcKey c.ctx (bits h 63 44 - base)
  if h.getLsbD 43 && w.hosted (bits h 63 44) && decide (bits h 35 32 < (s.lc lck).batons.length) then
    some (lck, bits h 35 32)
  else none

/-- Bytes in the spill region of a logical core (R173). -/
def State.spilled (s : State) (lck : Nat) : Nat :=
  s.cmds.foldl (fun n (c : Cmd) =>
    if c.live ∧ (s.sinkOf c).map (fun (x : Nat × Nat) => x.1) = some lck then
      n + c.spill.foldl (fun m (e : BitVec 32 × List Byte) => m + e.2.length) 0
    else n) 0

/-- What became of a block that a command offered to its baton: landed or spilled, refused STALE 1 or 2, to be offered
again after some cycles, or not taken because the spill region is full (R132, R173). -/
inductive Sunk where
  | done (s : State) (c : Cmd)
  | stale (n : Nat)
  | again (cycles : Nat)
  | full

/-- A block is offered to a slot of the command's baton (R132, R173); a spilled one is written by the engine, as an
agent of the commanding die (R152). -/
def State.sink (s : State) (c : Cmd) (q : BitVec 32) (l : List Byte) : Sunk :=
  match s.sinkOf c with
  | none => .stale 2
  | some (lck, x) =>
    let cx := s.ctx? c.ctx
    if s.away lck && s.spills lck then
      let used := s.spilled lck
      if spillBytes < used + l.length then .full
      else
        let at_ := (cx.map (fun (y : Ctx) => y.spillAt (lcLocal lck))).getD 0
        .done (s.unitWrite (s.cmdWho c) (BitVec.ofNat 64 (at_ + used)) l) { c with spill := c.spill ++ [(q, l)] }
    else
      match s.offer lck x q with
      | 1 =>
        let slot := (s.batonOf lck x).index q
        let s := s.modBaton lck x (fun t => t.put q ⟨1, some q, nobody, true, 0⟩)
        .done (s.land lck x slot 0 l true) c
      | 2 => .stale 1
      | 3 => .stale 2
      | 4 => .again 64
      | _ => .again 256

/-- The next sequence that an NLPAIRS delivers (R338). -/
def Cmd.nextSeq (c : Cmd) : Nat := (c.b.toNat + c.progress) % 2 ^ 32

/-- An engine record (R173, R341). -/
def Cmd.saveBytes (c : Cmd) : List Byte :=
  let w : Word := (encodeWord c.instr).getD 0
  let (p0, p1, p2) := match c.instr with
    | .fetch .. | .put .. => (0, c.p1, 0)
    | .scata .. | .nlbin .. => (0, 0, 0)
    | .nlpairs .. => (c.p0, c.p1, c.nextSeq)
    | _ => (c.p0, c.p1, 0)
  bytesOfNat 1 c.engine ++ bytesOfNat 1 c.unit ++ bytesOfNat 6 0 ++ bytesOfNat 8 (cmdTag c) ++ bytesOfNat 8 c.a.toNat
    ++ bytesOfNat 8 c.b.toNat ++ bytesOfNat 8 c.c.toNat
    ++ bytesOfNat 4 (bits w 21 0 + (bits w 63 56 - 0xE0) * 2 ^ 22) ++ bytesOfNat 4 p0 ++ bytesOfNat 8 p1 ++ bytesOfNat 8 p2

/-- The logical core whose block holds the record of a command: the one that issued it, when that is evicted, else the
one whose baton it writes (R173). -/
def State.recordLc (s : State) (c : Cmd) : Option Nat :=
  if s.away c.lc then some c.lc else ((s.sinkOf c).map (fun (x : Nat × Nat) => x.1)).filter s.away

/-- The commands whose records a block holds, at most 32 (R172): those that have stopped, and the SCATAs that are held
in the heap. -/
def State.recordsOf (s : State) (lck : Nat) : List Cmd :=
  (s.cmds.filter (fun (c : Cmd) =>
    c.live && s.recordLc c == some lck && (c.st == 3 || (c.isScata && decide (c.st < 2))))).take 32

/-- The records of a block that is already saved, with their count, when a command stops later (R173). -/
def State.writeRecord (s : State) (c : Cmd) : State :=
  match s.recordLc c, s.ctx? c.ctx with
  | some lck, some x =>
    let l := s.recordsOf lck
    let at_ := x.saveAt (lcLocal lck)
    if (s.lc lck).evicted then
      (s.ctxWrite c.ctx none (at_ + 7) (bytesOfNat 1 l.length)).ctxWrite c.ctx none (at_ + 0x2D00) (l.flatMap (·.saveBytes))
    else s
  | _, _ => s

/-- A command whose block was offered: what it does next. `more` says how it goes on from a block that was taken. -/
def State.afterSink (s : State) (c : Cmd) (i : Instr) (r : Sunk) (more : State → Cmd → State) : State :=
  match r with
  | .done s c => more s c
  | .stale n => s.endCmd c sSTALE n 0
  | .again n => (s.putCmd { c with retryAt := s.cyc c.core + n }).post (cmdKey c) i
  | .full => (s.putCmd { c with st := 3 }).writeRecord c

/-- The baton of a command is on an evicted row. -/
def State.sinkGone (s : State) (c : Cmd) : Bool :=
  match s.sinkOf c with
  | none => false
  | some (lck, _) => s.away lck

/-- A step of a command that delivers to a baton: spilled blocks are replayed first, in order, once the row is back
(R173). DESIGN CHOICE (log 49): where one of them is refused STALE, the rest of the spill is dropped and the command
goes on. -/
def State.replayOr (s : State) (i : Instr) (f : State → Cmd → State) : State :=
  match s.findCmd s.cur with
  | none => s
  | some c =>
    match c.spill with
    | [] => s.cmdStep f
    | (q, l) :: t =>
      if s.sinkGone c then s.cmdStep f
      else if s.cyc c.core < c.retryAt then s.post s.cur i
      else
        match s.sink { c with spill := [] } q l with
        | .done s _ => (s.putCmd { c with spill := t, retryAt := 0 }).post s.cur i
        | .again n => (s.putCmd { c with retryAt := s.cyc c.core + n }).post s.cur i
        | _ => (s.putCmd { c with spill := [] }).post s.cur i

/-- A row reaches the GDE that owns the granule of its first byte (R334): one that is in that GDE's window of 4,096
entries is saved (event 0x24), another enters it, and the oldest leaves. Which entry a hash displaces is not stated
(log 3). -/
def State.dedup (w : Who) (s : State) (a : Word) : State :=
  match s.xl w a.toNat with
  | .error _ => s
  | .ok x =>
    let pa := x.pa (dieOf w.core)
    let g := stackOf pa
    let l := s.gdeWin.get g []
    if has l pa then s.countEv (Fin.ofNat 4 (g / 2)) 0x24 0 1
    else { s with gdeWin := s.gdeWin.set g ((pa :: l).take 4096) }

/-- A GDE reads the rows of the next slot, each once, and replays them to the slot's positions (R334); a slot is offered
when all its rows translate, so that a failure leaves it as it was. The unit is the command. -/
def execGdeRowFetch (s : State) : Host.Outcome State Fault Refusal :=
  .next (s.replayOr .gdeRowFetch (fun s c =>
    match c.instr with
    | .gather _ _ _ _ _ _ n z =>
      if s.cyc c.core < c.retryAt then (s.putCmd c).post s.cur .gdeRowFetch
      else
        match s.sinkOf c with
        | none => s.endCmd c sSTALE 2 0
        | some (lck, x) =>
          let w := s.cmdWho c
          let zb := rowBytes z
          let k := Nat.max 1 ((s.batonOf lck x).size / zb)
          let hi := Nat.min (rowCount n) (c.p0 + k)
          let rows := (c.idx.drop c.p0).take (hi - c.p0)
          match rows.findSome? (fun i => s.xfail w (rowAt c.b zb i) zb) with
          | some (va, _) => s.failCmd c 2 va
          | none =>
            let q : BitVec 32 := c.c.setWidth 32 + BitVec.ofNat 32 (c.p0 / k)
            let at_ := rows.map (rowAt c.b zb)
            let l := at_.flatMap (fun a => s.ldBytes w a zb)
            let hit := at_.any (fun a => s.eccHit w a zb)
            let s := at_.foldl (fun (s : State) a => s.unitTouch w a zb) s
            s.unlessHit w hit (s.afterSink c .gdeRowFetch (s.sink c q l) (fun s c =>
              let s := at_.foldl (State.dedup w) s
              let c := { c with p0 := hi, p1 := (q + 1).toNat, retryAt := 0, progress := hi }
              if hi = rowCount n then s.endCmd c sOK 0 0 else (s.putCmd c).post s.cur .gdeRowFetch))
    | _ => s))

/-! ### SCATA (R335) -/

/-- The OUT tensor that a row lies in whole. -/
def outTensor (w : Who) (a : Word) (z : Nat) : Option Nat :=
  match w.tensor a.toNat with
  | none => none
  | some (j, t) => if t.cls = 1 ∧ a.toNat + z ≤ t.base + t.len then some j else none

/-- The checks of a table row of SCATA in the order of R120; in exact mode it lies in the one OUT tensor `home`, else
WINDOW (R335); in arrival mode one in window 0x1 is PERM (R133), and one in window 0x2, where no table lies,
ADDR_RANGE. -/
def State.tableCheck (s : State) (w : Who) (z : Nat) (home : Option Nat) (a : Word) : Except TrapInfo Unit := do
  w.addrCheck a z false
  if w.exact ∧ (home.isNone ∨ outTensor w a z ≠ home) then
    .error ⟨tWINDOW, ((w.tensor a.toNat).map (fun (e : Nat × Tensor) => e.1)).getD 0xFF, a, 0⟩
  if window a = 2 then .error ⟨tRANGE, z, a, 0⟩
  s.permCheck w kTable a z

/-- The checks of SCATA's table rows, in ascending position. -/
def State.tableChecks (s : State) (w : Who) (base : Word) (z : Nat) (home : Option Nat) : List Nat → Except TrapInfo Unit
  | [] => .ok ()
  | i :: t =>
    match s.tableCheck w z home (rowAt base z i) with
    | .error e => .error e
    | .ok _ => s.tableChecks w base z home t

/-- The checks of SCATA (R335): its list, its table rows, its update rows, which it reads now, and a place in the tile
heap. No description says that an engine translates its rows later, so that they are translated here (R316). -/
def scataCheck (i : Instr) (t : Fmt) (a b c : SReg) (n : BitVec 8) (z : BitVec 10) (s : State) :
    Except TrapInfo Issued :=
  let w := s.who
  let unit := 2 * dieOf w.core
  let zb := rowBytes z
  let len := rowCount n * zb
  match s.indexList w (s.rS a) (rowCount n) with
  | .error e => .error e
  | .ok idx =>
    match alignCheck (s.rS b) zb 8 with
    | .error e => .error e
    | .ok _ =>
      match s.tableChecks w (s.rS b) zb ((idx.head?).bind (fun i => outTensor w (rowAt (s.rS b) zb i) zb)) idx with
      | .error e => .error e
      | .ok _ =>
        match s.access w kLoad (s.rS c) len 8 with
        | .error e => .error e
        | .ok _ =>
          if !s.unitReady (12 + unit) then .ok (.status sFAULT 0xFE s)
          else
            match s.heapAlloc s.curCtx len with
            | .error e => .error e
            | .ok (h, s') =>
              let key := ((s.st.task.map (·.lc)).getD 0) * 2 ^ 32 + (s.lc ((s.st.task.map (·.lc)).getD 0)).cmds + 1
              match s'.commit (.scata (s.rS b) idx zb t (s.ldBytes w (s.rS c) len) h key) with
              | .error e => .error e
              | .ok s' =>
                let cmd := s.newCmd 1 unit i (s.rS a) (s.rS b) (s.rS c)
                .ok (.cmd s' { cmd with idx := idx } none)

/-- What SCATA reads at issue: its list, and its updates when its checks have passed (R335). -/
def scataReads (i : Instr) (t : Fmt) (a b c : SReg) (n : BitVec 8) (z : BitVec 10) (s : State) : List (Word × Nat) :=
  s.listRead s.who (s.rS a) (rowCount n) ++ (match scataCheck i t a b c n z s with
    | .ok (.cmd ..) => [(s.rS c, rowCount n * rowBytes z)]
    | _ => [])

def scataPoll (p : Poll) (g : Guard) (t : Fmt) (d a b c l : SReg) (n : BitVec 8) (z : BitVec 10) :
    State → Except TrapInfo State :=
  enginePoll p (.scata g t d a b c l n z) d l (scataReads (.scata g t d a b c l n z) t a b c n z)
    (scataCheck (.scata g t d a b c l n z) t a b c n z)

/-- SCATA (R335). -/
def execScata (g : Guard) (t : Fmt) (d a b c l : SReg) (n : BitVec 8) (z : BitVec 10) (s : State) :
    Host.Outcome State Fault Refusal :=
  guarded g 8 s (scataPoll .issue g t d a b c l n z)

/-- One add (R335): round(old + u, T, RNE) with its flags, or an integer sum that wraps. -/
def scataAdd (t : Fmt) (old u : Nat) : Nat × FFlags :=
  if t.isIeee then fadd t .rne (fval t old) (fval t u) else ((old + u) % 2 ^ (8 * fmtSize t), 0)

/-- Updates of a held SCATA element by element, in ascending position, each add atomic: the flags, and the first address
that does not translate. -/
def State.scataRow (w : Who) (t : Fmt) (a : Word) : List (List Byte) → State × FFlags × Option Word →
    State × FFlags × Option Word
  | [], r => r
  | u :: us, (s, f, bad) =>
    let n := fmtSize t
    match s.xl w a.toNat with
    | .error _ => State.scataRow w t (a + BitVec.ofNat 64 n) us (s, f, if bad.isSome then bad else some a)
    | .ok x =>
      let pa := x.pa (dieOf w.core)
      let (v, g) := scataAdd t (natOfBytes (s.gatomic pa n)) (natOfBytes u)
      State.scataRow w t (a + BitVec.ofNat 64 n) us (s.unitWrite w a (bytesOfNat n v), f ||| g, bad)

/-- A held SCATA is applied (R335) by the GDE that received it, as an agent of the commanding core's die (R152); an
uncorrectable error in a table row ends the launch (R135). -/
def State.applyScata (s : State) (ctx : Nat) (h : HeldScata) : State :=
  let m := ((s.findCmd h.cmd).map (·.mark)).getD nobody
  let w : Who := { s.whoFor (markStrand m) h.core ctx false none m with mmu := .base (2 * dieOf h.core), path := 4 }
  let rows := chunks h.z h.idx.length h.vals
  let at_ := h.idx.map (rowAt h.base h.z)
  let hit := at_.any (fun a => s.eccHit w a h.z)
  let s := at_.foldl (fun (s : State) a => s.unitTouch w a h.z) s
  s.unlessHit w hit (
  let (s, f, bad) := (List.range h.idx.length).foldl (fun (acc : State × FFlags × Option Word) i =>
    State.scataRow w h.t (rowAt h.base h.z (nth h.idx i 0))
      (chunks (fmtSize h.t) (h.z / fmtSize h.t) (nth rows i [])) acc) (s, (0 : FFlags), (none : Option Word))
  let s := (s.heapFree ctx h.heap).modLaunch ctx (fun l => { l with flags := l.flags ||| f })
  match s.findCmd h.cmd with
  | none => s
  | some c =>
    let c := { c with progress := h.idx.length }
    match bad with
    | none => s.endCmd c sOK 0 0
    | some va => s.failCmd c 2 va)

/-- The held SCATA of least key, the earliest of those. -/
def firstHeld : List HeldScata → Option (Nat × HeldScata)
  | [] => none
  | h :: t =>
    match firstHeld t with
    | none => some (0, h)
    | some (i, x) => if x.key.toNat < h.key.toNat then some (i + 1, x) else some (0, h)

/-- No task of the context is running, queued, held, or on its way on this chip (R46). -/
def State.noTasks (s : State) (ctx : Nat) : Bool :=
  let mine := fun (m : Msg) => m.ctx.toNat == ctx
  s.strands.all (fun (e : Nat × Strand) =>
      !((e.2.task.map (·.ctx)) == some ctx) && !((e.2.spawnTask.map (·.ctx)) == some ctx)
        && e.2.send.toList.all (fun q => q.all (fun i => !mine i.msg)))
    && s.lcs.all (fun (e : Nat × LCore) => lcCtx e.1 != ctx ||
      (e.2.hw.isEmpty && e.2.ext.isEmpty && e.2.pool.isEmpty && e.2.svc.isEmpty && e.2.relay.isNone
        && e.2.thief.grant.isNone && e.2.mailbox.isEmpty))
    && s.cores.all (fun (e : Nat × Core) =>
      e.2.q.toList.all (fun q => q.all (fun m => !mine m.msg)) && e.2.inbound.all (fun m => !mine m.2))
    && s.rows.all (fun (e : Nat × Row) => e.2.spl.all (fun x => match x with
      | .deposit c .. => c != ctx
      | .cover c .. => c != ctx))
    && s.time.xin.all (fun i => i.ctx != ctx) && s.time.xout.all (fun i => i.ctx != ctx)
    && ((s.ctx? ctx).map (fun (c : Ctx) => c.holds.isEmpty)).getD true

/-- Held updates of a SCATA with their index list and values read again (R341). -/
def State.rereadHeld (s : State) (h : HeldScata) : HeldScata :=
  match s.findCmd h.cmd with
  | none => h
  | some c =>
    let w := s.cmdWho c
    { h with idx := idxOf h.idx.length (s.readAgain w c.a (4 * h.idx.length) (idxBytes h.idx))
             vals := s.readAgain w c.c h.vals.length h.vals }

/-- Held updates are added (R335): in arrival mode the oldest, at the group's release; in exact mode, after the last
task of the launch, those of least task key first. Those that RESUME has brought back are read again before (R341). The
unit is the context. -/
def execScataApply (s : State) : Host.Outcome State Fault Refusal :=
  let ctx := s.cur
  match s.launch? ctx with
  | none => .next s
  | some l =>
    match s.cmds.find? (fun c => c.reread && c.live && c.ctx == ctx && c.isScata) with
    | some c =>
      .next ((s.rereadFirst c (fun s => s) (fun s c => (s.putCmd c).modLaunch ctx (fun l =>
        { l with scata := l.scata.map (fun h => if h.cmd = cmdKey c then s.rereadHeld h else h) }))).post ctx .scataApply)
    | none =>
    if !l.arrival && !s.noTasks ctx then .next s
    else
      match (if l.arrival then l.scata.head?.map (fun h => (0, h)) else firstHeld l.scata) with
      | none => .next s
      | some (i, h) =>
        .next (((s.modLaunch ctx (fun l => { l with scata := dropNth l.scata i })).applyScata ctx h).post ctx .scataApply
          |>.post ctx .launchEnd)

/-! ### EWAIT and ESTAT (R332) -/

/-- The command of the current logical core that a tag names. -/
def State.byTag (s : State) (tag : Word) : Option Cmd :=
  s.cmds.find? (fun c => c.live && (s.st.task.map (·.lc)) == some c.lc && cmdTag c == tag.toNat)

/-- EWAIT, tested (R332). -/
def ewaitPoll (p : Poll) (g : Guard) (d a l : SReg) (s : State) : Except TrapInfo State :=
  match s.byTag (s.rS a) with
  | none => .ok (((s.unblock).statusB d sSTALE (0xFF * 2 ^ 48)).adv 8)
  | some c =>
    .ok (s.blocking p (.ewait g d a l) d (s.deadline l)
      (fun s => if c.st = 2 then
          (if c.final = sOK then some (sOK, 0, s.drain (dieF (coreOf s.cur)))
           else some (c.final, c.fva.toNat % 2 ^ 48 + c.reason * 2 ^ 48, s))
        else none)
      (fun s => (sTIMEOUT, 0, s)))

/-- EWAIT (R332). -/
def execEwait (g : Guard) (d a l : SReg) (s : State) : Host.Outcome State Fault Refusal :=
  guarded g 8 s (ewaitPoll .issue g d a l)

/-- ESTAT's word (R332). -/
def Cmd.word (c : Cmd) : Word :=
  BitVec.ofNat 64 (c.progress % 2 ^ 48 * 65536 + (if c.st = 2 then c.final * 256 else 0) + (if c.st = 4 then 1 else c.st))

/-- ESTAT (R332). -/
def execEstat (g : Guard) (d a : SReg) (s : State) : Host.Outcome State Fault Refusal :=
  plain g s (fun s => s.wS d (match s.byTag (s.rS a) with
    | none => 0xFF
    | some c => c.word))

/-! ### The neighbour-list engine (R336 to R339) -/

/-- A finite F32 as a multiple of 2^-150. -/
def fix (b : Nat) : Option Int :=
  match fval .f32 b with
  | .fin n m e => some ((if n then -1 else 1) * (m * 2 ^ (e + 150).toNat : Nat))
  | _ => none
/-- A multiple of 2^-k rounded once to F32 RNE. -/
def unfix (k : Nat) (v : Int) : Nat := (roundF .f32 .rne (decide (v < 0)) v.natAbs (-(k : Int))).1

def State.nle (s : State) (d : Fin 4) (ctx : Nat) : Nle := (s.die d).nle.get ctx idleNle
def State.modNle (s : State) (d : Fin 4) (ctx : Nat) (f : Nle → Nle) : State :=
  s.modDie d (fun x => { x with nle := x.nle.set ctx (f (x.nle.get ctx idleNle)) })

def NlCfg.cells (c : NlCfg) : Nat := c.nx * c.ny * c.nz
def NlCfg.axis (c : NlCfg) (a : Nat) : Nat × Nat × Bool :=
  match a with
  | 0 => (c.lx.toNat, c.nx, c.per.getLsbD 0)
  | 1 => (c.ly.toNat, c.ny, c.per.getLsbD 1)
  | _ => (c.lz.toNat, c.nz, c.per.getLsbD 2)
/-- rl, rl2 and s2 (R336). -/
def NlCfg.rl (c : NlCfg) : Nat := (fadd .f32 .rne (fval .f32 c.cutoff.toNat) (fval .f32 c.skin.toNat)).1
def NlCfg.rl2 (c : NlCfg) : Nat := (fmul .f32 .rne (fval .f32 c.rl) (fval .f32 c.rl)).1
def NlCfg.s2 (c : NlCfg) : Nat :=
  match fval .f32 c.skin.toNat with
  | .fin _ m e => (roundF .f32 .rne false (m * m) (2 * e - 2)).1
  | _ => nanBits .f32

/-- The configuration block (R336). -/
def nlParse (l : List Byte) : NlCfg :=
  { lx := BitVec.ofNat 32 (leAt l 0 4), ly := BitVec.ofNat 32 (leAt l 4 4), lz := BitVec.ofNat 32 (leAt l 8 4)
    cutoff := BitVec.ofNat 32 (leAt l 12 4), skin := BitVec.ofNat 32 (leAt l 16 4), per := BitVec.ofNat 8 (leAt l 20 1)
    cap := leAt l 21 1, nx := leAt l 22 2, ny := leAt l 24 2, nz := leAt l 26 2, overMax := leAt l 28 4
    work := BitVec.ofNat 64 (leAt l 32 8), workLen := leAt l 40 8 }

/-- The conditions of a valid configuration (R336). -/
def NlCfg.valid (c : NlCfg) (l : List Byte) : Bool :=
  let pos := fun (b : Nat) => ((fix b).map (fun v => decide (0 < v))).getD false
  let rl := fix c.rl
  pos c.lx.toNat && pos c.ly.toNat && pos c.lz.toNat && pos c.cutoff.toNat
    && (pos c.skin.toNat || c.skin == 0) && decide (c.per.toNat < 8) && decide (8 ≤ c.cap) && decide (c.cap ≤ 64)
    && [c.nx, c.ny, c.nz].all (fun n => decide (3 ≤ n) && decide (n ≤ 256))
    && decide (1 ≤ c.overMax) && decide (c.overMax ≤ 65536) && c.work.toNat % 64 == 0 && leAt l 48 16 == 0
    && decide (c.cells ≤ 2 ^ 21) && decide (4 * c.cells * (c.cap + 1) + 8 * c.overMax ≤ c.workLen)
    && (List.range 3).all (fun a =>
      let (lb, n, per) := c.axis a
      match rl, fix lb with
      | some r, some x => decide (r * n ≤ x) && (!per || decide (2 * r ≤ x))
      | _, _ => false)

/-- Commands of a context on an NLE that end at their next boundary (R336): NLPAIRS, and with `bins` NLBIN too. -/
def State.supersede (s : State) (unit ctx : Nat) (bins : Bool) : State :=
  { s with cmds := s.cmds.map (fun (c : Cmd) =>
      if c.engine = 2 ∧ c.unit = unit ∧ c.ctx = ctx ∧ c.live ∧ c.st < 2 then
        match c.instr with
        | .nlpairs .. => { c with cancel := true }
        | .nlbin .. => if bins then { c with cancel := true } else c
        | _ => c
      else c) }

/-- The checks of NLCFG, and what it does at issue (R336). -/
def nlcfgCheck (i : Instr) (a : SReg) (s : State) : Except TrapInfo Issued :=
  let w := s.who
  let d := dieOf w.core
  match s.access w kLoad (s.rS a) 64 64 with
  | .error t => .error t
  | .ok _ =>
    if !s.unitReady (20 + d) then .ok (.status sFAULT 0xFE s)
    else
      let l := s.ldBytes w (s.rS a) 64
      let cfg := nlParse l
      let set := fun (s : State) (x : Option NlCfg) =>
        (s.supersede d w.ctx true).modNle (dieF w.core) w.ctx (fun n => { n with cfg := x, bins := none, pos := [], overUsed := 0 })
      if cfg.valid l then
        let c := s.newCmd 2 d i (s.rS a) 0 0
        .ok (.cmd (set s (some cfg)) { c with st := 2 } none)
      else .ok (.status sFAULT 1 (set s none))

def nlcfgPoll (p : Poll) (g : Guard) (d a l : SReg) : State → Except TrapInfo State :=
  enginePoll p (.nlcfg g d a l) d l
    (fun s => if s.unitReady (20 + dieOf (coreOf s.cur)) then s.readable s.who (s.rS a) 64 64 else [])
    (nlcfgCheck (.nlcfg g d a l) a)

/-- NLCFG (R336). -/
def execNlcfg (g : Guard) (d a l : SReg) (s : State) : Host.Outcome State Fault Refusal :=
  guarded g 8 s (nlcfgPoll .issue g d a l)

/-- The checks of NLBIN (R337): its traps (R316), those of the work area that it writes among them (R35, R71; log 40),
and then its operand checks (R331). -/
def nlbinCheck (i : Instr) (a b : SReg) (s : State) : Except TrapInfo Issued :=
  let w := s.who
  let d := dieOf w.core
  let n := (s.rS b).toNat
  let p := s.rS a
  match alignCheck p 16 16 with
  | .error t => .error t
  | .ok _ =>
    let work : Except TrapInfo State := match (s.nle (dieF w.core) w.ctx).cfg with
      | none => .ok s
      | some c => do
        s.access w kWork c.work c.workLen 64
        s.logRun w c.work c.workLen
    match (if n = 0 then .ok () else s.access w kLoad p (16 * n) 16), work with
    | .error t, _ => .error t
    | _, .error t => .error t
    | .ok _, .ok s' =>
      if 2 ^ 24 < n then .ok (.status sFAULT 6 s)
      else if !s.unitReady (20 + d) then .ok (.status sFAULT 0xFE s)
      else if (s.nle (dieF w.core) w.ctx).cfg.isNone then .ok (.status sEMPTY 0 s)
      else .ok (.cmd (s'.supersede d w.ctx false) (s.newCmd 2 d i p (s.rS b) 0) (some .nlbinComplete))

def nlbinPoll (p : Poll) (g : Guard) (d a b l : SReg) : State → Except TrapInfo State :=
  enginePoll p (.nlbin g d a b l) d l (fun _ => []) (nlbinCheck (.nlbin g d a b l) a b)

/-- NLBIN (R337). -/
def execNlbin (g : Guard) (d a b l : SReg) (s : State) : Host.Outcome State Fault Refusal :=
  guarded g 8 s (nlbinPoll .issue g d a b l)

/-- Particle i's three coordinates in memory. -/
def State.coords (s : State) (w : Who) (p : Word) (i : Nat) : List Byte :=
  s.ldBytes w (p + BitVec.ofNat 64 (16 * i)) 12

/-- The cell of a particle, or the axis at fault with reason 2 or 3 (R337). -/
def cellOf (c : NlCfg) (l : List Byte) : Except (Nat × Nat) Nat :=
  (List.range 3).foldr (fun a (r : Except (Nat × Nat) Nat) =>
    let (lb, n, per) := c.axis a
    match fix (leAt l (4 * a) 4), fix lb with
    | some x, some m =>
      if !per && (decide (x < 0) || decide (m ≤ x)) then .error (a, 2)
      else
        match r with
        | .error e => .error e
        | .ok v => .ok (((if per then x % m else x) * n / m).toNat + n * v)
    | _, _ => .error (a, 3)) (.ok 0)

/-- Particles binned one by one: cells with their particles in ascending index, and the overflow entries used; or the
particle, axis and reason at fault, or none of these when the overflow list is full (R337). -/
def binAll (c : NlCfg) : Nat → List (List Byte) → Table (List Nat) → Nat →
    Except (Option (Nat × Nat × Nat)) (Table (List Nat) × Nat)
  | _, [], t, o => .ok (t, o)
  | i, x :: xs, t, o =>
    match cellOf c x with
    | .error (a, r) => .error (some (i, a, r))
    | .ok k =>
      let l := t.get k []
      let o' := if l.length < c.cap then o else o + 1
      if c.overMax < o' then .error none else binAll c (i + 1) xs (t.set k (l ++ [i])) o'

/-- The work area after a binning: bytes that no program may rely on (R337; log 3). -/
def State.scribble (s : State) (w : Who) (c : NlCfg) : State :=
  let l := (List.range c.workLen).map (fun i => Config.freeByte (s.free + i))
  ({ s with free := s.free + c.workLen }).unitWrite w c.work l

/-- NLBIN completes, or ends FAULT or OVERFLOW (R337); its reads of the weight store stall on refresh (R134). The unit
is the command. -/
def execNlbinComplete (s : State) : Host.Outcome State Fault Refusal :=
  .next (s.cmdStep (fun s c =>
    let d := dieF c.core
    let w := s.cmdWho c
    match (s.nle d c.ctx).cfg with
    | none => s.endCmd c sSTALE 7 0
    | some cfg =>
      let n := c.b.toNat
      s.unitLines c.core (w.lines c.a (16 * n)) c.stall
        (fun s e => (s.putCmd { c with stall := e }).post s.cur .nlbinComplete) (fun s =>
      let pos := (List.range n).map (fun i => s.coords w c.a i)
      let hit := s.eccHit w c.a (16 * n) || s.tableHit w cfg.work cfg.workLen
      let s := (s.unitTouch w c.a (16 * n)).unitTouch w cfg.work cfg.workLen
      let none_ := fun (s : State) => s.modNle d c.ctx (fun x => { x with bins := none, pos := [], overUsed := 0 })
      s.unlessHit w hit (match binAll cfg 0 pos [] 0 with
      | .error (some (i, a, r)) => (none_ s).endCmd c sFAULT r (c.a + BitVec.ofNat 64 (16 * i + 4 * a))
      | .error none => (none_ s).endCmd c sOVERFLOW 0 0
      | .ok (t, o) =>
        let s := (s.scribble w cfg).modNle d c.ctx (fun x => { x with bins := some t, pos := pos, overUsed := o })
        s.endCmd { c with progress := n } sOK 0 0))))

/-- The checks of NLPAIRS (R338). -/
def nlpairsCheck (i : Instr) (a b c : SReg) (s : State) : Except TrapInfo Issued :=
  let w := s.who
  let d := dieOf w.core
  let p := s.rS a
  let n := s.nle (dieF w.core) w.ctx
  match alignCheck p 16 16 with
  | .error t => .error t
  | .ok _ =>
    match n.cfg, n.bins with
    | some cfg, some _ =>
      match (if n.pos.isEmpty then .ok () else s.access w kLoad p (16 * n.pos.length) 16) with
      | .error t => .error t
      | .ok _ =>
        let c0 := bits (s.rS c) 31 0
        let m := bits (s.rS c) 63 32
        if !s.unitReady (20 + d) then .ok (.status sFAULT 0xFE s)
        else if s.sinkCheck (s.rS b) 4096 ≠ 0 then .ok (.status sFAULT (s.sinkCheck (s.rS b) 4096) s)
        else if cfg.cells ≤ c0 ∨ cfg.cells < c0 + m then .ok (.status sFAULT 4 s)
        else
          let cmd := s.newCmd 2 d i p (s.rS b) (s.rS c)
          let lck := (s.st.task.map (·.lc)).getD 0
          .ok (.cmd (s.modNle (dieF w.core) w.ctx (fun x =>
              { x with last := lck * 2 ^ 32 + (s.lc lck).cmds + 1, records := 0, blocks := 0
                       curCell := c0, curI := 0, curJ := 0 }))
            { cmd with p0 := c0 } (some .nleBlock))
    | _, _ => if !s.unitReady (20 + d) then .ok (.status sFAULT 0xFE s) else .ok (.status sEMPTY 0 s)

def nlpairsPoll (p : Poll) (g : Guard) (d a b c l : SReg) : State → Except TrapInfo State :=
  enginePoll p (.nlpairs g d a b c l) d l (fun _ => []) (nlpairsCheck (.nlpairs g d a b c l) a b c)

/-- NLPAIRS (R338). -/
def execNlpairs (g : Guard) (d a b c l : SReg) (s : State) : Host.Outcome State Fault Refusal :=
  guarded g 8 s (nlpairsPoll .issue g d a b c l)

/-- The shift of an axis (R338): the one that puts d in [-L/2, L/2), else the one of smallest |d|, the lower on a tie. -/
def shiftOf (l d : Int) (per : Bool) : Int :=
  if !per then 0
  else
    match [-1, 0, 1].find? (fun (k : Int) => decide (-l ≤ 2 * (d + k * l)) && decide (2 * (d + k * l) < l)) with
    | some k => k
    | none => [0, 1].foldl (fun (b : Int) k => if (d + k * l).natAbs < (d + b * l).natAbs then k else b) (-1)

/-- The image code and the squared distance of two positions (R338); none when a coordinate is not finite. -/
def pairOf (c : NlCfg) (x y : List Byte) : Option (Nat × Nat) :=
  let ax := (List.range 3).map (fun a =>
    let (lb, _, per) := c.axis a
    match fix (leAt x (4 * a) 4), fix (leAt y (4 * a) 4), fix lb with
    | some p, some q, some l =>
      let k := shiftOf l (q - p) per
      some ((k % 4).toNat * 4 ^ a, unfix 150 (q - p + k * l))
    | _, _, _ => none)
  if ax.any Option.isNone then none
  else
    let l := ax.filterMap id
    let ds := l.map (fun e => fix e.2)
    let r2 := if ds.any Option.isNone then infBits .f32 false
      else unfix 300 (ds.foldl (fun (n : Int) v => n + (v.getD 0) * (v.getD 0)) 0)
    some (l.foldl (fun n e => n + e.1) 0, r2)

/-- a ≤ b of two non-negative F32 patterns (R338). -/
def f32Le (a b : Nat) : Bool := (fcond .le (fval .f32 a) (fval .f32 b)).1

/-- The cells of c + (-1..1)^3 (R338). -/
def NlCfg.near (c : NlCfg) (k : Nat) : List Nat :=
  let h := [k % c.nx, k / c.nx % c.ny, k / (c.nx * c.ny)]
  let step := fun (a o : Nat) =>
    let (_, n, per) := c.axis a
    let v := nth h a 0 + o
    if per then some ((v + n - 1) % n) else if v = 0 ∨ n < v then none else some (v - 1)
  (List.range 3).flatMap (fun z => (List.range 3).flatMap (fun y => (List.range 3).filterMap (fun x =>
    match step 0 x, step 1 y, step 2 z with
    | some a, some b, some d => some (a + c.nx * (b + c.ny * d))
    | _, _, _ => none)))

/-- A number put into an ascending list. -/
def insertNat (n : Nat) : List Nat → List Nat
  | [] => [n]
  | m :: t => if n ≤ m then n :: m :: t else m :: insertNat n t

/-- The candidate pairs of a cell in order (R338): i binned in the cell, j above it in the cells around. -/
def candidates (c : NlCfg) (t : Table (List Nat)) (k : Nat) : List (Nat × Nat) :=
  let js := ((c.near k).flatMap (fun m => t.get m [])).foldr insertNat []
  (t.get k []).flatMap (fun i => (js.filter (fun j => decide (i < j))).map (fun j => (i, j)))

/-- The records of a cell from a cursor on: cell, i, j, image code and r². -/
def State.cellPairs (s : State) (w : Who) (p : Word) (c : NlCfg) (t : Table (List Nat)) (k ci cj : Nat) :
    List (Nat × Nat × Nat × Nat × Nat) :=
  ((candidates c t k).filter (fun e => decide (ci < e.1) || (e.1 == ci && decide (cj ≤ e.2)))).filterMap (fun e =>
    match pairOf c (s.coords w p e.1) (s.coords w p e.2) with
    | none => none
    | some (im, r2) => if f32Le r2 c.rl2 then some (k, e.1, e.2, im, r2) else none)

/-- The next records of a stream, at most `n`, over the cells from a cursor to the last. -/
def State.nextPairs (s : State) (w : Who) (p : Word) (c : NlCfg) (t : Table (List Nat)) (n : Nat) :
    Nat → Nat → Nat → Nat → List (Nat × Nat × Nat × Nat × Nat) → List (Nat × Nat × Nat × Nat × Nat)
  | 0, _, _, _, acc => acc
  | f + 1, k, ci, cj, acc =>
    if n ≤ acc.length then acc.take n
    else State.nextPairs s w p c t n f (k + 1) 0 0 (acc ++ s.cellPairs w p c t k ci cj)

/-- The bytes of a block (R338). -/
def pairBlock (l : List (Nat × Nat × Nat × Nat × Nat)) : List Byte :=
  l.flatMap (fun (_, i, j, im, r2) => bytesOfNat 4 i ++ bytesOfNat 4 j ++ bytesOfNat 4 im ++ bytesOfNat 4 r2)
    ++ (List.replicate (256 - l.length) (bytesOfNat 8 (2 ^ 64 - 1) ++ bytesOfNat 8 0)).flatten

/-- A particle of a block whose displacement from its binned position has passed the skin (R338). -/
def State.moved (s : State) (w : Who) (p : Word) (c : NlCfg) (pos : List (List Byte))
    (l : List (Nat × Nat × Nat × Nat × Nat)) : Option Nat :=
  (l.flatMap (fun (_, i, j, _, _) => [i, j])).find? (fun i =>
    match pairOf c (nth pos i []) (s.coords w p i) with
    | none => true
    | some (_, r2) => !f32Le r2 c.s2)

/-- The particles whose positions a block over the cells from `lo` to `hi` reads (R338). -/
def NlCfg.particles (c : NlCfg) (t : Table (List Nat)) (lo hi : Nat) : List Nat :=
  ((List.range (hi + 1 - lo)).flatMap (fun o =>
    if (t.get (lo + o) []).isEmpty then [] else (c.near (lo + o)).flatMap (fun m => t.get m []))).eraseDups

/-- The next block of an NLPAIRS (R338): its records, the check of the positions it uses, its delivery. Its reads of the
weight store stall on refresh (R134). The unit is the command. -/
def execNleBlock (s : State) : Host.Outcome State Fault Refusal :=
  .next (s.replayOr .nleBlock (fun s c =>
    let d := dieF c.core
    let w := s.cmdWho c
    let n := s.nle d c.ctx
    match n.cfg, n.bins with
    | some cfg, some t =>
      if s.cyc c.core < c.retryAt then (s.putCmd c).post s.cur .nleBlock
      else
        let c0 := bits c.c 31 0
        let m := bits c.c 63 32
        let last := if m = 0 then cfg.cells else c0 + m
        let l := s.nextPairs w c.a cfg t 257 (last - c.p0 + 1) c.p0 (c.p1 % 2 ^ 32) (c.p1 / 2 ^ 32) []
        let l := l.filter (fun e => decide (e.1 < last))
        let blk := l.take 256
        let far := s.moved w c.a cfg n.pos blk
        let at_ := (cfg.particles t c.p0 (((l[256]?).map (·.1)).getD (last - 1))).map (fun i => c.a + BitVec.ofNat 64 (16 * i))
        let hit := at_.any (fun a => s.eccHit w a 12)
        s.unitLines c.core (at_.flatMap (fun a => w.lines a 12)) c.stall
          (fun s e => (s.putCmd { c with stall := e }).post s.cur .nleBlock) (fun s =>
        let c := { c with stall := (0, 0) }
        let s := at_.foldl (fun (s : State) a => s.unitTouch w a 12) s
        s.unlessHit w hit (
          if blk.isEmpty then s.endCmd c sOK 0 0
          else match far with
          | some i => s.endCmd c sSTALE 3 (c.a + BitVec.ofNat 64 (16 * i))
          | none =>
            let q : BitVec 32 := BitVec.ofNat 32 c.nextSeq
            s.afterSink c .nleBlock (s.sink c q (pairBlock blk)) (fun s c =>
              let (k, i, j) := match l[256]? with
                | some (k, i, j, _, _) => (k, i, j)
                | none => (last, 0, 0)
              let s := (s.countEv d 0x25 0 1).modNle d c.ctx (fun x =>
                if x.last = cmdKey c then
                  { x with records := x.records + blk.length, blocks := x.blocks + 1, curCell := k, curI := i, curJ := j }
                else x)
              let c := { c with p0 := k, p1 := i + j * 2 ^ 32, retryAt := 0, progress := c.progress + 1 }
              if l[256]?.isNone then s.endCmd c sOK 0 0 else (s.putCmd c).post s.cur .nleBlock)))
    | _, _ => s.endCmd c sSTALE 7 0))

/-- NLSTAT's value (R339). -/
def Nle.stat (n : Nle) (sel : Nat) : Nat :=
  match sel with
  | 0 => b2n n.cfg.isSome
  | 1 => if n.bins.isSome then n.pos.length else 0
  | 2 => n.overUsed
  | 3 => (n.bins.getD []).foldl (fun m (e : Nat × List Nat) => Nat.max m e.2.length) 0
  | 4 => n.records
  | 5 => n.blocks
  | 6 => n.curCell
  | 7 => n.curI
  | _ => n.curJ

/-- NLSTAT (R339). -/
def execNlstat (g : Guard) (d : SReg) (sel : Fin 16) (s : State) : Host.Outcome State Fault Refusal :=
  plain g s (fun s => s.wS d (BitVec.ofNat 64 ((s.nle (dieF (coreOf s.cur)) s.curCtx).stat sel.val)))

/-! ### CONV (R340) -/

/-- A layout descriptor (R340): the five fields in order of their offsets, rows and columns. -/
structure LayoutDesc where
  va : Word
  rows : Nat
  cols : Nat
  p : Word
  q : Word
  r : Word
  cap : Nat
deriving DecidableEq, Repr

/-- A descriptor's fields; none when a field that is not listed is not 0 (R340). -/
def layoutParse (y : Layout) (l : List Byte) : Option LayoutDesc :=
  let w := fun (o : Nat) => (BitVec.ofNat 64 (leAt l o 8) : Word)
  match y with
  | .dense => if leAt l 24 40 ≠ 0 then none else some ⟨w 0, leAt l 8 4, leAt l 12 4, w 16, 0, 0, 0⟩
  | .tiles => if leAt l 28 36 ≠ 0 then none else some ⟨w 0, leAt l 8 4, leAt l 12 4, w 16, 0, 0, leAt l 24 4⟩
  | .csr => if leAt l 44 20 ≠ 0 then none else some ⟨w 0, leAt l 8 4, leAt l 12 4, w 16, w 24, w 32, leAt l 40 4⟩

/-- Rows and columns in range and agreeing (R340). -/
def layoutsOk (ys yd : Layout) (a b : LayoutDesc) : Bool :=
  let ok := fun (n : Nat) => decide (1 ≤ n) && decide (n ≤ 2 ^ 20)
  ok a.rows && ok a.cols && a.rows == b.rows && a.cols == b.cols
    && (!(ys == .tiles || yd == .tiles) || decide (a.rows ≤ 3072))

/-- The ranges that a layout's descriptor names, which CONV is checked against at issue (R316). -/
def LayoutDesc.ranges (y : Layout) (t : Fmt) (d : LayoutDesc) (src : Bool) : List (Word × Nat) :=
  let n := fmtSize t
  match y with
  | .dense => (List.range d.rows).map (fun r => (d.va + BitVec.ofNat 64 (r * d.p.toNat), d.cols * n))
  | .tiles => if src then [(d.va, 32)] else [(d.va, 32 + 16 * d.cap), (d.p, d.cap * 4096 * n)]
  | .csr =>
    if src then [(d.va, 16), (d.p, 4 * (d.rows + 1))]
    else [(d.va, 16), (d.p, 4 * (d.rows + 1)), (d.q, 4 * d.cap), (d.r, n * d.cap)]

/-- The checks of a list of ranges. -/
def State.rangeChecks (s : State) (w : Who) (kd : AccKind) : List (Word × Nat) → Except TrapInfo Unit
  | [] => .ok ()
  | (a, n) :: t =>
    match (if n = 0 then .ok () else s.access w kd a n 1) with
    | .error e => .error e
    | .ok _ => s.rangeChecks w kd t

/-- The checks of CONV (R71, R340). -/
def convCheck (i : Instr) (t : Fmt) (src dst : Layout) (a b : SReg) (s : State) : Except TrapInfo Issued := do
  let w := s.who
  let d := dieOf w.core
  s.access w kLoad (s.rS a) 64 64
  s.access w kLoad (s.rS b) 64 64
  let la := s.ldBytes w (s.rS a) 64
  let lb := s.ldBytes w (s.rS b) 64
  match layoutParse src la, layoutParse dst lb with
  | some x, some y =>
    if src = dst then return .status sFAULT 1 s
    if !layoutsOk src dst x y then return .status sFAULT 2 s
    s.rangeChecks w kFetch (x.ranges src t true)
    s.rangeChecks w kPut (y.ranges dst t false)
    let s' ← s.logRuns w (y.ranges dst t false)
    if !s.unitReady (24 + d) then return .status sFAULT 0xFE s
    let c := s.newCmd 3 d i (s.rS a) (s.rS b) 0
    return .cmd s' { c with vals := la ++ lb } (some .convPhase)
  | _, _ => return .status sFAULT (if src = dst then 1 else 2) s

/-- What CONV reads at issue: its two descriptors (R340). -/
def convReads (a b : SReg) (s : State) : List (Word × Nat) :=
  let x := s.readable s.who (s.rS a) 64 64
  let y := s.readable s.who (s.rS b) 64 64
  if x.isEmpty ∨ y.isEmpty then [] else x ++ y

def convPoll (p : Poll) (g : Guard) (t : Fmt) (src dst : Layout) (d a b l : SReg) : State → Except TrapInfo State :=
  enginePoll p (.conv g t src dst d a b l) d l (convReads a b) (convCheck (.conv g t src dst d a b l) t src dst a b)

/-- CONV (R340). -/
def execConv (g : Guard) (t : Fmt) (src dst : Layout) (d a b l : SReg) (s : State) : Host.Outcome State Fault Refusal :=
  guarded g 8 s (convPoll .issue g t src dst d a b l)

/-- A read of an engine: the number in memory, or the address that fails, none for an uncorrectable error (R135). -/
def State.engRead (s : State) (w : Who) (a : Word) (n : Nat) : Except (Option Word) Nat :=
  match w.addrCheck a n false, s.xfail w a n with
  | .error t, _ => .error (some t.ea)
  | _, some (va, _) => .error (some va)
  | .ok _, none => if s.eccHit w a n then .error none else .ok (s.ldNat w a n)

/-- Numbers at successive places. -/
def State.engReads (s : State) (w : Who) (a : Word) (n : Nat) : Nat → Except (Option Word) (List Nat)
  | 0 => .ok []
  | k + 1 => do
    let l ← s.engReads w a n k
    let v ← s.engRead w (a + BitVec.ofNat 64 (n * k)) n
    return l ++ [v]

/-- The places of the source that a phase reads (R340). -/
def State.convPlaces (s : State) (w : Who) (y : Layout) (t : Fmt) (d : LayoutDesc) : List (Word × Nat) :=
  let n := fmtSize t
  match y with
  | .dense => d.ranges .dense t true
  | .tiles =>
    (d.va + 4, 4) :: (List.range (s.ldNat w (d.va + 4) 4)).flatMap (fun e =>
      let a := d.va + BitVec.ofNat 64 (32 + 16 * e)
      (a, 16) :: (if s.ldNat w (a + 4) 4 % 2 = 1 then [] else [(BitVec.ofNat 64 (s.ldNat w (a + 8) 8), 4096 * n)]))
  | .csr =>
    (d.p, 4 * (d.rows + 1)) :: (List.range d.rows).flatMap (fun r =>
      let lo := s.ldNat w (d.p + BitVec.ofNat 64 (4 * r)) 4
      let k := s.ldNat w (d.p + BitVec.ofNat 64 (4 * (r + 1))) 4 - lo
      [(d.q + BitVec.ofNat 64 (4 * lo), 4 * k), (d.r + BitVec.ofNat 64 (n * lo), n * k)])

/-- The elements of the source by row and column, those that are stored (R340). -/
def State.convSource (s : State) (w : Who) (y : Layout) (t : Fmt) (d : LayoutDesc) : Except (Option Word) (Table Nat) := do
  let n := fmtSize t
  match y with
  | .dense =>
    (List.range d.rows).foldlM (fun (m : Table Nat) r => do
      let l ← s.engReads w (d.va + BitVec.ofNat 64 (r * d.p.toNat)) n d.cols
      return m ++ (List.range d.cols).map (fun c => (r * d.cols + c, nth l c 0))) []
  | .tiles =>
    let nent ← s.engRead w (d.va + 4) 4
    (List.range nent).foldlM (fun (m : Table Nat) e => do
      let a := d.va + BitVec.ofNat 64 (32 + 16 * e)
      let rc ← s.engRead w a 4
      let fl ← s.engRead w (a + 4) 4
      let va ← s.engRead w (a + 8) 8
      if fl % 2 = 1 then return m
      let l ← s.engReads w (BitVec.ofNat 64 va) n 4096
      return (List.range 4096).foldl (fun (m : Table Nat) i =>
        let r := rc % 65536 * 64 + i / 64
        let c := rc / 65536 * 64 + i % 64
        if r < d.rows ∧ c < d.cols then m.set (r * d.cols + c) (nth l i 0) else m) m) []
  | .csr =>
    let ptr ← s.engReads w d.p 4 (d.rows + 1)
    (List.range d.rows).foldlM (fun (m : Table Nat) r => do
      let lo := nth ptr r 0
      let k := nth ptr (r + 1) 0 - lo
      let cs ← s.engReads w (d.q + BitVec.ofNat 64 (4 * lo)) 4 k
      let vs ← s.engReads w (d.r + BitVec.ofNat 64 (n * lo)) n k
      return (List.range k).foldl (fun (m : Table Nat) i =>
        if nth cs i 0 < d.cols then m.set (r * d.cols + nth cs i 0) (nth vs i 0) else m) m) []

/-- A value is neither +0 nor -0 (R340). -/
def nonZero (t : Fmt) (b : Nat) : Bool := b % 2 ^ (8 * fmtSize t - 1) != 0

/-- Blocks with a non-zero element, in order of block column and block row (R340). -/
def convBlocks (t : Fmt) (rows cols : Nat) (m : Table Nat) : List (Nat × Nat) :=
  (List.range ((cols + 63) / 64)).flatMap (fun bc => ((List.range ((rows + 63) / 64)).filter (fun br =>
    m.any (fun (e : Nat × Nat) => nonZero t e.2 && e.1 / cols / 64 == br && e.1 % cols / 64 == bc))).map (fun br => (br, bc)))

/-- The non-zeros row by row (R340). -/
def convNonZeros (t : Fmt) (m : Table Nat) : Table Nat := m.filter (fun (e : Nat × Nat) => nonZero t e.2)

/-- What a phase writes, place by place, in order (R340). -/
def convWrites (y : Layout) (t : Fmt) (d : LayoutDesc) (m : Table Nat) (phase : Nat) : List (Word × List Byte) :=
  let n := fmtSize t
  let blocks := convBlocks t d.rows d.cols m
  let nz := convNonZeros t m
  let at_ := fun (a : Word) (o : Nat) => a + BitVec.ofNat 64 o
  match y, phase with
  | .dense, 1 => (List.range d.rows).flatMap (fun r => (List.range d.cols).map (fun c =>
      (at_ d.va (r * d.p.toNat + c * n), bytesOfNat n (m.get (r * d.cols + c) 0))))
  | .dense, _ => []
  | _, 0 => [(d.va, bytesOfNat 4 0)]
  | .tiles, 1 => (List.range blocks.length).flatMap (fun e =>
      let (br, bc) := nth blocks e (0, 0)
      (List.range 4096).map (fun i =>
        let r := br * 64 + i / 64
        let c := bc * 64 + i % 64
        (at_ d.p (e * 4096 * n + i * n),
         bytesOfNat n (if r < d.rows ∧ c < d.cols then m.get (r * d.cols + c) 0 else 0))))
  | .tiles, 2 => (List.range blocks.length).map (fun e =>
      let (br, bc) := nth blocks e (0, 0)
      (at_ d.va (32 + 16 * e), bytesOfNat 2 br ++ bytesOfNat 2 bc ++ bytesOfNat 4 0
        ++ bytesOfNat 8 (at_ d.p (e * 4096 * n)).toNat))
  | .tiles, 3 => []
  | .tiles, _ => [(d.va, bytesOfNat 4 1 ++ bytesOfNat 4 blocks.length ++ bytesOfNat 2 ((d.rows + 63) / 64)
      ++ bytesOfNat 2 ((d.cols + 63) / 64) ++ bytesOfNat 1 t.code.toNat ++ bytesOfNat 19 0)]
  | .csr, 1 => (List.range nz.length).map (fun i => (at_ d.r (n * i), bytesOfNat n (nth nz i (0, 0)).2))
  | .csr, 2 => (List.range nz.length).map (fun i => (at_ d.q (4 * i), bytesOfNat 4 ((nth nz i (0, 0)).1 % d.cols)))
  | .csr, 3 => (List.range (d.rows + 1)).map (fun r =>
      (at_ d.p (4 * r), bytesOfNat 4 (nz.countP (fun e => decide (e.1 / d.cols < r)))))
  | .csr, _ => [(d.va, bytesOfNat 4 1 ++ bytesOfNat 4 d.rows ++ bytesOfNat 4 d.cols ++ bytesOfNat 4 nz.length)]

/-- More entries or non-zeros than the destination holds (R340). -/
def convOver (y : Layout) (t : Fmt) (d : LayoutDesc) (m : Table Nat) : Bool :=
  match y with
  | .dense => false
  | .tiles => decide (d.cap < (convBlocks t d.rows d.cols m).length)
  | .csr => decide (d.cap < (convNonZeros t m).length)

/-- Writes of a phase that does not complete: which of them are made is a free value (R340; log 3). -/
def State.someWrites (s : State) (w : Who) (l : List (Word × List Byte)) : State :=
  let b := fun (i : Nat) => (Config.freeWord (s.free + i)).getLsbD 0
  (List.range l.length).foldl (fun (x : State) i =>
    if b i then x.unitWrite w (nth l i (0, [])).1 (nth l i (0, [])).2 else x) { s with free := s.free + l.length }

/-- A phase of CONV (R340); its reads of the weight store stall on refresh (R134). The unit is the command. -/
def execConvPhase (s : State) : Host.Outcome State Fault Refusal :=
  .next (s.cmdStep (fun s c =>
    match c.instr with
    | .conv _ t src dst _ _ _ _ =>
      match layoutParse src (c.vals.take 64), layoutParse dst (c.vals.drop 64) with
      | some x, some y =>
        let w := s.cmdWho c
        let phase := c.p0
        let reason := fun (n : Nat) => 0x10 * phase + n
        let places := if phase = 0 then [] else s.convPlaces w src t x
        s.unitLines c.core (places.flatMap (fun e => w.lines e.1 e.2)) c.stall
          (fun s e => (s.putCmd { c with stall := e }).post s.cur .convPhase) (fun s =>
        let c := { c with stall := (0, 0) }
        match (if phase = 0 then .ok [] else s.convSource w src t x) with
        | .error none => s.endLaunch c.ctx 1
        | .error (some va) => s.failCmd c (reason 3) va
        | .ok m =>
          let touch := fun (s : State) =>
            (places ++ y.ranges dst t false).foldl (fun (s : State) (e : Word × Nat) => s.unitTouch w e.1 e.2) s
          let l := convWrites dst t y m phase
          if l.any (fun e => s.tableHit w e.1 e.2.length) then s.endLaunch c.ctx 1
          else if phase ≠ 0 ∧ convOver dst t y m then
            (touch (s.someWrites w (l.take (if dst = .csr then y.cap else y.cap * 4096)))).endCmd c sOVERFLOW (reason 4) 0
          else
            match l.findSome? (fun (e : Word × List Byte) => s.xfail w e.1 e.2.length) with
            | some (va, _) => (touch (s.someWrites w l)).failCmd c (reason 3) va
            | none =>
              let s := touch (l.foldl (fun (s : State) (e : Word × List Byte) => s.unitWrite w e.1 e.2) s)
              if phase = 4 then
                (s.countEv (dieF c.core) 0x26 0 1).endCmd { c with progress := 5 } sOK 0 0
              else (s.putCmd { c with p0 := phase + 1, progress := phase + 1 }).post s.cur .convPhase)
      | _, _ => s
    | _ => s))

end Sys2Proof.Machine
end

