-- ==== Sys2Proof/Machine/Sched.lean ====
section
/-! DEFINITION. The unlayer (R51, R84 to R87, R92, R94), the message network (R78 to R81, R170, R174), and what ends a
wait: condition, deadline, eviction bound, WATCHDOG (R95, R166, R171). -/
namespace Sys2Proof.Machine

/-! ### What is ready (R87, R163, R164) -/

/-- What a logical core has ready: a trap-service task, the head of a handler queue, a pool entry, or the record at the
bottom of its deque. -/
inductive Work where
  | svc
  | msg (vn : Bool)
  | pool (i : Nat)
  | deque
deriving DecidableEq, Repr

/-- The record nearest the bottom that is not held (R164). -/
def LCore.bottom (l : LCore) : Option (Bool × Nat × TaskRec) :=
  let free := fun (i : DqItem) => i.held.isNone
  match findIdx free l.hw 0 with
  | some i => l.hw[i]?.map (fun (x : DqItem) => (false, i, x.tr))
  | none =>
    match findIdx free l.ext 0 with
    | some i => l.ext[i]?.map (fun (x : DqItem) => (true, i, x.tr))
    | none => none

/-- The ready pool entry of smallest key (R87 case 4, R89): satisfied or expired, and with nothing of the attempt that
yielded still to come (R148). DESIGN CHOICE (log 49): of two of equal key the one that entered earlier. -/
def State.readyPool (s : State) (lck : Nat) : Option (Nat × TaskRec) :=
  let l := s.lc lck
  (List.range l.pool.length).foldl (fun (b : Option (Nat × TaskRec)) i =>
    match l.pool[i]? with
    | none => b
    | some p =>
      if !(p.satisfied || p.tr.exp) || s.attemptBusy p.marks then b
      else
        match b with
        | none => some (i, p.tr)
        | some (_, t) => if (boxKey p.tr.box).toNat < (boxKey t.box).toNat then some (i, p.tr) else b) none

/-- A handler queue's head is a message for the logical core, not held, and no handler of the queue runs (R80, R87). -/
def State.handlerReady (s : State) (lck : Nat) (vn : Bool) : Bool :=
  let c := s.core (s.host (lcCtx lck) (lcLocal lck))
  let i : Fin 2 := if vn then 1 else 0
  match c.q[i].head?, c.hrun[i] with
  | some m, none =>
    m.held.isNone && m.msg.ctx.toNat == lcCtx lck && m.msg.dest.toNat == s.globalLc lck
  | _, _ => false

/-- The frame area of a core has a free run of 2 KiB (R163). -/
def State.svcRoom (s : State) (core : Nat) : Bool :=
  (freeRuns (s.frames core) 0 (s.frameArea core)).any (fun r => decide (2048 ≤ r.2))

/-- The first case of R87, with the trap-service tasks before cases 2 to 6, that holds for a logical core. -/
def State.workOf (s : State) (lck : Nat) : Option Work :=
  let l := s.lc lck
  let core := s.host (lcCtx lck) (lcLocal lck)
  if !l.awake || s.evicting (lcCtx lck) core then none
  else if !l.svc.isEmpty && s.svcRoom core then some .svc
  else if s.handlerReady lck true then some (.msg true)
  else if s.handlerReady lck false then some (.msg false)
  else
    match s.readyPool lck, l.bottom with
    | some (i, p), some (_, _, r) =>
      if (boxKey p.box).toNat ≤ (boxKey r.box).toNat then some (.pool i) else some .deque
    | some (i, _), none => some (.pool i)
    | none, some _ => some .deque
    | none, none => none

/-! ### Stealing (R84 to R86) -/

/-- The cores of a round, in order (R85). -/
def stealRound (core : Nat) : List Nat :=
  let d := core / 256
  let r := core / 16 % 16
  let c := core % 16
  (List.range 15).map (fun j => d * 256 + r * 16 + (c + 1 + j) % 16)
    ++ (List.range 15).map (fun j => d * 256 + (r + 1 + j) % 16 * 16 + c)
    ++ (List.range 3).map (fun j => (d + 1 + j) % 4 * 256 + r * 16 + c)

def State.modThief (s : State) (lck : Nat) (f : Thief → Thief) : State :=
  s.modLc lck (fun l => { l with thief := f l.thief })

/-- A request is sent to the core at a place of the round. -/
def State.sendSteal (s : State) (lck i : Nat) : State :=
  ((s.modThief lck (fun t => { t with pos := some i })).count (s.host (lcCtx lck) (lcLocal lck)) 0x0C).post lck .stealRequest

/-- A logical core has nothing ready and no pending relay (R85). -/
def State.idle (s : State) (lck : Nat) : Bool := (s.workOf lck).isNone && (s.lc lck).relay.isNone

/-- A logical core with nothing ready begins a round, unless a request or a grant is out or it backs off (R85, R86). -/
def State.startSteal (s : State) (lck : Nat) : State :=
  let t := (s.lc lck).thief
  let core := s.host (lcCtx lck) (lcLocal lck)
  if t.pos.isSome ∨ t.grant.isSome ∨ t.xreq ∨ s.cyc core < t.notBefore ∨ !(s.lc lck).awake ∨ s.evicting (lcCtx lck) core
  then s
  else s.sendSteal lck 0

/-- The topmost record that may be given to a thief: without SD, not held (R85, R164). -/
def LCore.topmost (l : LCore) : Option (Bool × Nat) :=
  let ok := fun (i : DqItem) => i.held.isNone && !(i.tr.kind == .rule && i.tr.fitSd)
  match findIdx ok l.ext.reverse 0 with
  | some i => some (true, l.ext.length - 1 - i)
  | none =>
    match findIdx ok l.hw.reverse 0 with
    | some i => some (false, l.hw.length - 1 - i)
    | none => none

/-- A record leaves a deque (R82, R83). -/
def State.takeRec (s : State) (lck : Nat) (ext : Bool) (i : Nat) : Option (TaskRec × State) :=
  let l := s.lc lck
  match (if ext then l.ext else l.hw)[i]? with
  | none => none
  | some x =>
    if ext then some (x.tr, (s.modLc lck (fun l => { l with ext := dropNth l.ext i })).syncExt lck)
    else some (x.tr, s.modLc lck (fun l => { l with hw := dropNth l.hw i }))

/-- The bottom record leaves the deque (R82): an empty hardware deque is refilled first (R83). -/
def State.popRec (s : State) (lck : Nat) : Option (TaskRec × State) :=
  let s := s.refill lck
  match (s.lc lck).bottom with
  | none => none
  | some (e, i, _) => s.takeRec lck e i

/-- The first logical core of a context on a core, in ascending number, that has a record to give, and the record
removed (R85). -/
def State.giveRec (s : State) : List Nat → Option (TaskRec × State)
  | [] => none
  | k :: t =>
    match (s.lc k).topmost with
    | some (e, i) => s.takeRec k e i
    | none => s.giveRec t

/-- What a core answers to a request: a record, or the reason of its DENY (R84, R85). -/
def State.answerSteal (s : State) (ctx core : Nat) : Except Nat (TaskRec × State) :=
  let here := (s.hostedBy core).filter (fun k => lcCtx k == ctx)
  if s.evicting ctx core then .error 1
  else if here.isEmpty then .error 2
  else
    match s.giveRec here with
    | none => .error 0
    | some (r, s) => .ok (r, s.count core 0x0D)

/-- A REQ reaches a core (R85). The unit is the thief. -/
def execStealRequest (s : State) : Host.Outcome State Fault Refusal :=
  let k := s.cur
  match (s.lc k).thief.pos with
  | none => .next s
  | some i =>
    match s.answerSteal (lcCtx k) (nth (stealRound (s.host (lcCtx k) (lcLocal k))) i 0) with
    | .ok (r, s) => .next ((s.modThief k (fun t => { t with grant := some r, pos := none })).post k .stealGrant)
    | .error n => .next ((s.modThief k (fun t => { t with deny := some n })).post k .stealDeny)

/-- A GRANT and its record reach the thief (R85, R86); a deque without room for it makes it wait (log 34). The unit is
the thief. -/
def execStealGrant (s : State) : Host.Outcome State Fault Refusal :=
  let k := s.cur
  match (s.lc k).thief.grant with
  | none => .next s
  | some r =>
    .next (((s.modThief k (fun t => { t with grant := none, fails := 0, notBefore := 0 })).arriveRec k r).getD
      (s.post k .stealGrant))

/-- The wait before the round that follows `n` failed rounds (R86). -/
def backoff (n : Nat) : Nat := Nat.min 65536 (1024 * 2 ^ (n - 1))

/-- A DENY reaches the thief (R86): it stops when it has work (log 41), sends its next request, or ends a failed
round. The unit is the thief. -/
def execStealDeny (s : State) : Host.Outcome State Fault Refusal :=
  let k := s.cur
  let core := s.host (lcCtx k) (lcLocal k)
  match (s.lc k).thief.deny, (s.lc k).thief.pos with
  | some _, some i =>
    let s := s.modThief k (fun t => { t with deny := none, pos := none })
    if !s.idle k ∨ s.evicting (lcCtx k) core then .next s
    else if i + 1 < (stealRound core).length then .next (s.sendSteal k (i + 1))
    else
      let s := s.modThief k (fun t =>
        { t with fails := t.fails + 1, notBefore := s.cyc core + backoff (t.fails + 1) })
      let s := s.post k .stealBackoffExpiry
      match s.launch? (lcCtx k) with
      | some l =>
        if (s.regs core (lcCtx k)).ctxcfg.getLsbD 1 ∧ 1 < l.nchip then
          .next (((s.modThief k (fun t => { t with xreq := true })).count core 0x0C).xcSend k ((l.chipno + 1) % l.nchip)
            (.stealReq (s.globalLc k)))
        else .next s
      | none => .next s
  | _, _ => .next s

/-- The back-off of a thief ends (R86): a new round, unless it has work; a cross-chip request that is out is
waited for. The unit is the thief. -/
def execStealBackoffExpiry (s : State) : Host.Outcome State Fault Refusal :=
  let k := s.cur
  let core := s.host (lcCtx k) (lcLocal k)
  let t := (s.lc k).thief
  if t.notBefore = 0 ∨ t.pos.isSome ∨ (s.launch? (lcCtx k)).isNone then .next s
  else if s.cyc core < t.notBefore ∨ t.xreq then .next (s.post k .stealBackoffExpiry)
  else if !s.idle k then .next s
  else .next (s.startSteal k)

/-! ### The start of work on a strand (R51, R80, R87, R92, R94, R163) -/

/-- Strands of a core that nothing holds. -/
def State.freeStrands (s : State) (core : Nat) : List Nat :=
  [4 * core, 4 * core + 1, 4 * core + 2, 4 * core + 3].filter (fun k => (s.strand k).phase == .free && !(s.strand k).halted)

/-- A pending relay of a core whose strands are free starts (R94). -/
def State.relayCheck (s : State) (core : Nat) : State :=
  (s.hostedBy core).foldl (fun (s : State) k =>
    match (s.lc k).relay, s.launch? (lcCtx k) with
    | some i, some l =>
      if (l.legsOf i.tr).length ≤ (s.freeStrands core).length
          ∧ !s.agenda.any (fun (e : Nat × Instr) => e.1 == k && e.2 == .relayStart) then s.post k .relayStart
      else s
    | _, _ => s) s

/-- A record is dispatched: a relay is pending until its strands are free, every other record starts (R87, R94). -/
def State.startRec (s : State) (k lck : Nat) (r : TaskRec) : State :=
  let legs := ((s.launch? (lcCtx lck)).map (fun (l : Launch) => l.legsOf r)).getD []
  if legs.isEmpty then s.startTask k (taskOfRec lck r .record)
  else (s.modLc lck (fun l => { l with relay := some ⟨r, none⟩ })).relayCheck (coreOf k)

/-- The handle of a hold (R163). -/
def State.holdHandle (s : State) (x : Hold) : Word :=
  BitVec.ofNat 64 (s.globalLc x.lc * 2 ^ 44 + x.kind * 2 ^ 32 + x.ix % 2 ^ 32)

/-- The messages of a held trigger and those behind it (R163). -/
def State.heldMsgs (s : State) (x : Hold) : List Msg := ((s.heldSeq x).take 32).map (fun (m : QMsg) => m.msg)

/-- A trap-service task starts (R163). DESIGN CHOICE (log 49): its role is LOAD, as R163 says, whatever its unit header
gives (R230), and (log 51) it runs as an ordinary task, also where that header's RELAY is not 0. -/
def State.startSvc (s : State) (k lck : Nat) (v : SvcItem) : State :=
  let ctx := lcCtx lck
  if s.hdrHit ctx v.pc then s.endLaunch ctx 1
  else
  match s.ctx? ctx, s.allocFrame (coreOf k) 2048 (s.nextMark k) with
  | some c, some (b, s) =>
    let x := c.holds.find? (fun (h : Hold) => h.ix == v.trapIx)
    let msgs := (x.map (fun h => s.heldMsgs h)).getD []
    let handle := (x.map (fun h => s.holdHandle h)).getD 0
    let s := { s with lds := Mem.write s.lds (coreOf k * 2 ^ 21 + b) (msgs.flatMap (fun (m : Msg) => m.bytes false)) }
    let va : Word := BitVec.ofNat 64 (c.area + c.off[1] + 64 * (v.trapIx % c.trapn))
    let r := s.mkRec ctx (keyBox v.key) v.pc .handler false 0 (BitVec.ofNat 32 c.number)
      (Vector.ofFn (fun i : Fin 4 => nth [va, handle, BitVec.ofNat 64 msgs.length, 0] i.val 0)) false
    s.startTask k { taskOfRec lck { r with role := 0 } (.svc v.trapIx) with
      frame := b, frameLen := 2048, svcHandle := handle, svcN := msgs.length }
  | _, _ => s

/-- The handler of a queue's head starts (R80). DESIGN CHOICE (log 51): it runs as an ordinary task, also where RELAY
of its unit's header is not 0 (R230). -/
def State.startHandler (s : State) (k lck : Nat) (vn : Bool) : State :=
  let i : Fin 2 := if vn then 1 else 0
  match ((s.core (coreOf k)).q[i]).head? with
  | none => s
  | some m =>
    let num := ((s.ctx? (lcCtx lck)).map (·.number)).getD 0
    if s.hdrHit (lcCtx lck) m.msg.hpc then s.endLaunch (lcCtx lck) 1
    else
    let r := s.mkRec (lcCtx lck) (keyBox m.msg.key) m.msg.hpc .handler false 0 (BitVec.ofNat 32 num) m.msg.vals false
    (s.modCore (coreOf k) (fun c => { c with hrun := c.hrun.set i (some k) })).startTask k (taskOfRec lck r (.msg vn))

/-- A record at the bottom of a deque is dispatched; a continuation whose tiles have no place to stay in waits (R367,
log 38). -/
def State.takeBottom (s : State) (k lck : Nat) : State :=
  match s.popRec lck with
  | none => s
  | some (r, t) =>
    match t.pinCont (lcCtx lck) r with
    | none => s.post k .strandDispatch
    | some (r, t) => if (t.launch? (lcCtx lck)).isNone then t else t.startRec k lck r

/-- A strand takes what a logical core has ready. -/
def State.takeWork (s : State) (k lck : Nat) (w : Work) : State :=
  let s := s.modCore (coreOf k) (fun c => { c with served := lck })
  match w with
  | .svc =>
    match (s.lc lck).svc with
    | [] => s
    | v :: t => (s.modLc lck (fun l => { l with svc := t })).startSvc k lck v
  | .msg vn => s.startHandler k lck vn
  | .pool i =>
    match (s.lc lck).pool[i]? with
    | none => s
    | some p => ((s.modLc lck (fun l => { l with pool := dropNth l.pool i })).poolPosts lck).startRec k lck p.tr
  | .deque => s.takeBottom k lck

/-- The logical cores of a core that have nothing ready steal (R85). -/
def State.stealIdle (s : State) (core : Nat) : State :=
  (s.hostedBy core).foldl (fun (s : State) j => if s.idle j then s.startSteal j else s) s

/-- A free strand takes work (R51, R87): none while a relay is pending on its core; the logical cores are served in
turn. -/
def State.takeTurn (s : State) (k : Nat) : State :=
  let core := coreOf k
  let l := s.hostedBy core
  if l.any (fun j => (s.lc j).relay.isSome) then s.relayCheck core
  else
    let turn := l.filter (fun j => decide ((s.core core).served < j)) ++ l.filter (fun j => decide (j ≤ (s.core core).served))
    match turn.find? (fun j => (s.workOf j).isSome) with
    | some j =>
      match s.workOf j with
      | some w => s.takeWork k j w
      | none => s
    | none => s

/-- A strand is free: it takes what is ready, and the logical cores of its core that are left with nothing steal (R85,
R87, R91). -/
def State.dispatchFree (s : State) (k : Nat) : State := (s.takeTurn k).stealIdle (coreOf k)

/-- The task of a SPAWN starts on its reserved strand as a task of m (R92), with the relay that its header names
pending for its strands (R94, R230); while the context is being evicted there, or m has a relay pending, its record
waits in m's deque (R170). -/
def State.startSpawn (s : State) (k : Nat) (r : SpawnReq) : State :=
  let s := s.modStrand k (fun t => { t with phase := .free, spawnTask := none })
  match s.launch? r.ctx with
  | none => s
  | some l =>
    let lck := lcKey r.ctx (r.m - l.chipno * 1024)
    if s.hdrHit r.ctx r.pc then s.endLaunch r.ctx 1
    else
    let num := ((s.ctx? r.ctx).map (·.number)).getD 0
    let tr := s.mkRec r.ctx r.box r.pc r.kind false 0 (BitVec.ofNat 32 num) r.args true
    if s.evicting r.ctx (coreOf k) ∨ (!(l.legsOf tr).isEmpty ∧ (s.lc lck).relay.isSome) then
      (s.placeRec lck tr).post k .strandDispatch
    else s.startRec k lck tr

/-- A strand is free, or its reservation may start (R87, R92). The unit is the strand. -/
def execStrandDispatch (s : State) : Host.Outcome State Fault Refusal :=
  let k := s.cur
  let t := s.st
  if isMgmt (coreOf k) ∨ t.halted ∨ !(s.die (dieF (coreOf k))).power then .next s
  else
    match t.phase, t.spawnTask with
    | .free, _ => .next (s.dispatchFree k)
    | .reserved _, some r => if r.answer.isSome then .next (s.startSpawn k r) else .next s
    | _, _ => .next s

/-- The batons of a relay are set up (R94): every slot FREE, sequence 0 at slot 0. -/
def State.setRelayBatons (s : State) (lck : Nat) (l : Launch) (relay : Nat) : State :=
  s.modLc lck (fun c =>
    { c with batons := (List.range c.batons.length).map (fun i =>
        let b := nth c.batons i noBaton
        match l.baton i with
        | some (_, _, _, false, r) =>
          if r = relay then { b with slots := List.replicate b.depth noSlot, nextrel := 0 } else b
        | _ => b) })

/-- The legs of a relay start on their strands, with one frame, which each of them holds (R94, R96, R126); `pre` is
the frame that a verdict has allocated for it (R64). DESIGN CHOICE (log 51): of the unit headers of R230 only the
record's own, that of leg 0, has been tested; those at the PCs of legs 1 and 2 are not. -/
def State.startRelay (s : State) (lck : Nat) (l : Launch) (r : TaskRec) (legs : List (BitVec 32)) (ks : List Nat)
    (pre : Nat × Nat) : State :=
  let k0 := nth ks 0 0
  let core := coreOf k0
  let s := { s with cur := k0 }.drain (dieF core)
  let tk := fun (i : Nat) => { taskOfRec lck r .record with leg := i, legs := ks }
  let s := (List.range legs.length).foldl (fun (s : State) i => s.seat (nth ks i 0) (tk i) (nth legs i 0)) s
  let s := s.count core 0x07
  match s.fitRecord l (tk 0) with
  | .error t => s.trapAt (r.pc.setWidth 64) none t
  | .ok (s', r') =>
    let n := l.frameOf r'
    let mine := fun (c : Core) => { c with
      frames := insFrame (pre.1, n, s'.mark k0) (c.frames.filter (fun f => f != (pre.1, n, relayMark))) }
    match (if n = 0 then some (0, s') else if pre.2 = n then some (pre.1, s'.modCore core mine)
        else s'.allocFrame core n (s'.mark k0)) with
    | none => s'.trapAt (r.pc.setWidth 64) none ⟨tCAPACITY, 0, 0, 0⟩
    | some (b, s') =>
      let s' := if n = 0 then s'
        else s'.modCore core (fun c => { c with
          frames := (ks.drop 1).foldl (fun fs k => insFrame (b, n, s'.mark k) fs) c.frames })
      ks.foldl (fun (s : State) k => s.modStrand k (fun t =>
        { t with br := t.br.set 0 r'.box
                 task := t.task.map (fun x =>
                   { x with tr := { x.tr with box := r'.box, jref := r'.jref }, frame := b, frameLen := n }) })) s'

/-- The strands that a pending relay needs are free (R94): its legs start together, on the lowest free strands in leg
order (DESIGN CHOICE, log 41); that of a continuation was given its place when it left the deque. The unit is the
logical core. -/
def execRelayStart (s : State) : Host.Outcome State Fault Refusal :=
  let k := s.cur
  match (s.lc k).relay, s.launch? (lcCtx k) with
  | some i, some l =>
    let core := s.host (lcCtx k) (lcLocal k)
    let legs := l.legsOf i.tr
    let free := s.freeStrands core
    if free.length < legs.length ∨ !(s.die (dieF core)).power then .next s
    else
      let pre := (s.lc k).rframe
      let s := (s.modLc k LCore.nextRelay).setRelayBatons k l (i.tr.relay.toNat - 1)
      .next ((s.startRelay k l i.tr legs (free.take legs.length) pre).wakeCore core)
  | _, _ => .next s

/-! ### SPAWN (R92) -/

/-- The strand that a reservation may have: a free one of the core that hosts m, of the caller's chip and context, while
no relay waits for it and the context stays on the row; the lowest of several (DESIGN CHOICE, log 41). -/
def State.spawnStrand (s : State) (r : SpawnReq) : Option Nat :=
  match s.launch? r.ctx with
  | none => none
  | some l =>
    let lo := l.chipno * 1024
    if r.m < lo ∨ lo + l.remap.length ≤ r.m then none
    else
      let core := s.host r.ctx (r.m - lo)
      if s.evicting r.ctx core ∨ (s.hostedBy core).any (fun j => (s.lc j).relay.isSome) then none
      else (s.freeStrands core).head?

/-- A reservation request reaches the core that hosts m (R92): GRANT or BUSY. The unit is the caller's strand. -/
def execSpawnReservationRequest (s : State) : Host.Outcome State Fault Refusal :=
  let k := s.cur
  match s.st.spawn, s.st.task with
  | some r, some tk =>
    if r.answer.isSome then .next s
    else
      match s.spawnStrand r with
      | none =>
        .next (((s.mod (fun t => { t with spawn := some { r with answer := some none } })).count (coreOf k) 0x0B).post k
          .spawnAnswer)
      | some j =>
        let s := s.modStrand j (fun t =>
          { t with phase := .reserved k, spawnTask := some { r with box := setBoxKey r.box (boxKey tk.tr.box) } })
        .next (((s.mod (fun t => { t with spawn := some { r with answer := some (some j) } })).count (coreOf j) 0x0A).post k
          .spawnAnswer)
  | _, _ => .next s

/-- GRANT or BUSY reaches the caller (R92). The unit is the caller's strand. -/
def execSpawnAnswer (s : State) : Host.Outcome State Fault Refusal :=
  if (s.st.spawn.bind (·.answer)).isSome then .next (s.setStage 1) else .next s

/-- A release message reaches the reserving core (R92): the strand is free. The unit is the strand. -/
def execSpawnRelease (s : State) : Host.Outcome State Fault Refusal :=
  let k := s.cur
  match s.st.phase with
  | .reserved _ =>
    .next ((s.mod (fun t => { t with phase := .free, spawnTask := none })).wakeCore (coreOf k))
  | _ => .next s

/-! ### Messages (R78 to R81, R170, R174, R175) -/

/-- The message of a send buffer that leaves next: the first that is released (R81). -/
def Strand.headMsg (t : Strand) (vn : Bool) : Option SendItem := t.send[vnFin vn].find? (·.released)

/-- A message has been offered, or stays behind one of its buffer that was refused (R79). -/
def Strand.offered (t : Strand) (m : SendItem) : Bool :=
  m.flight || decide (0 < m.notBefore) || ((t.headMsg m.msg.vn).map (fun h => decide (0 < h.notBefore) && !h.flight)).getD false

/-- Two messages are of one source, destination and VN. -/
def SendItem.follows (a b : SendItem) : Bool := a.msg.ctx == b.msg.ctx && a.msg.src == b.msg.src && a.msg.dest == b.msg.dest

/-- A message of a strand has been offered, or stays behind one of its source, destination and VN that was refused. -/
def State.passed (s : State) (k : Nat) (m : SendItem) : Bool :=
  (s.strand k).offered m || (List.range 4).any (fun i =>
    (s.strand (4 * coreOf k + i)).send[vnFin m.msg.vn].any (fun y =>
      y.released && decide (y.ord < m.ord) && decide (0 < y.notBefore) && m.follows y))

/-- The send engine of a core may offer the head of a buffer (R79, R81, R119): those released before it on the core's
strands, on either VN, have been offered, and none of its own source, destination and VN is still there. -/
def State.mayOffer (s : State) (k : Nat) (m : SendItem) : Bool :=
  !m.flight && decide (m.notBefore ≤ s.cyc (coreOf k)) && (List.range 4).all (fun i =>
    let j := 4 * coreOf k + i
    (s.strand j).send.toList.all (fun q => q.all (fun x =>
      !x.released || decide (m.ord ≤ x.ord) || (s.passed j x && !(x.msg.vn == m.msg.vn && m.follows x)))))

/-- The message that the send engine of a core offers next, with its strand: the first released (R119). -/
def State.nextOffer (s : State) (core : Nat) : Option (Nat × SendItem) :=
  ([false, true].flatMap (fun vn => (List.range 4).filterMap (fun i =>
    let k := 4 * core + i
    match (s.strand k).headMsg vn with
    | none => none
    | some m => if s.mayOffer k m then some (k, m) else none))).foldl (fun (b : Option (Nat × SendItem)) e =>
      match b with
      | none => some e
      | some x => if e.2.ord < x.2.ord then some e else some x) none

/-- The head of a send buffer is offered (R79, R81): on the mesh it stays in the buffer until it is accepted, one for
another chip leaves when the exchange takes it. -/
def State.injectMsg (s : State) (k : Nat) (vn : Bool) : State :=
  let q := (s.strand k).send[vnFin vn]
  match findIdx (fun (i : SendItem) => i.released) q 0 with
  | none => s
  | some j =>
    match q[j]? with
    | none => s
    | some m =>
      let ctx := m.msg.ctx.toNat
      if m.xc then
        let lck := lcKey ctx (m.msg.src.toNat % 1024)
        let num := ((s.ctx? ctx).map (·.number)).getD 0
        let it : XcItem := ⟨m.tick, s.globalLc lck, m.xseq, ctx, num, m.msg.dest.toNat / 1024,
          .msg m.msg.dest.toNat (b2n vn) m.msg.hpc.toNat m.msg.src.toNat m.msg.seq m.msg.vals m.msg.key⟩
        let s := s.modStrand k (fun t => { t with send := t.send.set (vnFin vn) (dropNth q j) })
        ({ s with time := { s.time with xout := s.time.xout ++ [it] } }.count (coreOf k) 0x19).wakeCore (coreOf k)
      else
        let core := s.host ctx (m.msg.dest.toNat % 1024)
        let s := s.modStrand k (fun t => { t with send := t.send.set (vnFin vn) (setNth q j { m with flight := true }) })
        ((s.modCore core (fun c => { c with inbound := c.inbound ++ [(k, m.msg)] })).count (coreOf k) 0x19).post core
          .messageArrival

/-- The send engine of a core offers what it may, in release order (R119); its buffers hold 128 messages. -/
def State.pump (core : Nat) : Nat → State → State
  | 0, s => s
  | f + 1, s =>
    match s.nextOffer core with
    | none => s
    | some (k, m) => State.pump core f (s.injectMsg k m.msg.vn)

/-- A released message leaves the send buffer when its turn has come (R81, R119); one that is to wait longer is offered
again. The unit is the strand. -/
def State.sendMsgs (s : State) (vn : Bool) : State :=
  let s' := State.pump (coreOf s.cur) 128 s
  match s'.st.headMsg vn with
  | some m =>
    if !m.flight ∧ s'.cyc (coreOf s.cur) < m.notBefore
        ∧ !s'.agenda.any (fun (e : Nat × Instr) => e.1 == s.cur && e.2 == .messageReoffer vn) then
      s'.post s.cur (.messageReoffer vn)
    else s'
  | none => s'
def execMessageInject (vn : Bool) (s : State) : Host.Outcome State Fault Refusal := .next (s.sendMsgs vn)

/-- The interval after a refusal passes (R79, R170): the message is offered again. The unit is the strand. -/
def execMessageReoffer (vn : Bool) (s : State) : Host.Outcome State Fault Refusal := .next (s.sendMsgs vn)

/-- What a message meets at a core's router: entered in its queue or the mailbox, or refused, after which it is not
offered for some cycles. -/
inductive Entry where
  | queue
  | mailbox
  | refuse (cycles : Nat)
deriving DecidableEq, Repr

/-- A mailbox of a context still drains on a row (R175). -/
def State.mailOn (s : State) (ctx row : Nat) : Bool :=
  s.lcs.any (fun (e : Nat × LCore) =>
    lcCtx e.1 == ctx && !e.2.evicted && rowOf (s.hostOf e.1) == row && !e.2.mailbox.isEmpty)

/-- The rows that a RESUME has restored take no new message while one of their mailboxes still drains (R175). -/
def State.drainsMail (s : State) (ctx row : Nat) : Bool :=
  let back := ((s.ctx? ctx).map (·.back)).getD []
  has back row && back.any (fun r => s.mailOn ctx r)

/-- The router's answer (R79, R170, R174, R175). -/
def State.route (s : State) (m : Msg) : Entry :=
  let lck := lcKey m.ctx.toNat (m.dest.toNat % 1024)
  let l := s.lc lck
  let c := s.core (s.host m.ctx.toNat (m.dest.toNat % 1024))
  if l.evicted then (if 1023 ≤ l.mailbox.length then .refuse 256 else .mailbox)
  else if l.draining ∨ !l.mailbox.isEmpty ∨ s.drainsMail m.ctx.toNat (rowOf (s.hostOf lck)) then .refuse 256
  else if 32 ≤ c.q[vnFin m.vn].length then .refuse 64
  else .queue

/-- The sender mark of a message that came over the exchange. -/
def farSender : Nat := 1000000

/-- The first message at the router that can be dealt with: of another chip only one that is accepted, behind no other
of its source and VN (R79, R157). -/
def State.nextInbound (s : State) (seen : List (Nat × Msg)) : List (Nat × Msg) → Option (Nat × Msg)
  | [] => none
  | (k, m) :: t =>
    let behind := seen.any (fun (e : Nat × Msg) => e.1 == farSender && e.2.src == m.src && e.2.vn == m.vn)
    let refused : Bool := match s.route m with
      | .refuse _ => true
      | _ => false
    if k = farSender ∧ (behind ∨ refused) then s.nextInbound (seen ++ [(k, m)]) t else some (k, m)

/-- A message is dealt with at the router. -/
def State.enterMsg (s : State) (core k : Nat) (m : Msg) : State :=
  let lck := lcKey m.ctx.toNat (m.dest.toNat % 1024)
  let s := s.modCore core (fun c => { c with inbound := c.inbound.erase (k, m) })
  let q := (s.strand k).send[vnFin m.vn]
  let mine := findIdx (fun (i : SendItem) => i.flight && i.msg == m) q 0
  let gone := match mine with
    | some j => ((s.modStrand k (fun t =>
        { t with send := t.send.set (vnFin m.vn) (dropNth q j) })).post k (.messageInject m.vn)).wakeCore (coreOf k)
    | none => s
  match s.route m with
  | .queue =>
    (gone.modCore core (fun c => { c with q := c.q.set (vnFin m.vn) (c.q[vnFin m.vn] ++ [⟨m, none⟩]) })).wakeCore core
  | .mailbox => (gone.modLc lck (fun l => { l with mailbox := l.mailbox ++ [⟨m, none⟩] })).syncMailbox lck
  | .refuse n =>
    match mine with
    | none => s
    | some j =>
      match q[j]? with
      | none => s
      | some x =>
        let y := { x with flight := false, notBefore := s.cyc (coreOf k) + n }
        (s.modStrand k (fun t =>
          { t with send := t.send.set (vnFin m.vn) (setNth q j y) })).post k (.messageReoffer m.vn)

/-- A message reaches the router of a core (R79). The unit is the core. -/
def execMessageArrival (s : State) : Host.Outcome State Fault Refusal :=
  let c := s.cur
  match s.nextInbound [] (s.core c).inbound with
  | some (k, m) => .next (s.enterMsg c k m)
  | none => if (s.core c).inbound.isEmpty then .next s else .next (s.post c .messageArrival)

/-! ### The end of a wait (R95, R166, R171) -/

/-- A blocking instruction tested again. -/
def State.retest (p : Poll) (i : Instr) (s : State) : Except TrapInfo State :=
  match i with
  | .halt g q d a l => haltPoll p g q d a l s
  | .ldw g d a b l i => ldwPoll p g d a b l i s
  | .waitc g y d a b l => waitcPoll p g y d a b l s
  | .vwaitc g y d a b l i => vwaitcPoll p g y d a b l i s
  | .bar g sc d a b l => barPoll p g sc d a b l s
  | .bara g sc d a b => baraPoll p g sc d a b s
  | .barw g d a l => barwPoll p g d a l s
  | .fence g d l b a => fencePoll p g d l b a s
  | .fencesc g d l => fencescPoll p g d l s
  | .waitb g pr d a b l => waitbPoll p g pr d a b l s
  | .sendb g d a b c l n => sendbPoll p g d a b c l n s
  | .spawn g kd d a b l pc => spawnPoll p g kd d a b l pc s
  | .mwait g d l => mwaitPoll p g d l s
  | .mresume g l => mresumePoll p g l s
  | .mma g o t a b c l => mmaPoll p g o t a b c l s
  | .mmag g o t a b c l => mmagPoll p g o t a b c l s
  | .mmas g o t a b c l => mmasPoll p g o t a b c l s
  | .fetch g d a b c l => fetchPoll p g d a b c l s
  | .put g d a b c l => putPoll p g d a b c l s
  | .gather g d a b c l n z => gatherPoll p g d a b c l n z s
  | .scata g t d a b c l n z => scataPoll p g t d a b c l n z s
  | .nlcfg g d a l => nlcfgPoll p g d a l s
  | .nlbin g d a b l => nlbinPoll p g d a b l s
  | .nlpairs g d a b c l => nlpairsPoll p g d a b c l s
  | .conv g t sr ds d a b l => convPoll p g t sr ds d a b l s
  | .ewait g d a l => ewaitPoll p g d a l s
  | _ => .ok s

/-- A waiting strand's condition is tested (R166). The unit is the strand. -/
def execWaitSatisfied (s : State) : Host.Outcome State Fault Refusal :=
  match s.st.wait with
  | none => .next s
  | some w => s.orTrap (s.retest .again w.instr)

/-- A deadline is reached (R166): a condition that holds at that instant wins. The unit is the strand. -/
def execDeadlineExpiry (s : State) : Host.Outcome State Fault Refusal :=
  match s.st.wait with
  | none => .next s
  | some w => if w.limit ≤ s.now then s.orTrap (s.retest .expire w.instr) else .next s

/-- The eviction bound is reached (R171). The unit is the strand. -/
def execEvictionBound (s : State) : Host.Outcome State Fault Refusal :=
  match s.st.wait, s.evBound s.cur with
  | some w, some b => if b ≤ s.now then s.orTrap (s.retest .bound w.instr) else .next s
  | _, _ => .next s

/-- A task has reached BUDGET (R95): WATCHDOG, at the boundary before its next instruction. The unit is the strand. -/
def execWatchdog (s : State) : Host.Outcome State Fault Refusal :=
  if s.watchdogDue s.cur ∧ s.st.wait.isNone then .next (s.takeTrap ⟨tWATCHDOG, s.st.budget.toNat, 0, 0⟩) else .next s

end Sys2Proof.Machine
end

