-- ==== Sys2Proof/Machine/Splice.lean ====
section
/-! DEFINITION. The splicer (R65 to R68, R156): tiles, deposits, covered points, and what a complete join does. -/
namespace Sys2Proof.Machine

/-! ### Tiles (R66) -/

/-- The FREE axes of a box, lowest first. -/
def freeAxes (b : BoxImg) : List Nat := (List.range 6).filter (fun a => boxClass b a == 1)

/-- The element number in a tile of `outer` of element `e` of a tile of `inner` (R66): row-major, the lowest axis
fastest; `m` is the stride reached in `outer`. -/
def tileIndex (outer inner : BoxImg) : List Nat → Nat → Nat → Nat
  | [], _, _ => 0
  | a :: t, e, m =>
    let n := Nat.max 1 (boxExt inner a)
    (boxLo inner a + e % n - boxLo outer a) * m + tileIndex outer inner t (e / n) (m * boxExt outer a)

/-- Element `e` of a tile of `n` elements, when its presence bit is set. -/
def tileGet (l : List Byte) (n size e : Nat) : Option Nat :=
  if (nth l (roundUp (n * size) 8 + e / 8) 0).getLsbD (e % 8) then some (leAt l (e * size) size) else none

def tileVals (l : List Byte) (n size : Nat) : List (Option Nat) := (List.range n).map (tileGet l n size)

/-- The presence bitmap of a tile. -/
def presence (v : List (Option Nat)) : List Byte :=
  (List.range (8 * ((v.length + 63) / 64))).map (fun i =>
    BitVec.ofNat 8 ((List.range 8).foldl (fun m b => if (nth v (8 * i + b) none).isSome then m + 2 ^ b else m) 0))

/-- The bytes of a tile: an absent element keeps the bytes that were there. -/
def sideBytes (old : List Byte) (v : List (Option Nat)) (size : Nat) : List Byte :=
  let body := (List.range v.length).flatMap (fun e =>
    match nth v e none with
    | some x => bytesOfNat size x
    | none => (old.drop (e * size)).take size)
  body ++ List.replicate (roundUp (v.length * size) 8 - v.length * size) 0 ++ presence v

/-- A tile as a die sees it. -/
def State.tileAt (s : State) (d : Fin 4) (ctx va n size : Nat) : List Byte := (s.dieRead d ctx va (tileLen n size)).getD []

/-! ### Deposits and covered points (R67, R68) -/

/-- The flags that the splicer's additions raise enter the launch flag word (R67). -/
def State.launchFlags (s : State) (ctx : Nat) (f : BitVec 5) : State :=
  s.modLaunch ctx (fun l => { l with flags := l.flags ||| f })

/-- canon_add of two lists of elements, and the flags (R59). -/
def addSides (t : Fmt) (m : Rm) (a b : List (Option Nat)) : List (Option Nat) × BitVec 5 :=
  let r := (a.zip b).map (fun (p : Option Nat × Option Nat) => canonAdd t m p.1 p.2)
  (r.map (fun p => p.1), r.foldl (fun (f : BitVec 5) p => f ||| p.2) 0)

/-- Additions that two lists of elements make (event 0x27). -/
def additions (a b : List (Option Nat)) : Nat :=
  (a.zip b).countP (fun (p : Option Nat × Option Nat) => p.1.isSome && p.2.isSome)

/-- The elements of a tile of `inner` at their places in a tile of `outer`, absent elsewhere. -/
def spreadTile (outer inner : BoxImg) (v : List (Option Nat)) : List (Option Nat) :=
  (List.range v.length).foldl (fun (r : List (Option Nat)) e =>
    setNth r (tileIndex outer inner (freeAxes outer) e 1) (nth v e none)) (List.replicate (boxFree outer) none)

/-- A deposit fills its side tile, or in arrival mode is added to the accumulator tile (R67, R68), on the splicer's
die. -/
def State.deposit (s : State) (d : Fin 4) (ctx : Nat) (j : Join) (jbox : BoxImg) (side : Nat) (tile : List Byte)
    (box : BoxImg) : State :=
  let size := fmtSize j.acc
  let n := boxFree jbox
  let at_ := if side = 1 then j.right else j.left
  let old := s.tileAt d ctx at_ n size
  let now := tileVals old n size
  let new := spreadTile jbox box (tileVals tile (boxFree box) size)
  if j.arrival then
    let (v, f) := addSides j.acc j.rm now new
    ((s.dieWrite d ctx at_ (sideBytes old v size)).launchFlags ctx f).countEv d 0x27 0 (additions now new)
  else
    let v := (now.zip new).map (fun (p : Option Nat × Option Nat) => p.2.orElse (fun _ => p.1))
    s.dieWrite d ctx at_ (sideBytes old v size)

/-- Both sides of a record are covered, or in arrival mode the one side (R67, R68). -/
def joinComplete (j : Join) (jbox : BoxImg) : Bool :=
  if j.arrival then j.cov0 == boxPoints jbox
  else
    match keyAxis jbox with
    | none => false
    | some a => j.cov0 == boxPoints (splitBox jbox a).1 && j.cov1 == boxPoints (splitBox jbox a).2

/-- The tile of a side meets a line with an uncorrectable error (R135). -/
def State.sideHit (s : State) (d : Fin 4) (ctx : Nat) (j : Join) (jbox : BoxImg) (side : Nat) : Bool :=
  s.dieHit d ctx (if side = 1 then j.right else j.left) (tileLen (boxFree jbox) (fmtSize j.acc))

/-- A complete record is combined (R67): its continuation is dispatched, or its result is deposited upward and the
record and its tiles are freed. -/
def State.combine (s : State) (d : Fin 4) (ctx va : Nat) (j : Join) (jbox : BoxImg) : State :=
  match s.ctx? ctx with
  | none => s
  | some c =>
    match c.launch with
    | none => s
    | some l =>
      let size := fmtSize j.acc
      let n := boxFree jbox
      let left := s.tileAt d ctx j.left n size
      let lck := lcKey ctx (joinOwner c l va)
      let s := if j.arrival then s
        else
          let a := tileVals left n size
          let b := tileVals (s.tileAt d ctx j.right n size) n size
          let (v, f) := addSides j.acc j.rm a b
          ((s.dieWrite d ctx j.left (sideBytes left v size)).launchFlags ctx f).countEv d 0x27 0 (additions a b)
      let s := s.dieWrite d ctx va [2]
      if j.cont && s.hdrHit ctx j.pc then s.endLaunch ctx 1
      else if j.cont then
        s.placeRec lck (s.mkRec ctx jbox j.pc .cont false (BitVec.ofNat 48 j.parent) (BitVec.ofNat 32 c.number)
          (Vector.ofFn (fun i : Fin 4 => nth [BitVec.ofNat 64 j.left, BitVec.ofNat 64 (n % 2 ^ 32 + j.acc.code.toNat * 2 ^ 32)]
            i.val 0)) false)
      else
        let out := s.tileAt d ctx j.left n size
        let s := s.freeJoin d ctx va
        if j.parent = 0 then s else s.toSplicer lck j.parent (.deposit ctx j.parent out jbox nobody)

/-- One event of a record is handled by the splicer of a die (R67): the tile, the points, the check. An event whose
record is not OPEN has no effect; an uncorrectable error in what it reads ends the launch (R135). -/
def State.splice (s : State) (d : Fin 4) (ctx jref : Nat) (tile : Option (List Byte)) (box : BoxImg) : State :=
  let va := jref / 64 * 64
  let j := s.join d ctx va
  if s.dieHit d ctx va 64 then s.endLaunch ctx 1
  else if j.st ≠ 1 then s
  else
    let jbox := boxOfBytes ((s.dieRead d ctx j.image 64).getD [])
    let side := if j.arrival then 0 else jref % 2
    if s.dieHit d ctx j.image 64 || tile.isSome && s.sideHit d ctx j jbox side then s.endLaunch ctx 1
    else
    let s := match tile with
      | none => s
      | some t => s.deposit d ctx j jbox side t box
    let cov := ((if side = 1 then j.cov1 else j.cov0) + boxPoints box) % 2 ^ 64
    let s := s.dieWrite d ctx (va + 24 + 8 * side) (bytesOfNat 8 cov)
    let j := if side = 1 then { j with cov1 := cov } else { j with cov0 := cov }
    if !joinComplete j jbox then s
    else if s.sideHit d ctx j jbox 0 || !j.arrival && s.sideHit d ctx j jbox 1 then s.endLaunch ctx 1
    else s.combine d ctx va j jbox

/-- The record that an event names has not been written yet by the cores of this chip: a static one that is FREE
(R65). -/
def State.splEarly (s : State) (d : Fin 4) (ctx jref : Nat) : Bool :=
  match s.ctx? ctx with
  | none => false
  | some c =>
    match c.launch with
    | none => false
    | some l =>
      let va := jref / 64 * 64
      decide (va - c.arena < l.staticBytes) && s.dieNat d ctx va 1 == 0 && s.dieNat d ctx (va + 8) 8 == 0

/-- The kind of an event, and whether it must wait. -/
def SplEv.isDeposit : SplEv → Bool
  | .deposit .. => true
  | .cover .. => false
def State.splWaits (s : State) (d : Fin 4) : SplEv → Bool
  | .deposit c j .. => s.splEarly d c j
  | .cover c j _ => s.splEarly d c j

/-- The row's splicer handles its first event of a kind that need not wait, once what came before the event has been
performed on its die (R156). A frame that waited for a deposit may be free. -/
def State.spliceNext (s : State) (row : Nat) (dep : Bool) (again : Instr) : State :=
  let d : Fin 4 := Fin.ofNat 4 (row / 16)
  let s := s.drain d
  let q := (s.row row).spl
  match findIdx (fun e => e.isDeposit == dep && !s.splWaits d e) q 0 with
  | none => if q.any (fun e => e.isDeposit == dep) then s.post row again else s
  | some i =>
    let s' := s.modRow row (fun r => { r with spl := dropNth r.spl i })
    match q[i]? with
    | some (.deposit c j t b m) =>
      let s' := (s'.splice d c j (some t) b).post c .launchEnd
      if m = nobody then s' else s'.wakeCore (coreOf (markStrand m))
    | some (.cover c j b) => (s'.splice d c j none b).post c .launchEnd
    | none => s'

/-- A deposit reaches the splicer (R67, R68). The unit is the row. -/
def execSplicerDeposit (s : State) : Host.Outcome State Fault Refusal :=
  .next (s.spliceNext s.cur true .splicerDeposit)

/-- A pruned box, or a task that ended without deposit, reaches the splicer (R67). The unit is the row. -/
def execSplicerCover (s : State) : Host.Outcome State Fault Refusal :=
  .next (s.spliceNext s.cur false .splicerCover)

end Sys2Proof.Machine
end

