-- ==== Sys2Proof/Machine/Evict.lean ====
section
/-! DEFINITION. Partitions of a row (R106), placement of static areas (R125), eviction (R170 to R174), resume (R173,
R175), and trap holds that firmware ends (R164). -/
namespace Sys2Proof.Machine

/-! ### Partitions and static areas (R106, R125) -/

/-- The lowest partition of a row that no resident context holds (R106). -/
def State.freePart (s : State) (row : Nat) : Option Nat :=
  (List.range 4).find? (fun p => s.ctxs.all (fun (e : Nat × Ctx) => e.2.rowPart.find row != some p))

/-- CTXCFG of a context with a partition (R106). -/
def Ctx.cfg (c : Ctx) (part : Nat) : Word := BitVec.ofNat 64 (part * 64 + b2n c.xsteal * 2 + b2n c.esave)

/-- The key under which a saved element of an evicted context is kept with its presence. -/
def savedKey (ctx row i : Nat) : Nat := 2 ^ 40 + (ctx * 64 + row) * 2 ^ 18 + i

/-- The elements of a partition of a row. -/
def State.partVals (s : State) (row part : Nat) : List (Nat × BitVec 32) :=
  let k0 := accKey row part 0 0
  s.acc.filter (fun (e : Nat × BitVec 32) => decide (k0 ≤ e.1) && decide (e.1 < k0 + 2 ^ 18))

/-- The elements of a partition are kept under keys of the context. -/
def State.stashPart (s : State) (ctx row part : Nat) : State :=
  let k0 := accKey row part 0 0
  { s with acc := (s.partVals row part).foldl (fun (m : Table (BitVec 32)) (e : Nat × BitVec 32) =>
      Table.set m (savedKey ctx row (e.1 - k0)) e.2) s.acc }

/-- Where the image of a row's partition lies. -/
def Ctx.partAt (c : Ctx) (row : Nat) : Nat := c.area + c.off[5] + 0x100000 + 0x100000 * row

/-- A partition saved (R172): its image in memory, and its elements under keys of the context. -/
def State.savePart (s : State) (ctx row part : Nat) (c : Ctx) : State :=
  let k0 := accKey row part 0 0
  let s' := (s.stashPart ctx row part).ctxWrite ctx none (c.partAt row) (List.replicate 0x100000 0)
  (s.partVals row part).foldl (fun (s : State) (e : Nat × BitVec 32) =>
    s.ctxWrite ctx none (c.partAt row + 4 * (e.1 - k0)) (bytesOfNat 4 e.2.toNat)) s'

/-- The row's status word in the save area: SAVED, and ACC (R172). -/
def State.rowStatus (s : State) (ctx row : Nat) (c : Ctx) (v : Nat) : State :=
  s.ctxWrite ctx none (c.area + c.off[5] + 8 * row) (bytesOfNat 8 v)

/-- An incoming context is given a partition whose values a context evicted from the row has left there: that
partition is saved, and ACC set (R39, R172). -/
def State.yieldPart (s : State) (ctx row part : Nat) : State :=
  s.ctxs.foldl (fun (s : State) (x : Nat × Ctx) =>
    match x.2.evicts.find row with
    | none => s
    | some e =>
      if x.1 = ctx ∨ e.step < 6 ∨ e.acc ∨ e.part ≠ part then s
      else
        ((s.savePart x.1 row part x.2).rowStatus x.1 row x.2 3).modCtx x.1 (fun c =>
          { c with evicts := c.evicts.set row { e with acc := true } })) s

/-- A context becomes resident on a row in a partition: PART on every core of the row, and the context's registers on
the cores. DESIGN CHOICE (log 21): the weight banks of the partition have no source then, also after RESUME, since the
save holds none (R110, R172). -/
def State.seatRow (s : State) (ctx row part : Nat) (f : CtxRegs → CtxRegs) : State :=
  match s.ctx? ctx with
  | none => s
  | some c =>
    let s := (s.yieldPart ctx row part).modCtx ctx (fun c => { c with rowPart := c.rowPart.set row part })
    (List.range 16).foldl (fun (s : State) i =>
      let core := row * 16 + i
      (s.modRegs core ctx (fun r => f { r with ctxcfg := c.cfg part, ttbase := BitVec.ofNat 64 c.ttpa
                                               grace := BitVec.ofNat 64 c.grace })).modCore core (fun x =>
        { x with named := x.named.setIfInBounds part .none, latched := x.latched.setIfInBounds part .none })) s

/-- The top of the highest run of a core's local store with room for `n` bytes, clear of frames and static areas (log
15). -/
def State.staticTop (s : State) (core n : Nat) : Option Nat :=
  if n = 0 then some Config.ldsBytes
  else
    let used := (s.hostedBy core).foldl (fun (l : List (Nat × Nat × Nat)) k =>
      insFrame ((s.lc k).sbase, ((s.launch? (lcCtx k)).map (fun (x : Launch) => x.sa)).getD 0, 0) l) (s.frames core)
    ((freeRuns used 0 Config.ldsBytes).reverse.find? (fun r => decide (n ≤ r.2))).map (fun r => r.1 + r.2)

/-! ### The steps of an eviction (R170) -/

/-- The strands of a row. -/
def rowStrands (row : Nat) : List Nat := (List.range 64).map (fun i => row * 64 + i)

/-- The logical cores of a context's launch on a row, in ascending number. -/
def State.lcsOn (s : State) (ctx row : Nat) : List Nat :=
  match s.launch? ctx with
  | none => []
  | some l => ((List.range l.remap.length).filter (fun i => rowOf (nth l.remap i 0) == row)).map (fun i => lcKey ctx i)

/-- A row holds a halted strand of the context (R170). -/
def State.haltedOn (s : State) (ctx row : Nat) : Bool :=
  (rowStrands row).any (fun k => (s.strand k).halted && (s.strand k).task.map (fun (t : Task) => t.ctx) == some ctx)

/-- Global memory may be mapped and written (R22). -/
def State.hbmReady (s : State) : Bool := bits s.boot.ready1 19 4 == 65535

/-- Step 1 (R170): dispatch stops, pending relays go back to their deques, which leaves the strands of their cores to
others (R87), and the bound of R171 is set. `acc` says that
the incoming context takes the same partition (R172). -/
def State.startEvict (s : State) (ctx row : Nat) (acc : Bool) : State :=
  let s := (s.lcsOn ctx row).foldl (fun (s : State) k =>
    match (s.lc k).relay with
    | none => s
    | some i =>
      let l := i :: (s.lc k).relays.map (fun e => e.1)
      (l.reverse.foldl (fun (s : State) i => s.mustPush k i)
        (s.modLc k (fun l => { l with relay := none, rframe := (0, 0), relays := [] }))).wakeCore (s.hostOf k)) s
  (s.modCtx ctx (fun c =>
    { c with evicts := c.evicts.set row ⟨1, s.now, acc, (c.rowPart.find row).getD 0⟩ })).post row (.evictStepEnd ctx)

/-- No task of the context runs on the row (R170 step 2). -/
def State.rowQuiet (s : State) (ctx row : Nat) : Bool :=
  (rowStrands row).all (fun k => (s.strand k).task.map (fun (t : Task) => t.ctx) != some ctx)
    && s.ops.all (fun o => !(o.ctx == ctx && rowOf o.core == row))

/-- Every effect of the row's tasks is performed, and no grant is in transit (R170 step 3). -/
def State.rowDrained (s : State) (ctx row : Nat) : Bool :=
  (rowStrands row).all (fun k => (s.strand k).send.toList.all (fun (q : List SendItem) =>
      q.all (fun i => i.msg.ctx.toNat != ctx)))
    && s.lcs.all (fun (e : Nat × LCore) => lcCtx e.1 != ctx || e.2.thief.grant.isNone)
    && s.rows.all (fun (e : Nat × Row) => e.2.spl.all (fun x => match x with
      | .deposit c _ _ _ m => c != ctx || (e.1 != row && rowOf (coreOf (markStrand m)) != row)
      | .cover c .. => c != ctx || e.1 != row))
    && (rowStrands row).all (fun k => (s.strand k).spawnTask.map (fun (r : SpawnReq) => r.ctx) != some ctx)

/-- A command that was issued from the row, or writes a baton of one of its logical cores (R173). -/
def State.cmdOn (s : State) (ctx row : Nat) (c : Cmd) : Bool :=
  c.live && c.ctx == ctx && !c.isScata &&
    (rowOf c.core == row || ((s.sinkOf c).map (fun (x : Nat × Nat) => has (s.lcsOn ctx row) x.1)).getD false)

/-- Step 4 begins (R170, R173): the routers answer RETRY, and the commands of logical cores whose ESAVE is CURSOR stop
where they are, which is a block, row or phase boundary. -/
def State.drainRow (s : State) (ctx row : Nat) : State :=
  let on := s.cmdOn ctx row
  let t := (s.lcsOn ctx row).foldl (fun (s : State) k => s.modLc k (fun l => { l with draining := true })) s
  let spills := fun (c : Cmd) => ((t.recordLc c).map t.spills).getD false
  { t with cmds := t.cmds.map (fun (c : Cmd) =>
      if on c ∧ c.st < 2 ∧ !c.cancel ∧ !spills c then { c with st := 3 } else c) }

/-- Accepted transfers have landed, and engines have stopped or spill (R170 step 4); a FETCH or a PUT, whose local
store is saved next and which has no baton, is let end where commands run on. -/
def State.rowLanded (s : State) (ctx row : Nat) : Bool :=
  s.xfers.all (fun x => !has (s.lcsOn ctx row) x.lc)
    && s.cmds.all (fun c => !(s.cmdOn ctx row c && decide (c.st < 2) && (c.cancel || (match c.instr with
        | .fetch .. | .put .. => true
        | _ => false))))

/-! ### The save (R172, R174) -/

/-- A baton entry of the save area (R172): FILLING and FULL keep their states, a DRAINING slot has none left. -/
def Baton.saveBytes (b : Baton) : List Byte :=
  let bits := (List.range 64).foldl (fun (n : Nat) i => n + (nth b.slots i noSlot).st % 4 * 4 ^ i) 0
  bytesOfNat 4 b.off ++ bytesOfNat 4 b.size ++ bytesOfNat 1 b.depth ++ bytesOfNat 1 (b2n b.core) ++ bytesOfNat 2 0
    ++ bytesOfNat 4 b.nextrel.toNat ++ bytesOfNat 16 bits ++ bytesOfNat 32 0

/-- Bytes padded to a length. -/
def padTo (n : Nat) (l : List Byte) : List Byte := (l ++ List.replicate (n - l.length) 0).take n

/-- The block of a logical core up to its static area (R172). -/
def State.saveBlock (s : State) (lck sa : Nat) : List Byte :=
  let l := s.lc lck
  let cmds := s.recordsOf lck
  padTo 0x40 (bytesOfNat 4 (s.globalLc lck) ++ bytesOfNat 1 l.hw.length ++ bytesOfNat 1 l.pool.length
      ++ bytesOfNat 1 l.batons.length ++ bytesOfNat 1 cmds.length ++ bytesOfNat 4 sa ++ bytesOfNat 4 0 ++ bytesOfNat 8 s.now)
    ++ padTo 0x2000 (l.hw.flatMap (fun i => i.tr.bytes))
    ++ padTo 0x800 (l.pool.flatMap (fun p => p.tr.bytes))
    ++ padTo 0xC0 (l.pool.flatMap (fun p => bytesOfNat 8 (p.expiry - s.now)))
    ++ padTo 0x400 (l.batons.flatMap (fun b => b.saveBytes))
    ++ padTo 0x800 (cmds.flatMap (fun c => c.saveBytes))

/-- A saved partition restored into a partition of the row (R106, R175). -/
def State.loadPart (s : State) (ctx row part : Nat) : State :=
  let k0 := accKey row part 0 0
  let b := savedKey ctx row 0
  let saved := s.acc.filter (fun (e : Nat × BitVec 32) => decide (b ≤ e.1) && decide (e.1 < b + 2 ^ 18))
  let clear := s.acc.filter (fun (e : Nat × BitVec 32) =>
    !(decide (k0 ≤ e.1) && decide (e.1 < k0 + 2 ^ 18)) && !(decide (b ≤ e.1) && decide (e.1 < b + 2 ^ 18)))
  { s with acc := saved.foldl (fun (m : Table (BitVec 32)) (e : Nat × BitVec 32) => Table.set m (k0 + (e.1 - b)) e.2) clear }

/-- A logical core is saved and leaves its core (R172, R174): its block, its static area, and the messages of its
queues in the mailbox, per VN in queue order, before entries of an earlier eviction that have not entered a queue; a
held one of those comes first. What is at the head of a queue then may be served (R87). -/
def State.saveLc (s : State) (c : Ctx) (sa lck : Nat) : State :=
  let core := s.host (lcCtx lck) (lcLocal lck)
  let s := s.ctxWrite (lcCtx lck) none (c.saveAt (lcLocal lck)) (s.saveBlock lck sa)
  let s := s.ctxWrite (lcCtx lck) none (c.saveAt (lcLocal lck) + 0x4000)
    (Mem.read s.lds (core * 2 ^ 21 + (s.lc lck).sbase) sa)
  let mine := fun (m : QMsg) => m.msg.ctx.toNat == lcCtx lck && m.msg.dest.toNat == s.globalLc lck
  let q := (s.core core).q
  let s := s.modCore core (fun x => { x with q := x.q.map (fun (q : List QMsg) => q.filter (fun m => !mine m)) })
  ((s.modLc lck (fun l =>
    { l with mailbox := l.mailbox.filter (·.held.isSome) ++ q[0].filter mine ++ q[1].filter mine
               ++ l.mailbox.filter (·.held.isNone)
             evicted := true, draining := false })).syncMailbox lck).wakeCore core

/-- Step 5 (R170, R172): the row is saved, and it is free for another context. -/
def State.saveRow (s : State) (ctx row : Nat) (e : Evict) : State :=
  match s.ctx? ctx with
  | none => s
  | some c =>
    let sa := (c.launch.map (fun (l : Launch) => l.sa)).getD 0
    let s := (s.lcsOn ctx row).foldl (fun (s : State) k => s.saveLc c sa k) s
    let s := match e.acc, c.rowPart.find row with
      | true, some p => s.savePart ctx row p c
      | _, _ => s
    let s := s.rowStatus ctx row c (1 + 2 * b2n e.acc)
    s.modCtx ctx (fun c => { c with rowPart := c.rowPart.erase row, evicts := c.evicts.set row { e with step := 6 } })

/-- The commands that waited for one before them come to the device again, in their order (R33). -/
def State.releaseBacklog (s : State) : State := { s with agenda := s.backlog ++ s.agenda, backlog := [] }

/-- EVICT is answered when every row that it named is saved (R39). -/
def State.answerEvict (s : State) (ctx : Nat) : State :=
  match s.ctx? ctx with
  | none => s
  | some c =>
    if c.evicts.any (fun (e : Nat × Evict) => decide (e.2.step < 6)) then s
    else
      match c.evReply with
      | none => s.releaseBacklog
      | some m => ((s.modCtx ctx (fun c => { c with evReply := none })).respond m 0 ctx []).releaseBacklog

/-- A step of the eviction of a context from a row reaches its end condition, and the next one begins (R170); the save
waits while global memory may not be written (R22, log 43). The unit is the row. -/
def execEvictStepEnd (ctx : Nat) (s : State) : Host.Outcome State Fault Refusal :=
  let row := s.cur
  match (s.ctx? ctx).bind (fun (c : Ctx) => c.evicts.find row) with
  | none => .next s
  | some e =>
    let go := fun (s : State) (n : Nat) =>
      (s.modCtx ctx (fun c => { c with evicts := c.evicts.set row { e with step := n } })).post row (.evictStepEnd ctx)
    let wait := s.post row (.evictStepEnd ctx)
    .next (match e.step with
      | 1 => go s 2
      | 2 => if s.rowQuiet ctx row then go s 3 else wait
      | 3 => if s.rowDrained ctx row then go (s.drainRow ctx row) 4 else wait
      | 4 => if s.rowLanded ctx row then go s 5 else wait
      | 5 => if s.hbmReady then (s.saveRow ctx row e).answerEvict ctx else wait
      | _ => s)

/-! ### Resume (R173, R175) -/

/-- The engine state of a row goes on (R173, R341): spilled blocks are replayed, stopped commands continue from their
cursor, and what they and the SCATAs that wait read at issue is read again first. -/
def State.resumeCmds (s : State) (ctx row : Nat) : State :=
  let on := s.cmds.filter (fun (c : Cmd) => s.cmdOn ctx row c && (c.st == 3 || !c.spill.isEmpty))
  let waits := fun (c : Cmd) => c.live && c.ctx == ctx && rowOf c.core == row && c.isScata && decide (c.st < 2)
  let s := { s with cmds := s.cmds.map (fun (c : Cmd) => if waits c then { c with reread := true } else c) }
  let s := if s.cmds.any waits then s.post ctx .scataApply else s
  on.foldl (fun (s : State) c =>
    let s := s.putCmd (if c.st = 3 then { c with st := 1, retryAt := 0, reread := !c.rereads.isEmpty } else c)
    match c.nextStep with
    | some i => s.post (cmdKey c) i
    | none => s) s

/-- A service task that serves a hold of a context runs: its copies (R163) are those behind the held message where it
stands. -/
def State.serving (s : State) (ctx : Nat) (m : QMsg) : Bool :=
  s.strands.any (fun (e : Nat × Strand) =>
    (e.2.task.map (fun (t : Task) => t.ctx == ctx && m.held.any (fun i => t.trigger == .svc i))).getD false)

/-- The mailbox entry that may enter its handler queue next (R175): of its VN the held one, for which no handler may
run, nor its service task, else the first; with a free entry in the queue. -/
def State.nextMail (s : State) (lck : Nat) : Option Nat :=
  let l := (s.lc lck).mailbox
  let c := s.core (s.hostOf lck)
  let ok := fun (i : Nat) =>
    match l[i]? with
    | none => false
    | some m =>
      let vn := fun (x : QMsg) => x.msg.vn == m.msg.vn
      decide (c.q[vnFin m.msg.vn].length < 32) &&
        (if m.held.isSome then c.hrun[vnFin m.msg.vn].isNone && !s.serving (lcCtx lck) m
         else (l.take i).all (fun x => !vn x) && l.all (fun x => !(vn x && x.held.isSome)))
  match (List.range l.length).find? (fun i => ok i && ((l[i]?).map (fun m => m.held.isSome)).getD false) with
  | some i => some i
  | none => (List.range l.length).find? ok

/-- A mailbox entry enters its handler queue (R175): a held one at the head, still held; the mailbox is cleared after
the last. -/
def State.enterMail (s : State) (lck i : Nat) : State :=
  match (s.lc lck).mailbox[i]? with
  | none => s
  | some m =>
    let s := (s.modLc lck (fun l => { l with mailbox := dropNth l.mailbox i })).modCore (s.hostOf lck) (fun c =>
      let q := c.q[vnFin m.msg.vn]
      { c with q := c.q.set (vnFin m.msg.vn) (if m.held.isSome then m :: q else q ++ [m]) })
    if (s.lc lck).mailbox.isEmpty then s.syncMailbox lck else s

/-- The held entries of a mailbox re-enter their queues before dispatch begins (R175). -/
def State.heldMail (s : State) (lck : Nat) : State :=
  (List.range 2).foldl (fun (s : State) _ =>
    match s.nextMail lck with
    | none => s
    | some i => if (((s.lc lck).mailbox[i]?).map (fun m => m.held.isSome)).getD false then s.enterMail lck i else s) s

/-- A logical core returns to its core (R49, R175): its static area, its pool with the remaining times, and what is
held in its mailbox; then the mailbox drains, and a core that its launch has not woken is woken. -/
def State.loadLc (s : State) (c : Ctx) (sa lck : Nat) : State :=
  let core := s.host (lcCtx lck) (lcLocal lck)
  let at_ := c.saveAt (lcLocal lck)
  let top := (s.staticTop core sa).getD Config.ldsBytes
  let img := (s.ctxRead (lcCtx lck) (at_ + 0x4000) sa).getD []
  let rem := (s.ctxRead (lcCtx lck) (at_ + 0x2840) 128).getD []
  let s := { s with lds := Mem.write s.lds (core * 2 ^ 21 + top - sa) img }
  let s := s.modLc lck (fun l =>
    { l with sbase := top - sa, evicted := false, draining := false
             pool := (List.range l.pool.length).filterMap (fun i =>
               (l.pool[i]?).map (fun (p : PoolItem) => { p with expiry := s.now + leAt rem (8 * i) 8, stall := 0 })) })
  let s := s.heldMail lck
  let s := if (s.lc lck).mailbox.isEmpty then s else s.post lck .mailboxDrain
  let s := if (s.lc lck).awake then s else s.post core (.wakeMessage (lcCtx lck))
  (s.poolPosts lck).wakeCore core

/-- What a row's restore reads of the save area lies in a line with an uncorrectable error (R135, R172). -/
def State.saveHit (s : State) (ctx row : Nat) (c : Ctx) (sa : Nat) (e : Evict) : Bool :=
  (s.lcsOn ctx row).any (fun k => s.dieHit 0 ctx (c.saveAt (lcLocal k)) (0x4000 + sa))
    || e.acc && s.dieHit 0 ctx (c.partAt row) 0x100000

/-- A row of a context is restored into a partition (R175), and dispatch begins; an uncorrectable error in what it reads
ends the launch (R135). DESIGN CHOICE (log 49): ACC is cleared with SAVED. -/
def State.loadRow (s : State) (ctx row part : Nat) (e : Evict) : State :=
  match s.ctx? ctx with
  | none => s
  | some c =>
    let sa := (c.launch.map (fun (l : Launch) => l.sa)).getD 0
    let s := s.seatRow ctx row part (fun r => r)
    let s := if e.acc then s.loadPart ctx row part
      else if e.part ≠ part then (s.stashPart ctx row e.part).loadPart ctx row part
      else s
    let s := s.modCtx ctx (fun c => { c with evicts := c.evicts.erase row })
    let s := s.rowStatus ctx row c 0
    if s.saveHit ctx row c sa e then s.endLaunch ctx 1
    else ((s.lcsOn ctx row).foldl (fun (s : State) k => s.loadLc c sa k) s).resumeCmds ctx row

/-- The local store of a row's cores has room for the static areas that return. -/
def State.loadRoom (s : State) (ctx row : Nat) : Bool :=
  let sa := ((s.launch? ctx).map (fun (l : Launch) => l.sa)).getD 0
  (s.lcsOn ctx row).all (fun k =>
    let core := s.host ctx (lcLocal k)
    let n := (s.lcsOn ctx row).countP (fun j => s.host ctx (lcLocal j) == core)
    (s.staticTop core (n * sa)).isSome)

/-- The mailbox drains while tasks run (R175). The unit is the logical core. -/
def execMailboxDrain (s : State) : Host.Outcome State Fault Refusal :=
  let k := s.cur
  if (s.lc k).evicted ∨ (s.lc k).mailbox.isEmpty then .next s
  else
    let s := match s.nextMail k with
      | none => s
      | some i => (s.enterMail k i).wakeCore (s.hostOf k)
    .next (if (s.lc k).mailbox.isEmpty then s else s.post k .mailboxDrain)

/-! ### Making room (R106, R170) -/

/-- The contexts that firmware may evict from a row: resident, without a halted strand there, not the incoming one. -/
def State.victims (s : State) (ctx row : Nat) : List Nat :=
  (s.ctxs.filter (fun (e : Nat × Ctx) =>
    e.1 != ctx && (e.2.rowPart.find row).isSome && !s.haltedOn e.1 row)).map (fun e => e.1)

/-- A row has no free partition: one resident context is evicted from it, unless one is on its way out (R106). -/
def State.makeRoom (s : State) (ctx row : Nat) : State :=
  if s.ctxs.any (fun (e : Nat × Ctx) => ((e.2.evicts.find row).map (fun (x : Evict) => decide (x.step < 6))).getD false) then s
  else
    let l := s.victims ctx row
    if l.isEmpty then s
    else
      let (n, s) := s.fresh
      s.startEvict (nth l (Config.victim n % l.length) 0) row true

/-! ### Firmware and SUP holds (R164) -/

/-- The key of a held trigger. -/
def State.heldKey (s : State) (x : Hold) : Word :=
  let l := s.lc x.lc
  match (l.hw ++ l.ext).find? (fun (i : DqItem) => i.held == some x.ix) with
  | some i => boxKey i.tr.box
  | none => ((s.heldMsgs x).head?.map (fun (m : Msg) => m.key)).getD 0

/-- A hold that waits for a translation is ended when its address is mapped (R36, R164). -/
def State.xlateMapped (s : State) (ctx : Nat) (x : Hold) : State :=
  if (s.ctxWalk ctx (x.va.toNat % 2 ^ 48)).isSome then s.finishHold ctx (s.holdHandle x) 0 false else s

/-- Management firmware acts on a SUP hold (R164); the hold of an attempt whose accesses were not over when it was to
be resumed is resumed (R148). The unit is the context. -/
def execSupHoldService (i : Nat) (s : State) : Host.Outcome State Fault Refusal :=
  let ctx := s.cur
  match s.ctx? ctx with
  | none => .next s
  | some c =>
    match c.holds.find? (fun (h : Hold) => h.ix == i) with
    | none => .next s
    | some x =>
      if x.ending.isSome then .next (s.finishHold ctx (s.holdHandle x) (x.ending.getD 0) false)
      else if x.code = tXLATE then
        let s := if x.raised then s
          else (s.modCtx ctx (fun c =>
              { c with holds := c.holds.map (fun (h : Hold) => if h.ix = i then { h with raised := true } else h) })).event 4 ctx
            (bytesOfNat 8 x.va.toNat ++ bytesOfNat 8 (s.heldKey x).toNat)
        .next (s.xlateMapped ctx x)
      else if x.code = tPRIV ∨ x.code = tDLESC then
        let s := s.modStrand x.strand (fun t => { t with dlcount := 0 })
        let (r, v) := s.routeOf ctx x.code
        if r = 0 ∧ v ≠ 0 ∧ (s.lc x.lc).svc.length < 8 then
          .next ((s.applyRoute ctx x.lc i 0 v (s.heldKey x)).wakeCore (coreOf x.strand))
        else .next (s.endLaunch ctx 1)
      else if c.debugger then .next s
      else .next (s.endLaunch ctx 1)

end Sys2Proof.Machine
end

