-- ==== Sys2Proof/Machine/Launch.lean ====
section
/-! DEFINITION. The launch record and its checks (R45, R50, R53, R63, R125, R237), the start of a launch (R49, R106), its
wake messages, and its end (R46). -/
namespace Sys2Proof.Machine

/-! ### Reading a record (R45, R63, R231, R237) -/

/-- MGMT: the management cores run verified firmware (R21, R24). -/
def State.mgmtReady (s : State) : Bool := s.boot.ready1.getLsbD 42
/-- A check: nothing when it fails. -/
def need (b : Bool) : Option Unit := if b then some () else none

/-- A term of a footprint descriptor (R63). -/
def parseTerm (l : List Byte) (o : Nat) : Option (Nat × List Nat) := do
  let axes := [leAt l (o + 4) 1, leAt l (o + 5) 1, leAt l (o + 6) 1]
  need (axes.all (fun a => decide (a < 6) || a == 0xFF))
  need (leAt l (o + 7) 1 == 0)
  return (leAt l o 4, axes.filter (fun a => decide (a < 6)))

/-- A footprint descriptor: three classes of four terms (R63). -/
def parseFoot (l : List Byte) : Option (List (List (Nat × List Nat))) :=
  (List.range 3).mapM (fun k => (List.range 4).mapM (fun i => parseTerm l (32 * k + 8 * i)))

/-- A relay entry (R231): its leg PCs. -/
def parseRelay (l : List Byte) : Option (List (BitVec 32)) := do
  let n := leAt l 0 1
  need (decide (1 ≤ n) && decide (n ≤ 3))
  return (List.range n).map (fun i => BitVec.ofNat 32 (leAt l (4 + 4 * i) 4))

/-- A baton entry (R130, R231): offset, size, depth, CORE, relay. -/
def parseBaton (l : List Byte) : Option (Nat × Nat × Nat × Bool × Nat) := do
  let size := leAt l 4 4
  let depth := leAt l 8 1
  let kind := leAt l 9 1
  need (decide (2 ≤ depth) && decide (depth ≤ 64) && decide (64 ≤ size) && decide (size ≤ 65536) && size % 64 == 0
    && decide (kind ≤ 1))
  return (leAt l 0 4, size, depth, kind == 1, leAt l 10 1)

/-- An array of `n` entries of `z` bytes in a context's memory. -/
def State.array (s : State) (ctx va n z : Nat) : Option (List (List Byte)) :=
  (List.range n).mapM (fun i => s.ctxRead ctx (va + z * i) z)

/-- The box descriptor (R52, R53): classes and key ranks. -/
def boxDescOk (l : List Byte) : Bool :=
  let cls := fun (a : Nat) => leAt l a 1 % 4
  let rank := fun (a : Nat) => leAt l a 1 / 4 % 8
  let red := (List.range 6).filter (fun a => cls a == 2)
  (List.range 6).all (fun a => cls a != 3 && decide (leAt l a 1 < 32) && (cls a == 2 || rank a == 0))
    && (List.range red.length).all (fun r => red.countP (fun a => rank a == r) == 1)

/-- The descriptor block (R237). -/
def State.parseDesc (s : State) (ctx va : Nat) : Option (Desc × Nat × Nat) := do
  let h ← s.ctxRead ctx va 64
  need (boxDescOk h)
  let canon := leAt h 8 4
  need (decide (canon % 16 < 4) && decide (canon / 128 = 0))
  let rm ← Rm.ofCode (BitVec.ofNat 3 (canon / 16))
  need (rm != .dyn)
  let at_ := fun (i : Nat) => va + leAt h (0x14 + 4 * i) 4
  let foots ← (← s.array ctx (at_ 0) (leAt h 0xC 2) 96).mapM parseFoot
  let relays ← (← s.array ctx (at_ 1) (leAt h 0xE 1) 16).mapM parseRelay
  need (decide (leAt h 0x10 2 ≤ 16))
  let batons ← (← s.array ctx (at_ 2) (leAt h 0x10 2) 16).mapM parseBaton
  let keeps := (← s.array ctx (at_ 3) (leAt h 0xF 1) 16).map (fun l => (leAt l 0 4, leAt l 4 4, leAt l 8 8))
  return ({ box := BitVec.ofNat 64 (leAt h 0 8), acc := Fmt.ofCode (BitVec.ofNat 4 canon), accRm := rm, foots := foots
            relays := relays, batons := batons, keeps := keeps }, at_ 4, leAt h 0x12 2)

/-- A range that a record names is mapped: its first byte, whatever its length, and a byte of each 64 KiB page that it
reaches (R45; what an empty range names is a DESIGN CHOICE, log 46). -/
def State.mapped (s : State) (ctx va len : Nat) : Bool :=
  (s.ctxWalk ctx va).isSome && (List.range (len / 65536 + 1)).all (fun i =>
    let p := (va / 65536 + i + 1) * 65536
    decide (va + len ≤ p) || (s.ctxWalk ctx p).isSome)

/-- A tensor-table entry with its descriptor (R45, R231). DESIGN CHOICE (log 51): the access class is the entry's; the
class byte of the descriptor is not read. -/
def State.parseTensor (s : State) (ctx tdesc nten : Nat) (l : List Byte) : Option Tensor := do
  let base := leAt l 0 8
  let len := leAt l 8 8
  let di := leAt l 0x10 2
  let cls := leAt l 0x12 1
  need (decide (di < nten) && decide (cls < 3) && leAt l 0x13 13 == 0)
  let d ← s.ctxRead ctx (tdesc + 96 * di) 96
  let rank := leAt d 2 1
  need (decide (1 ≤ rank) && decide (rank ≤ 6))
  need (s.mapped ctx base len)
  return { base := base, len := len, cls := cls, elem := Fmt.ofCode (BitVec.ofNat 4 (leAt d 1 1))
           dims := (List.range rank).map (fun i => (leAt d (4 + i) 1, leAt d (0x10 + 4 * i) 4, leAt d (0x28 + 8 * i) 8)) }

/-- No two tensors share a byte (R45, R69). -/
def disjoint : List Tensor → Bool
  | [] => true
  | t :: r => r.all (fun u => t.len == 0 || u.len == 0 || decide (t.base + t.len ≤ u.base) || decide (u.base + u.len ≤ t.base))
      && disjoint r

/-- The root box: the record's bounds, the descriptor's classes and ranks, depth 0, the root key (R53, R56). -/
def rootBox (bounds desc : List Byte) : BoxImg :=
  boxOfBytes (bounds ++ desc.take 6 ++ [0, 0] ++ bytesOfNat 8 (2 ^ 63))

/-- The bounds of the root box (R45, R53). -/
def rootOk (b : BoxImg) : Bool :=
  (List.range 6).all (fun a => decide (boxLo b a ≤ boxHi b a) && boxLo b a == 0 && (boxClass b a != 0 || boxHi b a == 0))
    && decide (boxPoints b < 2 ^ 64)

/-- A row may host logical cores (R22). -/
def State.rowReady (s : State) (core : Nat) : Bool := s.boot.ready0.getLsbD (rowOf core)

/-- The remap table of the record, or the one that firmware builds (R50). -/
def State.parseRemap (s : State) (ctx va n : Nat) : Option (List Nat) := do
  if va = 0 then
    let p := (List.range 1024).filter (fun c => s.rowReady c)
    need (!p.isEmpty)
    return (List.range n).map (fun i => nth p (i % p.length) 0)
  else
    let l ← s.ctxRead ctx va (16 + 4 * n)
    need (leAt l 0 4 == n && leAt l 4 12 == 0)
    let ids := (List.range n).map (fun i => (leAt l (16 + 4 * i) 2, leAt l (18 + 4 * i) 2))
    need (ids.all (fun (e : Nat × Nat) => decide (e.1 < 1024) && e.2 == 0 && s.rowReady e.1))
    return ids.map (fun e => e.1)

/-- SA of a launch (R125). -/
def Desc.sa (d : Desc) : Nat :=
  let k := d.keeps.foldl (fun (m : Nat) (e : Nat × Nat × Nat) => Nat.max m (e.1 + e.2.1)) 0
  let b := d.batons.foldl (fun (m : Nat) (e : Nat × Nat × Nat × Bool × Nat) =>
    if e.2.2.2.1 then Nat.max m (e.1 + e.2.1 * e.2.2.1) else m) k
  roundUp b 4096

/-- How many logical cores a physical core hosts. -/
def hostCount (remap : List Nat) (core : Nat) : Nat := remap.countP (fun c => c == core)

/-- The value of a field where 0 selects a default (R45). -/
def orDefault (v d : Nat) : Word := BitVec.ofNat 64 (if v = 0 then d else v)

/-- A launch record checked and read (R45, R50, R53, R63, R125): none of an invalid one. -/
def State.parseLaunch (s : State) (ctx : Nat) (b : List Byte) (conn : Nat) : Option Launch := do
  let u := fun (o n : Nat) => leAt b o n
  need (u 0 2 == ctx && decide (u 2 1 < 2) && decide (1 ≤ u 3 1) && decide (u 3 1 ≤ 16) && decide (u 4 4 < 2))
  need (u 0x10 8 % 65536 == 0 && u 0x18 4 % 8 == 0 && decide (1 ≤ u 0x1C 4) && decide (u 0x1C 4 ≤ 1048576))
  need (u 0x7C 4 == 0 && u 0x88 8 % 64 == 0 && u 0x9C 100 == 0)
  let nchip := u 0x98 2
  let chipno := u 0x9A 2
  let nl := u 0x1C 4
  need (decide (1 ≤ nchip) && decide (nchip ≤ 1024) && decide (chipno < nchip) && decide (nl ≤ 1024 * nchip)
    && decide (chipno * 1024 < nl))
  need ((s.ctxWalk ctx (u 0x10 8)).isSome)
  let (desc, tdesc, nten) ← s.parseDesc ctx (u 0x50 8)
  need (desc.keeps.all (fun (e : Nat × Nat × Nat) => e.2.2 == 0 || s.mapped ctx e.2.2 e.2.1))
  let root := rootBox ((b.drop 0x20).take 48) (bytesOfNat 8 desc.box.toNat)
  need (rootOk root)
  let tensors ← (← s.array ctx (u 0x58 8) (u 3 1) 32).mapM (fun l => s.parseTensor ctx tdesc nten l)
  need (decide (tensors.countP (fun t => t.cls != 0) ≤ 4) && (u 2 1 == 1 || disjoint tensors))
  let n := Nat.min 1024 (nl - chipno * 1024)
  let remap ← s.parseRemap ctx (u 0x60 8) n
  let sa := desc.sa
  need (remap.all (fun c => decide (hostCount remap c * sa ≤ 0x100000)))
  return { arrival := u 2 1 == 1, csend := u 4 4 == 1, ltag := BitVec.ofNat 64 (u 8 8), codeva := u 0x10 8
           entrypc := BitVec.ofNat 32 (u 0x18 4), nlcore := nl, root := root, tensors := tensors, desc := desc
           dlmax := orDefault (u 0x68 4) (2 ^ 32 - 1), dlesc := orDefault (u 0x6C 4) 64
           budget := orDefault (u 0x70 4) (2 ^ 24)
           capls := BitVec.ofNat 64 (if u 0x74 4 = 0 ∨ 0x180000 < u 0x74 4 then 0x180000 else u 0x74 4)
           capslot := BitVec.ofNat 64 (if u 0x78 2 = 0 ∨ 32 < u 0x78 2 then 32 else u 0x78 2)
           captree := orDefault (u 0x7A 2) 32, rseed := BitVec.ofNat 64 (u 0x80 8), cplva := BitVec.ofNat 64 (u 0x88 8)
           cplrkey := BitVec.ofNat 32 (u 0x90 4), imm := BitVec.ofNat 32 (u 0x94 4), nchip := nchip, chipno := chipno
           remap := remap, sa := sa, d := clog2 nl, conn := conn, start := s.now, tasks := 0, traps := 0, lastTrap := 0
           flags := 0, heap := [], seqs := [], xseqs := [], scata := [], wake := [] }

/-! ### The start of a launch (R43, R44, R49) -/

/-- The completion of a record that never became active (R46); the send goes to the connection that rang the doorbell
while that is up. -/
def State.notRun (s : State) (c : Ctx) (b : List Byte) (conn status : Nat) : State :=
  let rec_ := cplBytes (BitVec.ofNat 64 (leAt b 8 8)) 0 status 0 s.now s.now 0 0 0 c.trapHead
  { s with outbox := s.outbox ++ [HostMsg.write (BitVec.ofNat 64 (leAt b 0x88 8)) (BitVec.ofNat 32 (leAt b 0x90 4)) rec_]
      ++ (if leAt b 4 4 % 2 = 1 ∧ s.connLive conn then [HostMsg.sendImm conn (BitVec.ofNat 32 (leAt b 0x94 4))] else []) }

/-- The record at HEAD of the launch queue is taken (R43): its bytes and its connection. -/
def State.takeQueue (s : State) (ctx : Nat) : State :=
  s.modCtx ctx (fun c => { c with head := (c.head + 1) % 2 ^ 32, ringConn := c.ringConn.drop 1 })
def State.queueHead (s : State) (ctx : Nat) (c : Ctx) : List Byte :=
  (s.ctxRead ctx (c.area + c.off[0] + 256 * (c.head % 64)) 256).getD []

/-- The publish tags of a range of words of a context's memory are cleared, by granules of 8 KiB, in which addresses
and copies run on (R49 step 1, R140). No write of an earlier launch is still on its way to set one: all are performed
when their launch ends (R46). -/
def State.clearPub (s : State) (ctx lo hi : Nat) : State :=
  if hi ≤ lo then s
  else
    (List.range ((hi - 1) / 8192 + 1 - lo / 8192)).foldl (fun (s : State) i =>
      let g := (lo / 8192 + i) * 8192
      let a := Nat.max lo g
      let z := Nat.min hi (g + 8192)
      match s.ctxWalk ctx a with
      | none => s
      | some x =>
        (List.range 4).foldl (fun (s : State) d =>
          let p := x.pa d
          { s with dies := s.dies.map (fun v =>
              { v with view := { v.view with
                  tags := v.view.tags.filter (fun e => !(decide (p < e.1 + 8) && decide (e.1 < p + (z - a)))) } }) }) s) s

/-- The static and dynamic records are FREE (R49 step 2, R65, R367). -/
def State.clearArena (s : State) (ctx base n : Nat) : State :=
  (List.range n).foldl (fun (s : State) i =>
    if (s.ctxRead ctx (base + 64 * i) 16).getD [] = List.replicate 16 0 then s
    else s.ctxWrite ctx none (base + 64 * i) (List.replicate 16 0)) s

/-- The rows that a remap table uses, ascending. -/
def rowsOf (remap : List Nat) : List Nat := (List.range 64).filter (fun r => remap.any (fun c => rowOf c == r))

/-- Every row of the launch has a partition for the context, or one is free, and every core room for its static areas. -/
def State.startRoom (s : State) (c : Ctx) (l : Launch) : Bool :=
  (rowsOf l.remap).all (fun r => (c.rowPart.find r).isSome || (s.freePart r).isSome)
    && l.remap.all (fun p => (s.staticTop p (hostCount l.remap p * l.sa)).isSome)

/-- A logical core at the start of its launch (R49, R83, R125, R128, R130): its static area in place, filled from the
images of its keep regions, its batons with every slot FREE, and its extension empty. -/
def State.newLc (s : State) (ctx : Nat) (l : Launch) (i : Nat) : State :=
  let core := nth l.remap i 0
  let before := (l.remap.take i).countP (fun c => c == core)
  let left := hostCount l.remap core - before
  let base := (s.staticTop core (left * l.sa)).getD Config.ldsBytes - l.sa
  let p := core * 2 ^ 21 + base
  let lds := Mem.write s.lds p (List.replicate l.sa 0)
  let lds := l.desc.keeps.foldl (fun m (e : Nat × Nat × Nat) =>
    if e.2.2 = 0 then m else Mem.write m (p + e.1) ((s.ctxRead ctx e.2.2 e.2.1).getD [])) lds
  let b := l.desc.batons.map (fun (e : Nat × Nat × Nat × Bool × Nat) =>
    (⟨e.1, e.2.1, e.2.2.1, e.2.2.2.1, 0, List.replicate e.2.2.1 noSlot⟩ : Baton))
  { s with lds := lds, lcs := s.lcs.set (lcKey ctx i) { idleLc with batons := b, sbase := base } }.syncExt (lcKey ctx i)

/-- The table that firmware builds lies in the context area (R50). DESIGN CHOICE (log 51): at this offset, behind the
trap vector table. -/
def remapOff : Nat := 0x8000
def remapBytes (remap : List Nat) : List Byte :=
  bytesOfNat 4 remap.length ++ List.replicate 12 0 ++ remap.flatMap (fun c => bytesOfNat 2 c ++ bytesOfNat 2 0)

/-- The 64 bytes of a wake message (R49): the launch number, the address of the launch record and that of the remap
table. -/
def wakeBytes (ctx number recva : Nat) (table : Word) : List Byte :=
  padTo 64 ([1, BitVec.ofNat 8 ctx, 0, 0] ++ bytesOfNat 4 number ++ bytesOfNat 8 recva ++ bytesOfNat 8 table.toNat)

/-- A valid record becomes active (R49): tags and arena cleared, the launch number, DTIME at start, the context resident
on its rows, and one wake message for each row; a keep image with an uncorrectable error ends it KILLED (R135). -/
def State.activate (s : State) (ctx : Nat) (c : Ctx) (l : Launch) (remapVa : Nat) : State :=
  let s := l.tensors.foldl (fun (s : State) (t : Tensor) => if t.cls = 2 then s.clearPub ctx t.base (t.base + t.len) else s) s
  let s := s.clearArena ctx c.arena (2 ^ l.d + 256 * l.remap.length)
  let s := if remapVa = 0 then s.ctxWrite ctx none (c.area + remapOff) (remapBytes l.remap) else s
  let table : Word := BitVec.ofNat 64 (if remapVa = 0 then c.area + remapOff else remapVa)
  let s := (rowsOf l.remap).foldl (fun (s : State) r =>
    let part := (c.rowPart.find r).getD ((s.freePart r).getD 0)
    s.seatRow ctx r part (fun x =>
      { x with capls := l.capls, capslot := l.capslot, captree := l.captree, remapbase := table })) s
  let s := { s with
    cmds := s.cmds.filter (fun (x : Cmd) => x.ctx != ctx)
    strands := Table.mapv s.strands (fun (t : Strand) => { t with ntasks := t.ntasks.erase ctx })
    cores := Table.mapv s.cores (fun (x : Core) =>
      { x with icache := x.icache.filter (fun (e : Nat × Nat × List Byte) => e.1 != ctx) }) }
  let wake := wakeBytes ctx (c.number + 1) (c.area + c.off[0] + 256 * (c.head % 64)) table
  let s := s.modCtx ctx (fun c => { c with launch := some { l with wake := wake }, number := c.number + 1, evicts := [] })
  if (List.range 6).any (fun a => boxClass l.root a != 0 && boxExt l.root a == 0) then s.endLaunch ctx 0
  else
    let s := (List.range l.remap.length).foldl (fun (s : State) i => s.newLc ctx l i) s
    if l.desc.keeps.any (fun e => e.2.2 != 0 && s.dieHit 0 ctx e.2.2 e.2.1) then s.endLaunch ctx 1
    else (s.posts ((rowsOf l.remap).map (fun r => (16 * r, Instr.wakeMessage ctx)))).post ctx .launchEnd

/-- The device takes the next record of a context's queue when its turn has come (R43, R44). While global memory may
not be written a record fails its check and completes BADREC (R22, R43; log 43). The unit is the context. -/
def execLaunchStart (s : State) : Host.Outcome State Fault Refusal :=
  let ctx := s.cur
  let s := s.answerEvict ctx
  match s.ctx? ctx with
  | none => .next s
  | some c =>
    if c.launch.isSome ∨ c.head = c.tail then .next s
    else if c.evicts.any (fun (e : Nat × Evict) => decide (e.2.step < 6)) then .next (s.post ctx .launchStart)
    else
      let b := s.queueHead ctx c
      let conn := c.ringConn.head?.getD 0
      match (if s.hbmReady then s.parseLaunch ctx b conn else none) with
      | none => .next (((s.takeQueue ctx).notRun c b conn 3).post ctx .launchStart)
      | some l =>
        if s.startRoom c l then .next ((s.takeQueue ctx).activate ctx c l (leAt b 0x60 8))
        else
          let s := (rowsOf l.remap).foldl (fun (s : State) r =>
            if (c.rowPart.find r).isSome ∨ (s.freePart r).isSome then s else s.makeRoom ctx r) s
          .next (s.post ctx .launchStart)

/-- The wake message of a context's launch reaches a core (R49, R57, R368): it goes on to the next column, and
self-descent begins for each logical core hosted here that it has not reached yet. With one logical core the root
stands at depth d = 0, where R57 ends self-descent, and its record is pushed without SD (DESIGN CHOICE, log 44). A unit
header with an uncorrectable error ends the launch (R135). The unit is the core. -/
def execWakeMessage (ctx : Nat) (s : State) : Host.Outcome State Fault Refusal :=
  let core := s.cur
  let s := if colOf core < 15 then s.post (core + 1) (.wakeMessage ctx) else s
  match s.launch? ctx with
  | some l =>
    let zero : Vector Word 4 := Vector.replicate 4 0
    let number := BitVec.ofNat 32 (leAt l.wake 4 4)
    let mine := (s.hostedBy core).filter (fun k => lcCtx k == ctx && !(s.lc k).awake)
    if !mine.isEmpty ∧ s.hdrHit ctx l.entrypc then .next (s.endLaunch ctx 1) else
    .next ((mine.foldl (fun (s : State) k =>
      let r := s.mkRec ctx l.root l.entrypc .rule (decide (0 < l.d)) 0 number zero false
      (s.modLc k (fun x => { x with awake := true })).mustPush k ⟨r, none⟩) s).wakeCore core)
  | none => .next s

/-! ### The end of a launch (R46) -/

/-- No row that hosts a logical core of the launch is evicted or under eviction: a completion record waits for RESUME
(R39). -/
def State.allBack (s : State) (ctx : Nat) : Bool :=
  ((s.ctx? ctx).map (fun (c : Ctx) => c.evicts.all (fun e => (s.lcsOn ctx e.1).isEmpty))).getD true

/-- Nothing of a launch is left on this chip, and every write is performed on every die. -/
def State.launchDone (s : State) (ctx : Nat) (l : Launch) : Bool :=
  (List.range l.remap.length).all (fun i => (s.lc (lcKey ctx i)).awake)
    && s.noTasks ctx && s.ops.all (fun o => o.ctx != ctx) && s.cmds.all (fun c => !(c.open_ && c.ctx == ctx))
    && s.xfers.all (fun x => lcCtx x.lc != ctx) && l.heap.isEmpty && l.scata.isEmpty && s.allBack ctx
    && s.dies.toList.all (fun (d : Die) => d.view.pend.isEmpty)

/-- After the last task of a launch, when its effects have drained, the launch ends DONE (R46). The unit is the
context. -/
def execLaunchEnd (s : State) : Host.Outcome State Fault Refusal :=
  let ctx := s.cur
  match s.launch? ctx with
  | none => .next s
  | some l =>
    if s.launchDone ctx l then .next (s.endLaunch ctx 0)
    else if s.agenda.any (fun (e : Nat × Instr) => e.1 == ctx && e.2 == .launchEnd) then .next s
    else
      let s := if !l.arrival ∧ !l.scata.isEmpty ∧ s.noTasks ctx then s.post ctx .scataApply else s
      .next (s.releaseBacklog.post ctx .launchEnd)

end Sys2Proof.Machine
end

