-- ==== Sys2Proof/Machine/Sha3.lean ====
section
/-! DEFINITION. SHA3-512 (FIPS 202), the digest of R24, R25 and R38: a permutation of 25 lanes of 64 bits, lane x + 5y at
column x of plane y, whose constants come from the standard's own generators. -/
namespace Sys2Proof.Machine

/-- A lane of the state. -/
def lane (a : List Word) (i : Nat) : Word := nth a i 0

/-- The parity of a column. -/
def column (a : List Word) (x : Nat) : Word := (List.range 5).foldl (fun w y => w ^^^ lane a (x + 5 * y)) 0

/-- theta: each lane takes in the column on its left and the one on its right, that turned by one bit. -/
def mixColumns (a : List Word) : List Word :=
  let p := (List.range 5).map (column a)
  let e := (List.range 5).map (fun x => lane p ((x + 4) % 5) ^^^ (lane p ((x + 1) % 5)).rotateLeft 1)
  (List.range 25).map (fun i => lane a i ^^^ lane e (i % 5))

/-- rho and pi in one walk: from column 1 of plane 0 on, the lane at (x, y) goes to (y, 2x + 3y), turned by the next
triangular number of bits; lane 0 stays. -/
def carryLanes (a : List Word) : List Word :=
  ((List.range 24).foldl (fun (st : List Word × Nat × Nat) k =>
    let (b, x, y) := st
    let z := (2 * x + 3 * y) % 5
    (setNth b (y + 5 * z) ((lane a (x + 5 * y)).rotateLeft ((k + 1) * (k + 2) / 2 % 64)), y, z)) (a, 1, 0)).1

/-- chi on one plane. -/
def bendPlane (p : List Word) : List Word :=
  (List.range 5).map (fun x => lane p x ^^^ (lane p ((x + 2) % 5) &&& ~~~(lane p ((x + 1) % 5))))

/-- chi: plane by plane. -/
def bendPlanes (a : List Word) : List Word := (List.range 5).flatMap (fun y => bendPlane ((a.drop (5 * y)).take 5))

/-- The bit generator of iota: a shift register over x^8 + x^6 + x^5 + x^4 + 1. -/
def iotaNext (r : Nat) : Nat := if r < 128 then 2 * r else (2 * r) ^^^ 0x171

/-- The constant of a round, and the register for the next: seven bits, bit `j` at place 2^j − 1. -/
def iotaTake (r : Nat) : Nat × Nat :=
  (List.range 7).foldl (fun (st : Nat × Nat) j => (st.1 + st.2 % 2 * 2 ^ (2 ^ j - 1), iotaNext st.2)) (0, r)

/-- Rounds of the permutation. -/
def permute : Nat → Nat → List Word → List Word
  | 0, _, a => a
  | n + 1, r, a =>
    let (k, r) := iotaTake r
    let b := bendPlanes (carryLanes (mixColumns a))
    permute n r (setNth b 0 (lane b 0 ^^^ BitVec.ofNat 64 k))

/-- The rate of SHA3-512 in bytes. -/
def sha3Rate : Nat := 72

/-- The message in whole blocks: the suffix 01, then 1, zeros, 1. -/
def sha3Pad (l : List Byte) : List Byte :=
  let z := sha3Rate - l.length % sha3Rate
  if z = 1 then l ++ [0x86] else l ++ 0x06 :: (List.replicate (z - 2) 0 ++ [0x80])

/-- Blocks taken in one after the other: a block meets the first nine lanes, and 24 rounds follow. -/
def sponge : Nat → List Byte → List Word → List Word
  | 0, _, a => a
  | n + 1, l, a =>
    let met := (List.range 9).map (fun i => lane a i ^^^ BitVec.ofNat 64 (leAt l (8 * i) 8))
    sponge n (l.drop sha3Rate) (permute 24 1 (met ++ a.drop 9))

/-- SHA3-512. -/
def sha3 (l : List Byte) : List Byte :=
  let out := sponge (l.length / sha3Rate + 1) (sha3Pad l) (List.replicate 25 0)
  (out.take 8).flatMap (fun w => bytesOfNat 8 w.toNat)

end Sys2Proof.Machine
end

