-- ==== Sys2Proof/Machine/Host.lean ====
section
/-! DEFINITION. The host interface (R29 to R47, R158, R367): connections, VCP commands, the translation tables that
firmware keeps, the doorbell, and RDMA. A step's unit is the connection that carries it. -/
namespace Sys2Proof.Machine

/-! ### Physical memory and tables (R36, R136, R140) -/

/-- The least address at or above `lo` that is `r` modulo `al`. -/
def alignAt (lo al r : Nat) : Nat := lo + (r + al - lo % al) % al

/-- First fit of `n` bytes in [at, top) between allocations in ascending base. -/
def firstFit (n al r top : Nat) : List (Nat × Nat) → Nat → Option Nat
  | [], lo => if alignAt lo al r + n ≤ top then some (alignAt lo al r) else none
  | (b, m) :: t, lo => if alignAt lo al r + n ≤ b then some (alignAt lo al r) else firstFit n al r top t (Nat.max lo (b + m))

/-- A range of physical memory reads as zero with clear publish tags, and no write is on its way to it (R36, R40). -/
def State.zeroRange (s : State) (pa n : Nat) : State :=
  let inside := fun (a : Nat) => decide (pa ≤ a) && decide (a < pa + n)
  { s with
    hostSeen := s.hostSeen.filter (fun (e : Nat × Nat) => !inside e.1)
    dies := s.dies.map (fun d =>
      { d with view := { d.view with
          cells := d.view.cells.filter (fun (e : Host.Cell) => !inside e.1)
          stamps := d.view.stamps.filter (fun (e : Nat × Nat) => !inside e.1)
          tags := d.view.tags.filter (fun (e : Nat × Unit) => !inside e.1)
          pend := d.view.pend.map (fun (w : PWrite) => if inside w.pa then { w with bytes := [], tag := none } else w) } }) }

/-- Physical memory allocated, reading as zero; none when there is no room. DESIGN CHOICE (log 50): one run of
contiguous memory, so that MAP answers NORES when what is free lies in pieces (R36). -/
def State.palloc (s : State) (n al r : Nat) : Option (Nat × State) :=
  (firstFit n al r Config.hbmBytes s.pmem 0).map (fun b =>
    (b, ({ s with pmem := heapInsert b n s.pmem }).zeroRange b n))

/-- Physical memory freed; a page of 64 KiB with an uncorrectable error is not given out again (R135). -/
def State.pfree (s : State) (b : Nat) : State :=
  let rest := s.pmem.filter (fun (e : Nat × Nat) => e.1 != b)
  let n := ((s.pmem.find? (fun (e : Nat × Nat) => e.1 == b)).map (fun e => e.2)).getD 0
  let bad := (s.ecc.filter (fun a => decide (b ≤ a) && decide (a < b + n))).map (fun a => a / 65536 * 65536)
  { s with pmem := bad.foldl (fun (l : List (Nat × Nat)) p => if l.any (fun e => e.1 == p) then l else heapInsert p 65536 l) rest }

/-- A table page of a context. -/
def State.newTable (s : State) (ctx : Nat) : Option (Nat × State) :=
  (s.palloc 65536 65536 0).map (fun (b, s) => (b, s.modCtx ctx (fun c => { c with pages := c.pages ++ [(b, 65536)] })))

def State.pte (s : State) (a : Nat) : Word := BitVec.ofNat 64 (natOfBytes (s.gread 0 a 8))
def State.setPte (s : State) (a v : Nat) : State := s.gwriteAll a (bytesOfNat 8 v) none

/-- The table that an entry points to, made when the entry is not valid (R136). -/
def State.nextTable (s : State) (ctx a : Nat) : Option (Nat × State) :=
  let e := s.pte a
  if pteValid e && !pteLeaf e then some (pteAddr e, s)
  else (s.newTable ctx).map (fun (b, s) => (b, s.setPte a (b + 1)))

/-- The address of the leaf entry of a page, its tables made on the way (R136). -/
def State.leafAt (s : State) (ctx ttpa va : Nat) (large : Bool) : Option (Nat × State) :=
  match s.nextTable ctx (ttpa + (va >>> 42) % 64 * 8) with
  | none => none
  | some (t2, s) =>
    let a := t2 + (va >>> 29) % 8192 * 8
    if large then some (a, s) else (s.nextTable ctx a).map (fun (t3, s) => (t3 + (va >>> 16) % 8192 * 8, s))

/-- The pages of a range, by address and whether they are of 512 MiB. -/
def pagesOf (va len : Nat) (large : Bool) : List (Nat × Bool) :=
  let z := if large then 2 ^ 29 else 65536
  (List.range (len / z)).map (fun i => (va + i * z, large))

/-- The pages of the context area: those of 512 MiB that lie whole in it, and 64 KiB pages around them. -/
def areaPages (va len : Nat) : List (Nat × Bool) :=
  let a := Nat.min (roundUp va (2 ^ 29)) (va + len)
  let b := Nat.max a ((va + len) / 2 ^ 29 * 2 ^ 29)
  pagesOf va (a - va) false ++ pagesOf a (b - a) true ++ pagesOf b (va + len - b) false

/-- The leaf entries of pages are written (R136): page `v` of a mapping at `va` lies at `pa` + (v − va) × copies. -/
def State.mapPages (s : State) (ctx ttpa va pa copies flags : Nat) : List (Nat × Bool) → Option State
  | [] => some s
  | (v, large) :: t =>
    match s.leafAt ctx ttpa v large with
    | none => none
    | some (a, s) => (s.setPte a (pa + (v - va) * copies + flags)).mapPages ctx ttpa va pa copies flags t

/-- The leaf entries of a mapping are cleared (R37). -/
def State.clearPages (s : State) (ctx ttpa : Nat) : List (Nat × Bool) → State
  | [] => s
  | (v, large) :: t =>
    match s.leafAt ctx ttpa v large with
    | none => s.clearPages ctx ttpa t
    | some (a, s) => (s.setPte a 0).clearPages ctx ttpa t

/-- The flags of a leaf entry (R136). -/
def pteFlags (write hostrw replica : Bool) : Nat := 3 + 4 * b2n write + 8 * b2n hostrw + 16 * b2n replica

/-! ### Commands (R31 to R33) -/

/-- The command that an instruction carries. -/
def vcpOf : Instr → Option VcpMsg
  | .createCtx m | .map m | .unmap m | .loadWimage m | .launch m | .evict m | .resume m | .destroyCtx m
  | .readTrapring m | .attest m => some m
  | _ => none

/-- A command waits behind one that is not answered yet, of its connection or its context (R33). -/
def State.deferred (s : State) (m : VcpMsg) : Bool :=
  let hit := fun (x : VcpMsg) => x.conn == m.conn || (x.ctxid == m.ctxid && m.ctxid != 0)
  s.ctxs.any (fun (e : Nat × Ctx) => (e.2.evReply.map hit).getD false)
    || s.backlog.any (fun (e : Nat × Instr) => ((vcpOf e.2).map hit).getD false)

def State.lastSeq (s : State) (conn : Nat) : Nat := ((s.conns.find conn).map (fun (c : Conn) => c.seq)).getD 0

/-- The SEQ of a command is consumed (R32). -/
def State.consume (s : State) (m : VcpMsg) : State :=
  match s.conns.find m.conn with
  | none => s
  | some c => { s with conns := s.conns.set m.conn { c with seq := m.seq } }

/-- The header checks of a command in their order, and NOTREADY while no firmware runs (R32): 0 when it passes. -/
def State.vcpCheck (s : State) (m : VcpMsg) (code len : Nat) : Nat :=
  if m.ver ≠ 1 then 1
  else if m.seq ≠ (s.lastSeq m.conn + 1) % 2 ^ 32 then 2
  else if m.cmd ≠ code ∨ m.len ≠ len ∨ m.body.length ≠ len ∨ m.result ≠ 0 ∨ m.rsv ≠ 0 then 3
  else if (if code = 1 ∨ code = 0x0A then m.ctxid ≠ 0 else (s.ctx? m.ctxid).isNone) then 4
  else if !s.mgmtReady then 5
  else 0

/-- A command (R29, R31 to R33): in recovery mode none is answered (R24); one that must wait is put behind; a check that
fails is the result; else the command runs. -/
def State.command (s : State) (m : VcpMsg) (own : Instr) (code len : Nat) (run : State → State) : State :=
  if s.boot.failed ≠ 0 ∨ (s.conns.find m.conn).isNone then s
  else if s.deferred m then { s with backlog := s.backlog ++ [(s.cur, own)] }
  else
    match s.vcpCheck m code len with
    | 0 => run s
    | n => (if n ≤ 2 then s else s.consume m).respond m n m.ctxid []

/-- A command that ends at once: its result and body, and the state that it leaves. -/
def State.answered (m : VcpMsg) (f : State → Nat × List Byte × State) (s : State) : State :=
  let (r, b, s) := f (s.consume m)
  s.respond m r m.ctxid (if r = 0 then b else [])

/-- A field of a command's body. -/
def bodyAt (m : VcpMsg) (o n : Nat) : Nat := leAt m.body o n

/-- The launch queue of a context is looked at (R43, R44). -/
def State.kick (s : State) (ctx : Nat) : State :=
  if s.agenda.any (fun (e : Nat × Instr) => e.1 == ctx && e.2 == .launchStart) then s else s.post ctx .launchStart

/-! ### CREATE_CTX (R35, R367) -/

/-- The six regions in the area and its size (R367): 16 KiB, TRAPN × 64 bytes (at most 4 MiB), 256 MiB, 512 MiB, 64 MiB,
and the save area; the order and the gaps are the device's choice. -/
def areaOff : Vector Nat 6 := #v[0x1_0000, 0x2_0000, 0x42_0000, 0x1042_0000, 0x3042_0000, 0x3442_0000]
def areaBytes : Nat := 0xC000_0000

/-- The initial routing table (R159, R162). -/
def initialRoute (code : Nat) : Nat :=
  if code = tPRIV ∨ code = tXLATE ∨ code = tDLESC ∨ code = tBRK then 1
  else if 1 ≤ code ∧ code ≤ 0x1C then 2
  else 0

/-- The weight-store grants in ascending base. -/
def State.grants (s : State) : List (Nat × Nat) :=
  s.ctxs.foldl (fun (l : List (Nat × Nat)) (e : Nat × Ctx) =>
    if e.2.wslen = 0 then l else heapInsert e.2.wsbase e.2.wslen l) []

/-- WSBASE of a grant (R35). -/
def State.wsPlace (s : State) (n : Nat) : Option Nat := if n = 0 then some 0 else firstFit n 65536 0 Config.wsDieBytes s.grants 0

/-- The granted bytes of every weight-store die read zero. -/
def State.wsZero (s : State) (base n : Nat) : State :=
  { s with ws := s.ws.filter (fun (e : Host.Cell) =>
      !(decide (base ≤ e.1 % Config.wsDieBytes) && decide (e.1 % Config.wsDieBytes < base + n))) }

/-- A context made with its number and the bytes granted to it (R35, R367): its tables and its area. -/
def State.makeArea (s : State) (m : VcpMsg) (ctx wsbase : Nat) : Option State :=
  let va := bodyAt m 8 8
  match s.palloc 65536 65536 0 with
  | none => none
  | some (tt, s) =>
    match s.palloc areaBytes (2 ^ 29) (va % 2 ^ 29) with
    | none => none
    | some (pa, s) =>
      let key := fun (i : Nat) => Config.freeRkey (s.free + i)
      let rw := bodyAt m 0 4 / 4 % 2 == 1
      let c : Ctx :=
        { esave := bodyAt m 0 4 % 2 == 1, xsteal := bodyAt m 0 4 / 2 % 2 == 1, arearw := rw, trapn := bodyAt m 4 4, area := va
          areaSize := areaBytes, off := areaOff, grace := if bodyAt m 0x10 4 = 0 then 20000 else bodyAt m 0x10 4
          wslen := bodyAt m 0x14 4, wsbase := wsbase, winRkey := key 0, areaRkey := if rw then key 1 else 0
          ttpa := tt, pages := [(tt, 65536), (pa, areaBytes)], maps := [], head := 0, tail := 0
          ringConn := [], number := 0, launch := none, trapHead := 0, lost := 0, unread := [], traprec := 0
          trapcode := 0, holds := [], rowPart := [], evicts := [], evReply := none, debugger := false
          back := [] }
      let s := ({ s with ctxs := s.ctxs.set ctx c, free := s.free + 2 }).wsZero wsbase c.wslen
      s.mapPages ctx tt va pa 1 (pteFlags true rw false) (areaPages va areaBytes)

/-- A context made (R35), with the initial routing table at the base of its area (R162). -/
def State.makeCtx (s : State) (m : VcpMsg) (ctx wsbase : Nat) : Option State :=
  (s.makeArea m ctx wsbase).map (fun s =>
    s.ctxWrite ctx none (bodyAt m 8 8) ((List.range 256).map (fun i => BitVec.ofNat 8 (initialRoute i))))

/-- The body of the response (R34). -/
def createBody (ctx : Nat) (c : Ctx) : List Byte :=
  bytesOfNat 4 ctx ++ bytesOfNat 4 c.winRkey.toNat ++ bytesOfNat 8 c.areaSize ++ bytesOfNat 8 c.wsbase
    ++ c.off.toList.flatMap (fun o => bytesOfNat 8 o) ++ bytesOfNat 4 c.areaRkey.toNat ++ bytesOfNat 4 0

/-- The body fields of CREATE_CTX are in range (R34). -/
def createOk (m : VcpMsg) : Bool :=
  let n := bodyAt m 4 4
  decide (bodyAt m 0 4 < 8) && decide (64 ≤ n) && decide (n ≤ 65536) && n == 2 ^ flog2 n && bodyAt m 8 8 % 65536 == 0
    && bodyAt m 0x14 4 % 65536 == 0 && bodyAt m 0x18 8 == 0

/-- CREATE_CTX carried out (R35). -/
def runCreate (m : VcpMsg) (s : State) : State :=
  let s := s.consume m
  let fail := fun (n : Nat) => s.respond m n 0 []
  if !s.hbmReady then fail 5
  else if !createOk m then fail 6
  else
    let id := (List.range 16).find? (fun (i : Nat) => i != 0 && (s.ctx? i).isNone)
    match id, s.wsPlace (bodyAt m 0x14 4) with
    | some i, some w =>
      if 2 ^ 48 < bodyAt m 8 8 + areaBytes then fail 8
      else
        match s.makeCtx m i w with
        | none => fail 8
        | some t =>
          match t.conns.find m.conn, t.ctx? i with
          | some k, some c =>
            ({ t with conns := t.conns.set m.conn { k with created := k.created ++ [i] } }).respond m 0 i (createBody i c)
          | _, _ => fail 8
    | _, _ => fail 8

/-- CREATE_CTX (R35). -/
def execCreateCtx (m : VcpMsg) (s : State) : Host.Outcome State Fault Refusal :=
  .next (s.command m (.createCtx m) 1 0x20 (runCreate m))

/-! ### MAP, UNMAP (R36, R37) -/

/-- Two ranges share a byte. -/
def meets (a n b m : Nat) : Bool := decide (a < b + m) && decide (b < a + n)

/-- The fields of MAP are in range (R36). -/
def mapOk (c : Ctx) (m : VcpMsg) : Bool :=
  let va := bodyAt m 0 8
  let len := bodyAt m 8 8
  let z := if bodyAt m 0x10 4 % 2 = 1 then 2 ^ 29 else 65536
  decide (bodyAt m 0x10 4 < 16) && bodyAt m 0x14 4 == 0 && va % z == 0 && len % z == 0 && len != 0 && decide (va + len ≤ 2 ^ 48)
    && !meets va len c.area c.areaSize && c.maps.all (fun (x : Mapping) => !meets va len x.va x.len)

/-- Tasks held on XLATE for a page that a new mapping covers are released (R36, R164). -/
def State.freeXlate (s : State) (ctx va len : Nat) : State :=
  match s.ctx? ctx with
  | none => s
  | some c =>
    (c.holds.filter (fun (h : Hold) =>
      h.code == tXLATE && decide (va ≤ h.va.toNat) && decide (h.va.toNat < va + len))).foldl
      (fun (s : State) h => s.xlateMapped ctx h) s

/-- MAP carried out (R36): the result, the response's body and the state. -/
def runMap (m : VcpMsg) (s : State) : Nat × List Byte × State :=
  match s.ctx? m.ctxid with
  | none => (4, [], s)
  | some c =>
    if !s.hbmReady then (5, [], s)
    else if !mapOk c m then (6, [], s)
    else
      let va := bodyAt m 0 8
      let len := bodyAt m 8 8
      let f := bodyAt m 0x10 4
      let large := f % 2 == 1
      let replica := f / 4 % 2 == 1
      let host := f / 8 % 2 == 1
      let copies := if replica then 4 else 1
      match s.palloc (len * copies) ((if large then 2 ^ 29 else 65536) * copies) 0 with
      | none => (8, [], s)
      | some (pa, t) =>
        match t.mapPages m.ctxid c.ttpa va pa copies (pteFlags (f / 2 % 2 == 1) host replica) (pagesOf va len large) with
        | none => (8, [], s)
        | some t =>
          let key := if host then Config.freeRkey t.free else 0
          let x : Mapping := ⟨va, len, large, f / 2 % 2 == 1, replica, host, pa, key⟩
          let t := { t with free := t.free + 1 }.modCtx m.ctxid (fun c => { c with maps := c.maps ++ [x] })
          (0, bytesOfNat 4 key.toNat ++ bytesOfNat 4 0, t.freeXlate m.ctxid va len)

/-- MAP (R36). -/
def execMap (m : VcpMsg) (s : State) : Host.Outcome State Fault Refusal :=
  .next (s.command m (.map m) 2 0x18 (State.answered m (runMap m)))

/-- Translations of a range leave every TLB of the package (R37, R138). -/
def State.tlbClear (s : State) (ctx va len : Nat) : State :=
  let keep := fun (l : List TlbEnt) => l.filter (fun e => !(e.ctx == ctx && meets va len e.va e.size))
  { s with cores := Table.mapv s.cores (fun c => { c with tlb := keep c.tlb })
           dies := s.dies.map (fun d => { d with tlb := keep d.tlb })
           baseTlb := Table.mapv s.baseTlb keep }

/-- UNMAP carried out (R22, R37): NOTREADY when global memory, where the tables lie, may not be written (log 43). What
the range must be beyond R37's words is not stated (log 49): one that meets no mapping, of whatever length and
alignment, answers OK, and one of no bytes inside a mapping or the area is BADARG. -/
def runUnmap (m : VcpMsg) (s : State) : Nat × List Byte × State :=
  match s.ctx? m.ctxid with
  | none => (4, [], s)
  | some c =>
    if !s.hbmReady then (5, [], s) else
    let va := bodyAt m 0 8
    let len := bodyAt m 8 8
    let hit := c.maps.filter (fun (x : Mapping) => meets va len x.va x.len)
    if meets va len c.area c.areaSize ∨ hit.any (fun (x : Mapping) => decide (x.va < va) || decide (va + len < x.va + x.len)) then
      (6, [], s)
    else if c.launch.isSome then (7, [], s)
    else
      let s := hit.foldl (fun (s : State) (x : Mapping) =>
        ((s.clearPages m.ctxid c.ttpa (pagesOf x.va x.len x.large)).tlbClear m.ctxid x.va x.len).pfree x.pa) s
      (0, [], s.modCtx m.ctxid (fun c => { c with maps := c.maps.filter (fun (x : Mapping) => !meets va len x.va x.len) }))

/-- UNMAP (R37). -/
def execUnmap (m : VcpMsg) (s : State) : Host.Outcome State Fault Refusal :=
  .next (s.command m (.unmap m) 3 0x10 (State.answered m (runUnmap m)))

/-! ### Measurements, LOAD_WIMAGE, ATTEST (R25, R38, R42) -/

/-- MEASi := SHA3-512(MEASi ‖ d) (R25). -/
def State.extend (s : State) (i : Nat) (d : List Byte) : State :=
  let old := (s.boot.meas.toList)[i]?.getD 0
  { s with boot := { s.boot with
      meas := s.boot.meas.setIfInBounds i (BitVec.ofNat 512 (natOfBytes (sha3 (bytesOfNat 64 old.toNat ++ d)))) } }

/-- LOAD_WIMAGE carried out (R38). -/
def runLoad (m : VcpMsg) (s : State) : Nat × List Byte × State :=
  match s.ctx? m.ctxid with
  | none => (4, [], s)
  | some c =>
    let mask := bodyAt m 0 4
    let off := bodyAt m 0x10 8
    let len := bodyAt m 0x18 8
    let on := fun (d : Nat) => mask / 2 ^ d % 2 == 1
    if (List.range 4).any (fun d => on d && !s.boot.ready1.getLsbD (28 + d)) then (5, [], s)
    else if mask % 16 = 0 ∨ 16 ≤ mask ∨ bodyAt m 4 4 ≠ 0 ∨ off % 64 ≠ 0 ∨ len % 64 ≠ 0 ∨ c.wslen < off + len then (6, [], s)
    else
      match s.ctxRead m.ctxid (bodyAt m 8 8) len with
      | none => (6, [], s)
      | some data =>
        if c.launch.isSome then (7, [], s)
        else
          let dig := sha3 data
          let rec_ := bytesOfNat 4 mask ++ bytesOfNat 4 0 ++ bytesOfNat 8 off ++ bytesOfNat 8 len ++ dig
          let s := { s with ws := (List.range 4).foldl (fun (w : List Host.Cell) d =>
            if on d then Mem.write w (d * Config.wsDieBytes + c.wsbase + off) data else w) s.ws }
          (0, dig, s.extend 5 (sha3 rec_))

/-- LOAD_WIMAGE (R38). -/
def execLoadWimage (m : VcpMsg) (s : State) : Host.Outcome State Fault Refusal :=
  .next (s.command m (.loadWimage m) 4 0x20 (State.answered m (runLoad m)))

/-- ATTEST carried out (R42). -/
def runAttest (m : VcpMsg) (s : State) : Nat × List Byte × State :=
  let x := bodyAt m 0x40 4
  if (x ≠ 0 ∧ x ≠ 6 ∧ x ≠ 7) ∨ bodyAt m 0x44 4 ≠ 0 then (6, [], s)
  else
    let s := if x = 0 then s else s.extend x ((m.body.drop 0x48).take 64)
    let r := m.body.take 64 ++ s.boot.meas.toList.flatMap (fun v => bytesOfNat 64 v.toNat)
      ++ bytesOfNat 8 s.boot.ready0.toNat ++ bytesOfNat 8 s.boot.ready1.toNat ++ bytesOfNat 4 s.boot.secver.toNat
      ++ bytesOfNat 4 0 ++ bytesOfNat 8 s.now
    (0, r ++ padTo 4627 (Config.mldsaSign r), s)

/-- ATTEST (R42). -/
def execAttest (m : VcpMsg) (s : State) : Host.Outcome State Fault Refusal :=
  .next (s.command m (.attest m) 0x0A 0x88 (State.answered m (runAttest m)))

/-! ### The launch queue and the doorbell (R43) -/

/-- LAUNCH carried out (R22, R43): its body becomes the next record, when global memory may be written (log 43). -/
def runLaunch (m : VcpMsg) (s : State) : Nat × List Byte × State :=
  match s.ctx? m.ctxid with
  | none => (4, [], s)
  | some c =>
    if !s.hbmReady then (5, [], s)
    else if 64 ≤ (c.tail + 2 ^ 32 - c.head) % 2 ^ 32 then (7, [], s)
    else
      let slot := c.tail % 64
      let s := s.ctxWrite m.ctxid none (c.area + c.off[0] + 256 * slot) m.body
      let s := s.modCtx m.ctxid (fun c => { c with tail := (c.tail + 1) % 2 ^ 32, ringConn := c.ringConn ++ [m.conn] })
      (0, bytesOfNat 4 slot, s.kick m.ctxid)

/-- LAUNCH (R43). -/
def execLaunch (m : VcpMsg) (s : State) : Host.Outcome State Fault Refusal :=
  .next (s.command m (.launch m) 5 256 (State.answered m (runLaunch m)))

/-- A write of TAIL (R43): ignored with QERR when it passes 64 records or goes back. -/
def State.doorbell (s : State) (conn ctx : Nat) (c : Ctx) (tail : Nat) : State :=
  let far := (tail + 2 ^ 32 - c.tail) % 2 ^ 32
  if 64 < (tail + 2 ^ 32 - c.head) % 2 ^ 32 ∨ 2 ^ 31 ≤ far then
    s.event 5 ctx (bytesOfNat 8 tail ++ bytesOfNat 8 c.head)
  else
    (s.modCtx ctx (fun c => { c with tail := tail, ringConn := c.ringConn ++ List.replicate far conn })).kick ctx

/-- A connection may use the device: it is up, and the device is not in recovery mode. -/
def State.connUp (s : State) (conn : Nat) : Bool :=
  s.boot.failed == 0 && ((s.conns.find conn).map (fun (c : Conn) => c.live)).getD false

def State.emit (s : State) (m : HostMsg) : State := { s with outbox := s.outbox ++ [m] }

/-- A host write of a context's doorbell through its window rkey (R30, R43). -/
def execDoorbellWrite (ctx : Nat) (val : Word) (s : State) : Host.Outcome State Fault Refusal :=
  if !s.connUp s.cur then .next s
  else
    match s.ctx? ctx with
    | none => .next (s.emit (.remoteError s.cur))
    | some c => .next ((s.doorbell s.cur ctx c (bits val 31 0)).emit (.ack s.cur))

/-! ### EVICT, RESUME, DESTROY_CTX, READ_TRAPRING (R39 to R41, R170, R175) -/

/-- The rows that a ROWMASK names among some. -/
def maskRows (mask : Nat) (rows : List Nat) : List Nat :=
  if mask = 0 then rows else rows.filter (fun r => mask / 2 ^ r % 2 == 1)

/-- EVICT carried out (R22, R39, R170): NOTREADY when global memory may not be written (log 43); BUSY when a named row
holds a halted strand; rows where the context is not are skipped; the answer comes when the last row is saved. -/
def runEvict (m : VcpMsg) (s : State) : State :=
  let s := s.consume m
  match s.ctx? m.ctxid with
  | none => s.respond m 4 m.ctxid []
  | some c =>
    let rows := (maskRows (bodyAt m 0 8) (List.range 64)).filter (fun r => (c.rowPart.find r).isSome)
    if !s.hbmReady then s.respond m 5 m.ctxid []
    else if rows.any (fun r => s.haltedOn m.ctxid r) then s.respond m 7 m.ctxid []
    else if rows.isEmpty then s.respond m 0 m.ctxid []
    else
      let s := rows.foldl (fun (s : State) r =>
        if (c.evicts.find r).isSome then s else s.startEvict m.ctxid r false) s
      s.modCtx m.ctxid (fun c => { c with evReply := some m })

/-- EVICT (R39). -/
def execEvict (m : VcpMsg) (s : State) : Host.Outcome State Fault Refusal :=
  .next (s.command m (.evict m) 6 8 (runEvict m))

/-- RESUME carried out (R22, R39, R175): NOTREADY when global memory may not be written (log 43); each named row that
is evicted is restored into the partition that R106 gives; while a row has none, or no room for the static areas, the
command waits. -/
def runResume (m : VcpMsg) (s : State) : State :=
  match s.ctx? m.ctxid with
  | none => (s.consume m).respond m 4 m.ctxid []
  | some c =>
    let rows := (maskRows (bodyAt m 0 8) (List.range 64)).filter (fun r =>
      ((c.evicts.find r).map (fun (e : Evict) => e.step == 6)).getD false)
    if !s.hbmReady then (s.consume m).respond m 5 m.ctxid []
    else if rows.all (fun r => (s.freePart r).isSome && s.loadRoom m.ctxid r) then
      let s := rows.foldl (fun (s : State) r =>
        match c.evicts.find r, s.freePart r with
        | some e, some p => s.loadRow m.ctxid r p e
        | _, _ => s) ((s.consume m).modCtx m.ctxid (fun c =>
          { c with back := rows ++ c.back.filter (fun r => s.mailOn m.ctxid r) }))
      s.respond m 0 m.ctxid []
    else
      let s := rows.foldl (fun (s : State) r => if (s.freePart r).isSome then s else s.makeRoom m.ctxid r) s
      { s with backlog := s.backlog ++ [(s.cur, .resume m)] }

/-- RESUME (R39, R175). -/
def execResume (m : VcpMsg) (s : State) : Host.Outcome State Fault Refusal :=
  .next (s.command m (.resume m) 7 8 (runResume m))

/-- Queued records that have not started complete CANCELLED (R40). -/
def State.cancelQueue (ctx : Nat) : Nat → State → State
  | 0, s => s
  | n + 1, s =>
    match s.ctx? ctx with
    | none => s
    | some c =>
      if c.head = c.tail then s
      else State.cancelQueue ctx n ((s.takeQueue ctx).notRun c (s.queueHead ctx c) (c.ringConn.head?.getD 0) 2)

/-- Everything that a context holds is freed and its number with it (R40). -/
def State.freeCtx (s : State) (ctx : Nat) (c : Ctx) : State :=
  let gone := c.pages ++ c.maps.map (fun (x : Mapping) => (x.pa, x.len))
  let s := gone.foldl (fun (s : State) (e : Nat × Nat) => s.pfree e.1) s
  let keep := fun (l : List TlbEnt) => l.filter (fun e => e.ctx != ctx)
  let mine := fun (k : Nat) => decide (savedKey ctx 0 0 ≤ k) && decide (k < savedKey (ctx + 1) 0 0)
  { s with
    ctxs := s.ctxs.erase ctx
    lcs := s.lcs.filter (fun (e : Nat × LCore) => lcCtx e.1 != ctx)
    cmds := s.cmds.filter (fun (x : Cmd) => x.ctx != ctx)
    acc := s.acc.filter (fun (e : Nat × BitVec 32) => !mine e.1)
    cores := Table.mapv s.cores (fun (x : Core) =>
      { x with tlb := keep x.tlb, regs := x.regs.erase ctx
               icache := x.icache.filter (fun (e : Nat × Nat × List Byte) => e.1 != ctx) })
    dies := s.dies.map (fun d => { d with tlb := keep d.tlb, nle := d.nle.erase ctx })
    baseTlb := Table.mapv s.baseTlb keep
    strands := Table.mapv s.strands (fun (t : Strand) => { t with ntasks := t.ntasks.erase ctx }) }

/-- DESTROY_CTX carried out (R40). -/
def runDestroy (m : VcpMsg) (s : State) : Nat × List Byte × State :=
  let s := State.cancelQueue m.ctxid 64 (s.endLaunch m.ctxid 1)
  match s.ctx? m.ctxid with
  | none => (4, [], s)
  | some c => (0, [], s.freeCtx m.ctxid c)

/-- DESTROY_CTX (R40). -/
def execDestroyCtx (m : VcpMsg) (s : State) : Host.Outcome State Fault Refusal :=
  .next (s.command m (.destroyCtx m) 8 0 (State.answered m (runDestroy m)))

/-- Records of the trap ring that are read: they no longer count as lost when overwritten (R41). -/
def State.markRead (s : State) (ctx : Nat) (slot : Nat → Bool) : State :=
  s.modCtx ctx (fun c => { c with unread := c.unread.filter (fun i => !slot (i % c.trapn)) })

/-- READ_TRAPRING carried out (R41). -/
def runRing (m : VcpMsg) (s : State) : Nat × List Byte × State :=
  match s.ctx? m.ctxid with
  | none => (4, [], s)
  | some c =>
    let n := bodyAt m 4 4
    if n < 1 ∨ 64 < n then (6, [], s)
    else
      let slots := (List.range n).map (fun i => (bodyAt m 0 4 + i) % c.trapn)
      let recs := slots.flatMap (fun i => (s.ctxRead m.ctxid (c.area + c.off[1] + 64 * i) 64).getD [])
      (0, bytesOfNat 4 c.trapHead ++ bytesOfNat 4 c.lost ++ recs, s.markRead m.ctxid (fun i => has slots i))

/-- READ_TRAPRING (R41). -/
def execReadTrapring (m : VcpMsg) (s : State) : Host.Outcome State Fault Refusal :=
  .next (s.command m (.readTrapring m) 9 8 (State.answered m (runRing m)))

/-! ### Connections (R24, R29) -/

/-- The numbers of connections that have dropped begin here: no new connection takes one. -/
def dropped : Nat := 1000000

/-- A host opens a connection on a port whose link is up (R29): at most 64 are live on a port; SEQ starts. -/
def execConnectionAccept (port : Bool) (s : State) : Host.Outcome State Fault Refusal :=
  let live := s.conns.filter (fun (e : Nat × Conn) => e.2.live && e.2.port == port)
  let used := ((s.conns.find s.cur).map (fun (c : Conn) => c.live)).getD false
  if used ∨ dropped ≤ s.cur ∨ 64 ≤ live.length ∨ s.boot.failed ≠ 0 ∨ !s.boot.ready1.getLsbD (if port then 33 else 32) then .next s
  else .next { s with conns := s.conns.set s.cur ⟨port, 0, [], 0, true⟩ }

/-- A command that came on connection `k`, as one of connection `n`. -/
def VcpMsg.onConn (k n : Nat) (m : VcpMsg) : VcpMsg := if m.conn = k then { m with conn := n } else m

/-- A command waiting as an event of connection `k`, as one of connection `n`. -/
def retag (k n : Nat) (e : Nat × Instr) : Nat × Instr :=
  let f := VcpMsg.onConn k n
  let u := if e.1 = k then n else e.1
  match e.2 with
  | .createCtx m => (u, .createCtx (f m))
  | .map m => (u, .map (f m))
  | .unmap m => (u, .unmap (f m))
  | .loadWimage m => (u, .loadWimage (f m))
  | .launch m => (u, .launch (f m))
  | .evict m => (u, .evict (f m))
  | .resume m => (u, .resume (f m))
  | .destroyCtx m => (u, .destroyCtx (f m))
  | .readTrapring m => (u, .readTrapring (f m))
  | .attest m => (u, .attest (f m))
  | _ => e

/-- Everything that belongs to connection `k` passes to number `n` (R29): commands accepted, with their SEQ, an EVICT
to be answered, and the connection of a launch and of records in the queues. -/
def State.moveConn (s : State) (k n : Nat) (c : Conn) : State :=
  let ren := fun (i : Nat) => if i = k then n else i
  { s with
    conns := (s.conns.erase k).set n { c with live := false }
    agenda := s.agenda.map (retag k n)
    backlog := s.backlog.map (retag k n)
    ctxs := Table.mapv s.ctxs (fun (x : Ctx) =>
      { x with evReply := x.evReply.map (VcpMsg.onConn k n)
               launch := x.launch.map (fun (l : Launch) => { l with conn := ren l.conn })
               ringConn := x.ringConn.map ren }) }

/-- A connection drops (R29): its outstanding responses and sends are lost, what it had accepted runs on, and a
connection that is accepted later under its number begins afresh. -/
def execConnectionDrop (s : State) : Host.Outcome State Fault Refusal :=
  let k := s.cur
  match s.conns.find k with
  | none => .next s
  | some c =>
    if dropped ≤ k then .next s
    else .next (s.moveConn k (dropped + s.conns.countP (fun (e : Nat × Conn) => decide (dropped ≤ e.1))) c)

/-- In recovery mode HP0 answers a status read with the failing step (R24). -/
def execRecoveryStatusRead (s : State) : Host.Outcome State Fault Refusal :=
  if s.boot.failed = 0 then .next s else .next (s.emit (.bootStatus s.cur s.boot.failed))

/-! ### RDMA (R30, R36, R141, R158, R367) -/

/-- What an rkey and a range reach: nothing, a word of the register window, a context's doorbell, or a range of a
context's memory. -/
inductive Reach where
  | none
  | window
  | bell (ctx : Nat)
  | mem (ctx : Nat)
deriving DecidableEq, Repr

/-- A range lies in another. -/
def within (a n b m : Nat) : Bool := decide (b ≤ a) && decide (a + n ≤ b + m)

/-- What a context's rkeys give access to. -/
def Ctx.reach (c : Ctx) (ctx rkey a n : Nat) (write : Bool) : Reach :=
  if rkey = c.winRkey.toNat then
    if a = 0x1000 + 8 * ctx ∧ n = 8 then .bell ctx
    else if !write ∧ within a n 0 0x1000 then .window
    else .none
  else if c.arearw ∧ rkey = c.areaRkey.toNat then
    if within a n c.area (if write then 1280 else c.areaSize) then .mem ctx else .none
  else if c.maps.any (fun (x : Mapping) => x.hostrw && rkey == x.rkey.toNat && within a n x.va x.len) then .mem ctx
  else .none

/-- What an access reaches (R30, R36, R367). -/
def State.reach (s : State) (rkey a n : Nat) (write : Bool) : Reach :=
  if rkey = 0 then (if !write ∧ within a n 0 0x1000 then .window else .none)
  else
    s.ctxs.foldl (fun (r : Reach) (e : Nat × Ctx) =>
      match r with
      | .none => e.2.reach e.1 rkey a n write
      | r => r) .none

/-- Waits on the words of a range are tested again. -/
def State.retestRange (s : State) (ctx a n : Nat) : State :=
  (List.range ((a + n + 7) / 8 - a / 8)).foldl (fun (s : State) i => s.retestPool ctx (BitVec.ofNat 64 ((a / 8 + i) * 8))) s

/-- A host RDMA WRITE (R22, R141, R158): performed on all four dies and on every copy before it is acknowledged;
memory that is not ready is not written, and the host gets a remote access error. -/
def execHostRdmaWrite (rkey addr : Nat) (bytes : List Byte) (s : State) : Host.Outcome State Fault Refusal :=
  if !s.connUp s.cur then .next s
  else
    match s.reach rkey addr bytes.length true with
    | .mem ctx =>
      if !s.hbmReady then .next (s.emit (.remoteError s.cur))
      else .next (((s.ctxWrite ctx none addr bytes).retestRange ctx addr bytes.length).emit (.ack s.cur))
    | .bell ctx =>
      match s.ctx? ctx with
      | some c => .next ((s.doorbell s.cur ctx c (leAt bytes 0 4)).emit (.ack s.cur))
      | none => .next (s.emit (.remoteError s.cur))
    | _ => .next (s.emit (.remoteError s.cur))

/-- The bytes of the register window at rkey 0 (R21, R30). -/
def State.windowByte (s : State) (a : Nat) : Byte :=
  nth (bytesOfNat 8 s.boot.ready0.toNat ++ bytesOfNat 8 s.boot.ready1.toNat) (a - 0x100) 0

/-- The die that answers a host read of a word of copy 0 (R158): one that has at least the write that the host has read
before (R145), which of them a free value. -/
def State.hostDie (s : State) (w : Nat) (pick : Word) : Fin 4 :=
  let d : Fin 4 := Fin.ofNat 4 pick.toNat
  if (s.die d).view.stamps.get w 0 < s.hostSeen.get w 0 then s.latestDie w else d

/-- The words that a host READ takes, by address of their first byte in the range: of each the copy-0 address and the
die that answers. -/
def State.hostWords (s : State) (ctx a n : Nat) : List (Nat × Option (Nat × Fin 4)) :=
  if n = 0 then []
  else
    (List.range ((a + n - 1) / 8 + 1 - a / 8)).map (fun i =>
      let va := (a / 8 + i) * 8
      (va, (s.ctxWalk ctx va).map (fun x => (x.pa 0, s.hostDie (x.pa 0) (Config.freeWord (s.free + i))))))

/-- The bytes of a host RDMA READ: of each word those that one die holds, a value of its coherence order (R158). -/
def State.hostBytes (s : State) (ctx a n : Nat) : List Byte :=
  (((s.hostWords ctx a n).flatMap (fun e =>
    match e.2 with
    | none => List.replicate 8 0
    | some (p, d) => s.gread d p 8)).drop (a % 8)).take n

/-- A word of such a range, or the walk for it, lies in a line with an uncorrectable error (R135). -/
def State.hostHit (s : State) (ctx a n : Nat) : Bool :=
  !s.ecc.isEmpty && (s.hostWords ctx a n).any (fun e =>
    s.walkBad 0 (((s.ctx? ctx).map (·.ttpa)).getD 0) e.1 || (e.2.map (fun x => s.badLine x.1)).getD false)

/-- The host has read the words of a range (R145). -/
def State.hostRead (s : State) (ctx a n : Nat) : State :=
  { s with
    free := s.free + (n / 8 + 2)
    hostSeen := (s.hostWords ctx a n).foldl (fun (t : Table Nat) e =>
      match e.2 with
      | none => t
      | some (p, d) => t.set p (Nat.max (t.get p 0) ((s.die d).view.stamps.get p 0))) s.hostSeen }

/-- A trap record that the host reads whole counts as read (R41). -/
def State.ringRead (s : State) (ctx a n : Nat) : State :=
  match s.ctx? ctx with
  | none => s
  | some c => s.markRead ctx (fun i => within (c.area + c.off[1] + 64 * i) 64 a n)

/-- A host RDMA READ (R30, R158). One that meets an uncorrectable error ends the launch of its context (R135), and is
answered with a remote-access error (DESIGN CHOICE, log 51). -/
def execHostRdmaRead (rkey addr len : Nat) (s : State) : Host.Outcome State Fault Refusal :=
  if !s.connUp s.cur then .next s
  else
    match s.reach rkey addr len false with
    | .window =>
      .next (s.emit (.data s.cur ((List.range len).map (fun i =>
        if addr + i < 0x100 then 0 else s.windowByte (addr + i)))))
    | .bell ctx =>
      match s.ctx? ctx with
      | some c => .next (s.emit (.data s.cur (bytesOfNat 4 c.tail ++ bytesOfNat 4 c.head)))
      | none => .next (s.emit (.remoteError s.cur))
    | .mem ctx =>
      if s.hostHit ctx addr len then .next ((s.endLaunch ctx 1).emit (.remoteError s.cur))
      else .next (((s.hostRead ctx addr len).ringRead ctx addr len).emit (.data s.cur (s.hostBytes ctx addr len)))
    | .none => .next (s.emit (.remoteError s.cur))

end Sys2Proof.Machine
end

