-- ==== Sys2Proof/Machine/Boot.lean ====
section
/-! DEFINITION. Reset and boot (R24, R25), bring-up, and the loss of a function (R21 to R23, R46, R47). -/
namespace Sys2Proof.Machine

/-! ### Verified firmware (R24, R25) -/

/-- The failing check of an image: 2 signature, 3 security version, 0 none (R24). -/
def imageCheck (secver : Nat) (f : FwImage) : Nat :=
  if !Config.mldsaVerify (sha3 f.bytes) f.sig then 2
  else if f.secver < secver then 3
  else 0

/-- The images of a class, in the order in which they are verified. -/
def State.images (s : State) (cls : Nat) : List FwImage := s.boot.flash.filter (fun (f : FwImage) => f.cls == cls)

/-- The failing step of a stage (R24): 1 when there is no image to load, else the check that the first bad image
fails. -/
def State.stageCheck (s : State) (cls : Nat) : Nat :=
  match s.images cls with
  | [] => 1
  | l => l.foldl (fun (n : Nat) f => if n ≠ 0 then n else imageCheck s.boot.secver.toNat f) 0

/-- The images of a class that pass are measured (R25). -/
def State.measure (s : State) (cls : Nat) : State :=
  ((s.images cls).filter (fun (f : FwImage) => imageCheck s.boot.secver.toNat f == 0)).foldl
    (fun (s : State) f => s.extend cls (sha3 f.bytes)) s

/-- Management firmware selects the clock role of each port as it starts (R9): which roles is a free value (log 13). -/
def State.selectRoles (s : State) : State :=
  let (n, s) := s.fresh
  { s with time := { s.time with roles := Vector.ofFn (fun p : Fin 10 => (Config.freeWord n).getLsbD p.val) } }

/-- The boot (R24, R25): the first stage is checked and measured with SECVER, the fuses and the harvest map; then each
later stage. A failing check of the first stage or of the management firmware leaves the device in recovery mode. -/
def State.bootUp (s : State) : State :=
  match s.stageCheck 0 with
  | 0 =>
    let s := (s.measure 0).extend 0 (padTo 64 (bytesOfNat 4 s.boot.secver.toNat))
    let s := (s.extend 4 (sha3 s.boot.fuses)).extend 4 (sha3 (bytesOfNat 8 s.boot.harvest.toNat))
    match s.stageCheck 1 with
    | 0 => (((s.measure 1).measure 2).measure 3).selectRoles
    | n => { s with boot := { s.boot with failed := n } }
  | n => { s with boot := { s.boot with failed := n } }

/-- Package reset (R13, R24): DTIME 0, every register at its reset value, nothing in memory, no context and no
connection; the flash, the fuses and the input supply are as they were, and PTP time is a free value. DESIGN CHOICE
(log 50): TICK counts from 0 at the first tick boundary after the reset, although TSTART reads 0 and PTP time may be
past it; a write of TSTART numbers the ticks (R14). -/
def execPackageReset (s : State) : Host.Outcome State Fault Refusal :=
  let z := State.reset
  let b := { z.boot with flash := s.boot.flash, fuses := s.boot.fuses, harvest := s.boot.harvest, secver := s.boot.secver }
  let p := { z.power with inRange := s.power.inRange, below42 := s.power.below42, told := s.power.told, low := s.power.low, high := s.power.high
                          hot := s.power.hot, off := s.power.off }
  let ptp := (Config.freeWord s.free).toNat
  let t := { z with
    agenda := s.agenda, order := s.order, lastCore := s.lastCore, evNext := s.evNext, steps := s.steps, free := s.free + 1
    outbox := s.outbox, boot := b, power := p
    time := { z.time with ptp := ptp, frames := s.time.frames } }
  let t := if t.agenda.any (fun (e : Nat × Instr) => e.2 == .tickBoundary) then t else t.post 0 .tickBoundary
  .next t.bootUp

/-! ### READYMAP (R21 to R23) -/

/-- A bit of READYMAP0 (`reg` false) or READYMAP1 written. -/
def State.setReady (s : State) (reg : Bool) (bit v : Nat) : State :=
  if reg then { s with boot := { s.boot with ready1 := putBits s.boot.ready1 bit 1 v } }
  else { s with boot := { s.boot with ready0 := putBits s.boot.ready0 bit 1 v } }

/-- BRINGDONE (R21). -/
def State.bringDone (s : State) : Bool := s.boot.ready1.getLsbD 63

/-- A function may come up (R21, R22, R24): during bring-up, no reserved bit, a row after its die, the management
cores with verified firmware. -/
def State.mayReady (s : State) (reg : Bool) (bit : Nat) : Bool :=
  !s.bringDone &&
    (if reg then !(decide (43 ≤ bit) && decide (bit ≤ 62)) && (bit != 42 || s.boot.failed == 0 && s.stageCheck 1 == 0)
     else s.boot.ready1.getLsbD (bit / 16))

/-- A function finishes bring-up: its bit sets; BRINGDONE sets when bring-up ends (R21). -/
def execFunctionReady (reg : Bool) (bit : Fin 64) (s : State) : Host.Outcome State Fault Refusal :=
  if s.mayReady reg bit.val then .next (s.setReady reg bit.val 1) else .next s

/-- A launch uses a function (R23): a row or a die that hosts its logical cores, the weight store under one of them when
the context has a grant, an engine that it has commanded, all of HBM and the management cores, an exchange port when it
has other chips. -/
def State.uses (s : State) (ctx : Nat) (c : Ctx) (l : Launch) (reg : Bool) (bit : Nat) : Bool :=
  let onDie := fun (d : Nat) => l.remap.any (fun p => dieOf p == d)
  let told := fun (e d : Nat) => s.cmds.any (fun (x : Cmd) => x.ctx == ctx && x.engine == e && dieOf x.core == d)
  if !reg then l.remap.any (fun p => rowOf p == bit)
  else if bit < 4 then onDie bit
  else if bit < 20 then true
  else if bit < 24 then told 2 (bit - 20)
  else if bit < 28 then told 3 (bit - 24)
  else if bit < 32 then decide (0 < c.wslen) && onDie (bit - 28)
  else if bit < 34 then false
  else if bit < 42 then decide (1 < l.nchip)
  else bit == 42

/-- The active launches that satisfy a test end with a status. -/
def State.endAll (s : State) (p : Nat → Ctx → Launch → Bool) (status : Nat) : State :=
  s.ctxs.foldl (fun (t : State) (e : Nat × Ctx) =>
    match e.2.launch with
    | some l => if p e.1 e.2 l then t.endLaunch e.1 status else t
    | none => t) s

/-- FUNC_LOST is sent with both registers after the clear (R23, R47). -/
def State.tellLost (s : State) : State :=
  s.event 3 0 (bytesOfNat 8 s.boot.ready0.toNat ++ bytesOfNat 8 s.boot.ready1.toNat)

/-- The bits that a loss clears: never BRINGDONE nor a reserved one. -/
def lossBit (reg : Bool) (bit : Nat) : Bool := !reg || decide (bit < 43)

/-- A lost NLE's state (R362). -/
def State.dropNle (s : State) (reg : Bool) (bit : Nat) : State :=
  if reg ∧ 20 ≤ bit ∧ bit < 24 then s.modDie (Fin.ofNat 4 (bit - 20)) (fun d => { d with nle := [] }) else s

/-- A function is lost after bring-up (R23): the launches that use it end FUNC_LOST, its bit clears, and the host is
told. An NLE that is lost keeps nothing of its configuration and bins (R362). -/
def execFuncLost (reg : Bool) (bit : Fin 64) (s : State) : Host.Outcome State Fault Refusal :=
  let on := (if reg then s.boot.ready1 else s.boot.ready0).getLsbD bit.val
  if !on ∨ !lossBit reg bit.val ∨ !s.bringDone then .next s
  else .next (((s.endAll (fun ctx c l => s.uses ctx c l reg bit.val) 6).setReady reg bit.val 0).dropNle reg bit.val).tellLost

end Sys2Proof.Machine
end

