-- ==== Sys2Proof/Machine/Power.lean ====
section
/-! DEFINITION. Supply, power limit, droop and temperature (R17 to R20). -/
namespace Sys2Proof.Machine

/-- The limit in force (R17, R18). -/
def Power.limit (p : Power) : Nat := if p.inRange then p.plimit.toNat else Nat.min p.plimit.toNat 2000

/-- SUPPLY_RANGE (R47): DTIME, the extreme of the excursion in mV, and whether the input has returned. -/
def State.supplyEvent (s : State) (mv : Nat) (back : Bool) : State :=
  s.event 7 0 (bytesOfNat 8 s.now ++ bytesOfNat 4 mv ++ bytesOfNat 4 (b2n back))

/-- The extreme that an excursion reports: the lowest input below the rated range, else the highest (R47). -/
def Power.extreme (p : Power) : Nat := if p.low < 44000 then p.low else p.high

/-- The input is outside the rated range (R17): the host is told when it leaves. -/
def State.outOfRange (s : State) (mv : Nat) (below : Bool) : State :=
  let p := s.power
  let first := p.inRange
  let q := { p with
    inRange := false
    below42 := below
    dipAt := if below && !p.below42 then s.now else p.dipAt
    told := p.told && p.below42
    low := if first then mv else Nat.min p.low mv
    high := if first then mv else Nat.max p.high mv }
  let t := { s with power := q }
  if first then t.supplyEvent mv false else t

/-- A dip that has lasted 100 µs (R17): every running launch ends POWER_LOSS, and the host is told once of each dip. -/
def State.powerLost (s : State) : State :=
  if s.power.below42 ∧ !s.power.told ∧ s.power.dipAt + 100000 ≤ s.now then
    let t := { s with power := { s.power with told := true } }
    (t.endAll (fun _ _ _ => true) 4).event 1 0 (bytesOfNat 8 s.now ++ bytesOfNat 8 0)
  else s

/-- The input leaves 44 to 56 V within 42 to 60 V (R17). A dip that has lasted its 100 µs has had its effect before. -/
def execSupplyOutOfRange (mv : Nat) (s : State) : Host.Outcome State Fault Refusal :=
  if (42000 ≤ mv ∧ mv < 44000) ∨ (56000 < mv ∧ mv ≤ 60000) then .next (s.powerLost.outOfRange mv false)
  else .next s

/-- The input returns to its rated range (R17). A dip that has lasted its 100 µs has had its effect before. -/
def execSupplyInRange (mv : Nat) (s : State) : Host.Outcome State Fault Refusal :=
  if 44000 ≤ mv ∧ mv ≤ 56000 ∧ !s.power.inRange then
    let s := s.powerLost
    let t := { s with power := { s.power with inRange := true, below42 := false } }
    .next (t.supplyEvent s.power.extreme true)
  else .next s

/-- The input falls below 42 V (R17): the power stage holds it up for 100 µs. -/
def execSupplyDip (mv : Nat) (s : State) : Host.Outcome State Fault Refusal :=
  if 42000 ≤ mv then .next s
  else
    let t := s.outOfRange mv true
    .next (if s.power.below42 then t else t.post 0 .powerLoss)

/-- The input has stayed below 42 V for 100 µs (R17). -/
def execPowerLoss (s : State) : Host.Outcome State Fault Refusal :=
  if s.power.below42 ∧ !s.power.told ∧ s.now < s.power.dipAt + 100000 then .next (s.post 0 .powerLoss)
  else .next s.powerLost

/-- The input rises above 60 V (R17): the module switches off. -/
def execSupplyOvervoltage (s : State) : Host.Outcome State Fault Refusal :=
  .next { s with power := { s.power with off := true } }

/-- The clock of all four compute dies is stretched by one more step of 2.5 % (R18). -/
def State.stretchMore (s : State) : State :=
  let idle := s.dies.toList.all (fun (d : Die) => d.stretch == 0)
  let t := { s with dies := s.dies.map (fun d => { d with stretch := d.stretch + 1 })
                    power := { s.power with relaxAt := s.now } }
  if idle then t.post 0 .stretchRelax else t

/-- The sum of the samples of the last millisecond is above, or below, the limit. -/
def Power.above (p : Power) : Bool := decide (p.limit * p.samples.length < p.samples.sum)
def Power.below (p : Power) : Bool := decide (p.samples.sum < p.limit * p.samples.length) || p.samples.isEmpty

/-- A sample of the input power, every 100 µs (R18): once the average over the last 1 ms exceeds the limit in force,
each sample stretches the clocks by a step until the average falls below it. -/
def execPowerSample (watts : Nat) (s : State) : Host.Outcome State Fault Refusal :=
  let t := { s with power := { s.power with samples := (watts :: s.power.samples).take 10 } }
  let high := t.power.above || s.power.exceeded && !t.power.below
  let t := { t with power := { t.power with exceeded := high } }
  .next (if high then t.stretchMore else t)

/-- Once the average has fallen below the limit and the junction is cool, the stretch is relaxed by a step each
millisecond (R18, R20). -/
def execStretchRelax (s : State) : Host.Outcome State Fault Refusal :=
  if s.dies.toList.all (fun (d : Die) => d.stretch == 0) then .next s
  else if s.now < s.power.relaxAt + 1000000 ∨ s.power.exceeded ∨ s.power.hot then .next (s.post 0 .stretchRelax)
  else
    let dies := s.dies.map (fun d => { d with stretch := d.stretch - 1 })
    .next ({ s with dies := dies, power := { s.power with relaxAt := s.now } }.post 0 .stretchRelax)

/-- A droop detector reports the local supply (R19): below DROOPTH the clock period of its die is stretched; once no
detector of the die reads low, the stretch ends 256 cycles later. The unit is the detector, 64 to a die. -/
def execDroopDetect (mv : Nat) (s : State) : Host.Outcome State Fault Refusal :=
  let d : Fin 4 := Fin.ofNat 4 (s.cur / 64)
  let bit : BitVec 64 := 1 <<< (s.cur % 64)
  let x := s.die d
  if mv < s.power.droopth.toNat then
    .next (s.modDie d (fun x => { x with droop := true, low := x.low ||| bit, droopEnd := 0 }))
  else
    let left := x.low &&& ~~~bit
    let s := s.modDie d (fun x => { x with low := left })
    if x.droop ∧ left = 0 ∧ x.droopEnd = 0 then
      .next ((s.modDie d (fun x => { x with droopEnd := x.cycle + 256 })).post d.val .droopRelease)
    else .next s

/-- 256 cycles after the supply has recovered, the droop stretch is released (R19). The unit is the die. -/
def execDroopRelease (s : State) : Host.Outcome State Fault Refusal :=
  let d : Fin 4 := Fin.ofNat 4 s.cur
  let x := s.die d
  if !x.droop ∨ x.droopEnd = 0 then .next s
  else if x.cycle < x.droopEnd then .next (s.post d.val .droopRelease)
  else .next (s.modDie d (fun x => { x with droop := false, droopEnd := 0 }))

/-- The junction temperature is reported (R20): from 100 °C on the clock is stretched as under R18. -/
def execThermalThrottle (tempC : Nat) (s : State) : Host.Outcome State Fault Refusal :=
  if 100 ≤ tempC then .next ({ s with power := { s.power with hot := true } }.stretchMore)
  else .next { s with power := { s.power with hot := false } }

/-- The junction reaches 115 °C (R20): all launches end, the host is told, and the compute dies lose their power. -/
def execThermalTrip (s : State) : Host.Outcome State Fault Refusal :=
  let t := (s.endAll (fun _ _ _ => true) 5).event 2 0 (bytesOfNat 8 s.now ++ bytesOfNat 8 0)
  .next { t with dies := t.dies.map (fun d => { d with power := false }) }

end Sys2Proof.Machine
end

