-- ==== Sys2Proof/Machine/Scalar.lean ====
section
/-! DEFINITION. Scalar integer instructions (R275 to R280) and scalar floating point (R281 to R286). -/
namespace Sys2Proof.Machine

/-! ### Integer operations on 64-bit values (R187, R275 to R277) -/

/-- Signed quotient toward zero (R187). -/
def divS (a b : Word) : Word := if b = 0 then BitVec.allOnes 64 else BitVec.ofInt 64 (Int.tdiv a.toInt b.toInt)
/-- Signed remainder, with the sign of the dividend (R187). -/
def remS (a b : Word) : Word := if b = 0 then a else BitVec.ofInt 64 (Int.tmod a.toInt b.toInt)
def divU (a b : Word) : Word := if b = 0 then BitVec.allOnes 64 else a / b
def remU (a b : Word) : Word := if b = 0 then a else a % b
def mulhS (a b : Word) : Word := BitVec.ofInt 64 (a.toInt * b.toInt / 2 ^ 64)
def mulhU (a b : Word) : Word := BitVec.ofNat 64 (a.toNat * b.toNat / 2 ^ 64)
/-- Shifts by a whole operand, read unsigned (R187). -/
def shlW (a : Word) (n : Nat) : Word := if 64 ≤ n then 0 else a <<< n
def shrW (a : Word) (n : Nat) : Word := if 64 ≤ n then 0 else a >>> n
def sarW (a : Word) (n : Nat) : Word := BitVec.sshiftRight a (Nat.min n 63)
def rotW (a : Word) (n : Nat) : Word := a.rotateLeft (n % 64)
def minS (a b : Word) : Word := if b.slt a then b else a
def maxS (a b : Word) : Word := if a.slt b then b else a
def minU (a b : Word) : Word := if b.ult a then b else a
def maxU (a b : Word) : Word := if a.ult b then b else a
/-- Counts of bits (R276). -/
def clzW (a : Word) : Nat := if a = 0 then 64 else 63 - Nat.log2 a.toNat
def ctzW (a : Word) : Nat := ((List.range 64).find? (fun i => a.getLsbD i)).getD 64
def popW (a : Word) : Nat := (List.range 64).countP (fun i => a.getLsbD i)

/-- The bits that a bit-field instruction takes: offset and count, none when it takes nothing (R277). -/
def fieldOf (o w : Word) : Option (Nat × Nat) :=
  let n := Nat.min w.toNat 64
  if n = 0 ∨ 64 ≤ o.toNat then none else some (o.toNat, Nat.min (o.toNat + n) 64 - o.toNat)
def bfxW (a o w : Word) : Word :=
  match fieldOf o w with
  | none => 0
  | some (o, n) => BitVec.ofNat 64 (a.toNat >>> o % 2 ^ n)
def bfxsW (a o w : Word) : Word :=
  match fieldOf o w with
  | none => 0
  | some (o, n) => sext64 n (a.toNat >>> o % 2 ^ n)
def bfiW (d a o w : Word) : Word :=
  match fieldOf o w with
  | none => d
  | some (o, n) => putBits d o n (a.toNat % 2 ^ n)

/-- An operation on two registers (R275). -/
def binary (g : Guard) (d a b : SReg) (f : Word → Word → Word) (s : State) : Host.Outcome State Fault Refusal :=
  plain g s (fun s => s.wS d (f (s.rS a) (s.rS b)))
/-- An operation on a register and an immediate (R279). -/
def immediate (g : Guard) (d a : SReg) (i : BitVec 34) (f : Word → Word → Word) (s : State) :
    Host.Outcome State Fault Refusal :=
  plain g s (fun s => s.wS d (f (s.rS a) (i.signExtend 64)))
/-- A shift by an immediate, read unsigned (R279). -/
def shiftImm (g : Guard) (d a : SReg) (i : BitVec 34) (f : Word → Nat → Word) (s : State) :
    Host.Outcome State Fault Refusal :=
  plain g s (fun s => s.wS d (f (s.rS a) i.toNat))

/-- ADD (R275). -/
def execAdd (g : Guard) (d a b : SReg) (s : State) : Host.Outcome State Fault Refusal :=
  binary g d a b (· + ·) s

/-- SUB (R275). -/
def execSub (g : Guard) (d a b : SReg) (s : State) : Host.Outcome State Fault Refusal :=
  binary g d a b (· - ·) s

/-- MUL (R275). -/
def execMul (g : Guard) (d a b : SReg) (s : State) : Host.Outcome State Fault Refusal :=
  binary g d a b (· * ·) s

/-- MULH (R275). -/
def execMulh (g : Guard) (d a b : SReg) (s : State) : Host.Outcome State Fault Refusal :=
  binary g d a b mulhS s

/-- MULHU (R275). -/
def execMulhu (g : Guard) (d a b : SReg) (s : State) : Host.Outcome State Fault Refusal :=
  binary g d a b mulhU s

/-- DIV (R275). -/
def execDiv (g : Guard) (d a b : SReg) (s : State) : Host.Outcome State Fault Refusal :=
  binary g d a b divS s

/-- DIVU (R275). -/
def execDivu (g : Guard) (d a b : SReg) (s : State) : Host.Outcome State Fault Refusal :=
  binary g d a b divU s

/-- REM (R275). -/
def execRem (g : Guard) (d a b : SReg) (s : State) : Host.Outcome State Fault Refusal :=
  binary g d a b remS s

/-- REMU (R275). -/
def execRemu (g : Guard) (d a b : SReg) (s : State) : Host.Outcome State Fault Refusal :=
  binary g d a b remU s

/-- AND (R275). -/
def execAnd (g : Guard) (d a b : SReg) (s : State) : Host.Outcome State Fault Refusal :=
  binary g d a b (· &&& ·) s

/-- OR (R275). -/
def execOr (g : Guard) (d a b : SReg) (s : State) : Host.Outcome State Fault Refusal :=
  binary g d a b (· ||| ·) s

/-- XOR (R275). -/
def execXor (g : Guard) (d a b : SReg) (s : State) : Host.Outcome State Fault Refusal :=
  binary g d a b (· ^^^ ·) s

/-- ANDN (R275). -/
def execAndn (g : Guard) (d a b : SReg) (s : State) : Host.Outcome State Fault Refusal :=
  binary g d a b (fun x y => x &&& ~~~y) s

/-- SHL (R275). -/
def execShl (g : Guard) (d a b : SReg) (s : State) : Host.Outcome State Fault Refusal :=
  binary g d a b (fun x y => shlW x y.toNat) s

/-- SHR (R275). -/
def execShr (g : Guard) (d a b : SReg) (s : State) : Host.Outcome State Fault Refusal :=
  binary g d a b (fun x y => shrW x y.toNat) s

/-- SAR (R275). -/
def execSar (g : Guard) (d a b : SReg) (s : State) : Host.Outcome State Fault Refusal :=
  binary g d a b (fun x y => sarW x y.toNat) s

/-- ROT (R275). -/
def execRot (g : Guard) (d a b : SReg) (s : State) : Host.Outcome State Fault Refusal :=
  binary g d a b (fun x y => rotW x y.toNat) s

/-- MIN (R275). -/
def execMin (g : Guard) (d a b : SReg) (s : State) : Host.Outcome State Fault Refusal :=
  binary g d a b minS s

/-- MAX (R275). -/
def execMax (g : Guard) (d a b : SReg) (s : State) : Host.Outcome State Fault Refusal :=
  binary g d a b maxS s

/-- MINU (R275). -/
def execMinu (g : Guard) (d a b : SReg) (s : State) : Host.Outcome State Fault Refusal :=
  binary g d a b minU s

/-- MAXU (R275). -/
def execMaxu (g : Guard) (d a b : SReg) (s : State) : Host.Outcome State Fault Refusal :=
  binary g d a b maxU s

/-- CLZ (R276). -/
def execClz (g : Guard) (d a : SReg) (s : State) : Host.Outcome State Fault Refusal :=
  plain g s (fun s => s.wS d (BitVec.ofNat 64 (clzW (s.rS a))))

/-- CTZ (R276). -/
def execCtz (g : Guard) (d a : SReg) (s : State) : Host.Outcome State Fault Refusal :=
  plain g s (fun s => s.wS d (BitVec.ofNat 64 (ctzW (s.rS a))))

/-- POPC (R276). -/
def execPopc (g : Guard) (d a : SReg) (s : State) : Host.Outcome State Fault Refusal :=
  plain g s (fun s => s.wS d (BitVec.ofNat 64 (popW (s.rS a))))

/-- BFX (R277). -/
def execBfx (g : Guard) (d a b c : SReg) (s : State) : Host.Outcome State Fault Refusal :=
  plain g s (fun s => s.wS d (bfxW (s.rS a) (s.rS b) (s.rS c)))

/-- BFXS (R277). -/
def execBfxs (g : Guard) (d a b c : SReg) (s : State) : Host.Outcome State Fault Refusal :=
  plain g s (fun s => s.wS d (bfxsW (s.rS a) (s.rS b) (s.rS c)))

/-- BFI (R277). -/
def execBfi (g : Guard) (d a b c : SReg) (s : State) : Host.Outcome State Fault Refusal :=
  plain g s (fun s => s.wS d (bfiW (s.rS d) (s.rS a) (s.rS b) (s.rS c)))

/-- SEL (R278). -/
def execSel (g : Guard) (d a b : SReg) (c : PReg) (s : State) : Host.Outcome State Fault Refusal :=
  plain g s (fun s => s.wS d (if s.rP c then s.rS a else s.rS b))

/-- CMP (R278, R216). -/
def execCmp (g : Guard) (c : ICond) (d : PReg) (a b : SReg) (s : State) : Host.Outcome State Fault Refusal :=
  plain g s (fun s => s.wP d (icond c (s.rS a) (s.rS b)))

/-- ADDI (R279). -/
def execAddi (g : Guard) (d a : SReg) (i : BitVec 34) (s : State) : Host.Outcome State Fault Refusal :=
  immediate g d a i (· + ·) s

/-- ANDI (R279). -/
def execAndi (g : Guard) (d a : SReg) (i : BitVec 34) (s : State) : Host.Outcome State Fault Refusal :=
  immediate g d a i (· &&& ·) s

/-- ORI (R279). -/
def execOri (g : Guard) (d a : SReg) (i : BitVec 34) (s : State) : Host.Outcome State Fault Refusal :=
  immediate g d a i (· ||| ·) s

/-- XORI (R279). -/
def execXori (g : Guard) (d a : SReg) (i : BitVec 34) (s : State) : Host.Outcome State Fault Refusal :=
  immediate g d a i (· ^^^ ·) s

/-- MULI (R279). -/
def execMuli (g : Guard) (d a : SReg) (i : BitVec 34) (s : State) : Host.Outcome State Fault Refusal :=
  immediate g d a i (· * ·) s

/-- SHLI (R279). -/
def execShli (g : Guard) (d a : SReg) (i : BitVec 34) (s : State) : Host.Outcome State Fault Refusal :=
  shiftImm g d a i shlW s

/-- SHRI (R279). -/
def execShri (g : Guard) (d a : SReg) (i : BitVec 34) (s : State) : Host.Outcome State Fault Refusal :=
  shiftImm g d a i shrW s

/-- SARI (R279). -/
def execSari (g : Guard) (d a : SReg) (i : BitVec 34) (s : State) : Host.Outcome State Fault Refusal :=
  shiftImm g d a i sarW s

/-- CMPI (R279, R216). -/
def execCmpi (g : Guard) (c : ICond) (d : PReg) (a : SReg) (i : BitVec 34) (s : State) : Host.Outcome State Fault Refusal :=
  plain g s (fun s => s.wP d (icond c (s.rS a) (i.signExtend 64)))

/-- LEA: CODEVA + PC + sext(I) (R280). -/
def execLea (g : Guard) (d : SReg) (i : BitVec 34) (s : State) : Host.Outcome State Fault Refusal :=
  plain g s (fun s =>
    s.wS d (BitVec.ofNat 64 ((s.curLaunch.map (·.codeva)).getD 0) + s.st.pc + i.signExtend 64))

/-- MOVI (R280). -/
def execMovi (g : Guard) (d : SReg) (i : BitVec 34) (s : State) : Host.Outcome State Fault Refusal :=
  plain g s (fun s => s.wS d (i.signExtend 64))

/-- MOVHI (R280). -/
def execMovhi (g : Guard) (d : SReg) (i : BitVec 30) (s : State) : Host.Outcome State Fault Refusal :=
  plain g s (fun s => s.wS d (i ++ (s.rS d).extractLsb' 0 34))

/-- MOVX: two words (R280, R200). -/
def execMovx (g : Guard) (d : SReg) (imm : Word) (s : State) : Host.Outcome State Fault Refusal :=
  guarded g 16 s (fun s => .ok ((s.wS d imm).adv 16))

/-! ### Floating point (R281 to R286) -/

/-- A scalar result with its flags: FPX, or the register written and the flags ORed (R281). -/
def fpResult (g : Guard) (t : Fmt) (d : SReg) (f : State → Nat × FFlags) (s : State) : Host.Outcome State Fault Refusal :=
  guarded g 8 s (fun s => (s.withFlags (f s).2 (fun s' => s'.wS d (resultWord t (f s).1))).map (fun s => s.adv 8))
/-- The value of a scalar operand (R265). -/
def State.fop (s : State) (t : Fmt) (r : SReg) : FVal := fval t (operandBits t (s.rS r))

/-- FADD (R282). -/
def execFadd (g : Guard) (t : Fmt) (m : Rm) (d a b : SReg) (s : State) : Host.Outcome State Fault Refusal :=
  fpResult g t d (fun s => fadd t (s.rm m) (s.fop t a) (s.fop t b)) s

/-- FSUB (R282). -/
def execFsub (g : Guard) (t : Fmt) (m : Rm) (d a b : SReg) (s : State) : Host.Outcome State Fault Refusal :=
  fpResult g t d (fun s => fadd t (s.rm m) (s.fop t a) (s.fop t b).flip) s

/-- FMUL (R282). -/
def execFmul (g : Guard) (t : Fmt) (m : Rm) (d a b : SReg) (s : State) : Host.Outcome State Fault Refusal :=
  fpResult g t d (fun s => fmul t (s.rm m) (s.fop t a) (s.fop t b)) s

/-- FDIV (R282). -/
def execFdiv (g : Guard) (t : Fmt) (m : Rm) (d a b : SReg) (s : State) : Host.Outcome State Fault Refusal :=
  fpResult g t d (fun s => fdiv t (s.rm m) (s.fop t a) (s.fop t b)) s

/-- FFMA: one rounding (R282). -/
def execFfma (g : Guard) (t : Fmt) (m : Rm) (d a b c : SReg) (s : State) : Host.Outcome State Fault Refusal :=
  fpResult g t d (fun s => ffma t (s.rm m) (s.fop t a) (s.fop t b) (s.fop t c)) s

/-- FSQRT (R282). -/
def execFsqrt (g : Guard) (t : Fmt) (m : Rm) (d a : SReg) (s : State) : Host.Outcome State Fault Refusal :=
  fpResult g t d (fun s => fsqrt t (s.rm m) (s.fop t a)) s

/-- FMIN (R283). -/
def execFmin (g : Guard) (t : Fmt) (d a b : SReg) (s : State) : Host.Outcome State Fault Refusal :=
  fpResult g t d (fun s => fminmax t false (operandBits t (s.rS a)) (operandBits t (s.rS b))) s

/-- FMAX (R283). -/
def execFmax (g : Guard) (t : Fmt) (d a b : SReg) (s : State) : Host.Outcome State Fault Refusal :=
  fpResult g t d (fun s => fminmax t true (operandBits t (s.rS a)) (operandBits t (s.rS b))) s

/-- FCMP (R284, R216). -/
def execFcmp (g : Guard) (t : Fmt) (c : FCond) (d : PReg) (a b : SReg) (s : State) : Host.Outcome State Fault Refusal :=
  guarded g 8 s (fun s =>
    let r := fcond c (s.fop t a) (s.fop t b)
    (s.withFlags r.2 (fun s => s.wP d r.1)).map (fun s => s.adv 8))

/-- FCVT (R285, R186). -/
def execFcvt (g : Guard) (t : Fmt) (src : Fmt) (m : Rm) (d a : SReg) (s : State) : Host.Outcome State Fault Refusal :=
  fpResult g t d (fun s => convert t src (s.rm m) (operandBits src (s.rS a))) s

/-- FCLASS (R284). -/
def execFclass (g : Guard) (t : Fmt) (d a : SReg) (s : State) : Host.Outcome State Fault Refusal :=
  plain g s (fun s => s.wS d (BitVec.ofNat 64 (fclass t (operandBits t (s.rS a)))))

/-- FEXP (R286, R196). -/
def execFexp (g : Guard) (t : Fmt) (m : Rm) (d a : SReg) (s : State) : Host.Outcome State Fault Refusal :=
  fpResult g t d (fun s => crExp t (s.rm m) (operandBits t (s.rS a))) s

/-- FLOG (R286, R196). -/
def execFlog (g : Guard) (t : Fmt) (m : Rm) (d a : SReg) (s : State) : Host.Outcome State Fault Refusal :=
  fpResult g t d (fun s => crLn t (s.rm m) (operandBits t (s.rS a))) s

/-- FERF (R286, R196). -/
def execFerf (g : Guard) (t : Fmt) (m : Rm) (d a : SReg) (s : State) : Host.Outcome State Fault Refusal :=
  fpResult g t d (fun s => crErf t (s.rm m) (operandBits t (s.rS a))) s

/-- FERFC (R286, R196). -/
def execFerfc (g : Guard) (t : Fmt) (m : Rm) (d a : SReg) (s : State) : Host.Outcome State Fault Refusal :=
  fpResult g t d (fun s => crErfc t (s.rm m) (operandBits t (s.rS a))) s

/-- FSGN: the sign bit alone (R284). -/
def execFsgn (g : Guard) (t : Fmt) (op : SgnOp) (d a : SReg) (s : State) : Host.Outcome State Fault Refusal :=
  plain g s (fun s =>
    s.wS d (BitVec.ofNat 64 (fsgn t op (operandBits t (s.rS a)) (operandBits t (s.rS op.b)))))

end Sys2Proof.Machine
end

