-- ==== Sys2Proof/Machine/Time.lean ====
section
/-! DEFINITION. PTP time and exchange ticks (R9, R14 to R16), the exchange ports and what crosses chips (R8, R15, R48, R86,
R157). -/
namespace Sys2Proof.Machine

/-! ### PTP (R9, R16) -/

/-- A PTP message arrives on a port and gives a correction in ns (R9, R16): one of at most 100 ns is left to be
slewed; a larger one is a step, which stops the tick generator at the end of the current tick, holds delivery and
raises TICK_STEP. The timestamps and delay mechanisms of R9 have given the correction (log 13); either clock role
applies it. -/
def execPtpMessage (port : Nat) (correction : Int) (s : State) : Host.Outcome State Fault Refusal :=
  if 10 ≤ port then .next s
  else if correction.natAbs ≤ 100 then .next { s with time := { s.time with slew := s.time.slew + correction } }
  else
    let t := { s.time with ptp := ((s.time.ptp : Int) + correction).toNat, hold := true, stepAt := some s.time.tick.toNat }
    .next ({ s with time := t, supEvents := s.supEvents ++ [SupEvent.tickStep correction.natAbs] }.event 6 0
      (bytesOfNat 8 correction.natAbs ++ bytesOfNat 8 0))

/-! ### What leaves (R8, R15, R157) -/

/-- Payload bytes of an item, in flits of 64 bytes (the reference gives no layout). -/
def xcBytes (i : XcItem) : Nat :=
  match i.body with
  | .deposit _ tile _ => 128 + roundUp tile.length 64
  | .cover .. | .join .. => 128
  | .stealGrant .. => 192
  | .msg .. => 128
  | _ => 64

/-- An exchange port has its link up and PTP locked (R21). -/
def State.portUp (s : State) (p : Fin 8) : Bool := s.boot.ready1.getLsbD (34 + p.val)

/-- Items that leave in one tick, in the order of their release (R15): a port carries at most `cap` bytes, of which
`room` are left, and `part` bytes of its first item have left before; what does not fit stays. With no limit (`none`)
every item of a port that is up leaves. -/
def flushOut (up : Fin 8 → Bool) (limited : Bool) :
    List XcItem → Vector Nat 8 → Vector Nat 8 → List (Fin 8) → List (Nat × XFrame) × List XcItem × Vector Nat 8
  | [], _, part, _ => ([], [], part)
  | i :: t, room, part, stuck =>
    let p := Config.xcPort i.chip
    if !up p || has stuck p then
      let (o, l, q) := flushOut up limited t room part (p :: stuck)
      (o, i :: l, q)
    else
      let left := xcBytes i - part[p]
      if !limited || decide (left ≤ room[p]) then
        let (o, l, q) := flushOut up limited t (room.set p (room[p] - left)) (part.set p 0) stuck
        ((p.val, .items 0 [i]) :: o, l, q)
      else
        let (o, l, q) := flushOut up limited t (room.set p 0) (part.set p (part[p] + room[p])) (p :: stuck)
        (o, i :: l, q)

/-- Waiting items leave under the EtherType of XETYPE (R8). -/
def State.sendOut (s : State) (limited : Bool) : State :=
  let cap := s.time.tickp.toNat * 200
  let (o, l, q) := flushOut s.portUp limited s.time.xout (Vector.replicate 8 cap) s.time.part []
  let out := o.map (fun (e : Nat × XFrame) => match e.2 with
    | .items _ x => (e.1, XFrame.items s.time.xetype.toNat x)
    | f => (e.1, f))
  { s with time := { s.time with xout := l, part := q, frames := s.time.frames ++ out } }

/-- What has been released on XC and has not left: the chip that it goes to and its release tick, of the items that wait
for a port and of the messages still in a send buffer. -/
def State.unsent (s : State) : List (Nat × Nat) :=
  s.time.xout.map (fun (i : XcItem) => (i.chip, i.tick)) ++
    s.strands.flatMap (fun (e : Nat × Strand) =>
      ((e.2.send[0] ++ e.2.send[1]).filter (fun (m : SendItem) => m.xc && m.released)).map (fun (m : SendItem) =>
        (m.msg.dest.toNat / 1024, m.tick)))

/-- End-of-tick flits on every port, after the last item of each tick before `n` (R157). -/
def State.endTicks (s : State) (n : Nat) : State :=
  (List.finRange 8).foldl (fun (s : State) p =>
    let first := (s.unsent.filter (fun (i : Nat × Nat) => Config.xcPort i.1 == p)).foldl (fun (m : Nat) i => Nat.min m i.2) n
    let from_ := s.time.sent[p]
    if !s.portUp p ∨ first ≤ from_ then s
    else
      let out := (List.range (first - from_)).map (fun k => (p.val, XFrame.endOfTick s.time.xetype.toNat (from_ + k)))
      { s with time := { s.time with sent := s.time.sent.set p first, frames := s.time.frames ++ out } }) s

/-! ### What is delivered (R86, R155, R157) -/

/-- A record that crosses chips with a grant: its 128 bytes, then the mask of R62, the mark of SPAWN, and what its unit
header gave when it was made (R230), which the record has no place for. -/
def TaskRec.far (r : TaskRec) : List Byte :=
  r.bytes ++ [r.mask.setWidth 8, BitVec.ofNat 8 (b2n r.spawned), BitVec.ofNat 8 (b2n r.hdrOk)]
    ++ bytesOfNat 2 r.foot.toNat ++ bytesOfNat 8 r.hdr.toNat

/-- The kind of a code (R76). -/
def kindOf (n : Nat) : Kind :=
  match n with
  | 0 => .rule
  | 1 => .leaf
  | 2 => .handler
  | _ => .cont

/-- A record read from such bytes: it keeps what was fixed when it was made (R76, R230). -/
def recOf (l : List Byte) : TaskRec :=
  let c := leAt l 0x44 1
  { box := boxOfBytes (l.take 64), pc := BitVec.ofNat 32 (leAt l 0x40 4), kind := kindOf (c % 4)
    role := BitVec.ofNat 2 (c / 4), fitSd := c / 16 % 2 == 1, wait := c / 32 % 2 == 1, req := c / 64 % 2 == 1
    exp := c / 128 % 2 == 1, relay := BitVec.ofNat 8 (leAt l 0x45 1), jref := BitVec.ofNat 48 (leAt l 0x46 6)
    launch := BitVec.ofNat 32 (leAt l 0x4C 4)
    args := Vector.ofFn (fun i : Fin 4 => BitVec.ofNat 64 (leAt l (0x50 + 8 * i.val) 8))
    wctr := BitVec.ofNat 64 (leAt l 0x70 8), wtgt := BitVec.ofNat 64 (leAt l 0x78 8), mask := BitVec.ofNat 6 (leAt l 128 1)
    spawned := leAt l 129 1 % 2 == 1, hdrOk := leAt l 130 1 % 2 == 1, foot := BitVec.ofNat 16 (leAt l 131 2)
    hdr := BitVec.ofNat 64 (leAt l 133 8) }

/-- A cross-chip steal request is answered by the core that hosts local logical core 0 (R86); a continuation whose tiles
have no place to stay in is not given (log 38). -/
def State.answerFar (s : State) (ctx thief : Nat) : State :=
  let deny := s.xcSend (lcKey ctx 0) (thief / 1024) (.stealDeny thief)
  match s.answerSteal ctx (s.host ctx 0) with
  | .ok (r, s) =>
    match s.pinCont ctx r with
    | some (r, s) => s.xcSend (lcKey ctx 0) (thief / 1024) (.stealGrant thief r.far)
    | none => deny
  | .error _ => deny

/-- An arrival of another chip reaches its home (R256). -/
def State.arriveFar (s : State) (ctx va n lcore mark : Nat) : State :=
  let core := s.host ctx 0
  let ea : Word := BitVec.ofNat 64 va
  if s.barHit core ctx ea then s.endLaunch ctx 1 else
  let (f, g, t) := s.arriveHome core ctx .sys ea n
  let won := match t.xlate core ctx va with
    | .ok x => f == 0 && (t.barRead (x.pa (dieOf core))).2.1 != g
    | .error _ => false
  t.xcSend (lcKey ctx 0) (lcore / 1024) (.barReply mark va g (if won then 9 else f))

/-- A withdrawal of another chip reaches its home (R155, R256). -/
def State.withdrawFar (s : State) (ctx va gen lcore mark : Nat) : State :=
  if s.barHit (s.host ctx 0) ctx (BitVec.ofNat 64 va) then s.endLaunch ctx 1 else
  let (ok, t) := s.withdraw (s.host ctx 0) ctx ⟨.sys, BitVec.ofNat 64 va, gen, false, true, 0⟩
  t.xcSend (lcKey ctx 0) (lcore / 1024) (.barReply mark va gen (if ok then 8 else 9))

/-- The home's answer reaches the strand that the mark names (R155, R257): an arrival that its task has left behind is
withdrawn. -/
def State.replyFar (s : State) (ctx mark va gen detail : Nat) : State :=
  let k := markStrand mark
  let mine := fun (a : Arrival) => a.scope == .sys && a.va == BitVec.ofNat 64 va && !a.done && a.fail == 0
    && (if 8 ≤ detail && a.reply then a.gen == gen else !a.reply)
  let new := fun (a : Arrival) =>
    if detail = 9 then { a with reply := true, gen := gen, done := true }
    else if detail = 0 then { a with reply := true, gen := gen }
    else { a with reply := true, fail := detail }
  let here := s.mark k == mark && ((s.strand k).task.map (fun (t : Task) => t.ctx)) == some ctx
    && (s.strand k).arr.toList.any (fun a => (a.map mine).getD false)
  if here then
    let t := s.modStrand k (fun t =>
      { t with arr := t.arr.map (fun a => a.map (fun a => if mine a then new a else a)) })
    if detail = 9 then t.drain (dieF (coreOf k)) else t
  else if detail = 0 then s.xcSend (lcKey ctx 0) 0 (.barWithdraw va gen (s.globalLc (lcKey ctx 0)) nobody)
  else s

/-- A system-scope generation has completed at its home (R155): its participants here are told. -/
def State.completeFar (s : State) (ctx va gen : Nat) : State :=
  (s.members ctx (BitVec.ofNat 64 va) gen).foldl (fun (s : State) k =>
    (s.modStrand k (fun t =>
      { t with arr := t.arr.map (fun a => a.map (fun (a : Arrival) =>
          if a.scope = .sys ∧ a.va = BitVec.ofNat 64 va ∧ a.gen = gen ∧ a.reply then { a with done := true } else a)) })).drain
      (dieF (coreOf k))) s

/-- A record granted by another chip reaches the thief (R85, R86); a deque without room for it makes it wait (log 34). -/
def State.grantFar (s : State) (k : Nat) (r : TaskRec) : State :=
  let t := s.modThief k (fun t => { t with xreq := false, fails := 0, notBefore := 0 })
  (t.arriveRec k r).getD ((t.modThief k (fun t => { t with grant := some r })).post k .stealGrant)

/-- A static record that another chip's split creates is written here, unless it has been (R65); without room in the
tile heap (log 37), and where the read meets an uncorrectable error (R135), the launch ends KILLED. -/
def State.joinFar (s : State) (ctx : Nat) (l : Launch) (va : Nat) (box : BoxImg) (parent : BitVec 48)
    (cont : Option (BitVec 32)) (arrival : Bool) : State :=
  match s.ctx? ctx with
  | none => s
  | some c =>
    let d := dieF (s.hostOf (lcKey ctx (joinOwner c l va)))
    let s := s.drain d
    if s.dieHit d ctx va 64 then s.endLaunch ctx 1
    else if !s.joinFresh d ctx va then s
    else
      match s.openJoin d ctx l va true box parent cont arrival with
      | .ok s => s
      | .error _ => s.endLaunch ctx 1

/-- An item takes effect on this chip (R157). -/
def State.deliver (s : State) (l : Launch) (i : XcItem) : State :=
  let ctx := i.ctx
  let key := fun (n : Nat) => lcKey ctx (n - l.chipno * 1024)
  match i.body with
  | .msg dest vn hpc src seq vals key =>
    let m : Msg := ⟨BitVec.ofNat 32 dest, vn == 1, BitVec.ofNat 4 ctx, BitVec.ofNat 32 hpc, BitVec.ofNat 32 src, seq, vals, key⟩
    let core := s.host ctx (dest % 1024)
    (s.modCore core (fun c => { c with inbound := c.inbound ++ [(farSender, m)] })).post core .messageArrival
  | .deposit j t b => s.toSplicer (lcKey ctx 0) j (.deposit ctx j t b nobody)
  | .cover j b => s.toSplicer (lcKey ctx 0) j (.cover ctx j b)
  | .join j b p c a => s.joinFar ctx l j b p c a
  | .stealReq thief => s.answerFar ctx thief
  | .stealGrant thief r => s.grantFar (key thief) (recOf r)
  | .stealDeny thief => s.modThief (key thief) (fun t => { t with xreq := false })
  | .barArrive va n lcore mark => s.arriveFar ctx va n lcore mark
  | .barWithdraw va gen lcore mark => s.withdrawFar ctx va gen lcore mark
  | .barReply mark va gen detail => s.replyFar ctx mark va gen detail
  | .barComplete va gen => s.completeFar ctx va gen

/-- An item is delivered, kept until its launch begins, or discarded (R157). -/
def State.deliverOr (s : State) (i : XcItem) : State :=
  match s.ctx? i.ctx with
  | none => s
  | some c =>
    if c.number < i.launch then { s with time := { s.time with xin := s.time.xin ++ [i] } }
    else
      match c.launch with
      | none => s
      | some l => if i.launch = c.number ∧ i.chip = l.chipno then s.deliver l i else s

/-- The order of delivery (R157). -/
def itemBefore (a b : XcItem) : Bool :=
  decide (a.tick < b.tick) || a.tick == b.tick && (decide (a.srcCore < b.srcCore)
    || a.srcCore == b.srcCore && decide (a.xseq ≤ b.xseq))

def insItem (a : XcItem) : List XcItem → List XcItem
  | [] => [a]
  | b :: t => if itemBefore a b then a :: b :: t else b :: insItem a t

def sortItems (l : List XcItem) : List XcItem := l.foldl (fun r a => insItem a r) []

/-- The release tick up to which groups may be delivered at boundary `n`: a group needs every port's end-of-tick flit. -/
def groupTo (ends : List Nat) (n : Nat) : Nat → Nat → Nat
  | 0, g => g
  | f + 1, g => if g + 2 ≤ n && ends.all (fun e => decide (g < e)) then groupTo ends n f (g + 1) else g

/-- Delivery at the boundary that begins tick `n` (R157): groups in order; at tick 0 everything that came before. -/
def State.deliverAt (s : State) (n : Nat) : State :=
  let ends := ((List.finRange 8).filter (fun p => s.portUp p)).map (fun p => s.time.ended[p])
  let g := groupTo ends n n s.time.group
  let due := fun (i : XcItem) => n == 0 || decide (i.tick < g)
  let now := sortItems (s.time.xin.filter due)
  let s := { s with time := { s.time with group := g, xin := s.time.xin.filter (fun i => !due i) } }
  now.foldl (fun (s : State) i => s.deliverOr i) s

/-! ### Ticks (R14 to R16) -/

/-- The tick that begins next. -/
def Time.next (t : Time) : Nat := if t.started then t.tick.toNat + 1 else 0

/-- The ports that have missed two ticks at the boundary that begins tick `n` (R48): the flits of the two ticks before
the last have not come, from a neighbour that has ticked before (log 12). -/
def State.missedPorts (s : State) (n : Nat) : List (Fin 8) :=
  (List.finRange 8).filter (fun p => s.portUp p && decide (0 < s.time.ended[p]) && decide (s.time.ended[p] + 3 ≤ n))

/-- PTP time reaches the next boundary (R14, R15, R157): TICK reads the new tick, what was released leaves within the
limit of the tick that ends, end-of-tick flits follow, and groups are delivered; a port that has missed two ticks is
lost (R48). A PTP step stops the generator (R16). -/
def execTickBoundary (s : State) : Host.Outcome State Fault Refusal :=
  let n := s.time.next
  if s.time.stepAt.isSome then .next s
  else if s.time.ptp < s.time.tstart.toNat + n * s.time.tickp.toNat then
    .next ((if s.time.started then s else s.sendOut false).post 0 .tickBoundary)
  else
    let s := if s.time.started then (s.sendOut true).endTicks n else s.sendOut false
    let s := { s with time := { s.time with tick := BitVec.ofNat 64 n, started := true } }
    let s := s.posts ((s.missedPorts n).map (fun p => (p.val, Instr.exchangeLinkLoss)))
    .next ((if s.time.hold then s else s.deliverAt n).post 0 .tickBoundary)

/-! ### Exchange ports (R8, R48) -/

/-- The EtherType of PTP. -/
def ptpType : Nat := 0x88F7

/-- A frame arrives on an exchange port (R8, R157): items and end-of-tick flits are taken; a frame of another EtherType
that is not PTP is counted and discarded. -/
def execExchangeFrameRx (port : Fin 8) (f : XFrame) (s : State) : Host.Outcome State Fault Refusal :=
  let drop := { s with time := { s.time with discards := s.time.discards + 1 } }
  match f with
  | .items e l =>
    if e = s.time.xetype.toNat then .next { s with time := { s.time with xin := s.time.xin ++ l } }
    else if e = ptpType then .next s
    else .next drop
  | .endOfTick e n =>
    if e = s.time.xetype.toNat then
      .next { s with time := { s.time with ended := s.time.ended.set port (Nat.max s.time.ended[port] (n + 1)) } }
    else if e = ptpType then .next s
    else .next drop
  | .other e => if e = ptpType then .next s else .next drop

/-- An exchange port loses its link or misses two ticks (R23, R48): every launch with other chips ends FUNC_LOST,
delivery is held, the port's bit clears, unless bring-up still runs (R23), and the host is told. The unit is the port. -/
def execExchangeLinkLoss (s : State) : Host.Outcome State Fault Refusal :=
  let p : Fin 8 := Fin.ofNat 8 s.cur
  if !s.portUp p then .next s
  else
    let t := s.endAll (fun _ _ l => decide (1 < l.nchip)) 6
    let t := if s.bringDone then t.setReady true (34 + p.val) 0 else t
    .next { t with time := { t.time with hold := true } }.tellLost

end Sys2Proof.Machine
end

