-- ==== Sys2Proof/Machine/Vector.lean ====
section
/-! DEFINITION. Vector, conversion and special-function instructions (R292 to R315). -/
namespace Sys2Proof.Machine

/-! ### Tiles (R102, R292 to R294) -/

/-- Elements as one little-endian number, the first lowest. -/
def ofElems (size : Nat) (l : List Nat) : Nat := l.foldr (fun x n => x % 2 ^ (8 * size) + 2 ^ (8 * size) * n) 0
/-- A register with the elements of its tile replaced; bytes above the tile are kept (R102). -/
def putTile (v : VWord) (size : Nat) (l : List Nat) : VWord := putBits v 0 (8 * size * l.length) (ofElems size l)

/-- An element of a bs operand: of a v register, or the low bits of an s register at every position (R292). -/
def State.vb (s : State) (b : VB) (size i : Nat) : Nat :=
  match b with
  | .v r => velem (s.rV r) size i
  | .s r => (s.rS r).toNat % 2 ^ (8 * size)
def State.va (s : State) (r : VReg) (size i : Nat) : Nat := velem (s.rV r) size i

/-- The results at the positions of a tile: at an active one the computed value with its flags, at the others the old
element or zero (R293). -/
def results (s : State) (k : KReg) (z : Bool) (d : VReg) (size e : Nat) (f : Nat → Nat × FFlags) :
    List (Nat × FFlags) :=
  (List.range e).map (fun i =>
    if (s.rK k).getLsbD i then f i else if z then (0, 0) else (s.va d size i, 0))

/-- The union of the flags. -/
def unionFlags (l : List (Nat × FFlags)) : FFlags := l.foldl (fun f x => f ||| x.2) 0

/-- The end of a vector instruction: FPX, or the tile written with the flags ORed (R294). -/
def State.vwrite (s : State) (d : VReg) (size : Nat) (l : List (Nat × FFlags)) : Except TrapInfo State :=
  (s.withFlags (unionFlags l) (fun s => s.wV d (putTile (s.rV d) size (l.map (fun x => x.1))))).map (fun s => s.adv 8)

/-- Every tile checked with its element size (R294 step 3): the number of elements. -/
def State.tiles (s : State) : List Nat → Except TrapInfo Nat
  | [] => .ok (s.st.rows * s.st.cols)
  | n :: l =>
    match s.tile n with
    | .error t => .error t
    | .ok _ => s.tiles l

/-- An element-wise instruction: tiles of the given sizes, destination elements of `size` bytes (R293, R294). -/
def ewise (g : Guard) (sizes : List Nat) (size : Nat) (k : Msk) (d : VReg) (f : State → Nat → Nat × FFlags)
    (s : State) : Host.Outcome State Fault Refusal :=
  guarded g 8 s (fun s =>
    match s.tiles sizes with
    | .error t => .error t
    | .ok e => s.vwrite d size (results s k.k k.z d size e (f s)))

/-- An element-wise instruction whose tiles are all of format T. -/
def ewiseT (g : Guard) (t : Fmt) (k : Msk) (d : VReg) (f : State → Nat → Nat × FFlags) (s : State) :
    Host.Outcome State Fault Refusal :=
  ewise g [fmtSize t] (fmtSize t) k d f s

/-! ### Element operations (R296 to R298, R300) -/

/-- LG24 results of R298. -/
def lgOp (z neg : Bool) (l : Int) : Nat := if z then lgMake neg true 0 else lgMake neg false l
def lgAdd (a b : Nat) : Nat := lgOp (lgZ a || lgZ b) (xor (lgS a) (lgS b)) (lgL a + lgL b)
def lgSub (a b : Nat) : Nat := lgOp (lgZ a || lgZ b) (xor (lgS a) (lgS b)) (lgL a - lgL b)
def lgMul (a b : Nat) : Nat := lgOp (lgZ a) false (lgL a * lgL b / 2 ^ 14)
def lgSar (a n : Nat) : Nat := lgOp (lgZ a) (lgS a) (lgL a / 2 ^ Nat.min n 22)

/-- INT results modulo 2^w (R297). -/
def intWrap (t : Fmt) (v : Int) : Nat × FFlags := (intPat t v, 0)
def intDiv (t : Fmt) (a b : Int) : Nat := if b = 0 then intPat t (-1) else intPat t (Int.tdiv a b)
def intAbs (t : Fmt) (a : Int) : Nat := intPat t (if t.isSigned then (a.natAbs : Int) else a)
/-- SAR of an element by n: the top bit fills, whatever the signedness (R300). -/
def elemSar (w a n : Nat) : Nat := ((sval w a) / 2 ^ Nat.min n w % 2 ^ w).toNat

/-- A + B of format T (R296 to R298). -/
def vAddE (t : Fmt) (m : Rm) (a b : Nat) : Nat × FFlags :=
  if t.isIeee then fadd t m (fval t a) (fval t b) else if t = .lg24 then (lgAdd a b, 0)
  else intWrap t (intVal t a + intVal t b)
def vSubE (t : Fmt) (m : Rm) (a b : Nat) : Nat × FFlags :=
  if t.isIeee then fadd t m (fval t a) (fval t b).flip else if t = .lg24 then (lgSub a b, 0)
  else intWrap t (intVal t a - intVal t b)
def vMulE (t : Fmt) (m : Rm) (a b : Nat) : Nat × FFlags :=
  if t.isIeee then fmul t m (fval t a) (fval t b) else if t = .lg24 then (lgMul a b, 0)
  else intWrap t (intVal t a * intVal t b)
def vDivE (t : Fmt) (m : Rm) (a b : Nat) : Nat × FFlags :=
  if t.isIeee then fdiv t m (fval t a) (fval t b) else (intDiv t (intVal t a) (intVal t b), 0)
def vMinMaxE (t : Fmt) (mx : Bool) (a b : Nat) : Nat × FFlags :=
  if t.isIeee then fminmax t mx a b
  else if xor mx (decide (intVal t a < intVal t b)) then (a, 0) else (b, 0)
def vAbsE (t : Fmt) (a : Nat) : Nat × FFlags :=
  if t.isIeee then (fsgn t .abs a 0, 0) else (intAbs t (intVal t a), 0)
def vNegE (t : Fmt) (a : Nat) : Nat × FFlags :=
  if t.isIeee then (fsgn t .neg a 0, 0) else intWrap t (0 - intVal t a)
/-- A comparison of elements (R216, R299). -/
def vCmpE (t : Fmt) (c : VCond) (a b : Nat) : Bool × FFlags :=
  match c with
  | .f c => fcond c (fval t a) (fval t b)
  | .i c =>
    let x := intVal t a
    let y := intVal t b
    (match c with
     | .eq => decide (x = y)
     | .ne => decide (x ≠ y)
     | .lt => decide (x < y)
     | .le => decide (x ≤ y)
     | .gt => decide (y < x)
     | _ => decide (y ≤ x), 0)

/-- VADD (R296 to R298). -/
def execVadd (g : Guard) (t : Fmt) (m : Rm) (k : Msk) (d a : VReg) (b : VB) (s : State) :
    Host.Outcome State Fault Refusal :=
  ewiseT g t k d (fun s i => vAddE t (s.rm m) (s.va a (fmtSize t) i) (s.vb b (fmtSize t) i)) s

/-- VSUB (R296 to R298). -/
def execVsub (g : Guard) (t : Fmt) (m : Rm) (k : Msk) (d a : VReg) (b : VB) (s : State) :
    Host.Outcome State Fault Refusal :=
  ewiseT g t k d (fun s i => vSubE t (s.rm m) (s.va a (fmtSize t) i) (s.vb b (fmtSize t) i)) s

/-- VMUL (R296 to R298). -/
def execVmul (g : Guard) (t : Fmt) (m : Rm) (k : Msk) (d a : VReg) (b : VB) (s : State) :
    Host.Outcome State Fault Refusal :=
  ewiseT g t k d (fun s i => vMulE t (s.rm m) (s.va a (fmtSize t) i) (s.vb b (fmtSize t) i)) s

/-- VDIV (R296, R297). -/
def execVdiv (g : Guard) (t : Fmt) (m : Rm) (k : Msk) (d a : VReg) (b : VB) (s : State) :
    Host.Outcome State Fault Refusal :=
  ewiseT g t k d (fun s i => vDivE t (s.rm m) (s.va a (fmtSize t) i) (s.vb b (fmtSize t) i)) s

/-- VFMA: one rounding (R296). -/
def execVfma (g : Guard) (t : Fmt) (m : Rm) (k : Msk) (d a : VReg) (b : VB) (c : VReg) (s : State) :
    Host.Outcome State Fault Refusal :=
  ewiseT g t k d (fun s i =>
    ffma t (s.rm m) (fval t (s.va a (fmtSize t) i)) (fval t (s.vb b (fmtSize t) i)) (fval t (velem (s.rV c) (fmtSize t) i))) s

/-- VFMS: one rounding (R296). -/
def execVfms (g : Guard) (t : Fmt) (m : Rm) (k : Msk) (d a : VReg) (b : VB) (c : VReg) (s : State) :
    Host.Outcome State Fault Refusal :=
  ewiseT g t k d (fun s i =>
    ffma t (s.rm m) (fval t (s.va a (fmtSize t) i)) (fval t (s.vb b (fmtSize t) i)) (fval t (velem (s.rV c) (fmtSize t) i)).flip) s

/-- VSQRT (R296). -/
def execVsqrt (g : Guard) (t : Fmt) (m : Rm) (k : Msk) (d a : VReg) (s : State) :
    Host.Outcome State Fault Refusal :=
  ewiseT g t k d (fun s i => fsqrt t (s.rm m) (fval t (s.va a (fmtSize t) i))) s

/-- VMIN (R296, R297). -/
def execVmin (g : Guard) (t : Fmt) (k : Msk) (d a : VReg) (b : VB) (s : State) :
    Host.Outcome State Fault Refusal :=
  ewiseT g t k d (fun s i => vMinMaxE t false (s.va a (fmtSize t) i) (s.vb b (fmtSize t) i)) s

/-- VMAX (R296, R297). -/
def execVmax (g : Guard) (t : Fmt) (k : Msk) (d a : VReg) (b : VB) (s : State) :
    Host.Outcome State Fault Refusal :=
  ewiseT g t k d (fun s i => vMinMaxE t true (s.va a (fmtSize t) i) (s.vb b (fmtSize t) i)) s

/-- VABS (R296, R297). -/
def execVabs (g : Guard) (t : Fmt) (k : Msk) (d a : VReg) (s : State) :
    Host.Outcome State Fault Refusal :=
  ewiseT g t k d (fun s i => vAbsE t (s.va a (fmtSize t) i)) s

/-- VNEG (R296, R297). -/
def execVneg (g : Guard) (t : Fmt) (k : Msk) (d a : VReg) (s : State) :
    Host.Outcome State Fault Refusal :=
  ewiseT g t k d (fun s i => vNegE t (s.va a (fmtSize t) i)) s

/-- VCMP: bits at and above E are cleared (R299). -/
def execVcmp (g : Guard) (t : Fmt) (c : VCond) (k : Msk) (d : KReg) (a : VReg) (b : VB) (s : State) :
    Host.Outcome State Fault Refusal :=
  guarded g 8 s (fun s =>
    match s.tiles [fmtSize t] with
    | .error t => .error t
    | .ok e =>
      let r := (List.range e).map (fun i =>
        if (s.rK k.k).getLsbD i then
          let c := vCmpE t c (s.va a (fmtSize t) i) (s.vb b (fmtSize t) i)
          (b2n c.1, c.2)
        else if k.z then (0, 0) else (b2n ((s.rK d).getLsbD i), 0))
      let bits := r.foldr (fun (x : Nat × FFlags) n => x.1 + 2 * n) 0
      (s.withFlags (unionFlags r) (fun s => s.wK d (BitVec.ofNat 1024 bits))).map (fun s => s.adv 8))

/-- VSEL: every position is written (R300). -/
def execVsel (g : Guard) (t : Fmt) (k : KReg) (d a b : VReg) (s : State) :
    Host.Outcome State Fault Refusal :=
  ewiseT g t ⟨0, false⟩ d (fun s i =>
    (if (s.rK k).getLsbD i then s.va a (fmtSize t) i else s.va b (fmtSize t) i, 0)) s

/-- VAND (R300). -/
def execVand (g : Guard) (t : Fmt) (k : Msk) (d a : VReg) (b : VB) (s : State) :
    Host.Outcome State Fault Refusal :=
  ewiseT g t k d (fun s i =>
    let x := s.va a (fmtSize t) i
    let y := s.vb b (fmtSize t) i
    (x &&& y, 0)) s

/-- VOR (R300). -/
def execVor (g : Guard) (t : Fmt) (k : Msk) (d a : VReg) (b : VB) (s : State) :
    Host.Outcome State Fault Refusal :=
  ewiseT g t k d (fun s i =>
    let x := s.va a (fmtSize t) i
    let y := s.vb b (fmtSize t) i
    (x ||| y, 0)) s

/-- VXOR (R300). -/
def execVxor (g : Guard) (t : Fmt) (k : Msk) (d a : VReg) (b : VB) (s : State) :
    Host.Outcome State Fault Refusal :=
  ewiseT g t k d (fun s i =>
    let x := s.va a (fmtSize t) i
    let y := s.vb b (fmtSize t) i
    (x ^^^ y, 0)) s

/-- VSHL (R300). -/
def execVshl (g : Guard) (t : Fmt) (k : Msk) (d a : VReg) (b : VB) (s : State) :
    Host.Outcome State Fault Refusal :=
  ewiseT g t k d (fun s i =>
    let x := s.va a (fmtSize t) i
    let y := s.vb b (fmtSize t) i
    (if 8 * fmtSize t ≤ y then 0 else x * 2 ^ y, 0)) s

/-- VSHR (R300). -/
def execVshr (g : Guard) (t : Fmt) (k : Msk) (d a : VReg) (b : VB) (s : State) :
    Host.Outcome State Fault Refusal :=
  ewiseT g t k d (fun s i =>
    let x := s.va a (fmtSize t) i
    let y := s.vb b (fmtSize t) i
    (if 8 * fmtSize t ≤ y then 0 else x / 2 ^ y, 0)) s

/-- VSAR (R300, R298). -/
def execVsar (g : Guard) (t : Fmt) (k : Msk) (d a : VReg) (b : VB) (s : State) :
    Host.Outcome State Fault Refusal :=
  ewiseT g t k d (fun s i =>
    let x := s.va a (fmtSize t) i
    let y := s.vb b (fmtSize t) i
    (if t = .lg24 then lgSar x y else elemSar (8 * fmtSize t) x y, 0)) s

/-- VMOV (R300). -/
def execVmov (g : Guard) (t : Fmt) (k : Msk) (d a : VReg) (s : State) :
    Host.Outcome State Fault Refusal :=
  ewiseT g t k d (fun s i => (s.va a (fmtSize t) i, 0)) s

/-- VSHAPE: no SHAPE check (R301). -/
def execVshape (g : Guard) (x : BitVec 16) (s : State) :
    Host.Outcome State Fault Refusal :=
  plain g s (fun s => s.mod (fun t => { t with vshape := x.setWidth 64 }))

/-- VIOTA (R302). -/
def execViota (g : Guard) (t : Fmt) (k : Msk) (d : VReg) (a : SReg) (s : State) :
    Host.Outcome State Fault Refusal :=
  ewiseT g t k d (fun s i => (((s.rS a).toNat + i) % 2 ^ (8 * fmtSize t), 0)) s

/-! ### Canonical reductions (R303, R304) -/

/-- The canonical tree of [lo, hi) (R55, R59): canon_add over the present leaves, with the union of the flags. -/
def treeSum (t : Fmt) (m : Rm) (leaf : Nat → Option Nat) : Nat → Nat → Nat → Option Nat × FFlags
  | 0, _, _ => (none, 0)
  | f + 1, lo, hi =>
    if hi ≤ lo then (none, 0)
    else if hi = lo + 1 then (leaf lo, 0)
    else
      let mid := splitMid lo hi
      let l := treeSum t m leaf f lo mid
      let r := treeSum t m leaf f mid hi
      let x := canonAdd t m l.1 r.1
      (x.1, l.2 ||| r.2 ||| x.2)

/-- The reduction of n elements from a base index (R303); depth at most 34. -/
def reduceFrom (t : Fmt) (m : Rm) (b n : Nat) (leaf : Nat → Option Nat) : Option Nat × FFlags :=
  treeSum t m (fun i => leaf (i - b)) 40 b (b + n)

/-- REDT: an all-absent tile writes +0 (R303). -/
def execRedt (g : Guard) (t : Fmt) (m : Rm) (k : KReg) (d : SReg) (a : VReg) (b : SReg) (s : State) :
    Host.Outcome State Fault Refusal :=
  guarded g 8 s (fun s =>
    match s.tiles [fmtSize t] with
    | .error t => .error t
    | .ok e =>
      let r := reduceFrom t (s.rm m) (bits (s.rS b) 31 0) e
        (fun i => if (s.rK k).getLsbD i then some (s.va a (fmtSize t) i) else none)
      (s.withFlags r.2 (fun s => s.wS d (resultWord t (r.1.getD 0)))).map (fun s => s.adv 8))

/-- VRED by rows or by columns (R304). -/
def execVred (g : Guard) (t : Fmt) (m : Rm) (k : Msk) (cols : Bool) (d a : VReg) (s : State) :
    Host.Outcome State Fault Refusal :=
  guarded g 8 s (fun s =>
    match s.tiles [fmtSize t] with
    | .error t => .error t
    | .ok e =>
      let n := fmtSize t
      let c := s.st.cols
      let line := fun (j : Nat) => if cols then (List.range s.st.rows).map (fun r => r * c + j)
        else (List.range c).map (fun x => j * c + x)
      let sum := fun (j : Nat) =>
        let l := line j
        let r := reduceFrom t (s.rm m) 0 l.length
          (fun x => let i := nth l x 0; if (s.rK k.k).getLsbD i then some (s.va a n i) else none)
        (r.1.getD 0, r.2)
      s.vwrite d n ((List.range e).map (fun i =>
        if cols ∧ i < c then sum i
        else if !cols ∧ i % c = 0 then sum (i / c)
        else if k.z then (0, 0) else (s.va d n i, 0))))

/-! ### Conversions (R305, R306, R313) -/

/-- The check of the FB side of VCVT: COLS a multiple of 32, and the tile of R × C/32 blocks (R305). -/
def State.fbTile (s : State) (fb ieee : Fmt) : Except TrapInfo Nat :=
  match s.tile (fmtSize ieee) with
  | .error t => .error t
  | .ok e =>
    if s.st.cols % 32 ≠ 0 ∨ 1024 < e / 32 * fmtSize fb then trapc tSHAPE (bits s.st.vshape 15 0) else .ok e

/-- VCVT (R305, R186). -/
def execVcvt (g : Guard) (t : Fmt) (src : Fmt) (m : Rm) (k : Msk) (d a : VReg) (s : State) :
    Host.Outcome State Fault Refusal :=
  if src.isFb then
    guarded g 8 s (fun s =>
      match s.fbTile src t with
      | .error t => .error t
      | .ok e => s.vwrite d (fmtSize t) (results s k.k k.z d (fmtSize t) e (fun i =>
          toIeee t (s.rm m) (fbVal src (s.va a (fmtSize src) (i / 32)) (i % 32)))))
  else if t.isFb then
    guarded g 8 s (fun s =>
      match s.fbTile t src with
      | .error t => .error t
      | .ok e => s.vwrite d (fmtSize t) (results s k.k k.z d (fmtSize t) (e / 32) (fun j =>
          fbEncode t (s.rm m) ((List.range 32).map (fun x => fval src (s.va a (fmtSize src) (32 * j + x)))) none)))
  else ewise g [fmtSize src, fmtSize t] (fmtSize t) k d (fun s i => convert t src (s.rm m) (s.va a (fmtSize src) i)) s

/-- VREQ (R306, R191). -/
def execVreq (g : Guard) (t : Fmt) (m : Rm) (k : Msk) (d a : VReg) (b : SReg) (s : State) :
    Host.Outcome State Fault Refusal :=
  ewiseT g t k d (fun s i => fbRequant t (s.rm m) (s.va a (fmtSize t) i) (bits (s.rS b) 7 0)) s

/-! ### Packing and reordering (R307 to R309) -/

/-- VCOMP (R307). -/
def execVcomp (g : Guard) (t : Fmt) (k : KReg) (d a : VReg) (c : SReg) (s : State) :
    Host.Outcome State Fault Refusal :=
  guarded g 8 s (fun s =>
    match s.tiles [fmtSize t] with
    | .error t => .error t
    | .ok e =>
      let l := (s.active k e).map (fun i => s.va a (fmtSize t) i)
      let v := putTile (s.rV d) (fmtSize t) (l ++ List.replicate (e - l.length) 0)
      .ok (((s.wV d v).wS c (BitVec.ofNat 64 l.length)).adv 8))

/-- VEXPD: the j-th active position receives element j (R307). -/
def execVexpd (g : Guard) (t : Fmt) (k : Msk) (d a : VReg) (s : State) :
    Host.Outcome State Fault Refusal :=
  ewiseT g t k d (fun s i =>
    (s.va a (fmtSize t) ((List.range i).countP (fun j => (s.rK k.k).getLsbD j)), 0)) s

/-- VPERM (R308). -/
def execVperm (g : Guard) (t : Fmt) (k : Msk) (d a b : VReg) (s : State) :
    Host.Outcome State Fault Refusal :=
  ewise g [fmtSize t, 2] (fmtSize t) k d (fun s i =>
    let j := s.va b 2 i
    (if j < s.st.rows * s.st.cols then s.va a (fmtSize t) j else 0, 0)) s

/-- VTRANS: the layout of a COLS × ROWS tile (R308). -/
def execVtrans (g : Guard) (t : Fmt) (d a : VReg) (s : State) :
    Host.Outcome State Fault Refusal :=
  ewiseT g t ⟨0, false⟩ d (fun s i =>
    (s.va a (fmtSize t) (i % s.st.rows * s.st.cols + i / s.st.rows), 0)) s

/-- VBCAST (R308). -/
def execVbcast (g : Guard) (t : Fmt) (k : Msk) (d : VReg) (a : SReg) (s : State) :
    Host.Outcome State Fault Refusal :=
  ewiseT g t k d (fun s _ =>
    ((s.rS a).toNat % (if t = .lg24 then 2 ^ 24 else 2 ^ (8 * fmtSize t)), 0)) s

/-- VSLIDE (R308). -/
def execVslide (g : Guard) (t : Fmt) (down : Bool) (k : Msk) (d a : VReg) (b : SReg) (s : State) :
    Host.Outcome State Fault Refusal :=
  ewiseT g t k d (fun s i =>
    let n := (s.rS b).toNat
    let e := s.st.rows * s.st.cols
    (if down then (if i + n < e then s.va a (fmtSize t) (i + n) else 0)
     else if n ≤ i then s.va a (fmtSize t) (i - n) else 0, 0)) s

/-- VGETS (R309). -/
def execVgets (g : Guard) (t : Fmt) (d : SReg) (a : VReg) (b : SReg) (s : State) :
    Host.Outcome State Fault Refusal :=
  guarded g 8 s (fun s =>
    match s.tiles [fmtSize t] with
    | .error t => .error t
    | .ok e =>
      let j := (s.rS b).toNat
      .ok ((s.wS d (if j < e then resultWord t (s.va a (fmtSize t) j) else 0)).adv 8))

/-- VPUTS (R309). -/
def execVputs (g : Guard) (t : Fmt) (d : VReg) (a b : SReg) (s : State) :
    Host.Outcome State Fault Refusal :=
  guarded g 8 s (fun s =>
    match s.tiles [fmtSize t] with
    | .error t => .error t
    | .ok e =>
      let j := (s.rS b).toNat
      let x := (s.rS a).toNat % (if t = .lg24 then 2 ^ 24 else 2 ^ (8 * fmtSize t))
      .ok ((if j < e then s.wV d (vset (s.rV d) (fmtSize t) j x) else s).adv 8))

/-! ### Masks and random bits (R310, R311) -/

/-- KOP (R310). -/
def execKop (g : Guard) (op : KopOp) (s : State) :
    Host.Outcome State Fault Refusal :=
  plain g s (fun s =>
    match op with
    | .and d a b => s.wK d (s.rK a &&& s.rK b)
    | .or d a b => s.wK d (s.rK a ||| s.rK b)
    | .xor d a b => s.wK d (s.rK a ^^^ s.rK b)
    | .not d a => s.wK d (~~~ s.rK a)
    | .pop d a => s.wS d (BitVec.ofNat 64 ((List.range 1024).countP (fun i => (s.rK a).getLsbD i)))
    | .mov d a => s.wK d (s.rK a))

/-- Draw `i` positions after RDRAW of the current task (R199). -/
def State.drawAt (s : State) (i : Nat) : Word :=
  let tk := s.st.task
  draw ((tk.map (fun t => t.tr.kind.code.toNat)).getD 0) ((tk.map (fun t => t.tleg % 4)).getD 0)
    ((s.curLaunch.map (·.rseed)).getD 0) ((tk.map (fun t => boxKey t.tr.box)).getD 0) (s.st.rdraw + BitVec.ofNat 64 i)

/-- VRAND: the whole range of draws is consumed (R311). -/
def execVrand (g : Guard) (w64 : Bool) (k : Msk) (d : VReg) (s : State) :
    Host.Outcome State Fault Refusal :=
  guarded g 8 s (fun s =>
    let n := if w64 then 8 else 4
    match s.tiles [n] with
    | .error t => .error t
    | .ok e =>
      let r := results s k.k k.z d n e (fun i =>
        if w64 then ((s.drawAt i).toNat, 0)
        else ((if i % 2 = 0 then bits (s.drawAt (i / 2)) 31 0 else bits (s.drawAt (i / 2)) 63 32), 0))
      let used := if w64 then e else (e + 1) / 2
      (s.vwrite d n r).map (fun s => s.mod (fun t => { t with rdraw := t.rdraw + BitVec.ofNat 64 used })))

/-! ### Special functions (R312 to R314) -/

/-- VFEXP (R312, R196). -/
def execVfexp (g : Guard) (t : Fmt) (m : Rm) (k : Msk) (d a : VReg) (s : State) :
    Host.Outcome State Fault Refusal :=
  ewiseT g t k d (fun s i => crExp t (s.rm m) (s.va a (fmtSize t) i)) s

/-- VFLOG (R312, R196). -/
def execVflog (g : Guard) (t : Fmt) (m : Rm) (k : Msk) (d a : VReg) (s : State) :
    Host.Outcome State Fault Refusal :=
  ewiseT g t k d (fun s i => crLn t (s.rm m) (s.va a (fmtSize t) i)) s

/-- VFERF (R312, R196). -/
def execVferf (g : Guard) (t : Fmt) (m : Rm) (k : Msk) (d a : VReg) (s : State) :
    Host.Outcome State Fault Refusal :=
  ewiseT g t k d (fun s i => crErf t (s.rm m) (s.va a (fmtSize t) i)) s

/-- VFERFC (R312, R196). -/
def execVferfc (g : Guard) (t : Fmt) (m : Rm) (k : Msk) (d a : VReg) (s : State) :
    Host.Outcome State Fault Refusal :=
  ewiseT g t k d (fun s i => crErfc t (s.rm m) (s.va a (fmtSize t) i)) s

/-- VLNT (R313, R193). -/
def execVlnt (g : Guard) (t : Fmt) (k : Msk) (d a : VReg) (s : State) :
    Host.Outcome State Fault Refusal :=
  ewise g [fmtSize t, 4] 4 k d (fun s i => lgOfIeee t (s.va a (fmtSize t) i)) s

/-- VLNF (R313, R193). -/
def execVlnf (g : Guard) (t : Fmt) (m : Rm) (k : Msk) (d a : VReg) (s : State) :
    Host.Outcome State Fault Refusal :=
  ewise g [4, fmtSize t] (fmtSize t) k d (fun s i => lgToIeee t (s.rm m) (s.va a 4 i)) s

/-- VXEXP (R314, R195). -/
def execVxexp (g : Guard) (t : Fmt) (k : Msk) (d a : VReg) (s : State) :
    Host.Outcome State Fault Refusal :=
  ewiseT g t k d (fun s i => vxFun .exp t (s.va a (fmtSize t) i)) s

/-- VXRCP (R314, R195). -/
def execVxrcp (g : Guard) (t : Fmt) (k : Msk) (d a : VReg) (s : State) :
    Host.Outcome State Fault Refusal :=
  ewiseT g t k d (fun s i => vxFun .rcp t (s.va a (fmtSize t) i)) s

/-- VXRSQ (R314, R195). -/
def execVxrsq (g : Guard) (t : Fmt) (k : Msk) (d a : VReg) (s : State) :
    Host.Outcome State Fault Refusal :=
  ewiseT g t k d (fun s i => vxFun .rsq t (s.va a (fmtSize t) i)) s

/-- VXSIG (R314, R195). -/
def execVxsig (g : Guard) (t : Fmt) (k : Msk) (d a : VReg) (s : State) :
    Host.Outcome State Fault Refusal :=
  ewiseT g t k d (fun s i => vxFun .sig t (s.va a (fmtSize t) i)) s

/-- VXTANH (R314, R195). -/
def execVxtanh (g : Guard) (t : Fmt) (k : Msk) (d a : VReg) (s : State) :
    Host.Outcome State Fault Refusal :=
  ewiseT g t k d (fun s i => vxFun .tanh t (s.va a (fmtSize t) i)) s

end Sys2Proof.Machine
end

