-- ==== Sys2Proof/Machine/Dispatch.lean ====
section
/-! DEFINITION. One arm for each constructor of `Instr`: the meaning of every operation and event. -/
namespace Sys2Proof.Machine

def exec (i : Instr) (s : State) : Host.Outcome State Fault Refusal :=
  match i with
  | .illegal w => Sys2Proof.Machine.execIllegal w s
  | .nop g => Sys2Proof.Machine.execNop g s
  | .skip g n => Sys2Proof.Machine.execSkip g n s
  | .call g im => Sys2Proof.Machine.execCall g im s
  | .ret g => Sys2Proof.Machine.execRet g s
  | .trap g im => Sys2Proof.Machine.execTrap g im s
  | .brk g => Sys2Proof.Machine.execBrk g s
  | .movc g d n => Sys2Proof.Machine.execMovc g d n s
  | .movcw g a n => Sys2Proof.Machine.execMovcw g a n s
  | .tresume g d a c => Sys2Proof.Machine.execTresume g d a c s
  | .tdrop g d a c => Sys2Proof.Machine.execTdrop g d a c s
  | .tlbinv g sc a b => Sys2Proof.Machine.execTlbinv g sc a b s
  | .icinv g => Sys2Proof.Machine.execIcinv g s
  | .halt g q d a l => Sys2Proof.Machine.execHalt g q d a l s
  | .boxld g d a m => Sys2Proof.Machine.execBoxld g d a m s
  | .boxst g d a m => Sys2Proof.Machine.execBoxst g d a m s
  | .boxget g d a sel x => Sys2Proof.Machine.execBoxget g d a sel x s
  | .boxset g d a b hi x => Sys2Proof.Machine.execBoxset g d a b hi x s
  | .boxkey g d a sel => Sys2Proof.Machine.execBoxkey g d a sel s
  | .fits g d a x => Sys2Proof.Machine.execFits g d a x s
  | .split g x => Sys2Proof.Machine.execSplit g x s
  | .splitk g pc => Sys2Proof.Machine.execSplitk g pc s
  | .splitf g mask pc => Sys2Proof.Machine.execSplitf g mask pc s
  | .prune g => Sys2Proof.Machine.execPrune g s
  | .leaf g pc => Sys2Proof.Machine.execLeaf g pc s
  | .done g => Sys2Proof.Machine.execDone g s
  | .requeue g => Sys2Proof.Machine.execRequeue g s
  | .spawn g kd d a b l pc => Sys2Proof.Machine.execSpawn g kd d a b l pc s
  | .send g vn a pc => Sys2Proof.Machine.execSend g vn a pc s
  | .deposit g t a => Sys2Proof.Machine.execDeposit g t a s
  | .cinc g a => Sys2Proof.Machine.execCinc g a s
  | .cadd g a b => Sys2Proof.Machine.execCadd g a b s
  | .waitc g y d a b l => Sys2Proof.Machine.execWaitc g y d a b l s
  | .vwaitc g y d a b l im => Sys2Proof.Machine.execVwaitc g y d a b l im s
  | .bar g sc d a b l => Sys2Proof.Machine.execBar g sc d a b l s
  | .bara g sc d a b => Sys2Proof.Machine.execBara g sc d a b s
  | .barw g d a l => Sys2Proof.Machine.execBarw g d a l s
  | .fence g d l before after => Sys2Proof.Machine.execFence g d l before after s
  | .fencesc g d l => Sys2Proof.Machine.execFencesc g d l s
  | .amo g t op d a b c => Sys2Proof.Machine.execAmo g t op d a b c s
  | .bdecl g rem d a x => Sys2Proof.Machine.execBdecl g rem d a x s
  | .waitb g prod d a b l => Sys2Proof.Machine.execWaitb g prod d a b l s
  | .badv g d a b => Sys2Proof.Machine.execBadv g d a b s
  | .brel g d a b => Sys2Proof.Machine.execBrel g d a b s
  | .bstat g d a b => Sys2Proof.Machine.execBstat g d a b s
  | .sendb g d a b c l len => Sys2Proof.Machine.execSendb g d a b c l len s
  | .add g d a b => Sys2Proof.Machine.execAdd g d a b s
  | .sub g d a b => Sys2Proof.Machine.execSub g d a b s
  | .mul g d a b => Sys2Proof.Machine.execMul g d a b s
  | .mulh g d a b => Sys2Proof.Machine.execMulh g d a b s
  | .mulhu g d a b => Sys2Proof.Machine.execMulhu g d a b s
  | .div g d a b => Sys2Proof.Machine.execDiv g d a b s
  | .divu g d a b => Sys2Proof.Machine.execDivu g d a b s
  | .rem g d a b => Sys2Proof.Machine.execRem g d a b s
  | .remu g d a b => Sys2Proof.Machine.execRemu g d a b s
  | .and g d a b => Sys2Proof.Machine.execAnd g d a b s
  | .or g d a b => Sys2Proof.Machine.execOr g d a b s
  | .xor g d a b => Sys2Proof.Machine.execXor g d a b s
  | .andn g d a b => Sys2Proof.Machine.execAndn g d a b s
  | .shl g d a b => Sys2Proof.Machine.execShl g d a b s
  | .shr g d a b => Sys2Proof.Machine.execShr g d a b s
  | .sar g d a b => Sys2Proof.Machine.execSar g d a b s
  | .rot g d a b => Sys2Proof.Machine.execRot g d a b s
  | .min g d a b => Sys2Proof.Machine.execMin g d a b s
  | .max g d a b => Sys2Proof.Machine.execMax g d a b s
  | .minu g d a b => Sys2Proof.Machine.execMinu g d a b s
  | .maxu g d a b => Sys2Proof.Machine.execMaxu g d a b s
  | .clz g d a => Sys2Proof.Machine.execClz g d a s
  | .ctz g d a => Sys2Proof.Machine.execCtz g d a s
  | .popc g d a => Sys2Proof.Machine.execPopc g d a s
  | .bfx g d a b c => Sys2Proof.Machine.execBfx g d a b c s
  | .bfxs g d a b c => Sys2Proof.Machine.execBfxs g d a b c s
  | .bfi g d a b c => Sys2Proof.Machine.execBfi g d a b c s
  | .sel g d a b c => Sys2Proof.Machine.execSel g d a b c s
  | .cmp g c d a b => Sys2Proof.Machine.execCmp g c d a b s
  | .addi g d a im => Sys2Proof.Machine.execAddi g d a im s
  | .andi g d a im => Sys2Proof.Machine.execAndi g d a im s
  | .ori g d a im => Sys2Proof.Machine.execOri g d a im s
  | .xori g d a im => Sys2Proof.Machine.execXori g d a im s
  | .shli g d a im => Sys2Proof.Machine.execShli g d a im s
  | .shri g d a im => Sys2Proof.Machine.execShri g d a im s
  | .sari g d a im => Sys2Proof.Machine.execSari g d a im s
  | .cmpi g c d a im => Sys2Proof.Machine.execCmpi g c d a im s
  | .muli g d a im => Sys2Proof.Machine.execMuli g d a im s
  | .lea g d im => Sys2Proof.Machine.execLea g d im s
  | .movi g d im => Sys2Proof.Machine.execMovi g d im s
  | .movhi g d im => Sys2Proof.Machine.execMovhi g d im s
  | .fadd g t m d a b => Sys2Proof.Machine.execFadd g t m d a b s
  | .fsub g t m d a b => Sys2Proof.Machine.execFsub g t m d a b s
  | .fmul g t m d a b => Sys2Proof.Machine.execFmul g t m d a b s
  | .ffma g t m d a b c => Sys2Proof.Machine.execFfma g t m d a b c s
  | .fdiv g t m d a b => Sys2Proof.Machine.execFdiv g t m d a b s
  | .fsqrt g t m d a => Sys2Proof.Machine.execFsqrt g t m d a s
  | .fmin g t d a b => Sys2Proof.Machine.execFmin g t d a b s
  | .fmax g t d a b => Sys2Proof.Machine.execFmax g t d a b s
  | .fcmp g t c d a b => Sys2Proof.Machine.execFcmp g t c d a b s
  | .fcvt g t src m d a => Sys2Proof.Machine.execFcvt g t src m d a s
  | .fclass g t d a => Sys2Proof.Machine.execFclass g t d a s
  | .fexp g t m d a => Sys2Proof.Machine.execFexp g t m d a s
  | .flog g t m d a => Sys2Proof.Machine.execFlog g t m d a s
  | .ferf g t m d a => Sys2Proof.Machine.execFerf g t m d a s
  | .ferfc g t m d a => Sys2Proof.Machine.execFerfc g t m d a s
  | .fsgn g t op d a => Sys2Proof.Machine.execFsgn g t op d a s
  | .ld g d a m o => Sys2Proof.Machine.execLd g d a m o s
  | .st g d a m o => Sys2Proof.Machine.execSt g d a m o s
  | .ldv g d a m o => Sys2Proof.Machine.execLdv g d a m o s
  | .stv g d a m o => Sys2Proof.Machine.execStv g d a m o s
  | .ldvx g t k d a b sh => Sys2Proof.Machine.execLdvx g t k d a b sh s
  | .stvx g t k d a b sh => Sys2Proof.Machine.execStvx g t k d a b sh s
  | .ldw g d a b l im => Sys2Proof.Machine.execLdw g d a b l im s
  | .mstore g d a m o => Sys2Proof.Machine.execMstore g d a m o s
  | .vadd g t m k d a b => Sys2Proof.Machine.execVadd g t m k d a b s
  | .vsub g t m k d a b => Sys2Proof.Machine.execVsub g t m k d a b s
  | .vmul g t m k d a b => Sys2Proof.Machine.execVmul g t m k d a b s
  | .vfma g t m k d a b c => Sys2Proof.Machine.execVfma g t m k d a b c s
  | .vfms g t m k d a b c => Sys2Proof.Machine.execVfms g t m k d a b c s
  | .vdiv g t m k d a b => Sys2Proof.Machine.execVdiv g t m k d a b s
  | .vsqrt g t m k d a => Sys2Proof.Machine.execVsqrt g t m k d a s
  | .vmin g t k d a b => Sys2Proof.Machine.execVmin g t k d a b s
  | .vmax g t k d a b => Sys2Proof.Machine.execVmax g t k d a b s
  | .vabs g t k d a => Sys2Proof.Machine.execVabs g t k d a s
  | .vneg g t k d a => Sys2Proof.Machine.execVneg g t k d a s
  | .vcmp g t c k d a b => Sys2Proof.Machine.execVcmp g t c k d a b s
  | .vsel g t k d a b => Sys2Proof.Machine.execVsel g t k d a b s
  | .vand g t k d a b => Sys2Proof.Machine.execVand g t k d a b s
  | .vor g t k d a b => Sys2Proof.Machine.execVor g t k d a b s
  | .vxor g t k d a b => Sys2Proof.Machine.execVxor g t k d a b s
  | .vshl g t k d a b => Sys2Proof.Machine.execVshl g t k d a b s
  | .vshr g t k d a b => Sys2Proof.Machine.execVshr g t k d a b s
  | .vsar g t k d a b => Sys2Proof.Machine.execVsar g t k d a b s
  | .vmov g t k d a => Sys2Proof.Machine.execVmov g t k d a s
  | .vshape g x => Sys2Proof.Machine.execVshape g x s
  | .viota g t k d a => Sys2Proof.Machine.execViota g t k d a s
  | .vred g t m k cols d a => Sys2Proof.Machine.execVred g t m k cols d a s
  | .redt g t m k d a b => Sys2Proof.Machine.execRedt g t m k d a b s
  | .vcvt g t src m k d a => Sys2Proof.Machine.execVcvt g t src m k d a s
  | .vreq g t m k d a b => Sys2Proof.Machine.execVreq g t m k d a b s
  | .vcomp g t k d a c => Sys2Proof.Machine.execVcomp g t k d a c s
  | .vexpd g t k d a => Sys2Proof.Machine.execVexpd g t k d a s
  | .vperm g t k d a b => Sys2Proof.Machine.execVperm g t k d a b s
  | .vtrans g t d a => Sys2Proof.Machine.execVtrans g t d a s
  | .vbcast g t k d a => Sys2Proof.Machine.execVbcast g t k d a s
  | .vslide g t down k d a b => Sys2Proof.Machine.execVslide g t down k d a b s
  | .kop g op => Sys2Proof.Machine.execKop g op s
  | .vrand g w64 k d => Sys2Proof.Machine.execVrand g w64 k d s
  | .vgets g t d a b => Sys2Proof.Machine.execVgets g t d a b s
  | .vputs g t d a b => Sys2Proof.Machine.execVputs g t d a b s
  | .vfexp g t m k d a => Sys2Proof.Machine.execVfexp g t m k d a s
  | .vflog g t m k d a => Sys2Proof.Machine.execVflog g t m k d a s
  | .vferf g t m k d a => Sys2Proof.Machine.execVferf g t m k d a s
  | .vferfc g t m k d a => Sys2Proof.Machine.execVferfc g t m k d a s
  | .vlnt g t k d a => Sys2Proof.Machine.execVlnt g t k d a s
  | .vlnf g t m k d a => Sys2Proof.Machine.execVlnf g t m k d a s
  | .vxexp g t k d a => Sys2Proof.Machine.execVxexp g t k d a s
  | .vxrcp g t k d a => Sys2Proof.Machine.execVxrcp g t k d a s
  | .vxrsq g t k d a => Sys2Proof.Machine.execVxrsq g t k d a s
  | .vxsig g t k d a => Sys2Proof.Machine.execVxsig g t k d a s
  | .vxtanh g t k d a => Sys2Proof.Machine.execVxtanh g t k d a s
  | .sclaim g d x => Sys2Proof.Machine.execSclaim g d x s
  | .srel g a x => Sys2Proof.Machine.execSrel g a x s
  | .sfill g a b c len => Sys2Proof.Machine.execSfill g a b c len s
  | .sstat g d a => Sys2Proof.Machine.execSstat g d a s
  | .mldw g t ws a l => Sys2Proof.Machine.execMldw g t ws a l s
  | .mma g o tile a b c l => Sys2Proof.Machine.execMma g o tile a b c l s
  | .mmag g o tile a b c l => Sys2Proof.Machine.execMmag g o tile a b c l s
  | .mmas g o tile a b c l => Sys2Proof.Machine.execMmas g o tile a b c l s
  | .mwait g d l => Sys2Proof.Machine.execMwait g d l s
  | .mresume g l => Sys2Proof.Machine.execMresume g l s
  | .mout g t m sc tile a b => Sys2Proof.Machine.execMout g t m sc tile a b s
  | .mzero g tile => Sys2Proof.Machine.execMzero g tile s
  | .mstat g d sel => Sys2Proof.Machine.execMstat g d sel s
  | .fetch g d a b c l => Sys2Proof.Machine.execFetch g d a b c l s
  | .put g d a b c l => Sys2Proof.Machine.execPut g d a b c l s
  | .gather g d a b c l n z => Sys2Proof.Machine.execGather g d a b c l n z s
  | .scata g t d a b c l n z => Sys2Proof.Machine.execScata g t d a b c l n z s
  | .nlcfg g d a l => Sys2Proof.Machine.execNlcfg g d a l s
  | .nlbin g d a b l => Sys2Proof.Machine.execNlbin g d a b l s
  | .nlpairs g d a b c l => Sys2Proof.Machine.execNlpairs g d a b c l s
  | .nlstat g d sel => Sys2Proof.Machine.execNlstat g d sel s
  | .conv g t src dst d a b l => Sys2Proof.Machine.execConv g t src dst d a b l s
  | .ewait g d a l => Sys2Proof.Machine.execEwait g d a l s
  | .estat g d a => Sys2Proof.Machine.execEstat g d a s
  | .movx g d imm => Sys2Proof.Machine.execMovx g d imm s
  | .functionReady reg bit => Sys2Proof.Machine.execFunctionReady reg bit s
  | .funcLost reg bit => Sys2Proof.Machine.execFuncLost reg bit s
  | .supplyOutOfRange mv => Sys2Proof.Machine.execSupplyOutOfRange mv s
  | .supplyInRange mv => Sys2Proof.Machine.execSupplyInRange mv s
  | .supplyDip mv => Sys2Proof.Machine.execSupplyDip mv s
  | .powerSample watts => Sys2Proof.Machine.execPowerSample watts s
  | .droopDetect mv => Sys2Proof.Machine.execDroopDetect mv s
  | .thermalThrottle tempC => Sys2Proof.Machine.execThermalThrottle tempC s
  | .ptpMessage port correction => Sys2Proof.Machine.execPtpMessage port correction s
  | .exchangeFrameRx port f => Sys2Proof.Machine.execExchangeFrameRx port f s
  | .createCtx m => Sys2Proof.Machine.execCreateCtx m s
  | .map m => Sys2Proof.Machine.execMap m s
  | .unmap m => Sys2Proof.Machine.execUnmap m s
  | .loadWimage m => Sys2Proof.Machine.execLoadWimage m s
  | .launch m => Sys2Proof.Machine.execLaunch m s
  | .evict m => Sys2Proof.Machine.execEvict m s
  | .resume m => Sys2Proof.Machine.execResume m s
  | .destroyCtx m => Sys2Proof.Machine.execDestroyCtx m s
  | .readTrapring m => Sys2Proof.Machine.execReadTrapring m s
  | .attest m => Sys2Proof.Machine.execAttest m s
  | .doorbellWrite ctx val => Sys2Proof.Machine.execDoorbellWrite ctx val s
  | .hostRdmaWrite rkey addr bytes => Sys2Proof.Machine.execHostRdmaWrite rkey addr bytes s
  | .hostRdmaRead rkey addr len => Sys2Proof.Machine.execHostRdmaRead rkey addr len s
  | .wakeMessage ctx => Sys2Proof.Machine.execWakeMessage ctx s
  | .tstartWrite v => Sys2Proof.Machine.execTstartWrite v s
  | .tickpWrite v => Sys2Proof.Machine.execTickpWrite v s
  | .plimitWrite v => Sys2Proof.Machine.execPlimitWrite v s
  | .fpcrWrite v => Sys2Proof.Machine.execFpcrWrite v s
  | .fpsrWrite v => Sys2Proof.Machine.execFpsrWrite v s
  | .agemaxWrite v => Sys2Proof.Machine.execAgemaxWrite v s
  | .dlescWrite v => Sys2Proof.Machine.execDlescWrite v s
  | .evselWrite n v => Sys2Proof.Machine.execEvselWrite n v s
  | .evcntWrite n v => Sys2Proof.Machine.execEvcntWrite n v s
  | .haltrelWrite v => Sys2Proof.Machine.execHaltrelWrite v s
  | .registerWrite n v => Sys2Proof.Machine.execRegisterWrite n v s
  | .messageInject vn => Sys2Proof.Machine.execMessageInject vn s
  | .messageReoffer vn => Sys2Proof.Machine.execMessageReoffer vn s
  | .poolRetest im => Sys2Proof.Machine.execPoolRetest im s
  | .poolExpiry im => Sys2Proof.Machine.execPoolExpiry im s
  | .supHoldService im => Sys2Proof.Machine.execSupHoldService im s
  | .evictStepEnd ctx => Sys2Proof.Machine.execEvictStepEnd ctx s
  | .writeApply im => Sys2Proof.Machine.execWriteApply im s
  | .tableWalk ctx va => Sys2Proof.Machine.execTableWalk ctx va s
  | .slotFillStart slot => Sys2Proof.Machine.execSlotFillStart slot s
  | .slotFillEnd slot => Sys2Proof.Machine.execSlotFillEnd slot s
  | .gangBarrier part => Sys2Proof.Machine.execGangBarrier part s
  | .connectionAccept port => Sys2Proof.Machine.execConnectionAccept port s
  | .evOvf n => Sys2Proof.Machine.execEvOvf n s
  | .packageReset => Sys2Proof.Machine.execPackageReset s
  | .recoveryStatusRead => Sys2Proof.Machine.execRecoveryStatusRead s
  | .powerLoss => Sys2Proof.Machine.execPowerLoss s
  | .supplyOvervoltage => Sys2Proof.Machine.execSupplyOvervoltage s
  | .stretchRelax => Sys2Proof.Machine.execStretchRelax s
  | .droopRelease => Sys2Proof.Machine.execDroopRelease s
  | .thermalTrip => Sys2Proof.Machine.execThermalTrip s
  | .tickBoundary => Sys2Proof.Machine.execTickBoundary s
  | .exchangeLinkLoss => Sys2Proof.Machine.execExchangeLinkLoss s
  | .connectionDrop => Sys2Proof.Machine.execConnectionDrop s
  | .launchStart => Sys2Proof.Machine.execLaunchStart s
  | .launchEnd => Sys2Proof.Machine.execLaunchEnd s
  | .strandDispatch => Sys2Proof.Machine.execStrandDispatch s
  | .relayStart => Sys2Proof.Machine.execRelayStart s
  | .messageArrival => Sys2Proof.Machine.execMessageArrival s
  | .stealRequest => Sys2Proof.Machine.execStealRequest s
  | .stealGrant => Sys2Proof.Machine.execStealGrant s
  | .stealDeny => Sys2Proof.Machine.execStealDeny s
  | .stealBackoffExpiry => Sys2Proof.Machine.execStealBackoffExpiry s
  | .spawnReservationRequest => Sys2Proof.Machine.execSpawnReservationRequest s
  | .spawnAnswer => Sys2Proof.Machine.execSpawnAnswer s
  | .spawnRelease => Sys2Proof.Machine.execSpawnRelease s
  | .commitGroupRelease => Sys2Proof.Machine.execCommitGroupRelease s
  | .splicerDeposit => Sys2Proof.Machine.execSplicerDeposit s
  | .splicerCover => Sys2Proof.Machine.execSplicerCover s
  | .watchdog => Sys2Proof.Machine.execWatchdog s
  | .deadlineExpiry => Sys2Proof.Machine.execDeadlineExpiry s
  | .evictionBound => Sys2Proof.Machine.execEvictionBound s
  | .waitSatisfied => Sys2Proof.Machine.execWaitSatisfied s
  | .mailboxDrain => Sys2Proof.Machine.execMailboxDrain s
  | .haltStop => Sys2Proof.Machine.execHaltStop s
  | .refreshStallEnd => Sys2Proof.Machine.execRefreshStallEnd s
  | .sequencerStep => Sys2Proof.Machine.execSequencerStep s
  | .mmasPrefetch => Sys2Proof.Machine.execMmasPrefetch s
  | .sendbArrival => Sys2Proof.Machine.execSendbArrival s
  | .sendbLanded => Sys2Proof.Machine.execSendbLanded s
  | .barrierArrival => Sys2Proof.Machine.execBarrierArrival s
  | .barrierWithdraw => Sys2Proof.Machine.execBarrierWithdraw s
  | .barrierComplete => Sys2Proof.Machine.execBarrierComplete s
  | .gdeTransferBlock => Sys2Proof.Machine.execGdeTransferBlock s
  | .gdeRowFetch => Sys2Proof.Machine.execGdeRowFetch s
  | .scataApply => Sys2Proof.Machine.execScataApply s
  | .nlbinComplete => Sys2Proof.Machine.execNlbinComplete s
  | .nleBlock => Sys2Proof.Machine.execNleBlock s
  | .convPhase => Sys2Proof.Machine.execConvPhase s
  | .engineCommandEnd => Sys2Proof.Machine.execEngineCommandEnd s

end Sys2Proof.Machine
end

