-- ==== Sys2Proof/Machine/Place.lean ====
section
/-! DEFINITION. A context, a launch and a task that hold nothing, and a program placed for the next step (log 11). -/
namespace Sys2Proof.Machine

/-- A task record that names nothing. -/
def blankRec : TaskRec :=
  { box := 0, pc := 0, kind := .leaf, role := 1, fitSd := false, wait := false, req := false, exp := false, relay := 0
    jref := 0, launch := 0, args := Vector.replicate 4 0, wctr := 0, wtgt := 0, hdr := 0, hdrOk := true, foot := 0
    spawned := false, mask := 0 }

/-- A task at its dispatch (R99). -/
def blankTask (ctx lc : Nat) (tr : TaskRec) (trig : Trigger) : Task :=
  { tr := tr, ctx := ctx, lc := lc, trigger := trig, leg := 0, legs := [], svcHandle := 0, svcN := 0
    expArmed := tr.exp, frame := 0, frameLen := 0, tagLog := [], journal := [], effects := [], deposited := false
    ring := none, cyc0 := 0, blocked := 0, mxFlags := 0 }

/-- A launch with default limits (R45) and no tables. -/
def blankLaunch : Launch :=
  { arrival := false, csend := false, ltag := 0, codeva := 0, entrypc := 0, nlcore := 1, root := 0, tensors := []
    desc := emptyDesc, dlmax := 100000000, dlesc := 64, budget := 1073741824, capls := 0, capslot := 0, captree := 32
    rseed := 0, cplva := 0, cplrkey := 0, imm := 0, nchip := 1, chipno := 0, remap := [0], sa := 0, d := 0, conn := 0
    start := 0, tasks := 0, traps := 0, lastTrap := 0, flags := 0, heap := [], seqs := [], xseqs := [], scata := []
    wake := [] }

/-- A context with nothing in it (R34). -/
def blankCtx : Ctx :=
  { esave := false, xsteal := false, arearw := false, trapn := 64, area := 0, areaSize := 0, off := Vector.replicate 6 0
    grace := 20000, wslen := 0, wsbase := 0, winRkey := 0, areaRkey := 0, ttpa := 0, pages := [], maps := []
    head := 0, tail := 0, ringConn := [], number := 0, launch := none, trapHead := 0, lost := 0
    unread := [], traprec := 0, trapcode := 0, holds := [], rowPart := [], evicts := [], evReply := none
    debugger := false, back := [] }

/-- Physical addresses of the tables and the code that `place` writes: a level-1 table, a level-2 table whose entry 0 is
a 512 MiB leaf (R136). -/
def placeL1 : Nat := 0x10000
def placeL2 : Nat := 0x20000
def placeCode : Nat := 0x20000000

/-- The bytes of an instruction placed as a program of context 1, which strand 0 of core 0 runs at PC 0 in a task of its
own, with core 0 to issue next. -/
def State.place (s : State) (code : List Byte) : State :=
  let ctx := { blankCtx with ttpa := placeL1, launch := some blankLaunch }
  let s := ((s.gwriteAll placeL1 (bytesOfNat 8 (placeL2 + 1)) none).gwriteAll placeL2
    (bytesOfNat 8 (placeCode + 3)) none).gwriteAll placeCode code none
  let s := s.modRegs 0 1 (fun r => { r with ttbase := BitVec.ofNat 64 placeL1, captree := 32 })
  let s := s.modStrand 0 (fun t =>
    { t with pc := 0, phase := .running, task := some (blankTask 1 (lcKey 1 0) blankRec .record), wait := none
             stall := none, held := false, haltReq := false, halted := false, dlePend := false, budget := blankLaunch.budget
             dlmax := blankLaunch.dlmax, dlesc := blankLaunch.dlesc })
  { s with ctxs := s.ctxs.set 1 ctx, order := [.core 0] }

end Sys2Proof.Machine
end

