-- ==== Sys2Proof/Machine/Step.lean ====
section
/-! DEFINITION. One step of the chip: the next turn is planned, its instruction or event runs, and the clocks move on. -/
namespace Sys2Proof.Machine

/-- The clocks move on after a step that has a next state. -/
def ticked (o : Host.Outcome State Fault Refusal) : Host.Outcome State Fault Refusal :=
  match o with
  | .next s => .next s.tick
  | .fault f => .fault f
  | .refused r => .refused r

/-- A planned turn carried out. -/
def runPlan (p : Plan) : Host.Outcome State Fault Refusal :=
  match p with
  | .run i s => ticked (exec i s)
  | .done s => .next s.tick

/-- One step. A module that has switched off stops (R17). -/
def step (s : State) : Host.Outcome State Fault Refusal :=
  if s.power.off then .fault .moduleOff else runPlan s.plan

/-- `s` with one instruction placed where the next step fetches: the bits of `w` as the opcode table numbers them, the
bits above them zero, up to the 16 bytes of MOVX. -/
def State.withFetchWord (s : State) (_nbits w : Nat) : State := s.place (bytesOfNat 16 w)

end Sys2Proof.Machine
end

