-- ==== Sys2Proof/Safety.lean ====
section
/-! DEFINITION. What counts as a safe run (the module has power and every byte store keeps its form), and the words that
statements about single instructions are made of. -/
namespace Sys2Proof.Machine

/-- Every byte store is in canonical form. -/
def State.memWf (s : State) : Bool :=
  s.dies.toList.all (fun (d : Die) => Mem.wf d.view.cells) && Mem.wf s.ws && Mem.wf s.lds && Mem.wf s.opmem

/-- A step that does not stop. -/
def State.stepsOn (s : State) : Prop := ∃ t, step s = .next t

/-- The current strand goes on `n` bytes further, changed by `f` as well; no other part of the chip changes. -/
def State.goes (s : State) (n : Nat) (f : Strand → Strand) : State :=
  s.setStrand s.cur (f { s.st with pc := s.st.pc + BitVec.ofNat 64 n })

/-- The outcome of an instruction of one word that writes an s register and nothing else. -/
def State.givesS (s : State) (d : SReg) (v : Word) : Host.Outcome State Fault Refusal := .next (s.goes 8 (·.wS d v))

/-- The outcome of an instruction of one word that writes a predicate register and nothing else. -/
def State.givesP (s : State) (d : PReg) (v : Bool) : Host.Outcome State Fault Refusal := .next (s.goes 8 (·.wP d v))

/-- The outcome of an instruction of one word that writes a vector register and nothing else. -/
def State.givesV (s : State) (d : VReg) (v : VWord) : Host.Outcome State Fault Refusal := .next (s.goes 8 (·.wV d v))

/-- The outcome of an instruction of one word that writes a mask register and nothing else. -/
def State.givesK (s : State) (d : KReg) (v : KWord) : Host.Outcome State Fault Refusal := .next (s.goes 8 (·.wK d v))

/-- The rational number that a finite value is (R179). -/
def FVal.q : FVal → ℚ
  | .fin n m e => (if n then -1 else 1) * (m : ℚ) * (2 : ℚ) ^ e
  | _ => 0

/-- A value that is neither NaN nor infinite. -/
def FVal.isFin : FVal → Bool
  | .fin .. => true
  | _ => false

/-- The integer conditions of R216, on the numbers that two words stand for. -/
def compares (c : ICond) (x y : Word) : Bool :=
  match c with
  | .eq => decide (x = y)
  | .ne => decide (x ≠ y)
  | .lt => decide (x.toInt < y.toInt)
  | .le => decide (x.toInt ≤ y.toInt)
  | .gt => decide (y.toInt < x.toInt)
  | .ge => decide (y.toInt ≤ x.toInt)
  | .ltu => decide (x.toNat < y.toNat)
  | .leu => decide (x.toNat ≤ y.toNat)
  | .gtu => decide (y.toNat < x.toNat)
  | .geu => decide (y.toNat ≤ x.toNat)
  | .tst => decide (∃ i : Fin 64, x.getLsbD i.val = true ∧ y.getLsbD i.val = true)
  | .ntst => decide (∀ i : Fin 64, ¬ (x.getLsbD i.val = true ∧ y.getLsbD i.val = true))

/-- The outcome of an instruction that ends at once with a status, the wait it may have been in ended with it. -/
def State.ends (s : State) (d : SReg) (code detail : Nat) : Host.Outcome State Fault Refusal :=
  .next (((s.unblock).statusB d code detail).adv 8)

/-- The outcome of a scalar instruction with the result and flags `r`, none of them enabled: the register written, the
flags ORed into FPSR (R184, R281). -/
def State.givesFlagged (s : State) (r : Nat × FFlags) (write : Nat → Strand → Strand) :
    Host.Outcome State Fault Refusal :=
  .next (s.goes 8 (fun t => write r.1 { t with fpsr := t.fpsr ||| r.2.setWidth 64 }))

/-- A scalar floating-point instruction with the outcome `o` and the result and flags `r`: when no flag that it raises is
enabled, it writes S[D], extended as its format says, and its flags (R265, R281). -/
def State.fpGives (s : State) (t : Fmt) (d : SReg) (r : Nat × FFlags) (o : Host.Outcome State Fault Refusal) : Prop :=
  r.2 &&& s.st.te = 0 → o = s.givesFlagged r (fun v u => u.wS d (resultWord t v))

/-- The elements of the tile that VSHAPE gives, and whether a tile of elements of `size` bytes fits a register (R101,
R102). -/
def State.elems (s : State) : Nat := s.st.rows * s.st.cols
abbrev State.tileFits (s : State) (size : Nat) : Prop :=
  1 ≤ s.st.rows ∧ s.st.rows ≤ 64 ∧ 1 ≤ s.st.cols ∧ s.st.cols ≤ 64 ∧ s.elems * size ≤ 1024

/-- The flags that an element-wise instruction raises at its active positions (R293, R294). -/
def State.raised (s : State) (k : KReg) (f : Nat → Nat × FFlags) : FFlags :=
  (List.range s.elems).foldl (fun (x : FFlags) i => if (s.rK k).getLsbD i then x ||| (f i).2 else x) 0

/-- An element-wise instruction with the outcome `o` and the results `f`: when no flag that it raises is enabled, V[D]
holds the results at the active positions, at the others its old elements, or zeros with Z, and its old bytes above the
tile; the flags are ORed into FPSR; nothing else changes (R102, R293, R294). -/
def State.writesTile (s : State) (k : Msk) (d : VReg) (size : Nat) (f : Nat → Nat × FFlags)
    (o : Host.Outcome State Fault Refusal) : Prop :=
  s.raised k.k f &&& s.st.te = 0 →
    ∃ v : VWord,
      o = .next (s.goes 8 (fun t => ({ t with fpsr := t.fpsr ||| (s.raised k.k f).setWidth 64 } : Strand).wV d v)) ∧
      (∀ i, i < s.elems → velem v size i =
        if (s.rK k.k).getLsbD i then (f i).1 % 2 ^ (8 * size) else if k.z then 0 else velem (s.rV d) size i) ∧
      (∀ j, 8 * size * s.elems ≤ j → v.getLsbD j = (s.rV d).getLsbD j)

/-- Every byte of memory that a program can reach reads the same: the four dies' views, the weight stores, the local
stores and the operand memories. -/
def State.sameMemory (s t : State) : Prop :=
  (∀ d a, Mem.get (t.die d).view.cells a = Mem.get (s.die d).view.cells a) ∧
  (∀ a, Mem.get t.ws a = Mem.get s.ws a) ∧ (∀ a, Mem.get t.lds a = Mem.get s.lds a) ∧
  (∀ a, Mem.get t.opmem a = Mem.get s.opmem a)

/-- No write of another die to a range is on its way to a die (R152). -/
abbrev State.quietAt (s : State) (d : Fin 4) (pa n : Nat) : Prop :=
  ∀ p ∈ (s.die d).view.pend, p.meets (wordsOf pa n) = false

/-- What a store of some bytes to places of global memory leaves: the pc moved on, the bytes at each place as the executing
die sees it, every other byte of its view and of every other memory as before (R144, R152). -/
def State.globStored (s : State) (places : List Nat) (l : List Byte) (t : State) : Prop :=
  let d := dieF (coreOf s.cur)
  t.st.pc = s.st.pc + 8 ∧
  (∀ p ∈ places, ∀ i (h : i < l.length), Mem.get (t.die d).view.cells (p + i) = l[i]) ∧
  (∀ y, (∀ p ∈ places, y < p ∨ p + l.length ≤ y) →
    Mem.get (t.die d).view.cells y = Mem.get (s.die d).view.cells y) ∧
  (∀ f, f ≠ d → (t.die f).view.cells = (s.die f).view.cells) ∧ t.lds = s.lds ∧ t.ws = s.ws ∧ t.opmem = s.opmem

/-- The address checks of R121 and R122, window by window, on an aligned access of at most 8 bytes. -/
def State.firstBadAddr (s : State) (n : Nat) (ea : Word) : Option TrapInfo :=
  let w := s.who
  let o := inWindowOff ea
  let lo := Config.ldsBytes - w.sa
  let bad := fun (code : Nat) (a : Word) => some (TrapInfo.mk code n a 0)
  if window ea = 0 then (if bits ea 59 48 ≠ 0 then bad 0x07 ea else none)
  else if window ea = 1 then (if w.wslen < o + n then bad 0x05 (BitVec.ofNat 64 (2 ^ 60 + max o w.wslen)) else none)
  else if window ea = 2 then
    (if o + n ≤ w.frameLen ∨ (lo ≤ o ∧ o + n ≤ Config.ldsBytes) then none
     else bad 0x05 (BitVec.ofNat 64 (2 ^ 61 + w.viewBad o)))
  else if window ea = 3 ∧ bits ea 39 21 = 0 ∧ bits ea 59 40 < (w.launch.map (·.nlcore)).getD 0
      ∧ w.hosted (bits ea 59 40) = true ∧ lo ≤ bits ea 20 0 ∧ bits ea 20 0 + n ≤ Config.ldsBytes then bad 0x06 ea
  else bad 0x05 ea

/-- The publish tag of the word of an access as the executing die sees it (R71). -/
def State.wordTagged (s : State) (w : Who) (wd : Nat) : Option Bool :=
  match s.xl w wd with
  | .error _ => none
  | .ok x => some (s.tagged (dieF w.core) (x.pa (dieOf w.core)))

/-- The first check of R120 that a scalar access of at most 8 bytes fails: of a load, a store, an AMO or an MSTORE. -/
def State.firstFail (s : State) (store amo mstore : Bool) (n : Nat) (ea : Word) : Option TrapInfo :=
  let w := s.who
  let fails := fun (code detail : Nat) (a : Word) => some (TrapInfo.mk code detail a 0)
  let glob := window ea = 0
  let exact := w.exact = true
  let keep := (List.range n).find? (fun i => w.inKeep (inWindowOff ea + i) 1)
  let byte := (List.range n).find? (fun i => (w.windowByte store (ea.toNat + i)).isSome)
  let replica := match s.xl w ea.toNat with
    | .ok x => x.replica
    | .error _ => false
  if ea.toNat % n ≠ 0 then fails 0x03 n ea
  else if (s.firstBadAddr n ea).isSome then s.firstBadAddr n ea
  else if glob ∧ exact ∧ amo = false ∧ byte.isSome = true then
    fails 0x0A ((w.windowByte store (ea.toNat + byte.getD 0)).getD 0) (ea + BitVec.ofNat 64 (byte.getD 0))
  else if glob ∧ exact ∧ store = true ∧ mstore = false ∧ replica = true then fails 0x0C 0 ea
  else if exact ∧ amo = true then fails 0x0D 0 ea
  else if window ea = 2 ∧ store = true ∧ (exact ∨ amo = true) ∧ keep.isSome = true then
    fails 0x0D 1 (ea + BitVec.ofNat 64 (keep.getD 0))
  else if glob then
    match s.xl w ea.toNat with
    | .error x => fails 0x08 (if x = .malformed then 1 else 0) ea
    | .ok x =>
      if store = true ∧ w.sup = false ∧ ea.toNat < w.area + w.areaSize ∧ w.area < ea.toNat + n then
        fails 0x09 2 (BitVec.ofNat 64 (max ea.toNat w.area))
      else if store = true ∧ x.write = false then fails 0x09 0 ea
      else
        match w.tensor ea.toNat with
        | some (i, t) =>
          if exact ∧ amo = false ∧ t.cls = 2 ∧ s.wordTagged w (ea.toNat / 8 * 8) = some store then fails 0x0B (i + if store then 256 else 0) ea
          else none
        | none => none
  else if store = true ∧ window ea = 1 then fails 0x09 1 ea
  else none

end Sys2Proof.Machine
end

