-- ==== Sys2Proof/Certificates/Slice0/Obligations.lean ====
section
/-! DEFINITION. The statements for the provers, each with the rules that it formalises. A statement about an instruction
gives the whole next state: what it writes and, by the form of that state, what it leaves. -/
open Sys2Proof Sys2Proof.Machine

/-! ### Scalar instructions -/

/-- R275 with the cases of R187: every binary integer operation writes S[D], moves the pc by one word, and changes
nothing else; s0 discards the write (R99). -/
def Obligations.IntegerOperations : Prop :=
  ∀ (s : State) (g : Guard) (d a b : SReg), s.guard g = true →
    let x := s.rS a
    let y := s.rS b
    exec (.add g d a b) s = s.givesS d (x + y) ∧
    exec (.sub g d a b) s = s.givesS d (x - y) ∧
    exec (.mul g d a b) s = s.givesS d (x * y) ∧
    exec (.mulh g d a b) s = s.givesS d (BitVec.ofInt 64 (x.toInt * y.toInt / 2 ^ 64)) ∧
    exec (.mulhu g d a b) s = s.givesS d (BitVec.ofNat 64 (x.toNat * y.toNat / 2 ^ 64)) ∧
    exec (.div g d a b) s = s.givesS d (if y = 0 then BitVec.allOnes 64 else BitVec.ofInt 64 (x.toInt.tdiv y.toInt)) ∧
    exec (.divu g d a b) s = s.givesS d (if y = 0 then BitVec.allOnes 64 else BitVec.ofNat 64 (x.toNat / y.toNat)) ∧
    exec (.rem g d a b) s = s.givesS d (if y = 0 then x else BitVec.ofInt 64 (x.toInt.tmod y.toInt)) ∧
    exec (.remu g d a b) s = s.givesS d (if y = 0 then x else BitVec.ofNat 64 (x.toNat % y.toNat)) ∧
    exec (.and g d a b) s = s.givesS d (x &&& y) ∧
    exec (.or g d a b) s = s.givesS d (x ||| y) ∧
    exec (.xor g d a b) s = s.givesS d (x ^^^ y) ∧
    exec (.andn g d a b) s = s.givesS d (x &&& ~~~y) ∧
    exec (.shl g d a b) s = s.givesS d (if 64 ≤ y.toNat then 0 else BitVec.ofNat 64 (x.toNat * 2 ^ y.toNat)) ∧
    exec (.shr g d a b) s = s.givesS d (if 64 ≤ y.toNat then 0 else BitVec.ofNat 64 (x.toNat / 2 ^ y.toNat)) ∧
    exec (.sar g d a b) s = s.givesS d
      (if 64 ≤ y.toNat then (if x.msb then BitVec.allOnes 64 else 0) else BitVec.ofInt 64 (x.toInt / 2 ^ y.toNat)) ∧
    exec (.rot g d a b) s = s.givesS d (x.rotateLeft (y.toNat % 64)) ∧
    exec (.min g d a b) s = s.givesS d (if x.toInt ≤ y.toInt then x else y) ∧
    exec (.max g d a b) s = s.givesS d (if y.toInt ≤ x.toInt then x else y) ∧
    exec (.minu g d a b) s = s.givesS d (if x.toNat ≤ y.toNat then x else y) ∧
    exec (.maxu g d a b) s = s.givesS d (if y.toNat ≤ x.toNat then x else y)

/-- R276: the counts, said by the bits that they count. -/
def Obligations.BitCounts : Prop :=
  ∀ (s : State) (g : Guard) (d a : SReg), s.guard g = true →
    let x := s.rS a
    (∃ n, exec (.clz g d a) s = s.givesS d (BitVec.ofNat 64 n) ∧ n ≤ 64 ∧ (∀ i, i < n → x.getLsbD (63 - i) = false) ∧
      (n < 64 → x.getLsbD (63 - n) = true)) ∧
    (∃ n, exec (.ctz g d a) s = s.givesS d (BitVec.ofNat 64 n) ∧ n ≤ 64 ∧ (∀ i, i < n → x.getLsbD i = false) ∧
      (n < 64 → x.getLsbD n = true)) ∧
    exec (.popc g d a) s = s.givesS d (BitVec.ofNat 64 ((List.range 64).countP (fun i => x.getLsbD i)))

/-- R277: the bit-field instructions, bit by bit. The field begins at bit o = S[B] and has n = min(o + min(S[C], 64),
64) − o bits; it is empty when S[C] is 0 or o is 64 or more. -/
def Obligations.BitFields : Prop :=
  ∀ (s : State) (g : Guard) (d a b c : SReg), s.guard g = true →
    let x := s.rS a
    let o := (s.rS b).toNat
    let n := min (o + min (s.rS c).toNat 64) 64 - o
    (∃ v, exec (.bfx g d a b c) s = s.givesS d v ∧
      ∀ i, i < 64 → v.getLsbD i = (decide (i < n) && x.getLsbD (o + i))) ∧
    (∃ v, exec (.bfxs g d a b c) s = s.givesS d v ∧
      ∀ i, i < 64 → v.getLsbD i = (decide (0 < n) && x.getLsbD (o + min i (n - 1)))) ∧
    (∃ v, exec (.bfi g d a b c) s = s.givesS d v ∧
      ∀ i, i < 64 → v.getLsbD i = if o ≤ i ∧ i < o + n then x.getLsbD (i - o) else (s.rS d).getLsbD i)

/-- R278 and R279: SEL, CMP and CMPI, whose conditions are those of R216 on 64-bit values. -/
def Obligations.SelectAndCompare : Prop :=
  ∀ (s : State) (g : Guard) (d a b : SReg) (p : PReg) (i : BitVec 34), s.guard g = true →
    let x := s.rS a
    let y := s.rS b
    let z := i.signExtend 64
    exec (.sel g d a b p) s = s.givesS d (if s.rP p then x else y) ∧
    ∀ c : ICond,
      exec (.cmp g c p a b) s = s.givesP p (compares c x y) ∧
      exec (.cmpi g c p a i) s = s.givesP p (compares c x z)

/-- R279 and R280: immediates and constants. MOVX is two words long. -/
def Obligations.ImmediatesAndConstants : Prop :=
  ∀ (s : State) (g : Guard) (d a : SReg) (i : BitVec 34) (h : BitVec 30) (w : Word), s.guard g = true →
    let x := s.rS a
    let y := i.signExtend 64
    exec (.addi g d a i) s = s.givesS d (x + y) ∧
    exec (.andi g d a i) s = s.givesS d (x &&& y) ∧
    exec (.ori g d a i) s = s.givesS d (x ||| y) ∧
    exec (.xori g d a i) s = s.givesS d (x ^^^ y) ∧
    exec (.muli g d a i) s = s.givesS d (x * y) ∧
    exec (.shli g d a i) s = s.givesS d (if 64 ≤ i.toNat then 0 else BitVec.ofNat 64 (x.toNat * 2 ^ i.toNat)) ∧
    exec (.shri g d a i) s = s.givesS d (if 64 ≤ i.toNat then 0 else BitVec.ofNat 64 (x.toNat / 2 ^ i.toNat)) ∧
    exec (.sari g d a i) s = s.givesS d
      (if 64 ≤ i.toNat then (if x.msb then BitVec.allOnes 64 else 0) else BitVec.ofInt 64 (x.toInt / 2 ^ i.toNat)) ∧
    exec (.lea g d i) s = s.givesS d (BitVec.ofNat 64 ((s.curLaunch.map (·.codeva)).getD 0) + s.st.pc + y) ∧
    exec (.movi g d i) s = s.givesS d y ∧
    exec (.movhi g d h) s = s.givesS d (h ++ (s.rS d).extractLsb' 0 34) ∧
    exec (.movx g d w) s = .next (s.goes 16 (·.wS d w))

/-- R282, R283, R285 and R286: the scalar instructions that round once, pick an operand or convert. `x`, `y` and `z`
are the exact values of the operands; `fadd` and the others give the exact result rounded once by R181 with the flags
of R180. -/
def Obligations.ScalarFloatingPoint : Prop :=
  ∀ (s : State) (g : Guard) (t src : Fmt) (m : Rm) (d a b c : SReg), s.guard g = true →
    let r := s.rm m
    let x := fval t (operandBits t (s.rS a))
    let y := fval t (operandBits t (s.rS b))
    let z := fval t (operandBits t (s.rS c))
    s.fpGives t d (fadd t r x y) (exec (.fadd g t m d a b) s) ∧
    s.fpGives t d (fadd t r x y.flip) (exec (.fsub g t m d a b) s) ∧
    s.fpGives t d (fmul t r x y) (exec (.fmul g t m d a b) s) ∧
    s.fpGives t d (fdiv t r x y) (exec (.fdiv g t m d a b) s) ∧
    s.fpGives t d (ffma t r x y z) (exec (.ffma g t m d a b c) s) ∧
    s.fpGives t d (fsqrt t r x) (exec (.fsqrt g t m d a) s) ∧
    s.fpGives t d (fminmax t false (operandBits t (s.rS a)) (operandBits t (s.rS b))) (exec (.fmin g t d a b) s) ∧
    s.fpGives t d (fminmax t true (operandBits t (s.rS a)) (operandBits t (s.rS b))) (exec (.fmax g t d a b) s) ∧
    s.fpGives t d (convert t src r (operandBits src (s.rS a))) (exec (.fcvt g t src m d a) s) ∧
    s.fpGives t d (crExp t r (operandBits t (s.rS a))) (exec (.fexp g t m d a) s) ∧
    s.fpGives t d (crLn t r (operandBits t (s.rS a))) (exec (.flog g t m d a) s) ∧
    s.fpGives t d (crErf t r (operandBits t (s.rS a))) (exec (.ferf g t m d a) s) ∧
    s.fpGives t d (crErfc t r (operandBits t (s.rS a))) (exec (.ferfc g t m d a) s)

/-- R284: FCMP writes a predicate and its flags; FCLASS and FSGN raise none and never trap. -/
def Obligations.ScalarCompareClassSign : Prop :=
  ∀ (s : State) (g : Guard) (t : Fmt) (c : FCond) (op : SgnOp) (p : PReg) (d a b : SReg), s.guard g = true →
    let x := operandBits t (s.rS a)
    let r := fcond c (fval t x) (fval t (operandBits t (s.rS b)))
    (r.2 &&& s.st.te = 0 →
      exec (.fcmp g t c p a b) s = s.givesFlagged (0, r.2) (fun _ u => u.wP p r.1)) ∧
    exec (.fclass g t d a) s = s.givesS d (BitVec.ofNat 64 (fclass t x)) ∧
    exec (.fsgn g t op d a) s = s.givesS d (BitVec.ofNat 64 (fsgn t op x (operandBits t (s.rS op.b))))

/-- R180 to R182, R186, R190 and R216: a non-zero finite value of an IEEE format rounds to a pattern of the same
value, in every mode, and raises no flag. Of finite operands fadd, fmul and ffma round the exact sum and product, with
the sign of R182 for an exact zero; fdiv and fsqrt round the exact quotient and root, or, when those take more bits
than are kept, the odd number of the last place kept that stands for what lies between its neighbours. NaN operands
and the invalid operations give the canonical NaN. The conditions of R216 compare the numbers; a block encoder rounds
each element once at its octet's scale. -/
def Obligations.RoundingKeepsValues : Prop :=
  ∀ (t : Fmt) (m : Rm), t.isIeee = true →
    let invalid := (nanBits t, fNV)
    let sum := fun (r : Nat × FFlags) (v : ℚ) (zero : Bool) => ∃ n k e, r = roundF t m n k e ∧ (FVal.fin n k e).q = v ∧
      (k = 0 → n = zero)
    (∀ b neg mag e, b < 2 ^ ieeeBits t → fval t b = .fin neg mag e → mag ≠ 0 → roundF t m neg mag e = (b, 0)) ∧
    (∀ n1 m1 e1 n2 m2 e2,
      let x := FVal.fin n1 m1 e1
      let y := FVal.fin n2 m2 e2
      sum (fadd t m x y) (x.q + y.q) (if m1 = 0 ∧ m2 = 0 ∧ n1 = n2 then n1 else m == .rdn) ∧
      (∀ n3 m3 e3, let z := FVal.fin n3 m3 e3
        sum (ffma t m x y z) (x.q * y.q + z.q)
          (if (m1 = 0 ∨ m2 = 0) ∧ m3 = 0 ∧ (xor n1 n2) = n3 then n3 else m == .rdn)) ∧
      sum (fmul t m x y) (x.q * y.q) (xor n1 n2) ∧
      (m2 = 0 → fdiv t m x y = if m1 = 0 then invalid else (infBits t (xor n1 n2), fDZ)) ∧
      (m2 ≠ 0 → m1 = 0 → fdiv t m x y = (zeroBits t (xor n1 n2), 0)) ∧
      (m2 ≠ 0 → m1 ≠ 0 → ∃ k e, let n := xor n1 n2
        fdiv t m x y = roundF t m n k e ∧ 2 ^ 139 ≤ k ∧ ((FVal.fin n k e).q * y.q = x.q ∨
          (k % 2 = 1 ∧ (FVal.fin false (k - 1) e).q * |y.q| < |x.q| ∧ |x.q| < (FVal.fin false (k + 1) e).q * |y.q|))) ∧
      (m1 = 0 → fsqrt t m x = (zeroBits t n1, 0)) ∧ (m1 ≠ 0 → n1 = true → fsqrt t m x = invalid) ∧
      (m1 ≠ 0 → n1 = false → ∃ k e, fsqrt t m x = roundF t m false k e ∧ 2 ^ 139 ≤ k ∧
        ((FVal.fin false k e).q ^ 2 = x.q ∨
          (k % 2 = 1 ∧ (FVal.fin false (k - 1) e).q ^ 2 < x.q ∧ x.q < (FVal.fin false (k + 1) e).q ^ 2))) ∧
      fcond .eq x y = (decide (x.q = y.q), 0) ∧ fcond .ne x y = (decide (x.q ≠ y.q), 0) ∧
      fcond .lt x y = (decide (x.q < y.q), 0) ∧ fcond .le x y = (decide (x.q ≤ y.q), 0) ∧
      fcond .gt x y = (decide (y.q < x.q), 0) ∧ fcond .ge x y = (decide (y.q ≤ x.q), 0) ∧
      fcond .un x y = (false, 0) ∧ fcond .or x y = (true, 0)) ∧
    (∀ x y : FVal, x.isNan = true ∨ y.isNan = true →
      let sig := flagIf (x.isSig || y.isSig) fNV
      fadd t m x y = (nanBits t, sig) ∧ fmul t m x y = (nanBits t, sig) ∧ fdiv t m x y = (nanBits t, sig) ∧
      (∀ z, ffma t m x z y = if (match x, z with | .inf _, .fin _ 0 _ => true | .fin _ 0 _, .inf _ => true | _, _ => false)
        then invalid else (nanBits t, flagIf (x.isSig || y.isSig || z.isSig) fNV)) ∧
      (y = x → fsqrt t m x = (nanBits t, flagIf x.isSig fNV)) ∧
      fcond .eq x y = (false, sig) ∧ fcond .ne x y = (true, sig) ∧ fcond .un x y = (true, sig) ∧
      fcond .or x y = (false, sig) ∧ ∀ c, c = .lt ∨ c = .le ∨ c = .gt ∨ c = .ge → fcond c x y = (false, fNV)) ∧
    (∀ a b e, fadd t m (.inf a) (.inf b) = (if a = b then (infBits t a, 0) else invalid) ∧
      fmul t m (.inf a) (.fin b 0 e) = invalid ∧ fmul t m (.fin b 0 e) (.inf a) = invalid ∧
      fdiv t m (.inf a) (.inf b) = invalid ∧ fsqrt t m (.inf true) = invalid ∧
      ∀ z, ffma t m (.inf a) (.fin b 0 e) z = invalid ∧ ffma t m (.fin b 0 e) (.inf a) z = invalid) ∧
    (∀ i : Fmt, i.isInt = true → (∀ b, convert t i m b = roundF t m (decide (intVal i b < 0)) (intVal i b).natAbs 0) ∧
      (∀ b, (fval t b).isNan = true → convert i t m b = (0, fNV)) ∧
      ∀ b, (fval t b).isFin = true → ∀ z : ℤ, (fval t b).q = z →
        convert i t m b = if intLo i ≤ z ∧ z ≤ intHi i then (intPat i z, 0) else (intPat i (satInt i z), fNV)) ∧
    (∀ f xs, f.isFb = true → xs.length = 32 →
      let r := fbEncode f m xs none
      (xs.all FVal.isFin = false → r = (255, fNV)) ∧ (xs.all FVal.isZero = true → r = (0, 0)) ∧
      (xs.all FVal.isFin = true → fbExp r.1 ≠ 0 → fbExp r.1 < 255 ∧ ∀ (i : Nat) (h : i < xs.length),
        let s : Int := (fbExp r.1 : Int) - 127 - (fbN f - 1 : Nat) - fbShift r.1 (i / 8)
        fbVal f r.1 i = .fin xs[i].neg (min (fbQ m xs[i] s).1 (2 ^ fbN f - 1)) s))

/-- R185: a scalar instruction that raises an enabled flag, of those of R282 to R286, takes FPX, whose detail holds the
flags that are raised and enabled; it writes no register. -/
def Obligations.FpxBeforeResult : Prop :=
  ∀ (s : State) (g : Guard) (t src : Fmt) (m : Rm) (cc : FCond) (p : PReg) (d a b c : SReg), s.guard g = true →
    let r := s.rm m
    let xb := operandBits t (s.rS a)
    let yb := operandBits t (s.rS b)
    let x := fval t xb
    let y := fval t yb
    let traps := fun (f : FFlags) (i : Instr) => f &&& s.st.te ≠ 0 →
      exec i s = .next (s.takeTrap ⟨tFPX, (f &&& s.st.te).toNat, 0, f⟩)
    traps (fadd t r x y).2 (.fadd g t m d a b) ∧ traps (fadd t r x y.flip).2 (.fsub g t m d a b) ∧
    traps (fmul t r x y).2 (.fmul g t m d a b) ∧ traps (fdiv t r x y).2 (.fdiv g t m d a b) ∧
    traps (ffma t r x y (fval t (operandBits t (s.rS c)))).2 (.ffma g t m d a b c) ∧
    traps (fsqrt t r x).2 (.fsqrt g t m d a) ∧
    traps (fminmax t false xb yb).2 (.fmin g t d a b) ∧ traps (fminmax t true xb yb).2 (.fmax g t d a b) ∧
    traps (fcond cc x y).2 (.fcmp g t cc p a b) ∧
    traps (convert t src r (operandBits src (s.rS a))).2 (.fcvt g t src m d a) ∧
    traps (crExp t r xb).2 (.fexp g t m d a) ∧ traps (crLn t r xb).2 (.flog g t m d a) ∧
    traps (crErf t r xb).2 (.ferf g t m d a) ∧ traps (crErfc t r xb).2 (.ferfc g t m d a)

/-! ### Vector instructions -/

/-- R296 to R298: element-wise arithmetic, for IEEE, integer and LG24 elements. -/
def Obligations.VectorArithmetic : Prop :=
  ∀ (s : State) (g : Guard) (t : Fmt) (m : Rm) (k : Msk) (d a : VReg) (b : VB) (c : VReg), s.guard g = true →
    s.tileFits (fmtSize t) →
    let n := fmtSize t
    let r := s.rm m
    let x := fun i => velem (s.rV a) n i
    let y := fun i => s.vb b n i
    let z := fun i => velem (s.rV c) n i
    let w := s.writesTile k d n
    (t.isIeee = true →
      w (fun i => fadd t r (fval t (x i)) (fval t (y i))) (exec (.vadd g t m k d a b) s) ∧
      w (fun i => fadd t r (fval t (x i)) (fval t (y i)).flip) (exec (.vsub g t m k d a b) s) ∧
      w (fun i => fmul t r (fval t (x i)) (fval t (y i))) (exec (.vmul g t m k d a b) s) ∧
      w (fun i => fdiv t r (fval t (x i)) (fval t (y i))) (exec (.vdiv g t m k d a b) s) ∧
      w (fun i => ffma t r (fval t (x i)) (fval t (y i)) (fval t (z i))) (exec (.vfma g t m k d a b c) s) ∧
      w (fun i => ffma t r (fval t (x i)) (fval t (y i)) (fval t (z i)).flip) (exec (.vfms g t m k d a b c) s) ∧
      w (fun i => fsqrt t r (fval t (x i))) (exec (.vsqrt g t m k d a) s) ∧
      w (fun i => fminmax t false (x i) (y i)) (exec (.vmin g t k d a b) s) ∧
      w (fun i => fminmax t true (x i) (y i)) (exec (.vmax g t k d a b) s) ∧
      w (fun i => (fsgn t .abs (x i) 0, 0)) (exec (.vabs g t k d a) s) ∧
      w (fun i => (fsgn t .neg (x i) 0, 0)) (exec (.vneg g t k d a) s)) ∧
    (t.isInt = true →
      w (fun i => (intPat t (intVal t (x i) + intVal t (y i)), 0)) (exec (.vadd g t m k d a b) s) ∧
      w (fun i => (intPat t (intVal t (x i) - intVal t (y i)), 0)) (exec (.vsub g t m k d a b) s) ∧
      w (fun i => (intPat t (intVal t (x i) * intVal t (y i)), 0)) (exec (.vmul g t m k d a b) s) ∧
      w (fun i => (if intVal t (y i) = 0 then intPat t (-1) else intPat t ((intVal t (x i)).tdiv (intVal t (y i))), 0))
        (exec (.vdiv g t m k d a b) s) ∧
      w (fun i => (if intVal t (x i) < intVal t (y i) then x i else y i, 0)) (exec (.vmin g t k d a b) s) ∧
      w (fun i => (if intVal t (x i) < intVal t (y i) then y i else x i, 0)) (exec (.vmax g t k d a b) s) ∧
      w (fun i => (intPat t (if t.isSigned then |intVal t (x i)| else intVal t (x i)), 0)) (exec (.vabs g t k d a) s) ∧
      w (fun i => (intPat t (0 - intVal t (x i)), 0)) (exec (.vneg g t k d a) s)) ∧
    (t = .lg24 →
      w (fun i => (lgAdd (x i) (y i), 0)) (exec (.vadd g t m k d a b) s) ∧
      w (fun i => (lgSub (x i) (y i), 0)) (exec (.vsub g t m k d a b) s) ∧
      w (fun i => (lgMul (x i) (y i), 0)) (exec (.vmul g t m k d a b) s))

/-- R300 and R302: select, move, logic, shifts and the index vector. -/
def Obligations.VectorLogicShiftMove : Prop :=
  ∀ (s : State) (g : Guard) (t : Fmt) (k : Msk) (q : KReg) (d a v : VReg) (b : VB) (u : SReg), s.guard g = true →
    s.tileFits (fmtSize t) →
    let n := fmtSize t
    let x := fun i => velem (s.rV a) n i
    let y := fun i => s.vb b n i
    let w := s.writesTile k d n
    s.writesTile ⟨0, false⟩ d n (fun i => (if (s.rK q).getLsbD i then x i else velem (s.rV v) n i, 0))
      (exec (.vsel g t q d a v) s) ∧
    w (fun i => (x i, 0)) (exec (.vmov g t k d a) s) ∧
    w (fun i => (x i &&& y i, 0)) (exec (.vand g t k d a b) s) ∧
    w (fun i => (x i ||| y i, 0)) (exec (.vor g t k d a b) s) ∧
    w (fun i => (x i ^^^ y i, 0)) (exec (.vxor g t k d a b) s) ∧
    w (fun i => (if 8 * n ≤ y i then 0 else x i * 2 ^ y i, 0)) (exec (.vshl g t k d a b) s) ∧
    w (fun i => (if 8 * n ≤ y i then 0 else x i / 2 ^ y i, 0)) (exec (.vshr g t k d a b) s) ∧
    (t ≠ .lg24 → w (fun i => ((sval (8 * n) (x i) / 2 ^ min (y i) (8 * n) % 2 ^ (8 * n)).toNat, 0))
      (exec (.vsar g t k d a b) s)) ∧
    (t = .lg24 → w (fun i => (lgOp (lgZ (x i)) (lgS (x i)) (lgL (x i) / 2 ^ min (y i) 22), 0))
      (exec (.vsar g t k d a b) s)) ∧
    w (fun i => (((s.rS u).toNat + i) % 2 ^ (8 * n), 0)) (exec (.viota g t k d u) s)

/-- R299: VCMP writes the bits of K[D] below the tile's size, keeps or clears the inactive ones, and clears the bits
above; k0 discards the result. -/
def Obligations.VectorCompare : Prop :=
  ∀ (s : State) (g : Guard) (t : Fmt) (c : VCond) (k : Msk) (d : KReg) (a : VReg) (b : VB), s.guard g = true →
    s.tileFits (fmtSize t) →
    let r := fun i => vCmpE t c (velem (s.rV a) (fmtSize t) i) (s.vb b (fmtSize t) i)
    let raised := s.raised k.k (fun i => (0, (r i).2))
    raised &&& s.st.te = 0 →
    ∃ w : KWord,
      exec (.vcmp g t c k d a b) s =
        .next (s.goes 8 (fun u => ({ u with fpsr := u.fpsr ||| raised.setWidth 64 } : Strand).wK d w)) ∧
      ∀ i, i < 1024 → w.getLsbD i =
        (decide (i < s.elems) &&
          if (s.rK k.k).getLsbD i then (r i).1 else if k.z then false else (s.rK d).getLsbD i)

/-- R303: REDT folds the elements that a mask makes present by the canonical tree from index S[B], and writes +0 when
none is. R304: VRED folds each row into its first column, or each column into its first row. -/
def Obligations.VectorReductions : Prop :=
  ∀ (s : State) (g : Guard) (t : Fmt) (m : Rm) (q : KReg) (k : Msk) (u b : SReg) (d a : VReg), s.guard g = true →
    t.isIeee = true → s.tileFits (fmtSize t) →
    let n := fmtSize t
    let present := fun (q : KReg) i => if (s.rK q).getLsbD i then some (velem (s.rV a) n i) else none
    let r := reduceFrom t (s.rm m) ((s.rS b).toNat % 2 ^ 32) s.elems (present q)
    (r.2 &&& s.st.te = 0 →
      exec (.redt g t m q u a b) s = s.givesFlagged (r.1.getD 0, r.2) (fun v w => w.wS u (resultWord t v))) ∧
    (∀ t', exec (.vred g t m k false d a) s = .next t' → s.st.te = 0 →
      ∀ i, i < s.st.rows → velem (t'.rV d) n (i * s.st.cols) =
        ((reduceFrom t (s.rm m) 0 s.st.cols (fun x => present k.k (i * s.st.cols + x))).1.getD 0) % 2 ^ (8 * n)) ∧
    (∃ t', exec (.vred g t m k false d a) s = .next t' ∧ (s.st.te = 0 → t'.st.pc = s.st.pc + 8)) ∧
    (∀ t', exec (.vred g t m k true d a) s = .next t' → s.st.te = 0 →
      ∀ j, j < s.st.cols → velem (t'.rV d) n j =
        ((reduceFrom t (s.rm m) 0 s.st.rows (fun x => present k.k (x * s.st.cols + j))).1.getD 0) % 2 ^ (8 * n)) ∧
    (∃ t', exec (.vred g t m k true d a) s = .next t' ∧ (s.st.te = 0 → t'.st.pc = s.st.pc + 8))

/-- R305, R306 and R313: conversions of tiles. The tile of an FB format has one block for 32 columns. -/
def Obligations.VectorConversions : Prop :=
  ∀ (s : State) (g : Guard) (t src : Fmt) (m : Rm) (k : Msk) (d a : VReg) (u : SReg), s.guard g = true →
    let r := s.rm m
    let x := fun i => velem (s.rV a) (fmtSize src) i
    (src.isFb = false → t.isFb = false → s.tileFits (fmtSize src) → s.tileFits (fmtSize t) →
      s.writesTile k d (fmtSize t) (fun i => convert t src r (x i)) (exec (.vcvt g t src m k d a) s)) ∧
    (src.isFb = true → s.tileFits (fmtSize t) → s.st.cols % 32 = 0 → s.elems / 32 * fmtSize src ≤ 1024 →
      s.writesTile k d (fmtSize t) (fun i => toIeee t r (fbVal src (x (i / 32)) (i % 32)))
        (exec (.vcvt g t src m k d a) s)) ∧
    (src.isFb = false → t.isFb = true → s.tileFits (fmtSize src) → s.st.cols % 32 = 0 →
      s.elems / 32 * fmtSize t ≤ 1024 → s.st.te = 0 →
      ∃ t', exec (.vcvt g t src m k d a) s = .next t' ∧ t'.st.pc = s.st.pc + 8 ∧
        ∀ j, j < s.elems / 32 → (s.rK k.k).getLsbD j = true → velem (t'.rV d) (fmtSize t) j =
          (fbEncode t r ((List.range 32).map (fun i => fval src (x (32 * j + i)))) none).1 % 2 ^ (8 * fmtSize t)) ∧
    (s.tileFits (fmtSize t) →
      s.writesTile k d (fmtSize t)
        (fun i => fbRequant t r (velem (s.rV a) (fmtSize t) i) ((s.rS u).toNat % 256)) (exec (.vreq g t m k d a u) s)) ∧
    (s.tileFits (fmtSize t) → s.tileFits 4 →
      s.writesTile k d 4 (fun i => lgOfIeee t (velem (s.rV a) (fmtSize t) i)) (exec (.vlnt g t k d a) s)) ∧
    (s.tileFits (fmtSize t) → s.tileFits 4 →
      s.writesTile k d (fmtSize t) (fun i => lgToIeee t r (velem (s.rV a) 4 i)) (exec (.vlnf g t m k d a) s))

/-- R307 and R308: packing, expansion, permutation, transposition, broadcast and slides. -/
def Obligations.VectorReordering : Prop :=
  ∀ (s : State) (g : Guard) (t : Fmt) (k : Msk) (q : KReg) (d a b : VReg) (u : SReg), s.guard g = true →
    s.tileFits (fmtSize t) →
    let n := fmtSize t
    let e := s.elems
    let x := fun i => velem (s.rV a) n i
    let w := s.writesTile k d n
    let picked := (List.range e).filter (fun i => (s.rK q).getLsbD i)
    (∃ v : VWord, exec (.vcomp g t q d a u) s =
        .next (s.goes 8 (fun r => (r.wV d v).wS u (BitVec.ofNat 64 picked.length))) ∧
      (∀ j (h : j < picked.length), velem v n j = x picked[j]) ∧
      (∀ j, picked.length ≤ j → j < e → velem v n j = 0) ∧
      (∀ j, 8 * n * e ≤ j → v.getLsbD j = (s.rV d).getLsbD j)) ∧
    w (fun i => (x ((List.range i).countP (fun j => (s.rK k.k).getLsbD j)), 0)) (exec (.vexpd g t k d a) s) ∧
    (s.tileFits 2 → w (fun i => (if velem (s.rV b) 2 i < e then x (velem (s.rV b) 2 i) else 0, 0))
      (exec (.vperm g t k d a b) s)) ∧
    s.writesTile ⟨0, false⟩ d n (fun i => (x (i % s.st.rows * s.st.cols + i / s.st.rows), 0))
      (exec (.vtrans g t d a) s) ∧
    (t ≠ .lg24 → w (fun _ => ((s.rS u).toNat, 0)) (exec (.vbcast g t k d u) s)) ∧
    (t = .lg24 → w (fun _ => ((s.rS u).toNat % 2 ^ 24, 0)) (exec (.vbcast g t k d u) s)) ∧
    w (fun i => (if i + (s.rS u).toNat < e then x (i + (s.rS u).toNat) else 0, 0))
      (exec (.vslide g t true k d a u) s) ∧
    w (fun i => (if (s.rS u).toNat ≤ i then x (i - (s.rS u).toNat) else 0, 0)) (exec (.vslide g t false k d a u) s)

/-- R199, R301 and R309 to R311: the shape register, single elements, mask registers and draws. An index beyond the
tile reads 0 and writes nothing. VRAND writes the draws of consecutive positions, two UI32 elements to a draw, and
advances RDRAW by all the draws that its tile covers, the inactive positions' too. -/
def Obligations.VectorScalarsAndMasks : Prop :=
  ∀ (s : State) (g : Guard) (t : Fmt) (x : BitVec 16) (kd ka kb : KReg) (d a b : SReg) (v : VReg) (k : Msk), s.guard g = true →
    let n := fmtSize t
    let j := (s.rS b).toNat
    exec (.vshape g x) s = .next (s.goes 8 (fun u => { u with vshape := x.setWidth 64 })) ∧
    (s.tileFits n → exec (.vgets g t d v b) s =
      s.givesS d (if j < s.elems then resultWord t (velem (s.rV v) n j) else 0)) ∧
    (s.tileFits n → s.elems ≤ j → exec (.vputs g t v a b) s = .next (s.goes 8 (fun u => u))) ∧
    (s.tileFits n → j < s.elems → t ≠ .lg24 → ∃ w : VWord, exec (.vputs g t v a b) s = s.givesV v w ∧
      velem w n j = (s.rS a).toNat % 2 ^ (8 * n) ∧
      ∀ i, (i < 8 * n * j ∨ 8 * n * (j + 1) ≤ i) → w.getLsbD i = (s.rV v).getLsbD i) ∧
    exec (.kop g (.and kd ka kb)) s = s.givesK kd (s.rK ka &&& s.rK kb) ∧
    exec (.kop g (.or kd ka kb)) s = s.givesK kd (s.rK ka ||| s.rK kb) ∧
    exec (.kop g (.xor kd ka kb)) s = s.givesK kd (s.rK ka ^^^ s.rK kb) ∧
    exec (.kop g (.not kd ka)) s = s.givesK kd (~~~ s.rK ka) ∧
    exec (.kop g (.pop d ka)) s = s.givesS d (BitVec.ofNat 64 ((List.range 1024).countP (fun i => (s.rK ka).getLsbD i))) ∧
    exec (.kop g (.mov kd ka)) s = s.givesK kd (s.rK ka) ∧
    (let draws := fun (w64 : Bool) (size used : Nat) (f : Nat → Nat) => s.tileFits size → ∃ z : VWord,
       exec (.vrand g w64 k v) s =
         .next (s.goes 8 (fun u => ({ u with rdraw := u.rdraw + BitVec.ofNat 64 used } : Strand).wV v z)) ∧
       ∀ i, i < s.elems → velem z size i =
         if (s.rK k.k).getLsbD i then f i else if k.z then 0 else velem (s.rV v) size i
     draws true 8 s.elems (fun i => (s.drawAt i).toNat) ∧
     draws false 4 ((s.elems + 1) / 2) (fun i =>
       if i % 2 = 0 then (s.drawAt (i / 2)).toNat % 2 ^ 32 else (s.drawAt (i / 2)).toNat / 2 ^ 32))

/-- R312 to R314: special functions, element by element. The VX functions depend on the format and the operand alone;
what R195 leaves open of their bits is a free value (log 6). -/
def Obligations.VectorSpecialFunctions : Prop :=
  ∀ (s : State) (g : Guard) (t : Fmt) (m : Rm) (k : Msk) (d a : VReg), s.guard g = true → s.tileFits (fmtSize t) →
    let x := fun i => velem (s.rV a) (fmtSize t) i
    let w := s.writesTile k d (fmtSize t)
    w (fun i => crExp t (s.rm m) (x i)) (exec (.vfexp g t m k d a) s) ∧
    w (fun i => crLn t (s.rm m) (x i)) (exec (.vflog g t m k d a) s) ∧
    w (fun i => crErf t (s.rm m) (x i)) (exec (.vferf g t m k d a) s) ∧
    w (fun i => crErfc t (s.rm m) (x i)) (exec (.vferfc g t m k d a) s) ∧
    w (fun i => vxFun .exp t (x i)) (exec (.vxexp g t k d a) s) ∧
    w (fun i => vxFun .rcp t (x i)) (exec (.vxrcp g t k d a) s) ∧
    w (fun i => vxFun .rsq t (x i)) (exec (.vxrsq g t k d a) s) ∧
    w (fun i => vxFun .sig t (x i)) (exec (.vxsig g t k d a) s) ∧
    w (fun i => vxFun .tanh t (x i)) (exec (.vxtanh g t k d a) s)

/-! ### Control, traps and system instructions -/

/-- R266 to R268: NOP, SKIP, CALL and RET. CALL saves the return address on the return stack and in s61; RET returns
to the stack entry and never reads s61. -/
def Obligations.ControlFlow : Prop :=
  ∀ (s : State) (g : Guard) (n : BitVec 20) (i : BitVec 34), s.guard g = true →
    exec (.nop g) s = .next (s.goes 8 (fun t => t)) ∧
    exec (.skip g n) s = .next (s.goes (8 + 8 * (n.toNat + 1)) (fun t => t)) ∧
    (∀ h : s.st.depth < 4, exec (.call g i) s = .next (s.setStrand s.cur
      { ({ s.st with rs := s.st.rs.set s.st.depth (s.st.pc + 8), depth := s.st.depth + 1 } : Strand).wS 61 (s.st.pc + 8)
        with pc := s.st.pc + 8 * i.signExtend 64 })) ∧
    (4 ≤ s.st.depth → exec (.call g i) s = .next (s.takeTrap ⟨tCALLDEPTH, 5, 0, 0⟩)) ∧
    (∀ (h : 0 < s.st.depth) (h4 : s.st.depth ≤ 4), exec (.ret g) s = .next (s.setStrand s.cur
      { s.st with depth := s.st.depth - 1, pc := s.st.rs[s.st.depth - 1] })) ∧
    (s.st.depth = 0 → exec (.ret g) s = .next (s.takeTrap ⟨tILLOP, 0, 0, 0⟩))

/-- R266 and R269: ILLEGAL traps ILLOP whatever its guard, TRAP takes SWTRAP with its detail, and BRK takes BRK with
detail 4. -/
def Obligations.TrappingInstructions : Prop :=
  ∀ (s : State) (g : Guard) (w : BitVec 56) (i : BitVec 32),
    exec (.illegal w) s = .next (s.takeTrap ⟨0x01, 0, 0, 0⟩) ∧
    (s.guard g = true → exec (.trap g i) s = .next (s.takeTrap ⟨0x1A, i.toNat, 0, 0⟩)) ∧
    (s.guard g = true → exec (.brk g) s = .next (s.takeTrap ⟨0x19, 4, 0, 0⟩))

/-- R160 to R163: taking a trap. The strand that ran the task is free and runs nothing; the context's trap ring has
one entry more, TRAPCODE reads the code, the launch counts the trap, and a hold names the entry, the code, the logical
core and the route. A route of KILL ends the launch, and so does an uncorrectable error in the walk that failed or in
what the abort withdraws (R135), so what the launch holds is said of the other routes without such an error. A trap in
one leg of a relay waits while another leg is inside an instruction (R94). Code 0, which no trap has, is left out:
it says that a read met such an error. The model's reading: log 34 (a full deque). -/
def Obligations.TakingATrap : Prop :=
  ∀ (s : State) (t : TrapInfo) (k : Task) (c : Ctx) (l : Launch), t.code ≠ 0 → s.st.task = some k →
    s.st.phase ≠ .stopping → s.ctx? k.ctx = some c → c.launch = some l → (k.trigger = .record → (s.lc k.lc).hw.length < 64) →
    let svc := match k.trigger with
      | .svc _ => true
      | _ => false
    let route := (s.chooseRoute k.ctx k.lc t.code svc).1
    let u := s.takeTrap t
    ((∃ j ∈ k.legs, j ≠ s.cur ∧ (s.strand j).midway = true) → (u.strand s.cur).phase = .trapping t ∧
      ∀ j ∈ k.legs, j ≠ s.cur → (u.strand j).phase = if (s.strand j).midway then .stopping else .legDone) ∧
    (k.legs = [] → (u.strand s.cur).task = none ∧ (u.strand s.cur).phase = .free) ∧
    (k.legs = [] → route ≠ 2 → s.ecc = [] → ∃ c' l', u.ctx? k.ctx = some c' ∧ c'.launch = some l' ∧ c'.trapHead = c.trapHead + 1 ∧
      c'.trapcode = BitVec.ofNat 64 t.code ∧
      c'.traprec = BitVec.ofNat 64 (c.area + c.off[1] + 64 * (c.trapHead % c.trapn)) ∧
      l'.traps = l.traps + 1 ∧ l'.lastTrap = t.code ∧
      ∃ h, c'.holds = c.holds ++ [h] ∧ h.ix = c.trapHead ∧ h.code = t.code ∧ h.lc = k.lc ∧ h.route = route)

/-- R159, R162 and R163: the route of a trap. PRIV, XLATE and DEADLINE_ESC go to SUP; a trap in a trap-service task
goes to KILL; any other goes where the routing byte says, 3 meaning KILL, and USER with a vector of 0 or with 8 queued
services is KILL. -/
def Obligations.TrapRoutes : Prop :=
  ∀ (s : State) (x lc code : Nat),
    let r := (s.routeOf x code).1
    let v := (s.routeOf x code).2
    let full := decide (8 ≤ (s.lc lc).svc.length)
    (s.chooseRoute x lc code true).1 = 2 ∧
    (code = 0x02 ∨ code = 0x08 ∨ code = 0x15 → (s.chooseRoute x lc code false).1 = 1) ∧
    (code ≠ 0x02 ∧ code ≠ 0x08 ∧ code ≠ 0x15 →
      (r = 0 → (s.chooseRoute x lc code false).1 = if v = 0 ∨ full then 2 else 0) ∧
      (r = 1 → (s.chooseRoute x lc code false).1 = 1) ∧
      (r = 2 ∨ r = 3 → (s.chooseRoute x lc code false).1 = 2))

/-- R103, R104 and R270: MOVC copies the control register that its number names, and MOVCW writes it bit by bit as the
map allows. A number of 0x800 or above needs supervisor mode; the numbers of R274 exist on management cores only. Which
die's CYCLE a management core reads is the model's choice (log 10), and which bits of XETYPE exist (log 49). -/
def Obligations.ControlRegisters : Prop :=
  ∀ (s : State) (g : Guard) (d a : SReg) (n : BitVec 12), s.guard g = true →
    (n.toNat < 0x800 ∨ s.st.sup = true) → (n.toNat < 0xA00 ∨ isMgmt (coreOf s.cur) = true) →
    exec (.movc g d n) s = s.givesS d (s.crRead s.cur n.toNat) ∧
    exec (.movcw g a n) s = .next ((s.crWrite s.cur n.toNat s.st.sup (s.rS a)).adv 8) ∧
    (s.crRead s.cur 0x020 = s.time.dtime ∧ s.crRead s.cur 0x021 = s.time.tick ∧
      s.crRead s.cur 0x022 = BitVec.ofNat 64 (s.die (dieF (coreOf s.cur))).cycle ∧
      s.crRead s.cur 0x880 = s.boot.ready0 ∧ s.crRead s.cur 0x881 = s.boot.ready1 ∧ s.crRead s.cur 0xA20 = 0) ∧
    (∀ v : Word, (s.crWrite s.cur 0x000 s.st.sup v).st.vshape = v &&& 0xFFFF ∧
      (s.crWrite s.cur 0x002 s.st.sup v).st.fpsr = v &&& 0x1F ∧
      (s.crWrite s.cur 0x001 s.st.sup v).st.fpcr.extractLsb' 8 5 = v.extractLsb' 8 5 ∧
      (s.crWrite s.cur 0x001 s.st.sup v).st.fpcr.extractLsb' 0 3 =
        (if (v.extractLsb' 0 3).toNat ≤ 4 then v.extractLsb' 0 3 else s.st.fpcr.extractLsb' 0 3) ∧
      s.crWrite s.cur 0x010 s.st.sup v = s ∧ s.crWrite s.cur 0x020 s.st.sup v = s ∧ s.crWrite s.cur 0x880 s.st.sup v = s ∧
      (s.st.sup = false → s.crWrite s.cur 0x028 s.st.sup v = s) ∧
      (s.st.sup = true → (s.crWrite s.cur 0x028 s.st.sup v).st.dlmax = v))

/-- R103, R202, R219 and R274: in user mode the supervisor opcodes, and MOVC and MOVCW of 0x800 to 0xFFF, take PRIV with
the register's number or 0 as the detail, whatever their guard. -/
def Obligations.Privilege : Prop :=
  ∀ (s : State) (g : Guard) (sc : TlbScope) (q : Bool) (d a b l : SReg) (n : BitVec 12), s.st.sup = false →
    exec (.tlbinv g sc a b) s = .next (s.takeTrap ⟨0x02, 0, 0, 0⟩) ∧
    exec (.icinv g) s = .next (s.takeTrap ⟨0x02, 0, 0, 0⟩) ∧
    exec (.halt g q d a l) s = .next (s.takeTrap ⟨0x02, 0, 0, 0⟩) ∧
    (0x800 ≤ n.toNat → exec (.movc g d n) s = .next (s.takeTrap ⟨0x02, n.toNat, 0, 0⟩)) ∧
    (0x800 ≤ n.toNat → exec (.movcw g a n) s = .next (s.takeTrap ⟨0x02, n.toNat, 0, 0⟩))

/-- R272 and R273: TLBINV, once the strand's stores are performed on all dies, drops the entries that its scope names
from every TLB, and until then stays where it is; ICINV drops every instruction-cache line of the package. -/
def Obligations.CacheInvalidation : Prop :=
  ∀ (s : State) (g : Guard) (sc : TlbScope) (a b : SReg), s.guard g = true → s.st.sup = true →
    (s.storesDone s.cur = true → ∃ t, exec (.tlbinv g sc a b) s = .next t ∧ t.st.pc = s.st.pc + 8 ∧
      (∀ d e, e ∈ (t.die d).tlb ↔ e ∈ (s.die d).tlb ∧ tlbDrop sc ((s.rS b).toNat % 16) ((s.rS a).toNat % 2 ^ 48) e = false) ∧
      (∀ c e, e ∈ (t.core c).tlb ↔ e ∈ (s.core c).tlb ∧ tlbDrop sc ((s.rS b).toNat % 16) ((s.rS a).toNat % 2 ^ 48) e = false) ∧
      (∀ n e, e ∈ t.baseTlb.get n [] ↔
        e ∈ s.baseTlb.get n [] ∧ tlbDrop sc ((s.rS b).toNat % 16) ((s.rS a).toNat % 2 ^ 48) e = false)) ∧
    (s.storesDone s.cur = false → exec (.tlbinv g sc a b) s = .next s.hold ∧ s.hold.st.pc = s.st.pc) ∧
    ∃ t, exec (.icinv g) s = .next t ∧ t.st.pc = s.st.pc + 8 ∧ ∀ c, (t.core c).icache = []

/-- R271: TRESUME and TDROP in supervisor mode on a hold of the context commit its end; a handle that names none gets
STALE with detail 1, a count that the trigger does not admit STALE with detail 2. Neither waits. -/
def Obligations.HoldEnding : Prop :=
  ∀ (s : State) (g : Guard) (d a : SReg) (c : BitVec 5) (k : Task), s.guard g = true → s.st.sup = true →
    s.st.task = some k →
    let drop : Bool → Instr := fun b => if b then .tdrop g d a c else .tresume g d a c
    (s.findHold s.curCtx (s.rS a) = none → ∀ b, exec (drop b) s = s.givesS d (statusWord 4 1)) ∧
    (∀ x, s.findHold s.curCtx (s.rS a) = some x → k.effects = [] →
      (x.kind = 0 → c = 0 → ∀ b, exec (drop b) s = .next (s.goes 8 (fun t =>
        ({ t with task := some { k with effects := [Effect.endHold (s.rS a) 0 b] } } : Strand).wS d (statusWord 0 0)))) ∧
      (x.kind = 0 → c ≠ 0 → ∀ b, exec (drop b) s = s.givesS d (statusWord 4 2)) ∧
      (x.kind ≠ 0 → c.toNat < s.heldBehind x → ∀ b, exec (drop b) s = .next (s.goes 8 (fun t =>
        ({ t with task := some { k with effects := [Effect.endHold (s.rS a) c.toNat b] } } : Strand).wS d (statusWord 0 0)))) ∧
      (x.kind ≠ 0 → s.heldBehind x ≤ c.toNat → 0 < c.toNat → ∀ b, exec (drop b) s = s.givesS d (statusWord 4 2)))

/-- R176 and R274: HALT on a compute core gives FAULT 3; of a strand of no ready row FAULT 1; of a strand that is
halted it completes at once with OK, and with Q also refuses new writes once none is still to land. HALT_STOP stops a
strand with a requested halt that neither waits nor stalls, and HALTREL lets a halted strand go on, and the router takes
writes again when no other strand of the core is halted with Q. The model's
readings: logs 10 and 18. -/
def Obligations.HaltAndRelease : Prop :=
  ∀ (s : State) (g : Guard) (d a l : SReg) (v : Word), s.guard g = true → s.st.sup = true →
    let k := (s.rS a).toNat % 4096
    (isMgmt (coreOf s.cur) = false → ∀ q, exec (.halt g q d a l) s = .next ((s.statusB d 3 3).adv 8)) ∧
    (isMgmt (coreOf s.cur) = true → s.rS a < 4096 → s.boot.ready0.getLsbD (k / 64) = false →
      ∀ q, exec (.halt g q d a l) s = .next ((s.statusB d 3 1).adv 8)) ∧
    (isMgmt (coreOf s.cur) = true → s.rS a < 4096 → s.boot.ready0.getLsbD (k / 64) = true → (s.strand k).halted = true →
      exec (.halt g false d a l) s = s.ends d 0 0 ∧
      (s.notLanded (k / 4) = [] → ∃ t, exec (.halt g true d a l) s = .next t ∧ t.st.pc = s.st.pc + 8 ∧
        (t.core (k / 4)).refuse = true)) ∧
    (s.st.haltReq = true → s.st.wait = none → s.st.stalled = false → exec .haltStop s =
      .next (s.setStrand s.cur { s.st with haltReq := false, halted := true, haltAt := s.cyc (coreOf s.cur) })) ∧
    (v < 4096 → (s.strand v.toNat).halted = true → ∃ t, exec (.haltrelWrite v) s = .next t ∧
      (t.strand v.toNat).halted = false ∧ (t.strand v.toNat).haltReq = false ∧
      ((∀ j, j < 4 → 4 * (v.toNat / 4) + j ≠ v.toNat → (s.strand (4 * (v.toNat / 4) + j)).haltQ = false) →
        (t.core (v.toNat / 4)).refuse = false))

/-- The register writes that the opcode table lists as steps: R14 and R16 (TSTART in the future, TICKP), R18 (PLIMIT),
R105 (FPCR), R104 (FPSR), R93 (AGEMAX), R169 (DLESC), R27 (EVSEL, EVCNT), and any other register by its number; and
R27's events: a counter that wraps sets OVF, and where OVI is 1 then, EV_OVF is raised. What a TSTART that is not in
the future does (a held delivery stays held, a running generator is renumbered) is the model's choice, log 12, and so
is that a TICKP write leaves TICK and the next tick as they are while the generator runs, log 50; that the write of
another register is made in supervisor mode is the model's choice, log 47, and so is the die whose EVSEL and EVCNT a
management core writes, log 10. -/
def Obligations.RegisterWriteSteps : Prop :=
  ∀ (s : State) (v : Word) (n : Fin 16) (c : BitVec 12),
    let x := coreOf s.cur
    (s.time.ptp < v.toNat → ∃ t, exec (.tstartWrite v) s = .next t ∧ t.time.tstart = v ∧ t.time.tick = 0 ∧
      t.time.hold = false ∧ t.time.started = false ∧ t.time.stepAt = none ∧ ∃ u, (u, Instr.tickBoundary) ∈ t.agenda) ∧
    (v.toNat ≤ s.time.ptp → ∃ t, exec (.tstartWrite v) s = .next t ∧ t.time.tstart = v ∧ t.time.hold = s.time.hold ∧
      t.time.stepAt = s.time.stepAt ∧ (s.time.hold = true → t.time.tick = s.time.tick) ∧
      (s.time.hold = false → t.time.tick = BitVec.ofNat 64 ((s.time.ptp - v.toNat) / s.time.tickp.toNat))) ∧
    exec (.tickpWrite v) s = .next { s with time := { s.time with
      tickp := if v.toNat % 256 = 0 ∧ 512 ≤ v.toNat ∧ v.toNat ≤ 65536 then v else s.time.tickp } } ∧
    exec (.plimitWrite v) s = .next { s with power := { s.power with
      plimit := if v.toNat ≤ 2400 then v else 2400 } } ∧
    (∃ t, exec (.fpcrWrite v) s = .next t ∧ t.st.fpcr.extractLsb' 8 5 = v.extractLsb' 8 5) ∧
    exec (.fpsrWrite v) s = .next (s.setStrand s.cur { s.st with fpsr := v &&& 0x1F }) ∧
    (∃ t, exec (.agemaxWrite v) s = .next t ∧
      (t.regs x s.curCtx).agemax.toNat = max 16 (min 65535 v.toNat)) ∧
    exec (.dlescWrite v) s = .next (s.setStrand s.cur { s.st with dlesc := v }) ∧
    (∃ t, exec (.evselWrite n v) s = .next t ∧ (t.die (dieF x)).evsel[n] = v &&& 0xC01F00FF) ∧
    (∃ t, exec (.evcntWrite n v) s = .next t ∧ (t.die (dieF x)).evcnt[n].extractLsb' 0 48 = v.extractLsb' 0 48 ∧
      (t.die (dieF x)).evcnt[n].getLsbD 63 = ((s.die (dieF x)).evcnt[n].getLsbD 63 && !v.getLsbD 63)) ∧
    exec (.registerWrite c v) s = .next (s.crWrite s.cur c.toNat true v) ∧
    (∃ t, exec (.evOvf n) s = .next t ∧
      t.supEvents = s.supEvents ++
        (if (s.die (Fin.ofNat 4 s.cur)).ovi[n] = 0 then [] else [SupEvent.evOvf (s.cur % 4) n.val])) ∧
    (∀ (d : Fin 4) (w : Nat), (s.die d).evsel[n].toNat % 256 = v.toNat % 256 → v.toNat % 256 ≠ 0 → v.toNat % 256 ≤ 0x27 →
      (s.die d).evsel[n].getLsbD 31 = true → (s.die d).evsel[n].extractLsb' 16 5 = 0x10 → 0 < w → w < 2 ^ 48 →
      (s.die d).evcnt[n].toNat = 2 ^ 48 - w →
      let t := s.countBy d (v.toNat % 256) (fun r => if r = 0x10 then w else 0)
      (t.die d).evcnt[n] = 0x8000000000000000 ∧ (t.die d).ovi[n] =
        (s.die d).ovi[n] + (if (s.die d).evsel[n].getLsbD 30 then 1 else 0) ∧
      ((s.die d).evsel[n].getLsbD 30 = true → (d.val, Instr.evOvf n) ∈ t.agenda))

/-! ### Loads and stores -/

/-- R123, R135, R287 to R289 and R241: a load that passes the checks of R120 and does not stall writes its destination
with the bytes at the effective address, little-endian and extended as its type says, then updates its base register,
where a load into the base register wins. It changes no memory. A load that meets an uncorrectable error ends the
launch KILLED. The model's readings: logs 14 and 27. -/
def Obligations.LoadsThroughAddressModes : Prop :=
  ∀ (s : State) (g : Guard) (d a : SReg) (v : VReg) (b : BReg) (m : AMode) (o : MemOrd), s.guard g = true →
    let e := s.effAddr a m
    let ty := AccTy m
    let ready := fun (n al : Nat) => s.accessEa s.who kLoad e n al = .ok () ∧ s.stalls (s.who.lines e.ea n) = none ∧
      s.eccHit s.who e.ea n = false
    let based := fun (t : State) => ∀ u, e.upd = some u → a ≠ 0 → t.rS a = u
    (ready (fmtSize ty) (fmtSize ty) →
      ∃ t, exec (.ld g d a m o) s = .next t ∧ t.st.pc = s.st.pc + 8 ∧ s.sameMemory t ∧
        (d ≠ 0 → t.rS d = resultWord ty (s.ldNat s.who e.ea (fmtSize ty))) ∧ (a ≠ d → based t) ∧
        (∀ r, r ≠ d → r ≠ a → t.rS r = s.rS r)) ∧
    (s.tileFits (fmtSize ty) → ready (s.elems * fmtSize ty) (tileAlign ty) →
      ∃ t, exec (.ldv g v a m o) s = .next t ∧ t.st.pc = s.st.pc + 8 ∧ s.sameMemory t ∧ based t ∧
        (t.rV v).toNat % 2 ^ (8 * (s.elems * fmtSize ty)) = s.ldNat s.who e.ea (s.elems * fmtSize ty) ∧
        (∀ j, 8 * (s.elems * fmtSize ty) ≤ j → (t.rV v).getLsbD j = (s.rV v).getLsbD j) ∧
        (∀ r, r ≠ v → t.rV r = s.rV r)) ∧
    (b ≠ 0 → ready 64 64 →
      ∃ t, exec (.boxld g b a m) s = .next t ∧ t.st.pc = s.st.pc + 8 ∧ s.sameMemory t ∧ based t ∧
        t.rB b = BitVec.ofNat 512 (s.ldNat s.who e.ea 64) ∧ (∀ r, r ≠ b → t.rB r = s.rB r)) ∧
    (s.accessEa s.who kLoad e (fmtSize ty) (fmtSize ty) = .ok () → s.eccHit s.who e.ea (fmtSize ty) = true →
      exec (.ld g d a m o) s = .next (s.endLaunch s.who.ctx 1))

/-- R125, R126, R241, R288 and R289: a store to the frame or the static area, outside the keep regions, that passes the
checks writes its bytes at the place of the effective address and no other byte of any memory; then the base register is
updated. `MSTORE` differs from ST in global memory alone. The model's readings: log 14. -/
def Obligations.StoresToLocalStore : Prop :=
  ∀ (s : State) (g : Guard) (d a : SReg) (v : VReg) (b : BReg) (m : AMode) (o : MemOrd), s.guard g = true →
    let e := s.effAddr a m
    let ty := AccTy m
    let place := s.ldsPhys s.who (inWindowOff e.ea)
    let ready := fun (kd : AccKind) (n al : Nat) => window e.ea = 2 ∧ s.accessEa s.who kd e n al = .ok () ∧
      (s.who.exact = true ∨ s.who.inKeep (inWindowOff e.ea) n = false)
    let done := fun (l : List Byte) (o : Host.Outcome State Fault Refusal) =>
      ∃ t, o = .next t ∧ t.st.pc = s.st.pc + 8 ∧ (∀ i (h : i < l.length), Mem.get t.lds (place + i) = l[i]) ∧
        (∀ x, x < place ∨ place + l.length ≤ x → Mem.get t.lds x = Mem.get s.lds x) ∧
        t.dies.map (·.view) = s.dies.map (·.view) ∧ t.ws = s.ws ∧ t.opmem = s.opmem ∧
        (∀ u, e.upd = some u → a ≠ 0 → t.rS a = u) ∧ (∀ r, r ≠ a → t.rS r = s.rS r)
    (ready kStore (fmtSize ty) (fmtSize ty) →
      done (bytesOfNat (fmtSize ty) (s.rS d).toNat) (exec (.st g d a m o) s)) ∧
    (ready kMstore (fmtSize ty) (fmtSize ty) →
      done (bytesOfNat (fmtSize ty) (s.rS d).toNat) (exec (.mstore g d a m o) s)) ∧
    (s.tileFits (fmtSize ty) → ready kStore (s.elems * fmtSize ty) (tileAlign ty) →
      done (bytesOfNat (s.elems * fmtSize ty) (s.rV v).toNat) (exec (.stv g v a m o) s)) ∧
    (ready kStore 64 64 → done (boxBytes (s.rB b)) (exec (.boxst g b a m) s))

/-- R71, R137, R141, R144, R152, R241, R259, R288 and R289: a store to global memory that passes the checks is
performed on the executing die, and no other byte of that die's view changes; the other dies' views change only when
the write is applied there. MSTORE writes the four copies of a replicated word, any other store the executing die's.
In exact mode a store to a PUB tensor sets the word's tag and enters the task's tag log, of 256 runs. An AMO finds the
last value in coherence order. A tile or a box lies in a page that the core's TLB holds. A walk that reads an
uncorrectable error ends the launch KILLED (R135). The premises on writes of
other dies still on their way to these words hold of every word that one die alone writes (R145). The model's
readings: logs 3 and 20. -/
def Obligations.StoreToGlobalMemory : Prop :=
  ∀ (s : State) (g : Guard) (d a b c : SReg) (v : VReg) (bx : BReg) (m : AMode) (o : MemOrd) (op : AmoOp) (ty : Fmt)
    (x : Xl), s.guard g = true →
    let e := s.effAddr a m
    let n := fmtSize (AccTy m)
    let w := s.who
    let die := dieF w.core
    let own := x.pa (dieOf w.core)
    let data := bytesOfNat n (s.rS d).toNat
    let stored := fun (places : List Nat) (l : List Byte) (i : Instr) => ∃ t, exec i s = .next t ∧ s.globStored places l t ∧
      ∀ u, e.upd = some u → a ≠ 0 → t.rS a = u
    (s.tableHit w e.ea n = true → s.accessEa w kStore e n n = .ok () →
      exec (.st g d a m o) s = .next (s.endLaunch w.ctx 1)) ∧
    (n ≤ 8 → window e.ea = 0 → s.xl w e.ea.toNat = .ok x → s.tableHit w e.ea n = false → s.quietAt die own n →
      (s.accessEa w kStore e n n = .ok () → w.pubRun e.ea n = none → stored [own] data (.st g d a m o)) ∧
      (s.accessEa w kMstore e n n = .ok () → w.pubRun e.ea n = none →
        (x.replica = false → stored [own] data (.mstore g d a m o)) ∧
        (x.replica = true → (∀ f, f < 4 → s.quietAt die (x.pa f) n) →
          stored ((List.range 4).map x.pa) data (.mstore g d a m o))) ∧
      (∀ k i t, s.st.task = some k → w.exact = true → w.tensor e.ea.toNat = some (i, t) → t.cls = 2 →
        s.accessEa w kStore e n n = .ok () →
        let log := addRun k.tagLog (e.ea.toNat / 8 * 8) 8
        (log.length ≤ 256 → ∃ t k', exec (.st g d a m o) s = .next t ∧ s.globStored [own] data t ∧
          t.tagged die (own / 8 * 8) = true ∧ t.st.task = some k' ∧ k'.tagLog = log) ∧
        (256 < log.length → exec (.st g d a m o) s = .next (s.takeTrap ⟨0x1B, 3, e.ea, 0⟩)))) ∧
    (∀ l : List Byte, window e.ea = 0 → x.replica = false → w.pubRun e.ea l.length = none → s.quietAt die own l.length →
      (∀ j, j < l.length → tlbFind (s.core w.core).tlb w.ctx (e.ea.toNat + j) = some { x with off := x.off + j }) →
      (s.tileFits n → l = bytesOfNat (s.elems * n) (s.rV v).toNat →
        s.accessEa w kStore e l.length (tileAlign (AccTy m)) = .ok () → stored [own] l (.stv g v a m o)) ∧
      (l = boxBytes (s.rB bx) → s.accessEa w kStore e 64 64 = .ok () → stored [own] l (.boxst g bx a m))) ∧
    (let z := fmtSize ty
     let ea := s.rS a
     z ≤ 8 → window ea = 0 → w.exact = false → s.access w kAmo ea z z = .ok () → s.xl w ea.toNat = .ok x →
       s.eccHit w ea z = false → s.quietAt die own z →
       let old := natOfBytes (s.gatomic own z)
       ∃ t, exec (.amo g ty op d a b c) s = .next t ∧ (d ≠ 0 → t.rS d = resultWord ty old) ∧
         s.globStored [own] (bytesOfNat z (amoNew op (8 * z) old (s.rS b).toNat (s.rS c).toNat)) t)

/-- R290: LDVX gathers each active element from its own address, base plus a shifted signed 32-bit offset; inactive
elements are kept or cleared. STVX to the local store writes, for one active element, its bytes and no other byte. The
model's reading: log 14 (a store to the local store is performed at its instruction). -/
def Obligations.GatherAndScatterElements : Prop :=
  ∀ (s : State) (g : Guard) (t : Fmt) (k : Msk) (d b : VReg) (a : SReg) (sh : Fin 4), s.guard g = true →
    s.tileFits (fmtSize t) → s.tileFits 4 →
    let n := fmtSize t
    let addr := fun i => s.elemAddr a b sh.val i
    (s.elemChecks s.who kLoad addr n (tileAlign t) (s.active k.k s.elems) = .ok () →
      s.stalls ((s.active k.k s.elems).flatMap (fun i => s.who.lines (addr i) n)) = none →
      (∀ i ∈ s.active k.k s.elems, s.eccHit s.who (addr i) n = false) →
      ∃ u, exec (.ldvx g t k d a b sh) s = .next u ∧ u.st.pc = s.st.pc + 8 ∧ s.sameMemory u ∧
        ∀ i, i < s.elems → velem (u.rV d) n i =
          if (s.rK k.k).getLsbD i then s.ldNat s.who (addr i) n else if k.z then 0 else velem (s.rV d) n i) ∧
    (∀ i, s.active k.k s.elems = [i] → window (addr i) = 2 → s.elemChecks s.who kStore addr n (tileAlign t) [i] = .ok () →
      (s.who.exact = true ∨ s.who.inKeep (inWindowOff (addr i)) n = false) →
      ∃ u, exec (.stvx g t k.k d a b sh) s = .next u ∧ u.st.pc = s.st.pc + 8 ∧
        u.lds = Mem.write s.lds (s.ldsPhys s.who (inWindowOff (addr i))) (bytesOfNat n (velem (s.rV d) n i)) ∧
        u.dies.map (·.view) = s.dies.map (·.view) ∧ u.ws = s.ws ∧ u.opmem = s.opmem)

/-- R120 to R122, R35, R69 to R71, R137, R240 and R287: LD, ST, MSTORE and AMO take the trap of the first check that
fails in the order ALIGN, address, WINDOW, REPLICA_WRITE, MODE, XLATE, PERM, PUBLISH, before any byte moves; when none
fails, the access is admitted. A tile that leaves its window takes ADDR_SPAN. That an AMO of exact mode meets no
WINDOW check is the model's reading of R350, log 33. -/
def Obligations.AlignmentFirst : Prop :=
  ∀ (s : State) (g : Guard) (d a b c : SReg) (v : VReg) (m : AMode) (o : MemOrd) (op : AmoOp) (t : Fmt), s.guard g = true →
    let e := s.effAddr a m
    let n := fmtSize (AccTy m)
    let traps := fun (i : Instr) (x : TrapInfo) => exec i s = .next (s.takeTrap x)
    (1 < n → e.ea.toNat % n ≠ 0 →
      traps (.ld g d a m o) ⟨0x03, n, e.ea, 0⟩ ∧ traps (.st g d a m o) ⟨0x03, n, e.ea, 0⟩ ∧
      traps (.mstore g d a m o) ⟨0x03, n, e.ea, 0⟩) ∧
    (1 < fmtSize t → (s.rS a).toNat % fmtSize t ≠ 0 → traps (.amo g t op d a b c) ⟨0x03, fmtSize t, s.rS a, 0⟩) ∧
    (n ≤ 8 → e.piw = none →
      (∀ x, s.firstFail false false false n e.ea = some x → traps (.ld g d a m o) x) ∧
      (∀ x, s.firstFail true false false n e.ea = some x → traps (.st g d a m o) x) ∧
      (∀ x, s.firstFail true false true n e.ea = some x → traps (.mstore g d a m o) x) ∧
      (s.firstFail false false false n e.ea = none → s.accessEa s.who kLoad e n n = .ok ()) ∧
      (s.firstFail true false false n e.ea = none → s.accessEa s.who kStore e n n = .ok ()) ∧
      (s.firstFail true false true n e.ea = none → s.accessEa s.who kMstore e n n = .ok ())) ∧
    (fmtSize t ≤ 8 →
      (∀ x, s.firstFail true true false (fmtSize t) (s.rS a) = some x → traps (.amo g t op d a b c) x) ∧
      (s.firstFail true true false (fmtSize t) (s.rS a) = none →
        s.access s.who kAmo (s.rS a) (fmtSize t) (fmtSize t) = .ok ())) ∧
    (s.tileFits n → e.ea.toNat % tileAlign (AccTy m) = 0 → window (e.ea + BitVec.ofNat 64 (s.elems * n - 1)) ≠ window e.ea →
      let x : TrapInfo := ⟨0x04, s.elems * n, BitVec.ofNat 64 ((window e.ea + 1) * 2 ^ 60), 0⟩
      traps (.ldv g v a m o) x ∧ traps (.stv g v a m o) x)

/-- R259: an AMO on a word of the local store, in arrival mode and outside the keep regions, gives the old value in D
and stores the new value, each of the operations as the rule says. -/
def Obligations.AtomicOperations : Prop :=
  ∀ (s : State) (g : Guard) (t : Fmt) (d a b c : SReg), s.guard g = true → t = .ui32 ∨ t = .ui64 ∨ t = .si32 ∨ t = .si64 →
    let n := fmtSize t
    let ea := s.rS a
    let w := s.who
    let old := s.ldNat w ea n
    let x := (s.rS b).toNat % 2 ^ (8 * n)
    let y := (s.rS c).toNat % 2 ^ (8 * n)
    let sg := fun v => sval (8 * n) v
    window ea = 2 → s.access w kAmo ea n n = .ok () → w.exact = false → w.inKeep (inWindowOff ea) n = false →
    let done := fun (op : AmoOp) (new : Nat) => ∃ u, exec (.amo g t op d a b c) s = .next u ∧ u.st.pc = s.st.pc + 8 ∧
      (d ≠ 0 → u.rS d = resultWord t old) ∧ u.lds = Mem.write s.lds (s.ldsPhys w (inWindowOff ea)) (bytesOfNat n new)
    done .swap x ∧ done .cas (if old = y then x else old) ∧ done .add ((old + x) % 2 ^ (8 * n)) ∧ done .and (old &&& x) ∧
      done .or (old ||| x) ∧ done .xor (old ^^^ x) ∧ done .min (if sg x < sg old then x else old) ∧
      done .max (if sg old < sg x then x else old) ∧ done .minu (min old x) ∧ done .maxu (max old x)

/-- R291: LDW of a word that need not be awaited, or whose tag is set, completes with OK and the word in B; of a word
that is not yet published it waits, up to its deadline. -/
def Obligations.LoadWait : Prop :=
  ∀ (s : State) (g : Guard) (d a b l : SReg) (i : BitVec 24), s.guard g = true →
    let w := s.who
    let ea := s.rS a + i.signExtend 64
    s.access w kLdw ea 8 8 = .ok () → window ea = 2 ∨ window ea = 0 → s.eccHit w ea 8 = false → s.st.wait = none →
    ((s.touch w ea 8).ldwReady w ea = true → ∃ t, exec (.ldw g d a b l i) s = .next t ∧ t.st.pc = s.st.pc + 8 ∧
      (d ≠ 0 → t.rS d = statusWord 0 0) ∧ (b ≠ 0 → b ≠ d → t.rS b = BitVec.ofNat 64 (s.ldNat w ea 8)) ∧ t.st.dlcount = 0) ∧
    ((s.touch w ea 8).ldwReady w ea = false → s.deadline l ≠ 0 → ∃ t u, exec (.ldw g d a b l i) s = .next t ∧
      t.st.wait = some u ∧ u.instr = .ldw g d a b l i ∧ u.limit = s.now + s.deadline l ∧ t.st.pc = s.st.pc) ∧
    ((s.touch w ea 8).ldwReady w ea = false → s.deadline l = 0 → ∃ t, exec (.ldw g d a b l i) s = .next t ∧
      t.st.pc = s.st.pc + 8 ∧ (d ≠ 0 → t.rS d = statusWord 1 0))

/-! ### Boxes, verdicts and tasks -/

/-- R242 to R244, with the fields of R52 and the keys of R56: BOXGET reads a field; BOXSET of a register other than b0
changes the 32 bits of one bound and no other bit; BOXKEY gives the node key or a child's. R63, R64 and R245: outside
self-descent FITS is true when each class of the descriptor stays within the live value under its ceiling, and false
when there is no such descriptor. -/
def Obligations.BoxRegisters : Prop :=
  ∀ (s : State) (g : Guard) (d : SReg) (p a : BReg) (b : SReg) (x : Fin 6), s.guard g = true →
    let img := s.rB a
    let y : Fin 8 := x.castLE (by decide)
    let field := fun (lo n : Nat) => img.toNat / 2 ^ lo % 2 ^ n
    let key : Word := img.extractLsb' 448 64
    let low : Word := key &&& (0 - key)
    let get := fun (sel : BoxSel) (v : Nat) => exec (.boxget g d a sel y) s = s.givesS d (BitVec.ofNat 64 v)
    get .lo (field (64 * x.val) 32) ∧ get .hi (field (64 * x.val + 32) 32) ∧
    get .ext (field (64 * x.val + 32) 32 - field (64 * x.val) 32) ∧
    get .cls (field (384 + 8 * x.val) 2) ∧ get .rank (field (386 + 8 * x.val) 3) ∧ get .depth (field 432 8) ∧
    exec (.boxget g d a .nkey y) s = s.givesS d key ∧ get .points (min (2 ^ 64 - 1) (boxPoints img)) ∧
    (p ≠ 0 → ∀ hi, ∃ v, exec (.boxset g p a b hi y) s = .next (s.goes 8 (·.wB p v)) ∧
      ∀ j, v.getLsbD j =
        if 64 * x.val + (if hi then 32 else 0) ≤ j ∧ j < 64 * x.val + (if hi then 32 else 0) + 32
        then (s.rS b).getLsbD (j - (64 * x.val + (if hi then 32 else 0))) else img.getLsbD j) ∧
    exec (.boxkey g d a .self) s = s.givesS d key ∧
    (key ≠ 0 → low ≠ 1 → exec (.boxkey g d a .left) s = s.givesS d (key - (low >>> 1)) ∧
      exec (.boxkey g d a .right) s = s.givesS d (key + (low >>> 1))) ∧
    (∀ (r : PReg) (n : BitVec 16) (l : Launch) (k : Task), s.curLaunch = some l → s.st.task = some k →
      (l.desc.foots[n.toNat]? = none → exec (.fits g r a n) s = s.givesP r false) ∧
      ∀ f, l.desc.foots[n.toNat]? = some f → (k.tr.kind ≠ .rule ∨ k.tr.fitSd = false) →
        let core := coreOf s.cur
        let used := fun i => footVal img (nth f i [])
        exec (.fits g r a n) s = s.givesP r
          (decide (used 0 ≤ min (s.liveCapls core) (s.regs core s.curCtx).capls.toNat) &&
           decide (used 1 ≤ min (s.freeSlots core) (s.regs core s.curCtx).capslot.toNat) &&
           decide (used 2 ≤ s.liveTree core s.curCtx)))

/-- R61, R240, R246 to R249: a verdict of a RULE task whose checks hold, DONE of a task that is no RULE, and REQUEUE
with fewer than 32 effects end the task: its strand waits for the release of its group, and nothing else changes. A
verdict of another kind traps VERDICT 2, DONE of a RULE task VERDICT 0. When the group of a REQUEUE without arrivals
is released, no byte of memory changes and the strand is free. -/
def Obligations.VerdictsAndEnds : Prop :=
  ∀ (s : State) (g : Guard) (k : Task) (l : Launch) (x : Fin 8) (m : BitVec 6) (pc : BitVec 32), s.guard g = true →
    s.st.task = some k → s.curLaunch = some l →
    let ends := fun (i : Instr) (e : EndKind) => exec i s = .next
      { s.setStrand s.cur { s.st with phase := .ending e } with agenda := s.agenda ++ [(s.cur, .commitGroupRelease)] }
    let vtrap := fun (n : Nat) => (Host.Outcome.next (s.takeTrap ⟨0x0F, n, 0, 0⟩) : Host.Outcome State Fault Refusal)
    let box := k.tr.box
    (k.tr.kind = .rule → k.legs = [] → s.st.phase = .running →
      (boxClass box x.val = 1 → 2 ≤ boxExt box x.val → x.val < 6 → boxDepth box < 63 → ends (.split g x) (.split x)) ∧
      (∀ a, keyAxis box = some a → boxDepth box < 63 → ends (.splitk g pc) (.splitk pc)) ∧
      (keyAxis box = none → exec (.splitk g pc) s = vtrap 4) ∧
      ends (.splitf g m pc) (.splitf m pc) ∧ ends (.prune g) .prune ∧ ends (.leaf g pc) (.leaf pc)) ∧
    (k.tr.kind ≠ .rule → exec (.split g x) s = vtrap 2 ∧ exec (.splitk g pc) s = vtrap 2 ∧
      exec (.splitf g m pc) s = vtrap 2 ∧ exec (.prune g) s = vtrap 2 ∧ exec (.leaf g pc) s = vtrap 2 ∧
      ends (.done g) .done) ∧
    (k.tr.kind = .rule → exec (.done g) s = vtrap 0) ∧
    (k.counted < 32 → ends (.requeue g) .requeue) ∧
    (32 ≤ k.counted → exec (.requeue g) s = .next (s.takeTrap ⟨0x1B, 4, 0, 0⟩)) ∧
    (s.st.phase = .ending .requeue → s.opsHold s.cur = false → (∀ y ∈ s.xfers, y.mark ≠ s.mark s.cur) →
      k.mxFlags &&& s.st.te = 0 → k.legs = [] → (∃ n, k.trigger = .msg n) → s.st.arr = Vector.replicate 4 none →
      ∃ t, exec .commitGroupRelease s = .next t ∧ s.sameMemory t ∧ (t.strand s.cur).phase = .free ∧
        (t.strand s.cur).task = none)

/-- R96, R129, R184 and R251 to R253: SEND, DEPOSIT, CINC and CADD only enter their effect behind those of the task,
and change no byte of memory. SEND checks its target and the 16 entries of the buffer. The release of a DONE performs
the effects: a counter's word grows by its increment, up to its greatest value; a message is released with the next
number of its source, target and VN; a deposit reaches the splicer of the row that serves its join; the keep journal
is written to the static area. The strand is then free, and the launch counts the task and its flags. -/
def Obligations.CommitEffects : Prop :=
  ∀ (s : State) (g : Guard) (vn : Bool) (a b : SReg) (pc : BitVec 32) (f : Fmt) (k : Task) (l : Launch),
    s.guard g = true → s.st.task = some k → s.curLaunch = some l →
    let i : Fin 2 := if vn then 1 else 0
    let buffers := fun (e : Effect) (o : Host.Outcome State Fault Refusal) =>
      ∃ t k', o = .next t ∧ t.st.pc = s.st.pc + 8 ∧ s.sameMemory t ∧ t.st.task = some k' ∧
        k'.effects = k.effects ++ [e] ∧ t.st.sr = s.st.sr
    ((s.rS a).toNat < l.nlcore → s.st.send[i].length < 16 →
      ∃ m : SendItem, exec (.send g vn a pc) s = .next (s.goes 8 (fun t => { t with
          send := t.send.set i (t.send[i] ++ [m]), task := some { k with effects := k.effects ++ [Effect.send vn] } })) ∧
        m.mark = s.mark s.cur ∧ m.msg.dest = (s.rS a).setWidth 32 ∧ m.msg.vn = vn ∧ m.msg.hpc = pc ∧ m.msg.key = boxKey k.tr.box ∧
        m.released = false) ∧
    (l.nlcore ≤ (s.rS a).toNat → exec (.send g vn a pc) s = .next (s.takeTrap ⟨0x05, 64, s.rS a, 0⟩)) ∧
    ((s.rS a).toNat < l.nlcore → 16 ≤ s.st.send[i].length →
      exec (.send g vn a pc) s = .next (s.takeTrap ⟨0x10, if vn then 1 else 0, 0, 0⟩)) ∧
    (k.tr.kind = .leaf ∨ k.tr.kind = .cont → k.tr.jref ≠ 0 → f = l.desc.acc → k.legs = [] → k.deposited = false →
      k.counted < 32 → s.access s.who kLoad (s.rS a) (tileLen (boxFree k.tr.box) (fmtSize f)) 8 = .ok () →
      buffers (.deposit k.tr.jref (s.rS a) f k.tr.box) (exec (.deposit g f a) s)) ∧
    (k.tr.jref = 0 → k.tr.kind = .leaf → exec (.deposit g f a) s = .next (s.takeTrap ⟨0x18, 0x0401, 0, 0⟩)) ∧
    (k.counted < 32 → s.access s.who kCounter (s.rS a) 8 8 = .ok () →
      buffers (.add (s.rS a) 1) (exec (.cinc g a) s) ∧ buffers (.add (s.rS a) (s.rS b)) (exec (.cadd g a b) s)) ∧
    (s.st.phase = .ending .done → s.opsHold s.cur = false → (∀ y ∈ s.xfers, y.mark ≠ s.mark s.cur) →
      k.mxFlags &&& s.st.te = 0 → k.legs = [] → k.tr.kind ≠ .cont → s.st.arr = Vector.replicate 4 none →
      s.unitStalls (s.depositLines s.cur) (s.st.stall.getD (0, 0)) = none →
      let w := s.who
      let released := fun (p : State → Prop) => ∃ t y, exec .commitGroupRelease s = .next t ∧ (t.strand s.cur).phase = .free ∧
        (t.strand s.cur).task = none ∧ t.launch? k.ctx = some y ∧ y.tasks = l.tasks + 1 ∧
        y.flags = l.flags ||| s.st.fpsr.extractLsb' 0 5 ∧ p t
      (∀ ea n x, k.tr.jref = 0 → k.journal = [] → k.effects = [.add ea n] → window ea = 0 → s.xl w ea.toNat = .ok x →
        s.eccHit w ea 8 = false → released (fun t => Mem.read (t.die (dieF w.core)).view.cells (x.pa (dieOf w.core)) 8 =
          bytesOfNat 8 (min (2 ^ 64 - 1) (natOfBytes (s.gatomic (x.pa (dieOf w.core)) 8) + n.toNat)))) ∧
      (∀ ea n, k.tr.jref = 0 → k.journal = [] → k.effects = [.add ea n] → window ea = 2 →
        let p := s.ldsPhys w (inWindowOff ea)
        released (fun t => t.lds =
          Mem.write s.lds p (bytesOfNat 8 (min (2 ^ 64 - 1) (natOfBytes (Mem.read s.lds p 8) + n.toNat))))) ∧
      (∀ m, k.tr.jref = 0 → k.journal = [] → k.effects = [.send vn] → s.st.send[i] = [m] → m.released = false →
        released (fun t => ∃ m', (t.strand s.cur).send[i] = [m'] ∧ m'.released = true ∧
          m'.msg = { m.msg with seq := BitVec.ofNat 64 (l.seqs.get (seqKey (lcLocal k.lc) m.msg.dest.toNat m.msg.vn) 0 + 1) } ∧
          (s.cur, Instr.messageInject vn) ∈ t.agenda)) ∧
      (∀ j tile box c, k.journal = [] → k.effects = [.deposit j tile f box] → k.deposited = true →
        s.ctx? k.ctx = some c → lcCtx k.lc = k.ctx → joinChip c l j.toNat = l.chipno →
        s.eccHit w tile (tileLen (boxFree box) (fmtSize f)) = false →
        let row := rowOf (nth l.remap (joinOwner c l j.toNat) 0)
        released (fun t => (t.row row).spl = (s.row row).spl ++
            [.deposit k.ctx j.toNat (s.ldBytes w tile (tileLen (boxFree box) (fmtSize f))) box (s.mark s.cur)] ∧
          (row, Instr.splicerDeposit) ∈ t.agenda)) ∧
      (k.tr.jref = 0 → k.effects = [] → released (fun t => t.lds = k.journal.foldl (fun m (e : Nat × List Byte) =>
        Mem.write m (s.ldsPhys w (Config.ldsBytes - l.sa + e.1)) e.2) s.lds)))

/-- R92 and R250: SPAWN of a target that exists asks the core that hosts it for a strand and waits; a granted strand
ends the wait with OK and a commit effect, or with CAPACITY when it would be the 33rd, a refusal with BUSY. R85 and
R86: a request that finds a record to give moves it to the thief's deque by a GRANT; one that finds none gives a DENY;
the back-off ends in a new round. The model's readings: logs 17 and 41. -/
def Obligations.SpawnAndStealing : Prop :=
  ∀ (s : State) (g : Guard) (kd : Kind) (d a : SReg) (b : BReg) (w : SReg) (pc : BitVec 24) (k : Task) (l : Launch),
    s.st.task = some k → s.curLaunch = some l →
    (s.guard g = true → (s.rS a).toNat < l.nlcore → boxMalformed (s.rB b) = false → s.st.wait = none →
      s.deadline w ≠ 0 →
      ∃ t r u, exec (.spawn g kd d a b w pc) s = .next t ∧ t.st.spawn = some r ∧ r.m = (s.rS a).toNat ∧ r.kind = kd ∧
        r.box = s.rB b ∧ r.answer = none ∧ t.agenda = s.agenda ++ [(s.cur, .spawnReservationRequest)] ∧
        t.st.wait = some u ∧ u.instr = .spawn g kd d a b w pc ∧ u.limit = s.now + s.deadline w ∧ t.st.pc = s.st.pc) ∧
    (s.guard g = true → l.nlcore ≤ (s.rS a).toNat → ∃ t, exec (.spawn g kd d a b w pc) s = .next t ∧
      t.st.pc = s.st.pc + 8 ∧ (d ≠ 0 → t.rS d = statusWord 3 1)) ∧
    (∀ u r, s.st.wait = some u → u.instr = .spawn g kd d a b w pc → u.stage = 1 → s.st.spawn = some r →
      (s.rS a).toNat < l.nlcore → boxMalformed (s.rB b) = false →
      (∀ j, r.answer = some (some j) → 32 ≤ k.counted →
        exec .waitSatisfied s = .next (s.takeTrap ⟨0x1B, 4, 0, 0⟩)) ∧
      (∀ j, r.answer = some (some j) → k.counted < 32 → ∃ t k', exec .waitSatisfied s = .next t ∧ t.st.pc = s.st.pc + 8 ∧
        (d ≠ 0 → t.rS d = statusWord 0 0) ∧ t.st.wait = none ∧ t.st.task = some k' ∧ k'.effects = k.effects ++ [Effect.spawn j]) ∧
      (r.answer = some none → ∃ t, exec .waitSatisfied s = .next t ∧ t.st.pc = s.st.pc + 8 ∧
        (d ≠ 0 → t.rS d = statusWord 7 0) ∧ t.st.wait = none)) ∧
    (∀ r, s.st.spawn = some r → r.answer = none → ∃ t r', exec .spawnReservationRequest s = .next t ∧
      t.st.spawn = some r' ∧ r'.answer = some (s.spawnStrand r)) ∧
    (∀ r u, s.st.spawn = some r → r.answer.isSome = true → s.st.wait = some u →
      exec .spawnAnswer s = .next (s.setStrand s.cur { s.st with wait := some { u with stage := 1 } })) ∧
    (∀ o, s.st.phase = .reserved o → ∃ t, exec .spawnRelease s = .next t ∧ (t.strand s.cur).phase = .free) ∧
    (let th := (s.lc s.cur).thief
     let at_ := fun (i : Nat) => nth (stealRound (s.host (lcCtx s.cur) (lcLocal s.cur))) i 0
     (∀ i n, th.pos = some i → s.answerSteal (lcCtx s.cur) (at_ i) = .error n → ∃ t, exec .stealRequest s = .next t ∧
        (t.lc s.cur).thief = { th with deny := some n } ∧ t.agenda = s.agenda ++ [(s.cur, .stealDeny)]) ∧
     (∀ i r u, th.pos = some i → s.answerSteal (lcCtx s.cur) (at_ i) = .ok (r, u) → ∃ t, exec .stealRequest s = .next t ∧
        (t.lc s.cur).thief.grant = some r ∧ (t.lc s.cur).thief.pos = none) ∧
     (∀ r, th.grant = some r → s.evicting (lcCtx s.cur) (s.hostOf s.cur) = false → (s.lc s.cur).hw.length < 64 →
        ∃ t, exec .stealGrant s = .next t ∧ (t.lc s.cur).hw = ⟨r, none⟩ :: (s.lc s.cur).hw ∧ (t.lc s.cur).thief.fails = 0 ∧
          (t.lc s.cur).thief.grant = none) ∧
     (∀ n, th.pos = some 32 → th.deny = some n → s.idle s.cur = true →
        s.evicting (lcCtx s.cur) (s.host (lcCtx s.cur) (lcLocal s.cur)) = false → ∃ t, exec .stealDeny s = .next t ∧
          (t.lc s.cur).thief.fails = th.fails + 1 ∧ (t.lc s.cur).thief.pos = none ∧ (t.lc s.cur).thief.notBefore =
            s.cyc (s.host (lcCtx s.cur) (lcLocal s.cur)) + min 65536 (1024 * 2 ^ th.fails)) ∧
     (th.notBefore ≠ 0 → th.pos = none → th.grant = none → th.xreq = false → (s.lc s.cur).awake = true →
        (s.launch? (lcCtx s.cur)).isSome = true → th.notBefore ≤ s.cyc (s.host (lcCtx s.cur) (lcLocal s.cur)) →
        s.idle s.cur = true →
        s.evicting (lcCtx s.cur) (s.host (lcCtx s.cur) (lcLocal s.cur)) = false →
        ∃ t, exec .stealBackoffExpiry s = .next t ∧ (t.lc s.cur).thief.pos = some 0 ∧ (s.cur, Instr.stealRequest) ∈ t.agenda))

/-! ### Counters, fences, barriers -/

/-- R154, R153, R166, R169, R254 and R255: WAITC and VWAITC on words that have reached their target, and FENCE and
FENCESC on what is drained, complete at once with OK; with a deadline of 0 an unmet condition is TIMEOUT, or PARTIAL
of FENCE, with its detail; WAITC without Y and a deadline waits, and with Y its task goes to the wait pool. The OK of
FENCE has detail 0 (R154), that of FENCESC the eight paths that are drained (R258). That FENCESC also waits until no
write that its die may see is still on its way, of another strand too, is the model's reading, log 20. The model's
other readings: logs 9 and 48 (the two details of OK). -/
def Obligations.WaitsForConditions : Prop :=
  ∀ (s : State) (g : Guard) (d a b l : SReg) (v : VReg) (i : BitVec 24) (bf af : BitVec 8), s.guard g = true →
    let w := s.who
    let word := fun (ea : Word) => s.ldNat w ea 8
    let checks := fun (eas : List Word) => s.elemChecks w kLoad (fun j => nth eas j 0) 8 8 (List.range eas.length) = .ok () ∧
      s.stalls (eas.flatMap (fun e => w.lines e 8)) = none ∧ ∀ e ∈ eas, s.eccHit w e 8 = false
    let outcome := fun (o : Host.Outcome State Fault Refusal) (code detail : Nat) =>
      ∃ t, o = .next t ∧ t.st.pc = s.st.pc + 8 ∧ (d ≠ 0 → t.rS d = statusWord code detail) ∧ t.st.wait = none ∧
        s.sameMemory t ∧ (code = 0 → t.st.dlcount = 0)
    let wa := fun y => Instr.waitc g y d a b l
    (checks [s.rS a] →
      ((s.rS b).toNat ≤ word (s.rS a) → ∀ y, outcome (exec (wa y) s) 0 (word (s.rS a) % 2 ^ 56)) ∧
      (word (s.rS a) < (s.rS b).toNat → s.deadline l = 0 → outcome (exec (wa false) s) 1 (word (s.rS a) % 2 ^ 56)) ∧
      (word (s.rS a) < (s.rS b).toNat → s.deadline l ≠ 0 → s.st.wait = none → ∃ t u, exec (wa false) s = .next t ∧
        t.st.wait = some u ∧ u.instr = wa false ∧ u.limit = s.now + s.deadline l ∧ t.st.pc = s.st.pc) ∧
      (∀ k, s.st.task = some k → k.legs = [] → s.st.phase ≠ .stopping → word (s.rS a) < (s.rS b).toNat →
        s.expHere (s.rS a) = false → s.canYield = true →
        ∃ t, exec (wa true) s = .next t ∧ (t.lc k.lc).pool = (s.lc k.lc).pool ++
          [⟨{ k.tr with wait := true, exp := false, wctr := s.rS a, wtgt := s.rS b }, s.now + s.deadline l, false, [s.mark s.cur], 0⟩])) ∧
    (∀ e, s.tile 8 = .ok e →
      let eas := (List.range e).map (fun j => s.rS a + BitVec.ofNat 64 (velem (s.rV v) 8 j))
      checks eas →
      ((∀ ea ∈ eas, i.toNat ≤ word ea) → ∀ y, outcome (exec (.vwaitc g y d a v l i) s) 0 0) ∧
      ((∃ ea ∈ eas, word ea < i.toNat) → s.deadline l = 0 →
        outcome (exec (.vwaitc g false d a v l i) s) 1 (eas.countP (fun ea => decide (word ea < i.toNat))))) ∧
    (let ok := bf = 0 ∨ af = 0 ∨ s.drained s.cur bf.toNat = bf.toNat
     (ok → outcome (exec (.fence g d l bf af) s) 0 0) ∧
     (¬ ok → s.deadline l = 0 → outcome (exec (.fence g d l bf af) s) 6 (s.drained s.cur bf.toNat))) ∧
    (let ok := s.drainedAll s.cur = 255 ∧ s.settled (dieF (coreOf s.cur)) = true
     (ok → outcome (exec (.fencesc g d l) s) 0 255) ∧
     (¬ ok → s.deadline l = 0 → outcome (exec (.fencesc g d l) s) 1 (s.drainedAll s.cur)))

/-- R113, R155, R256 and R257: BAR and BARA send an arrival from the lowest free slot of four, or give FAULT 5; an
answered arrival gives BARA its handle, one that has failed a handle with the detail of the failure, a completed one
gives BAR and BARW status OK and frees its slot; a handle of none is STALE. The arrival reaches the row's wired
barrier, or its record, whose generation it takes; a withdrawal takes it back, unless all members have arrived; the
news of the completion marks it. A record in a line with an uncorrectable error ends the launch KILLED (R135). The
model's readings: log 20. -/
def Obligations.Barriers : Prop :=
  ∀ (s : State) (g : Guard) (sc : Scope) (d a b l : SReg) (k : Task) (u : Wait) (j : Nat) (x : Arrival), s.st.task = some k →
    let core := coreOf s.cur
    let row := rowOf core
    let part : Fin 4 := Fin.ofNat 4 (s.part core k.ctx)
    let waits := fun (i : Instr) => ∃ t w, exec i s = .next t ∧ t.st.wait = some w ∧ w.instr = i ∧ w.stage = 4 * j ∧
      t.st.arrAt j = some ⟨sc, s.rS a, 0, false, false, 0⟩ ∧ t.agenda = s.agenda ++ [(s.cur, .barrierArrival)] ∧
      t.st.pc = s.st.pc
    let gives := fun (i : Instr) (v : Word) (x : Option Arrival) => ∃ t, exec i s = .next t ∧ t.st.pc = s.st.pc + 8 ∧
      (d ≠ 0 → t.rS d = v) ∧ t.st.wait = none ∧ t.st.arrAt j = x
    (s.guard g = true → s.barCheck sc (s.rS a) = .ok () → s.st.wait = none →
      (s.st.arrAt j = none → j < 4 → (∀ i, i < j → s.st.arrAt i ≠ none) →
        waits (.bar g sc d a b l) ∧ waits (.bara g sc d a b)) ∧
      ((∀ i, i < 4 → s.st.arrAt i ≠ none) → gives (.bar g sc d a b l) (statusWord 3 5) (s.st.arrAt j) ∧
        gives (.bara g sc d a b) (BitVec.ofNat 64 (3 + 5 * 2 ^ 11)) (s.st.arrAt j))) ∧
    (s.guard g = true → s.st.barSlot (s.rS a) = none → s.st.wait = none →
      gives (.barw g d a l) (statusWord 4 0) (s.st.arrAt j)) ∧
    (s.st.arrAt j = some x → x.reply = true →
      (s.guard g = true → s.st.barSlot (s.rS a) = some j → x.done = true → gives (.barw g d a l) (statusWord 0 0) none) ∧
      (s.st.wait = some u → u.stage = 4 * j → u.instr = .bar g sc d a b l → x.done = true →
        gives .waitSatisfied (statusWord 0 0) none) ∧
      (s.st.wait = some u → u.stage = 4 * j → u.instr = .bara g sc d a b → x.fail = 0 →
        gives .waitSatisfied (BitVec.ofNat 64 (x.gen % 2 ^ 32 * 2 ^ 32 + j * 512 + 256)) (some x)) ∧
      (s.st.wait = some u → u.stage = 4 * j → u.instr = .bara g sc d a b → x.fail ≠ 0 →
        gives .waitSatisfied (BitVec.ofNat 64 (3 + x.fail * 2 ^ 11)) none) ∧
      (x.done = false → s.arrHit s.cur = true → exec .barrierComplete s = .next (s.endLaunch k.ctx 1)) ∧
      (∀ y, x.done = false → x.scope ≠ .row → x.scope ≠ .sys → s.xlate core k.ctx x.va.toNat = .ok y →
        s.arrHit s.cur = false → (s.barRead (y.pa (dieOf core))).2.1 ≠ x.gen →
        ∃ t, exec .barrierComplete s = .next t ∧ t.st.arrAt j = some { x with done := true })) ∧
    (s.st.wait = some u → u.stage = 4 * j → s.st.arrAt j = some x → x.reply = false →
      (u.instr = .bar g .row d a b l → (s.rS b).toNat < 65536 → (s.rS b).getLsbD (colOf core) = true →
        ∃ t, exec .barrierArrival s = .next t ∧ t.st.arrAt j = some { x with reply := true } ∧
          (t.row row).barr[part] = (s.row row).barr[part] ++ [RowArr.mk s.cur ((s.rS b).setWidth 16) none j] ∧
          t.agenda = s.agenda ++ [(row, .gangBarrier part)]) ∧
      (u.instr = .bar g .row d a b l → (s.rS b).getLsbD (colOf core) = false →
        ∃ t, exec .barrierArrival s = .next t ∧ t.st.arrAt j = some { x with reply := true, fail := 3 }) ∧
      (∀ y, u.instr = .bar g .die d a b l → s.xlate core k.ctx (s.rS a).toNat = .ok y →
        s.latestDie (y.pa (dieOf core)) = dieF core → (s.barRead (y.pa (dieOf core))).1 = 0 → 1 ≤ (s.rS b).toNat →
        (s.rS b).toNat < 2 ^ 32 → s.barHit core k.ctx (s.rS a) = false → ∃ t, exec .barrierArrival s = .next t ∧
          t.st.arrAt j = some { x with reply := true, fail := 0, gen := (s.barRead (y.pa (dieOf core))).2.1 } ∧
          (s.cur, Instr.barrierComplete) ∈ t.agenda)) ∧
    (s.st.wait = some u → u.stage = 4 * j + 1 → s.st.arrAt j = some x → x.done = false → x.fail = 0 → x.scope = .row →
      (s.gangFull s.cur j = true → exec .barrierWithdraw s = .next s) ∧
      (s.gangFull s.cur j = false → ∃ t, exec .barrierWithdraw s = .next t ∧ t.st.arrAt j = some { x with fail := 8 } ∧
        ∀ (p : Fin 4) (e : RowArr), e ∈ (t.row row).barr[p] → ¬ (e.strand = s.cur ∧ e.slot = j)))

/-! ### Batons -/

/-- R131, R132 and R260 to R264: a handle names its baton; WAITB of a producer claims a free slot, of a consumer takes
a FULL one, and gives the slot's place; BADV makes a claimed slot FULL; BREL frees a RELAY slot at once and a CORE
slot at the group's release; BSTAT reads the table. SENDB waits for the answer to its offer, which claims the slot
when it is free; its bytes land in the slot, which is FULL with the last. At the release the CORE slot is FREE, and
NEXTREL has passed each consecutive freed sequence and no other. -/
def Obligations.Batons : Prop :=
  ∀ (s : State) (g : Guard) (d a b c l : SReg) (x : Fin 16) (len : BitVec 11) (k : Task) (n : Launch) (lck i : Nat),
    s.st.task = some k → s.curLaunch = some n →
    let t := s.batonOf lck i
    let q : BitVec 32 := (s.rS b).setWidth 32
    let sl := t.slot q
    let flag := fun (p : Bool) => if p then 1 else 0
    let at_ := (if t.core then Config.ldsBytes - n.sa else 0) + t.off + q.toNat % t.depth * t.size
    let ends := fun (j : Instr) (v : Word) => ∃ u, exec j s = .next u ∧ u.st.pc = s.st.pc + 8 ∧ (d ≠ 0 → u.rS d = v)
    let slots := fun (j : Instr) (v : Word) (y : BSlot) => ∃ u, exec j s = .next u ∧ u.st.pc = s.st.pc + 8 ∧
      (d ≠ 0 → u.rS d = v) ∧ (u.batonOf lck i).slot q = y ∧ u.st.wait = none
    (s.guard g = true → n.baton x.val = none → exec (.bdecl g false d a x) s = s.givesS d 0) ∧
    (∀ o z dp r, s.guard g = true → n.baton x.val = some (o, z, dp, true, r) →
      exec (.bdecl g false d a x) s =
        s.givesS d (BitVec.ofNat 64 (s.globalLc k.lc * 2 ^ 44 + 2 ^ 43 + x.val * 2 ^ 32)) ∧
      ((s.rS a).toNat < n.nlcore → s.who.hosted (s.rS a).toNat = true → exec (.bdecl g true d a x) s =
        s.givesS d (BitVec.ofNat 64 ((s.rS a).toNat * 2 ^ 44 + 2 ^ 43 + 2 ^ 42 + x.val * 2 ^ 32)))) ∧
    (s.guard g = true → s.ownBaton (s.rS a) = none → s.st.wait = none →
      ends (.waitb g true d a b l) (statusWord 4 3) ∧ ends (.waitb g false d a b l) (statusWord 4 3) ∧
      ends (.badv g d a b) (statusWord 4 3) ∧ ends (.brel g d a b) (statusWord 4 3) ∧
      exec (.bstat g d a b) s = s.givesS d (BitVec.allOnes 64)) ∧
    (s.guard g = true → s.ownBaton (s.rS a) = some (lck, i) → t.index q < t.slots.length → s.st.wait = none →
      (t.rel q < 0 → ends (.waitb g true d a b l) (statusWord 4 2) ∧ ends (.waitb g false d a b l) (statusWord 4 2)) ∧
      (0 ≤ t.rel q → t.rel q < t.depth → sl.st = 0 →
        slots (.waitb g true d a b l) (statusWord 0 at_) ⟨1, some q, s.cur, false, 0⟩) ∧
      (0 ≤ t.rel q → sl.st = 2 → sl.tag = some q →
        slots (.waitb g false d a b l) (statusWord 0 at_) { sl with st := 3, owner := s.cur, remote := false }) ∧
      (sl.st = 1 → sl.tag = some q → s.ownsSlot sl = true →
        slots (.badv g d a b) (statusWord 0 0) { sl with st := 2, owner := nobody }) ∧
      (sl.st ≠ 1 → ends (.badv g d a b) (statusWord 4 4)) ∧
      (sl.st = 3 → sl.tag = some q → s.ownsSlot sl = true → t.core = false →
        slots (.brel g d a b) (statusWord 0 0) { sl with st := 0, owner := 0, remote := false, got := 0 }) ∧
      (sl.st = 3 → sl.tag = some q → s.ownsSlot sl = true → t.core = true → ∃ u k', exec (.brel g d a b) s = .next u ∧
        u.st.pc = s.st.pc + 8 ∧ (d ≠ 0 → u.rS d = statusWord 0 0) ∧ u.st.task = some k' ∧
        k'.effects = k.effects ++ [Effect.brel lck i (t.index q)] ∧ u.batonOf lck i = t) ∧
      (sl.st ≠ 3 → ends (.brel g d a b) (statusWord 4 4)) ∧
      exec (.bstat g d a b) s = s.givesS d (BitVec.ofNat 64 (t.nextrel.toNat * 2 ^ 32 + t.depth % 256 * 2 ^ 24 +
        t.size / 64 % 65536 * 256 + flag t.core * 128 + flag (t.tagged q) * 64 + sl.st % 4))) ∧
    (∀ j, s.st.phase = .ending .done → s.opsHold s.cur = false → (∀ y ∈ s.xfers, y.mark ≠ s.mark s.cur) →
      k.mxFlags &&& s.st.te = 0 → k.legs = [] → k.tr.kind ≠ .cont → k.tr.jref = 0 → k.journal = [] →
      s.st.arr = Vector.replicate 4 none → k.effects = [Effect.brel lck i j] → i < (s.lc lck).batons.length →
      j < t.slots.length →
      ∃ u n, exec .commitGroupRelease s = .next u ∧ (nth (u.batonOf lck i).slots j noSlot).st = 0 ∧
        (nth (u.batonOf lck i).slots j noSlot).tag = (nth t.slots j noSlot).tag ∧ n ≤ t.depth ∧
        (u.batonOf lck i).nextrel = t.nextrel + BitVec.ofNat 32 n ∧
        let freed := fun (m : Nat) => let p := t.nextrel + BitVec.ofNat 32 m
          ((u.batonOf lck i).slot p).st = 0 ∧ ((u.batonOf lck i).slot p).tag = some p
        (∀ m, m < n → freed m) ∧ (n < t.depth → ¬ freed n)) ∧
    (let q : BitVec 32 := (s.rS c).setWidth 32
     let m := if len = 0 then t.size else 64 * len.toNat
     let me := Instr.sendb g d a b c l len
     s.anyBaton (s.rS b) = some (lck, i) →
     (s.guard g = true → t.core = false → ends me (statusWord 3 2)) ∧
     (s.guard g = true → t.core = true → t.size < m → ends me (statusWord 3 1)) ∧
     (s.guard g = true → t.core = true → m ≤ t.size → s.sendbCheck (s.rS a) m = .ok () → s.st.wait = none →
       ∃ u w, exec me s = .next u ∧ u.st.wait = some w ∧ w.instr = me ∧ w.stage = 0 ∧
         u.agenda = s.agenda ++ [(s.cur, .sendbArrival)] ∧ u.st.pc = s.st.pc) ∧
     (∀ w, s.st.wait = some w → w.instr = me →
       (w.stage = 0 → s.offer lck i q = 1 → t.index q < t.slots.length →
         ∃ u w', exec .sendbArrival s = .next u ∧ (u.batonOf lck i).slot q = ⟨1, some q, s.cur, true, 0⟩ ∧
           u.st.wait = some w' ∧ w'.stage = 1 ∧ u.agenda = s.agenda ++ [(s.cur, .sendbLanded)] ∧
           u.xfers = s.xfers ++ [Xfer.mk (s.mark s.cur) 1 (coreOf s.cur) k.lc (s.rS a) (some k) m lck i
             (t.index q) q 0 true]) ∧
       (w.stage = 1 → ∃ u, exec .waitSatisfied s = .next u ∧ u.st.pc = s.st.pc + 8 ∧ (d ≠ 0 → u.rS d = statusWord 0 0) ∧
         u.st.wait = none))) ∧
    (∀ (y : Xfer) (r : List Xfer), s.xfers = y :: r → markStrand y.mark = s.cur → y.path = 1 → y.last = true →
      y.baton < (s.lc y.lc).batons.length → y.slot < (s.batonOf y.lc y.baton).slots.length →
      ∃ u, exec .sendbLanded s = .next u ∧ u.xfers = r ∧ (nth (u.batonOf y.lc y.baton).slots y.slot noSlot).st = 2 ∧
        u.lds = Mem.write s.lds (s.staticPhys y.lc ((s.batonOf y.lc y.baton).off +
          y.slot * (s.batonOf y.lc y.baton).size + y.off)) (s.ldBytes (s.xferWho y) y.src y.len))

/-! ### Operand slots -/

/-- R107, R108 and R318 to R320: SCLAIM takes the lowest run of FREE slots as the task's ring, or gives BUSY with the
longest run; SREL returns it; SFILL of a claimed slot starts its fill and of a FULL one waits for its readers; SSTAT
reads a slot. The end of a fill makes the slot FULL with the bytes of the source, once no bank of the weight store
that it reads refreshes (R134). The model's readings: log 24. -/
def Obligations.OperandSlots : Prop :=
  ∀ (s : State) (g : Guard) (d a b c : SReg) (x : BitVec 6) (len : BitVec 8) (k : Task) (f n i : Nat), s.st.task = some k →
    let core := coreOf s.cur
    let q : BitVec 32 := (s.rS c).setWidth 32
    let bytes := if len = 0 then 8192 else 64 * len.toNat
    let isFree := fun j => (s.slot core j).st == 0
    (s.guard g = true → k.ring = none →
      (x.toNat ≤ s.capslot core s.curCtx → f + x.toNat ≤ 32 → (∀ j, j < x.toNat → isFree (f + j) = true) →
        (∀ e, e < f → ∃ j, j < x.toNat ∧ isFree (e + j) = false) →
        ∃ t k', exec (.sclaim g d x) s = .next t ∧ t.st.pc = s.st.pc + 8 ∧ (d ≠ 0 → t.rS d = statusWord 0 f) ∧
          t.st.task = some k' ∧ k'.ring = some (f, x.toNat) ∧
          (∀ j, j < 32 → t.slot core j =
            if f ≤ j ∧ j < f + x.toNat then { freeSlot with st := 1, owner := s.mark s.cur } else s.slot core j)) ∧
      (s.capslot core s.curCtx < x.toNat →
        exec (.sclaim g d x) s = s.givesS d (statusWord 7 (longestRun isFree)))) ∧
    (s.guard g = true → k.ring = some (f, n) →
      exec (.sclaim g d x) s = .next (s.takeTrap ⟨0x16, f, 0, 0⟩) ∧
      ((s.rS a).toNat = f → x.toNat = n → ∃ t k', exec (.srel g a x) s = .next t ∧ t.st.pc = s.st.pc + 8 ∧
        t.st.task = some k' ∧ k'.ring = none ∧
        (f ≤ i → i < f + n → (s.slot core i).st = 1 → (s.slot core i).pend = none → t.slot core i = freeSlot)) ∧
      ((s.rS b).toNat = f + q.toNat % n → i = (s.rS b).toNat → s.access s.who kFill (s.rS a) bytes 64 = .ok () →
        ((s.slot core i).st = 1 ∨ (s.slot core i).st = 4 → ∃ t, exec (.sfill g a b c len) s = .next t ∧
          t.st.pc = s.st.pc + 8 ∧ (t.slot core i).st = 2 ∧ (t.slot core i).tag = q ∧
          (t.slot core i).fill = some ⟨s.rS a, bytes, some k⟩ ∧ t.agenda = s.agenda ++ [(core, .slotFillEnd (Fin.ofNat 32 i))]) ∧
        ((s.slot core i).st = 3 → (s.slot core i).pend = none → ∃ t, exec (.sfill g a b c len) s = .next t ∧
          t.st.pc = s.st.pc + 8 ∧ (t.slot core i).st = 3 ∧ (t.slot core i).pend = some (q, ⟨s.rS a, bytes, some k⟩) ∧
          t.agenda = s.agenda ++ [(core, .slotFillStart (Fin.ofNat 32 i))]))) ∧
    (s.guard g = true → (s.rS a).toNat < 32 → (s.slot core (s.rS a).toNat).st ≠ 4 →
      (s.slot core (s.rS a).toNat).pend = none → exec (.sstat g d a) s = s.givesS d
        (BitVec.ofNat 64 ((s.slot core (s.rS a).toNat).tag.toNat * 2 ^ 32 + (s.slot core (s.rS a).toNat).st +
          if (s.slot core (s.rS a).toNat).st ≠ 0 ∧ (s.slot core (s.rS a).toNat).owner = s.mark s.cur then 8 else 0))) ∧
    (s.guard g = true → 32 ≤ (s.rS a).toNat → exec (.sstat g d a) s = s.givesS d (BitVec.allOnes 64)) ∧
    (∀ (j : Fin 32) (fl : Fill),
      ((s.slot s.cur j.val).pend = some (q, fl) →
        s.ops.any (fun o => o.core == s.cur && decide (o.id < (s.slot s.cur j.val).lim) &&
          o.names o.kind.steps j.val (some (s.slot s.cur j.val).tag)) = false →
        ∃ t, exec (.slotFillStart j) s = .next t ∧ (t.slot s.cur j.val).st = 2 ∧ (t.slot s.cur j.val).tag = q ∧
          (t.slot s.cur j.val).fill = some fl ∧ (t.slot s.cur j.val).pend = none) ∧
      (let y := s.slot s.cur j.val
       let w := s.fillWho s.cur y.owner fl
       let stall := s.unitStalls (w.lines fl.src fl.len) y.stall
       y.fill = some fl → w.addrCheck fl.src fl.len false = .ok () → s.xfail w fl.src fl.len = none →
       (window fl.src ≠ 0 ∨ w.exact = false) → s.eccHit w fl.src fl.len = false →
       (stall = none → y.rel = false → ∃ t, exec (.slotFillEnd j) s = .next t ∧ (t.slot s.cur j.val).st = 3 ∧
         (t.slot s.cur j.val).tag = y.tag ∧
         t.opmem = Mem.write s.opmem ((s.cur * 32 + j.val) * 8192) (s.ldBytes w fl.src fl.len)) ∧
       (∀ e, stall = some e → ∃ t, exec (.slotFillEnd j) s = .next t ∧ t.slot s.cur j.val = { y with stall := e } ∧
         t.opmem = s.opmem ∧ (s.cur, Instr.slotFillEnd j) ∈ t.agenda)))

/-! ### The row's sequencer -/

/-- R113, R114, R317, R321, R322, R324, R325 and R329: an instruction of the sequencer whose checks hold, in a queue
with room, is accepted behind the ops before it with its stack units and completes; while the queue is full it is
issued again. A unit above T is ENGINE 0x0503; a C or a B of MMA that is 0, a C above 4,096 and a B that is no
multiple of C slots are ENGINE 0x0502. A member of a gang waits at the row's wired barrier and goes on when it has
completed. What MMAG and MMAS read at issue meets no uncorrectable error and no refreshing bank (R134, R135). The
model's readings: logs 23, 26 and 48 (MOUT on a replicated page). -/
def Obligations.MatrixIssue : Prop :=
  ∀ (s : State) (g : Guard) (t : Fmt) (m : Rm) (o : MxOpt) (tile : Fin 64) (sc : Bool) (a b c l : SReg) (k : Task),
    s.guard g = true → s.st.task = some k →
    let core := coreOf s.cur
    let part := s.part core s.curCtx
    let top := s.stackTop core s.curCtx
    let w := s.who
    let trap := fun (code : Nat) => (Host.Outcome.next (s.takeTrap ⟨0x18, code, 0, 0⟩) : Host.Outcome State Fault Refusal)
    let accepts := fun (i : Instr) (kd : MxKind) (n : Nat) => ∃ u p, exec i s = .next u ∧ u.st.pc = s.st.pc + 8 ∧
      u.ops = s.ops ++ [p] ∧ p.kind = kd ∧ p.strand = s.cur ∧ p.id = s.nextOp ∧ p.part = part ∧ p.stop = none ∧
      p.spare = (s.spareUnits core s.curCtx).take n ∧ u.nextOp = s.nextOp + 1 ∧ s.sameMemory u
    (tile.val < top → s.queueFree core part = true → accepts (.mzero g tile) (.mzero tile.val) 0) ∧
    (tile.val < top → s.queueFree core part = false → exec (.mzero g tile) s = .next s.hold) ∧
    (top ≤ tile.val → exec (.mzero g tile) s = trap 0x0503) ∧
    (s.access w kMstore (s.rS a) (moutLen t) 64 = .ok () → w.pubRun (s.rS a) (moutLen t) = none →
      s.queueFree core part = true →
      (tile.val < top → accepts (.mout g t m sc tile a b)
        (.mout tile.val t (s.rm m) (if sc then some ((s.rS b).setWidth 32) else none) (s.rS a)) 0)) ∧
    (s.access w kMstore (s.rS a) (moutLen t) 64 = .ok () → top ≤ tile.val → exec (.mout g t m sc tile a b) s = trap 0x0503) ∧
    (s.queueFree core part = true →
      (k.ring ≠ none → accepts (.mldw g t false a l) (.mldw t .none (some ((s.rS a).setWidth 32))) 0) ∧
      ((s.rS a).toNat % 64 = 0 → window (s.rS a) = 1 → s.access w kLoad (s.rS a) (tileBytes t) 64 = .ok () →
        accepts (.mldw g t true a l) (.mldw t (.ws t (s.rS a) 0 []) none) 0)) ∧
    ((s.rS a).toNat % 64 = 0 → window (s.rS a) ≠ 1 → exec (.mldw g t true a l) s = trap 0x0501) ∧
    (let n := (s.rS b).toNat
     let cb := (s.rS c).toNat
     let sa := fmtSlots o.t
     (cb = 0 ∨ 4096 < cb ∨ n = 0 ∨ n % (cb * sa) ≠ 0 → exec (.mma g o tile a b c l) s = trap 0x0502) ∧
     (1 ≤ cb → cb ≤ 4096 → 1 ≤ n → n % (cb * sa) = 0 → top < tile.val + n / (cb * sa) * gangSize o.gang →
       exec (.mma g o tile a b c l) s = trap 0x0503) ∧
     (o.gang = none → s.queueFree core part = true → 1 ≤ cb → cb ≤ 4096 → 1 ≤ n → n % (cb * sa) = 0 →
       tile.val + n / (cb * sa) ≤ top → s.srcCheck cb 0x0505 = .ok () → stackTiles cb ≤ s.captree core s.curCtx →
       k.ring ≠ none →
       accepts (.mma g o tile a b c l) (.mma tile.val o.t o.z ((s.rS a).setWidth 32) (n / (cb * sa)) cb) (stackTiles cb))) ∧
    (let quiet := fun (e : List (Word × Nat)) => (∀ x ∈ e, s.eccHit w x.1 x.2 = false) ∧
       s.stalls (e.flatMap (fun x => w.lines x.1 x.2)) = none
     ∀ kd n, o.gang = none → s.queueFree core part = true →
      (mmagOp o tile a b c s = .ok (kd, n) → quiet (mmagReads a s) → accepts (.mmag g o tile a b c l) kd n) ∧
      (mmasOp o tile a b c s = .ok (kd, n) → quiet [(s.rS a, 32)] → accepts (.mmas g o tile a b c l) kd n)) ∧
    (∀ kd n x, o.gang = some x → x.getLsbD (colOf core) = true → mmaOp o tile a b c s = .ok (kd, n) → s.st.wait = none →
      ∃ u v e, exec (.mma g o tile a b c l) s = .next u ∧ u.st.wait = some v ∧ v.instr = .mma g o tile a b c l ∧
        (u.row (rowOf core)).barr[Fin.ofNat 4 part] = (s.row (rowOf core)).barr[Fin.ofNat 4 part] ++ [e] ∧
        e.strand = s.cur ∧ e.mask = x ∧ u.st.pc = s.st.pc) ∧
    (∀ v, s.st.wait = some v → v.instr = .mma g o tile a b c l → v.stage = 1 → ∃ u, exec .waitSatisfied s = .next u ∧
      u.st.pc = s.st.pc + 8 ∧ u.st.wait = none)

/-- R113 to R117, R321, R323, R327 to R330: MWAIT with nothing unended gives OK, of an op that has ended at a step
FAULT with its FCODE, step and the ops not ended, once; MRESUME lets a stopped op go on; MSTAT reads the three
registers, where PEND counts the ops that have neither ended nor stopped, which is the model's reading of R117, log 33.
A complete group of BAR arrivals completes. The step of an MZERO leaves every element of its unit absent,
that of an MLDW from the weight store latches its source with the tile that it reads, when no bank of it refreshes;
both ops then end. A step of an MMA of one column block adds to each element of its unit, or replaces it by, the
canonical sum of the two halves of its column (R110, R111, R115); that of an MOUT writes the unit's elements, scaled
and rounded once (R329), but waits while its core's store is quiet (R176). A product of a gang that was found to
disagree enters the queue when it has an entry (R114, R323). An entry of an MMAS is read ahead, and its tile is fetched
into the ring, once no bank that the entry lies in refreshes (R134). The model's readings: logs 23 and 26. -/
def Obligations.MatrixSteps : Prop :=
  ∀ (s : State) (g : Guard) (d l : SReg),
    let ends := fun (i : Instr) (v : Word) => ∃ t, exec i s = .next t ∧ t.st.pc = s.st.pc + 8 ∧ (d ≠ 0 → t.rS d = v) ∧
      t.st.wait = none
    let live := fun (o : MxOp) => o.of s.cur && !o.cancel
    (s.guard g = true →
      (s.st.mxRep = [] → s.ops.find? live = none → ends (.mwait g d l) (statusWord 0 0)) ∧
      (∀ fc n r, s.st.mxRep = (fc, n) :: r → ∃ t, exec (.mwait g d l) s = .next t ∧ t.st.pc = s.st.pc + 8 ∧
        t.st.mxRep = r ∧ (d ≠ 0 → t.rS d = statusWord 3 (fc + n % 2 ^ 32 * 2 ^ 8 + s.pendOps s.cur % 256 * 2 ^ 40))) ∧
      (∀ o fc x va, s.st.mxRep = [] → s.ops.find? live = some o → o.stop = some (fc, x, va) → fc ≠ 5 →
        ends (.mwait g d l) (statusWord 3 (fc + o.step % 2 ^ 32 * 2 ^ 8 + s.pendOps s.cur % 256 * 2 ^ 40))) ∧
      (s.ops.find? live = none → exec (.mresume g l) s = .next (s.adv 8)) ∧
      (∀ o, s.ops.find? live = some o → o.stop ≠ none → o.gang = [] → ∃ t p, exec (.mresume g l) s = .next t ∧
        t.st.pc = s.st.pc + 8 ∧ p ∈ t.ops ∧ p.id = o.id ∧ p.kind = o.kind ∧ p.stop = none ∧ p.step = o.step ∧
        p.check = true ∧ p.dl = s.deadline l ∧ (coreOf s.cur, Instr.sequencerStep) ∈ t.agenda) ∧
      exec (.mstat g d .stat) s = s.givesS d (putBits s.st.mxstat 8 8 (s.pendOps s.cur)) ∧
      exec (.mstat g d .step) s = s.givesS d s.st.mxstep ∧ exec (.mstat g d .fva) s = s.givesS d s.st.mxfva) ∧
    (∀ (p : Fin 4) (e : RowArr),
      (gangGroup (s.row s.cur).barr[p] = none → (∀ x ∈ (s.row s.cur).barr[p], x.told = false) →
        exec (.gangBarrier p) s = .next s) ∧
      (∀ x o c, (s.row s.cur).barr[p] = [x] → x.op = some (o, c) → o.bad = true →
        (s.queueFree o.core o.part = true → ∃ t q, exec (.gangBarrier p) s = .next t ∧ (t.row s.cur).barr[p] = [] ∧
          t.ops = s.ops ++ [q] ∧ q.kind = o.kind ∧ q.bad = true ∧
          (t.strand x.strand).wait = (s.strand x.strand).wait.map (fun w => { w with stage := 1 })) ∧
        (s.queueFree o.core o.part = false → exec (.gangBarrier p) s = .next (s.post s.cur (.gangBarrier p)))) ∧
      ((s.row s.cur).barr[p] = [e] → e.op = none → e.mask = BitVec.ofNat 16 (2 ^ colOf (coreOf e.strand)) →
        ∃ t, exec (.gangBarrier p) s = .next t ∧ (t.row s.cur).barr[p] = [] ∧
          (t.strand e.strand).arrAt e.slot = ((s.strand e.strand).arrAt e.slot).map (fun a => { a with done := true }))) ∧
    (∀ o, s.ops = [o] → o.core = s.cur → coreOf o.strand = s.cur → o.gang = [] → o.part < 4 → o.step = 0 → o.stop = none →
      o.cancel = false → o.bad = false →
      (∀ tile, o.kind = .mzero tile → ∃ t, exec .sequencerStep s = .next t ∧ t.ops = [] ∧
        ∀ e, e < 4096 → t.acc.find (accKey (rowOf s.cur) o.part tile e) = none) ∧
      (∀ f tt p j l, o.kind = .mldw f (.ws tt p j l) none →
        s.unitStalls ((s.whoOf o.strand).lines p (tileBytes tt)) o.stall = none →
        ∃ t, exec .sequencerStep s = .next t ∧ t.ops = [] ∧
          t.latchedSrc s.cur o.part = .ws tt p 0 (s.ldBytes (s.whoOf o.strand) p (tileBytes tt))) ∧
      ((s.acc.map Prod.fst).Pairwise (· < ·) →
        let key := fun (tile e : Nat) => accKey (rowOf s.cur) o.part tile e
        (∀ tile f z q p y, o.kind = .mma tile f z q p 1 → 1 ≤ p → s.weightTile o.strand o.part 0 = some y →
          s.tileLines o.part 0 o.strand = [] → (o.check = true → s.slotCheck o = none) → s.slotFault o = none →
          s.slotWait o = none →
          let half := fun (i j : Nat) => halfNode y.1 f (nth (halves y.1 y.2) i ⟨1, []⟩) (nth (halves f (s.stepBytes o)) j ⟨1, []⟩)
          let sum := fun (m n : Nat) => (canonAdd .f32 .rne (half (2 * n) (2 * m)).1 (half (2 * n + 1) (2 * m + 1)).1).1
          ∃ t, exec .sequencerStep s = .next t ∧ ∀ m n, m < 64 → n < 64 →
            t.acc.find (key tile (64 * m + n)) = (if z then sum m n else (canonAdd .f32 .rne
              ((s.acc.find (key tile (64 * m + n))).map BitVec.toNat) (sum m n)).1).map (BitVec.ofNat 32)) ∧
        (∀ tile f m sc dst, o.kind = .mout tile f m sc dst → window dst = 2 → (s.core s.cur).refuse = true →
          ∃ t, exec .sequencerStep s = .next t ∧ t.ops = [o] ∧ t.lds = s.lds ∧ (s.cur, Instr.sequencerStep) ∈ t.agenda) ∧
        (∀ tile f m sc dst, o.kind = .mout tile f m sc dst → f.isIeee = true → window dst = 2 →
          (s.core s.cur).refuse = false → ∃ t, exec .sequencerStep s = .next t ∧ t.ops = [] ∧ ∀ e, e < 4096 →
            Mem.read t.lds (s.ldsPhys (s.whoOf o.strand) (inWindowOff dst) + e * fmtSize f) (fmtSize f) =
              bytesOfNat (fmtSize f) (match s.acc.find (key tile e) with
                | none => 0
                | some v => (toIeee f m (scaled (fval .f32 v.toNat) (sc.map (fun b => fval .f32 b.toNat))).1).1)))) ∧
    (s.prefetching s.cur = none → exec .mmasPrefetch s = .next s) ∧
    (∀ o tile f z list nent nbr nbc q, s.prefetching s.cur = some o → o.kind = .mmas tile f z list nent nbr nbc q →
      ∀ x, s.readEntry (s.whoOf o.strand) list (o.step + o.ents.length) nbr nbc
          (match o.ents.getLast? with | some e => some (e.c, e.r) | none => o.last) = (x, 0) → x.flt = none →
        let at_ := list + BitVec.ofNat 64 (32 + 16 * (o.step + o.ents.length))
        let stall := s.unitStalls ((s.whoOf o.strand).lines at_ 16) o.ahead
        (∀ e, stall = some e → ∃ t p, exec .mmasPrefetch s = .next t ∧ p ∈ t.ops ∧ p = { o with ahead := e } ∧
          (s.cur, Instr.mmasPrefetch) ∈ t.agenda) ∧
        (s.eccHit (s.whoOf o.strand) at_ 16 = false → stall = none →
        let r := q + BitVec.ofNat 32 (o.step + o.ents.length)
        (x.absent = false → f ≠ .f32 → s.slotsClear o (o.step + o.ents.length) [o.slotOf r] = true →
          ∃ t p, exec .mmasPrefetch s = .next t ∧ p ∈ t.ops ∧ p.id = o.id ∧ p.ents = o.ents ++ [x] ∧
            (t.slot s.cur (o.slotOf r)).st = 2 ∧ (t.slot s.cur (o.slotOf r)).tag = r ∧
            (t.slot s.cur (o.slotOf r)).fill = some ⟨x.va, min 8192 (tileBytes f), (s.strand o.strand).task⟩) ∧
        (x.absent = true → ∃ t p, exec .mmasPrefetch s = .next t ∧ p ∈ t.ops ∧ p.id = o.id ∧ p.ents = o.ents ++ [x] ∧
          (s.cur, Instr.sequencerStep) ∈ t.agenda)))

/-! ### Engines -/

/-- R331 to R340: an engine command whose checks hold, of a ready engine with room, is accepted with the next count of
its logical core and completes with OK and its tag; the operand faults give FAULT with their detail, an engine that is
not ready FAULT 0xFE. EWAIT and ESTAT give what has become of a command, NLSTAT the state of the neighbour-list
engine. A SCATA whose updates have no place in the tile heap yet waits, and ends TIMEOUT with a deadline of 0 (R367).
What a command reads at issue meets no uncorrectable error and no refreshing bank (R134, R135). The model's
readings: logs 24, 38 and 40, and log 48 (the reason of a refused command in D[15:8]). -/
def Obligations.EngineCommands : Prop :=
  ∀ (s : State) (g : Guard) (f : Fmt) (d a b c l : SReg) (n : BitVec 8) (z : BitVec 10) (ls ld : Layout) (sel : Fin 16)
    (k : Task), s.guard g = true → s.st.task = some k →
    let w := s.who
    let die := dieOf w.core
    let x := s.rS a
    let y := s.rS b
    let len := (s.rS c).toNat
    let gives := fun (i : Instr) (v : Word) => ∃ t, exec i s = .next t ∧ t.st.pc = s.st.pc + 8 ∧ (d ≠ 0 → t.rS d = v) ∧
      t.st.wait = none
    let accepts := fun (i : Instr) (e : Nat) (first : Option Instr) => ∃ t p, exec i s = .next t ∧ t.st.pc = s.st.pc + 8 ∧
      (d ≠ 0 → t.rS d = statusWord 0 (e * 2 ^ 48 + p.unit * 2 ^ 44 + p.count % 2 ^ 32)) ∧ p ∈ t.cmds ∧ p.engine = e ∧
      p.instr = i ∧ p.lc = k.lc ∧ p.count = (s.lc k.lc).cmds + 1 ∧ p.live = true ∧ t.st.wait = none ∧
      ∀ j, first = some j → (p.lc * 2 ^ 32 + p.count, j) ∈ t.agenda
    let room := fun (i : Instr) (e u : Nat) => s.cmdRoom (s.newCmd e u i 0 0 0) = true
    let quiet := fun (r : List (Word × Nat)) => (∀ e ∈ r, s.eccHit w e.1 e.2 = false) ∧
      s.stalls (r.flatMap (fun e => w.lines e.1 e.2)) = none
    (let sized := len % 8 = 0 ∧ 8 ≤ len ∧ len ≤ 2 ^ 24 ∧ x.toNat % 8 = 0 ∧ y.toNat % 8 = 0
     let fe := Instr.fetch g d a b c l
     let pu := Instr.put g d a b c l
     (¬ sized → gives fe (statusWord 3 1) ∧ gives pu (statusWord 3 1)) ∧
     (sized → 1 < window x ∨ window y ≠ 2 → gives fe (statusWord 3 6)) ∧
     (sized → window x ≠ 2 ∨ window y ≠ 0 → gives pu (statusWord 3 6)) ∧
     (sized → s.access w kFetch x len 8 = .ok () → s.access w kPut y len 8 = .ok () →
       (window x ≤ 1 → window y = 2 → s.unitReady (12 + 2 * die) = false → gives fe (statusWord 3 0xFE)) ∧
       (window x ≤ 1 → window y = 2 → s.unitReady (12 + 2 * die) = true → room fe 1 (2 * die) →
         accepts fe 1 (some .gdeTransferBlock)) ∧
       (window x = 2 → window y = 0 → (∃ r, s.logRun w y len = .ok r) → s.unitReady (12 + 2 * die) = true →
         room pu 1 (2 * die) → accepts pu 1 (some .gdeTransferBlock)))) ∧
    (∀ idx, s.indexList w x (rowCount n) = .ok idx → y.toNat % 8 = 0 → quiet [(x, 4 * rowCount n)] →
      (let i := Instr.gather g d a b c l n z
       rowBytes z ≤ 4096 → s.rowChecks w kFetch y (rowBytes z) idx = .ok () →
       (s.anyBaton (s.rS c) = none → gives i (statusWord 3 4)) ∧
       (s.sinkCheck (s.rS c) (rowBytes z) = 0 → s.unitReady (12 + 2 * die) = true → room i 1 (2 * die) →
         accepts i 1 (some .gdeRowFetch))) ∧
      (let i := Instr.scata g f d a b c l n z
       s.tableChecks w y (rowBytes z) ((idx.head?).bind (fun j => outTensor w (rowAt y (rowBytes z) j) (rowBytes z))) idx =
         .ok () → k.counted < 32 → s.access w kLoad (s.rS c) (rowCount n * rowBytes z) 8 = .ok () →
       quiet [(x, 4 * rowCount n), (s.rS c, rowCount n * rowBytes z)] → s.unitReady (12 + 2 * die) = true →
       room i 1 (2 * die) →
       (∃ r, s.heapAlloc s.curCtx (rowCount n * rowBytes z) = .ok r) → accepts i 1 none)) ∧
    (let i := Instr.nlcfg g d a l
     let blk := s.ldBytes w x 64
     s.access w kLoad x 64 64 = .ok () → quiet [(x, 64)] → s.unitReady (20 + die) = true →
     ((nlParse blk).valid blk = true → room i 2 die → accepts i 2 none ∧
       ∃ t, exec i s = .next t ∧ (t.nle (dieF w.core) w.ctx).cfg = some (nlParse blk)) ∧
     ((nlParse blk).valid blk = false → gives i (statusWord 3 1))) ∧
    (let i := Instr.nlbin g d a b l
     x.toNat % 16 = 0 → y = 0 ∨ s.access w kLoad x (16 * y.toNat) 16 = .ok () →
     (∀ cfg, (s.nle (dieF w.core) w.ctx).cfg = some cfg → s.access w kWork cfg.work cfg.workLen 64 = .ok () ∧
       ∃ r, s.logRun w cfg.work cfg.workLen = .ok r) →
     (2 ^ 24 < y.toNat → gives i (statusWord 3 6)) ∧
     (y.toNat ≤ 2 ^ 24 → s.unitReady (20 + die) = true →
     ((s.nle (dieF w.core) w.ctx).cfg = none → gives i (statusWord 8 0)) ∧
     ((s.nle (dieF w.core) w.ctx).cfg ≠ none → room i 2 die → accepts i 2 (some .nlbinComplete)))) ∧
    (let i := Instr.nlpairs g d a b c l
     let e := s.nle (dieF w.core) w.ctx
     x.toNat % 16 = 0 → s.unitReady (20 + die) = true →
     (e.bins = none → gives i (statusWord 8 0)) ∧
     (∀ cfg bins, e.cfg = some cfg → e.bins = some bins →
       e.pos = [] ∨ s.access w kLoad x (16 * e.pos.length) 16 = .ok () → s.sinkCheck y 4096 = 0 →
       (cfg.cells ≤ len % 2 ^ 32 → gives i (statusWord 3 4)) ∧
       (len % 2 ^ 32 < cfg.cells → len % 2 ^ 32 + len / 2 ^ 32 ≤ cfg.cells → room i 2 die →
         accepts i 2 (some .nleBlock)))) ∧
    (∀ u v, let i := Instr.conv g f ls ld d a b l
     s.access w kLoad x 64 64 = .ok () → s.access w kLoad y 64 64 = .ok () → quiet [(x, 64), (y, 64)] →
     layoutParse ls (s.ldBytes w x 64) = some u → layoutParse ld (s.ldBytes w y 64) = some v →
     (ls = ld → gives i (statusWord 3 1)) ∧
     (ls ≠ ld → layoutsOk ls ld u v = false → gives i (statusWord 3 2)) ∧
     (ls ≠ ld → layoutsOk ls ld u v = true → s.rangeChecks w kFetch (u.ranges ls f true) = .ok () →
       s.rangeChecks w kPut (v.ranges ld f false) = .ok () → (∃ r, s.logRuns w (v.ranges ld f false) = .ok r) →
       s.unitReady (24 + die) = true → room i 3 die → accepts i 3 (some .convPhase))) ∧
    (s.byTag x = none → gives (.ewait g d a l) (statusWord 4 (0xFF * 2 ^ 48)) ∧
      exec (.estat g d a) s = s.givesS d 0xFF) ∧
    (∀ p, s.byTag x = some p →
      (p.st = 2 → p.final = 0 → gives (.ewait g d a l) (statusWord 0 0)) ∧
      (p.st = 2 → p.final ≠ 0 → gives (.ewait g d a l) (statusWord p.final (p.fva.toNat % 2 ^ 48 + p.reason * 2 ^ 48))) ∧
      (p.st ≠ 2 → s.deadline l = 0 → gives (.ewait g d a l) (statusWord 1 0)) ∧
      (p.st < 2 → exec (.estat g d a) s = s.givesS d (BitVec.ofNat 64 (p.progress % 2 ^ 48 * 65536 + p.st)))) ∧
    exec (.nlstat g d sel) s = s.givesS d (BitVec.ofNat 64 ((s.nle (dieF (coreOf s.cur)) s.curCtx).stat sel.val))

/-- R176, R316, R332 to R340: a block of a FETCH lands at its place and the last ends the command, and a core whose
router is quiet answers it with RETRY; a page that does not translate ends it FAULT with reason 2; a GATHER and an
NLPAIRS deliver a block into a free slot of their baton; a binning is kept; a CONV begins by clearing the version
word; an update of SCATA leaves the launch's list; the end of a command shows. The command has nothing to read again
after a RESUME (R341). Where a step reads the weight store no bank that it reads refreshes, and no line that it reads
has an error (R134, R135). The model's readings: logs 24 and 25. -/
def Obligations.EngineSteps : Prop :=
  ∀ (s : State) (c : Cmd), s.findCmd s.cur = some c →
    let w := s.cmdWho c
    let d := dieF c.core
    let shows := fun (i : Instr) (p : State → Cmd → Prop) => ∃ t e, exec i s = .next t ∧ t.findCmd s.cur = some e ∧
      e.instr = c.instr ∧ p t e
    (c.st = 4 → shows .engineCommandEnd (fun _ e => e = { c with st := 2 })) ∧
    (c.st < 2 → c.cancel = false → c.spill = [] → c.reread = false → c.retryAt ≤ s.cyc c.core →
      (∀ g x a b n l, c.instr = .fetch g x a b n l →
        let m := min 64 (c.c.toNat - c.p1)
        let far := c.a + BitVec.ofNat 64 c.p1
        let near := c.b + BitVec.ofNat 64 c.p1
        window near = 2 → ((s.core c.core).refuse = true → shows .gdeTransferBlock (fun t e => e.p1 = c.p1 ∧ t.lds = s.lds ∧
          e.retryAt = s.cyc c.core + 256)) ∧
        ((s.core c.core).refuse = false → s.xfail w far m = none → s.eccHit w far m = false →
          s.unitStalls (w.lines far m) c.stall = none → shows .gdeTransferBlock (fun t e => e.p1 = c.p1 + m ∧
          t.lds = Mem.write s.lds (s.ldsPhys w (inWindowOff near)) (s.ldBytes w far m) ∧
          (c.p1 + m = c.c.toNat → e.st = 4 ∧ e.final = 0))) ∧
        (∀ va bad, (s.core c.core).refuse = false → s.xfail w far m = some (va, bad) → s.tableHit w va 1 = false → shows .gdeTransferBlock (fun t e => e.st = 4 ∧ e.final = 3 ∧
          e.reason = 2 ∧ e.fva = va ∧ t.lds = s.lds))) ∧
      (∀ g x a b h l n z lck i, c.instr = .gather g x a b h l n z → s.sinkOf c = some (lck, i) →
        let m := max 1 ((s.batonOf lck i).size / rowBytes z)
        let hi := min (rowCount n) (c.p0 + m)
        let rows := (c.idx.drop c.p0).take (hi - c.p0)
        let q : BitVec 32 := c.c.setWidth 32 + BitVec.ofNat 32 (c.p0 / m)
        (∀ r ∈ rows, s.xfail w (rowAt c.b (rowBytes z) r) (rowBytes z) = none ∧
          s.eccHit w (rowAt c.b (rowBytes z) r) (rowBytes z) = false) → s.away lck = false → s.offer lck i q = 1 → shows .gdeRowFetch (fun t e => e.p0 = hi ∧
          t.lds = Mem.write s.lds (s.staticPhys lck ((s.batonOf lck i).off +
            (s.batonOf lck i).index q * (s.batonOf lck i).size))
            (rows.flatMap (fun r => s.ldBytes w (rowAt c.b (rowBytes z) r) (rowBytes z))) ∧
          (hi = rowCount n → e.st = 4 ∧ e.final = 0))) ∧
      (∀ g x a b l cfg, c.instr = .nlbin g x a b l → (s.nle d c.ctx).cfg = some cfg →
        let pos := (List.range c.b.toNat).map (fun i => s.coords w c.a i)
        s.eccHit w c.a (16 * c.b.toNat) = false → s.tableHit w cfg.work cfg.workLen = false → s.unitStalls (w.lines c.a (16 * c.b.toNat)) c.stall = none →
        (∀ tb o, binAll cfg 0 pos [] 0 = .ok (tb, o) → shows .nlbinComplete (fun t e => e.st = 4 ∧ e.final = 0 ∧
          e.progress = c.b.toNat ∧ (t.nle d c.ctx).bins = some tb ∧ (t.nle d c.ctx).overUsed = o ∧
          (t.nle d c.ctx).pos = pos)) ∧
        (binAll cfg 0 pos [] 0 = .error none → shows .nlbinComplete (fun t e => e.st = 4 ∧ e.final = 5 ∧
          (t.nle d c.ctx).bins = none))) ∧
      (∀ g x a b h l cfg tb lck i, c.instr = .nlpairs g x a b h l → (s.nle d c.ctx).cfg = some cfg →
        (s.nle d c.ctx).bins = some tb →
        let c0 := c.c.toNat % 2 ^ 32
        let last := if c.c.toNat / 2 ^ 32 = 0 then cfg.cells else c0 + c.c.toNat / 2 ^ 32
        let recs := (s.nextPairs w c.a cfg tb 257 (last - c.p0 + 1) c.p0 (c.p1 % 2 ^ 32) (c.p1 / 2 ^ 32) []).filter
          (fun e => decide (e.1 < last))
        let q : BitVec 32 := c.b.setWidth 32 + BitVec.ofNat 32 c.progress
        let read := (cfg.particles tb c.p0 (last - 1)).map (fun j => c.a + BitVec.ofNat 64 (16 * j))
        recs.length ≤ 256 → (∀ e ∈ read, s.eccHit w e 12 = false) →
        s.unitStalls (read.flatMap (fun e => w.lines e 12)) c.stall = none →
        (recs = [] → shows .nleBlock (fun t e => e.st = 4 ∧ e.final = 0 ∧ t.lds = s.lds)) ∧
        (recs ≠ [] → s.moved w c.a cfg (s.nle d c.ctx).pos recs = none → s.sinkOf c = some (lck, i) →
          s.away lck = false → s.offer lck i q = 1 →
          shows .nleBlock (fun t e => e.st = 4 ∧ e.final = 0 ∧ e.progress = c.progress + 1 ∧
            t.lds = Mem.write s.lds (s.staticPhys lck ((s.batonOf lck i).off +
              (s.batonOf lck i).index q * (s.batonOf lck i).size)) (pairBlock recs)))) ∧
      (∀ g f ls ld x a b l u v, c.instr = .conv g f ls ld x a b l → layoutParse ls (c.vals.take 64) = some u →
        layoutParse ld (c.vals.drop 64) = some v → c.p0 = 0 → ld ≠ .dense → s.xfail w v.va 4 = none →
        s.tableHit w v.va 4 = false →
        shows .convPhase (fun t e => e.p0 = 1 ∧ e.progress = 1 ∧
          (∀ f, (t.die f).view = ((s.unitWrite w v.va [0, 0, 0, 0]).die f).view) ∧ (s.cur, Instr.convPhase) ∈ t.agenda))) ∧
    (∀ (v : State) (x : Ctx) (l : Launch) (h : HeldScata) (r : List HeldScata), v.ctx? v.cur = some x → x.launch = some l →
      l.arrival = true → l.scata = h :: r → v.ecc = [] → (∀ q ∈ v.cmds, q.reread = false) →
      ∃ t y, exec .scataApply v = .next t ∧ t.launch? v.cur = some y ∧ y.scata = r ∧
        y.heap = l.heap.filter (fun e => l.heapBase x + e.1 != h.heap) ∧ (v.cur, Instr.scataApply) ∈ t.agenda)

/-! ### The host interface -/

/-- R29 to R42: a command that fails a header check is answered with the number of the check and does nothing else.
One that passes runs: CREATE_CTX makes a context, MAP and UNMAP its mappings, LOAD_WIMAGE writes the weight stores and
MEAS5, LAUNCH queues a record, EVICT begins an eviction, RESUME ends one, DESTROY_CTX frees the number, READ_TRAPRING
reads the ring, ATTEST signs. LAUNCH, EVICT, UNMAP and RESUME answer NOTREADY while global memory may not be written.
The model's choices: that UNMAP of a range which meets no mapping answers OK, the empty and the unaligned one too, log
49, and that a signature is cut or filled to its length, log 5. Its readings: logs 15, 19, 21 and 22, and log 43
(NOTREADY). -/
def Obligations.HostCommands : Prop :=
  ∀ (s : State) (m : VcpMsg) (k : Conn) (x : Ctx), s.boot.failed = 0 → s.deferred m = false →
    s.conns.find m.conn = some k → k.live = true →
    let f := fun (o n : Nat) => leAt m.body o n
    let answers := fun (t : State) (r c : Nat) (b : List Byte) =>
      t.outbox = s.outbox ++ [HostMsg.send m.conn (vcpBytes m.cmd r m.seq c m.tag s.time.dtime b)]
    let refused := fun (i : Instr) (code len : Nat) => s.vcpCheck m code len ≠ 0 → ∃ t, exec i s = .next t ∧
      answers t (s.vcpCheck m code len) m.ctxid [] ∧ t.ctxs = s.ctxs ∧ s.sameMemory t
    let ran := fun (i : Instr) (code len : Nat) (p : State → Prop) => s.vcpCheck m code len = 0 → ∃ t, exec i s = .next t ∧ p t
    let used := fun (i : Instr) (code len : Nat) (p : State → Prop) => s.ctx? m.ctxid = some x → ran i code len p
    let rows := fun (p : Nat → Bool) => (maskRows (f 0 8) (List.range 64)).filter p
    refused (.createCtx m) 1 0x20 ∧ refused (.map m) 2 0x18 ∧ refused (.unmap m) 3 0x10 ∧
    refused (.loadWimage m) 4 0x20 ∧ refused (.launch m) 5 256 ∧ refused (.evict m) 6 8 ∧ refused (.resume m) 7 8 ∧
    refused (.destroyCtx m) 8 0 ∧ refused (.readTrapring m) 9 8 ∧ refused (.attest m) 0x0A 0x88 ∧
    (∀ i u c, s.hbmReady = true → createOk m = true → 1 ≤ i → i < 16 → s.ctx? i = none →
      (∀ j, 1 ≤ j → j < i → s.ctx? j ≠ none) → f 8 8 + areaBytes ≤ 2 ^ 48 →
      (∃ b, s.wsPlace (f 0x14 4) = some b ∧ (s.consume m).makeCtx m i b = some u) → u.ctx? i = some c →
      u.outbox = s.outbox → u.conns = (s.consume m).conns → u.time = s.time →
      ran (.createCtx m) 1 0x20 (fun t => t.ctxs = u.ctxs ∧ answers t 0 i (createBody i c))) ∧
    (∀ pa u v c, s.hbmReady = true → mapOk x m = true → f 0x10 4 / 8 % 2 = 0 → f 0x10 4 / 4 % 2 = 0 →
      (s.consume m).palloc (f 8 8) (if f 0x10 4 % 2 = 1 then 2 ^ 29 else 65536) 0 = some (pa, u) →
      u.mapPages m.ctxid x.ttpa (f 0 8) pa 1 (pteFlags (f 0x10 4 / 2 % 2 == 1) false false)
        (pagesOf (f 0 8) (f 8 8) (f 0x10 4 % 2 == 1)) = some v → v.ctx? m.ctxid = some c → c.holds = [] →
      used (.map m) 2 0x18 (fun t => (t.ctx? m.ctxid).map (·.maps) = some (c.maps ++
        [⟨f 0 8, f 8 8, f 0x10 4 % 2 == 1, f 0x10 4 / 2 % 2 == 1, false, false, pa, 0⟩]))) ∧
    (s.hbmReady = true → x.launch = none → meets (f 0 8) (f 8 8) x.area x.areaSize = false →
      (∀ y ∈ x.maps, meets (f 0 8) (f 8 8) y.va y.len = true → f 0 8 ≤ y.va ∧ y.va + y.len ≤ f 0 8 + f 8 8) →
      used (.unmap m) 3 0x10 (fun t => answers t 0 m.ctxid [] ∧ (t.ctx? m.ctxid).map (·.maps) =
        some (x.maps.filter (fun y => !meets (f 0 8) (f 8 8) y.va y.len)))) ∧
    (s.hbmReady = true → x.launch.isSome = true → meets (f 0 8) (f 8 8) x.area x.areaSize = false →
      (∀ y ∈ x.maps, meets (f 0 8) (f 8 8) y.va y.len = true → f 0 8 ≤ y.va ∧ y.va + y.len ≤ f 0 8 + f 8 8) →
      used (.unmap m) 3 0x10 (fun t => answers t 7 m.ctxid [] ∧ t.ctxs = s.ctxs)) ∧
    (∀ d data, x.launch = none → d < 4 → f 0 4 = 2 ^ d → f 4 4 = 0 → s.boot.ready1.getLsbD (28 + d) = true →
      f 0x10 8 % 64 = 0 → f 0x18 8 % 64 = 0 → f 0x10 8 + f 0x18 8 ≤ x.wslen →
      s.ctxRead m.ctxid (f 8 8) (f 0x18 8) = some data →
      used (.loadWimage m) 4 0x20 (fun t => answers t 0 m.ctxid (sha3 data) ∧
        t.ws = Mem.write s.ws (d * Config.wsDieBytes + x.wsbase + f 0x10 8) data ∧
        t.boot.meas[5] = BitVec.ofNat 512 (natOfBytes (sha3 (bytesOfNat 64 s.boot.meas[5].toNat ++
          sha3 (bytesOfNat 4 (2 ^ d) ++ bytesOfNat 4 0 ++ bytesOfNat 8 (f 0x10 8) ++ bytesOfNat 8 (f 0x18 8) ++ sha3 data)))))) ∧
    (s.hbmReady = false → used (.launch m) 5 256 (fun t => answers t 5 m.ctxid [] ∧ t.ctxs = s.ctxs) ∧
      used (.evict m) 6 8 (fun t => answers t 5 m.ctxid [] ∧ t.ctxs = s.ctxs) ∧
      used (.unmap m) 3 0x10 (fun t => answers t 5 m.ctxid [] ∧ t.ctxs = s.ctxs) ∧
      used (.resume m) 7 8 (fun t => answers t 5 m.ctxid [] ∧ t.ctxs = s.ctxs)) ∧
    (s.hbmReady = true → (x.tail + 2 ^ 32 - x.head) % 2 ^ 32 < 64 → used (.launch m) 5 256 (fun t =>
      answers t 0 m.ctxid (bytesOfNat 4 (x.tail % 64)) ∧ (t.ctx? m.ctxid).map (·.tail) = some ((x.tail + 1) % 2 ^ 32) ∧
      (m.ctxid, Instr.launchStart) ∈ t.agenda)) ∧
    (s.hbmReady = true → 64 ≤ (x.tail + 2 ^ 32 - x.head) % 2 ^ 32 → used (.launch m) 5 256 (fun t => answers t 7 m.ctxid [] ∧ t.ctxs = s.ctxs)) ∧
    (let on := fun r => (x.rowPart.find r).isSome
     s.hbmReady = true → (rows on = [] → used (.evict m) 6 8 (fun t => answers t 0 m.ctxid [])) ∧
     (∀ r, rows on = [r] → s.haltedOn m.ctxid r = true → used (.evict m) 6 8 (fun t => answers t 7 m.ctxid [])) ∧
     (∀ r, rows on = [r] → s.haltedOn m.ctxid r = false → x.evicts.find r = none → used (.evict m) 6 8 (fun t =>
       t.outbox = s.outbox ∧ ((t.ctx? m.ctxid).bind (fun c => c.evicts.find r)).map (fun (e : Evict) => (e.step, e.te)) =
         some (1, s.now) ∧ (t.ctx? m.ctxid).map (·.evReply) = some (some m) ∧
       (r, Instr.evictStepEnd m.ctxid) ∈ t.agenda))) ∧
    (let off := fun r => ((x.evicts.find r).map (fun (e : Evict) => e.step == 6)).getD false
     s.hbmReady = true → (rows off = [] → used (.resume m) 7 8 (fun t => answers t 0 m.ctxid [])) ∧
     (∀ r p, rows off = [r] → s.freePart r = some p → s.loadRoom m.ctxid r = true → used (.resume m) 7 8 (fun t =>
       answers t 0 m.ctxid [] ∧ (t.ctx? m.ctxid).bind (fun c => c.evicts.find r) = none ∧
       (t.ctx? m.ctxid).bind (fun c => c.rowPart.find r) = some p))) ∧
    (x.launch = none → x.head = x.tail → used (.destroyCtx m) 8 0 (fun t =>
      answers t 0 m.ctxid [] ∧ t.ctxs = s.ctxs.erase m.ctxid)) ∧
    (1 ≤ f 4 4 → f 4 4 ≤ 64 → used (.readTrapring m) 9 8 (fun t => answers t 0 m.ctxid
      (bytesOfNat 4 x.trapHead ++ bytesOfNat 4 x.lost ++ (List.range (f 4 4)).flatMap (fun i =>
        (s.ctxRead m.ctxid (x.area + x.off[1] + 64 * ((f 0 4 + i) % x.trapn)) 64).getD [])) ∧ s.sameMemory t)) ∧
    (f 4 4 < 1 ∨ 64 < f 4 4 → used (.readTrapring m) 9 8 (fun t => answers t 6 m.ctxid [])) ∧
    (f 0x40 4 = 0 → f 0x44 4 = 0 → ran (.attest m) 0x0A 0x88 (fun t =>
      let r := m.body.take 64 ++ s.boot.meas.toList.flatMap (fun v => bytesOfNat 64 v.toNat) ++
        bytesOfNat 8 s.boot.ready0.toNat ++ bytesOfNat 8 s.boot.ready1.toNat ++ bytesOfNat 4 s.boot.secver.toNat ++
        bytesOfNat 4 0 ++ bytesOfNat 8 s.now
      answers t 0 m.ctxid (r ++ padTo 4627 (Config.mldsaSign r)) ∧ t.boot = s.boot))

/-- R24, R29, R30, R43, R141 and R158: a connection is accepted on a port whose link is up, and may drop; the doorbell
moves TAIL, or is refused with QERR when it would pass 64 records or go back; an RDMA WRITE is performed on all four
dies before it is acknowledged; an RDMA READ changes no memory, and one that meets an uncorrectable error ends the
launch (R135); an access that no rkey allows is a remote error; in recovery mode a status read gives the failing step.
The model's choices: that a connection's SEQ starts at 1 and the TAG of an event is 0, log 45; and its readings: logs
19 and 22, and log 43 (a write while global memory may not be written). -/
def Obligations.HostAccess : Prop :=
  ∀ (s : State) (p : Bool) (k : Conn) (x : Ctx) (c rkey a n : Nat) (v : Word) (b : Byte),
    (s.conns.find s.cur = none → s.cur < dropped → (s.conns.filter (fun e => e.2.live && e.2.port == p)).length < 64 → s.boot.failed = 0 →
      s.boot.ready1.getLsbD (if p then 33 else 32) = true →
      exec (.connectionAccept p) s = .next { s with conns := s.conns.set s.cur ⟨p, 0, [], 0, true⟩ }) ∧
    (s.conns.find s.cur = some k → s.cur < dropped → ∃ t n, exec .connectionDrop s = .next t ∧
      t.conns.find s.cur = none ∧ dropped ≤ n ∧ t.conns.find n = some { k with live := false } ∧
      (∀ e ∈ s.ctxs, ∀ l, e.2.launch = some l → l.conn = s.cur → ∃ y ∈ t.ctxs, y.1 = e.1 ∧
        y.2.launch = some { l with conn := n }) ∧
      t.outbox = s.outbox ∧ t.strands = s.strands) ∧
    (exec .recoveryStatusRead s = .next (if s.boot.failed = 0 then s
      else { s with outbox := s.outbox ++ [HostMsg.bootStatus s.cur s.boot.failed] })) ∧
    (s.connUp s.cur = true →
      (let t0 := v.toNat % 2 ^ 32
       s.ctx? c = some x →
       ((t0 + 2 ^ 32 - x.head) % 2 ^ 32 ≤ 64 → (t0 + 2 ^ 32 - x.tail) % 2 ^ 32 < 2 ^ 31 →
         ∃ t, exec (.doorbellWrite c v) s = .next t ∧ (t.ctx? c).map (·.tail) = some t0 ∧
           (c, Instr.launchStart) ∈ t.agenda ∧ t.outbox = s.outbox ++ [HostMsg.ack s.cur]) ∧
       (64 < (t0 + 2 ^ 32 - x.head) % 2 ^ 32 ∨ 2 ^ 31 ≤ (t0 + 2 ^ 32 - x.tail) % 2 ^ 32 → c ≠ 0 →
         ∃ t, exec (.doorbellWrite c v) s = .next t ∧ t.ctxs = s.ctxs ∧
         t.outbox = s.outbox ++ (s.conns.filter (fun e => e.2.live && !e.2.created.isEmpty)).map (fun e =>
           HostMsg.send e.1 (s.eventBytes 5 c (e.2.events + 1) (bytesOfNat 8 t0 ++ bytesOfNat 8 x.head))) ++
             [HostMsg.ack s.cur])) ∧
      (s.reach rkey a n false = .none → exec (.hostRdmaRead rkey a n) s =
        .next { s with outbox := s.outbox ++ [HostMsg.remoteError s.cur] }) ∧
      (s.reach rkey a n false = .mem c → s.hostHit c a n = true → ∃ t, exec (.hostRdmaRead rkey a n) s = .next t ∧
        t.launch? c = none) ∧
      (s.reach rkey a n false = .mem c → s.hostHit c a n = false → ∃ t d, exec (.hostRdmaRead rkey a n) s = .next t ∧ s.sameMemory t ∧ d.length = n ∧
        t.outbox = s.outbox ++ [HostMsg.data s.cur d]) ∧
      (s.reach rkey a 1 true = .none → exec (.hostRdmaWrite rkey a [b]) s =
        .next { s with outbox := s.outbox ++ [HostMsg.remoteError s.cur] }) ∧
      (s.reach rkey a 1 true = .mem c → s.hbmReady = false → exec (.hostRdmaWrite rkey a [b]) s =
        .next { s with outbox := s.outbox ++ [HostMsg.remoteError s.cur] }) ∧
      (∀ y, s.reach rkey a 1 true = .mem c → s.hbmReady = true → s.ctxWalk c a = some y → y.replica = false →
        (∀ d, s.quietAt d (y.pa 0) 1) → ∃ t, exec (.hostRdmaWrite rkey a [b]) s = .next t ∧
          t.outbox = s.outbox ++ [HostMsg.ack s.cur] ∧ ∀ d z, Mem.get (t.die d).view.cells z =
            if z = y.pa 0 then b else Mem.get (s.die d).view.cells z))

/-! ### Supply, temperature, time and the exchange -/

/-- R17 to R20: what the input, the power samples, a droop detector and the junction temperature do. Below 42 V for
100 µs, once in each dip, and from 115 °C every launch ends, above 60 V the module is off; above the limit the clocks
of all compute dies are stretched by a step, which a cool millisecond below it takes back. The model's choices: that a
connection's SEQ starts at 1 and the TAG of an event is 0, log 45; and its readings: log 27. -/
def Obligations.SupplyAndTemperature : Prop :=
  ∀ (s : State) (mv w c : Nat) (d : Fin 4),
    let p := s.power
    let hot := { s with power := { p with hot := true } }
    (p.inRange = true → p.below42 = false ∨ p.told = true ∨ s.now < p.dipAt + 100000 →
      (42000 ≤ mv ∧ mv < 44000) ∨ (56000 < mv ∧ mv ≤ 60000) → ∃ t, exec (.supplyOutOfRange mv) s = .next t ∧
      t.power.inRange = false ∧ t.power.limit = min p.plimit.toNat 2000 ∧
      t.outbox = s.outbox ++ (s.conns.filter (fun e => e.2.live)).map (fun e =>
        HostMsg.send e.1 (s.eventBytes 7 0 (e.2.events + 1) (bytesOfNat 8 s.now ++ bytesOfNat 4 mv ++ bytesOfNat 4 0)))) ∧
    (p.below42 = true → p.told = false → p.dipAt + 100000 ≤ s.now → (42000 ≤ mv ∧ mv < 44000) ∨ (56000 < mv ∧ mv ≤ 60000) →
      ∃ t, exec (.supplyOutOfRange mv) s = .next t ∧ t.power.below42 = false ∧ ∀ k, t.launch? k = none) ∧
    (p.inRange = false → 44000 ≤ mv → mv ≤ 56000 → ∃ t, exec (.supplyInRange mv) s = .next t ∧ t.power.inRange = true ∧
      t.power.below42 = false ∧ t.power.limit = p.plimit.toNat ∧
      (p.below42 = true → p.told = false → p.dipAt + 100000 ≤ s.now → ∀ k, t.launch? k = none)) ∧
    (mv < 42000 → p.below42 = false → ∃ t, exec (.supplyDip mv) s = .next t ∧ t.power.below42 = true ∧
      t.power.dipAt = s.now ∧ t.power.told = false ∧ (0, Instr.powerLoss) ∈ t.agenda) ∧
    (p.below42 = true → p.told = false → p.dipAt + 100000 ≤ s.now → ∃ t, exec .powerLoss s = .next t ∧
      t.power.told = true ∧ ∀ k, t.launch? k = none) ∧
    (p.below42 = false ∨ p.told = true → exec .powerLoss s = .next s) ∧
    (exec .supplyOvervoltage s = .next { s with power := { p with off := true } }) ∧
    (let l := (w :: p.samples).take 10
     let high := p.limit * l.length < l.sum ∨ p.exceeded = true ∧ l.sum = p.limit * l.length
     ∃ t, exec (.powerSample w) s = .next t ∧ t.power.samples = l ∧ (t.power.exceeded = true ↔ high) ∧
       ∀ e, (t.die e).stretch = (s.die e).stretch + if high then 1 else 0) ∧
    ((∃ e, (s.die e).stretch ≠ 0) → p.relaxAt + 1000000 ≤ s.now → p.exceeded = false → p.hot = false →
      ∃ t, exec .stretchRelax s = .next t ∧ ∀ e, (t.die e).stretch = (s.die e).stretch - 1) ∧
    (d.val = s.cur / 64 →
      let left := (s.die d).low &&& ~~~(1 <<< (s.cur % 64) : BitVec 64)
      (mv < p.droopth.toNat → ∃ t, exec (.droopDetect mv) s = .next t ∧ (t.die d).droop = true ∧
        (t.die d).droopEnd = 0 ∧ (t.die d).low.getLsbD (s.cur % 64) = true) ∧
      (p.droopth.toNat ≤ mv → (s.die d).droop = true → (s.die d).droopEnd = 0 → ∃ t, exec (.droopDetect mv) s = .next t ∧
        (t.die d).droop = true ∧ (t.die d).low = left ∧ (left ≠ 0 → (t.die d).droopEnd = 0) ∧
        (left = 0 → (t.die d).droopEnd = (s.die d).cycle + 256 ∧ (d.val, Instr.droopRelease) ∈ t.agenda))) ∧
    (d.val = s.cur % 4 →
      ((s.die d).droop = true → (s.die d).droopEnd ≠ 0 → (s.die d).droopEnd ≤ (s.die d).cycle →
        ∃ t, exec .droopRelease s = .next t ∧ (t.die d).droop = false ∧ (t.die d).droopEnd = 0)) ∧
    (100 ≤ c → exec (.thermalThrottle c) s = .next hot.stretchMore ∧
      ∀ e, ((hot.stretchMore).die e).stretch = (s.die e).stretch + 1) ∧
    (c < 100 → exec (.thermalThrottle c) s = .next { s with power := { p with hot := false } }) ∧
    (∃ t, exec .thermalTrip s = .next t ∧ (∀ e, (t.die e).power = false) ∧ ∀ k, t.launch? k = none)

/-- R8, R9, R14 to R16, R23, R48 and R157: a correction of at most 100 ns that comes on a port is left to be slewed,
and as it is slewed PTP time gains or loses at most 1 ns in 10,000, and no time before it counts (the servo is the
model's choice, log 13); a larger one holds delivery and stops the tick generator; TICK advances when PTP time reaches
the boundary; frames of XETYPE are taken and others discarded; a lost exchange link ends the launches that have other
chips. The model's readings: logs 4, 12 and 13. -/
def Obligations.TimeAndExchange : Prop :=
  ∀ (s : State) (n : Nat) (c : Int) (p : Fin 8) (l : List XcItem) (e : Nat),
    let t0 := s.time
    (n < 10 → c.natAbs ≤ 100 → exec (.ptpMessage n c) s = .next { s with time := { t0 with slew := t0.slew + c } }) ∧
    (10 ≤ n → exec (.ptpMessage n c) s = .next s) ∧
    (∀ m, ∃ k, let t1 := t0.advancePtp m
      10000 * k ≤ t0.slewAcc + m ∧ t1.slew.natAbs + k = t0.slew.natAbs ∧ (t1.slew = 0 → t1.slewAcc = 0) ∧
      (0 ≤ t0.slew → t1.ptp = t0.ptp + m + k) ∧
      (t0.slew < 0 → t1.ptp = t0.ptp + m - k)) ∧
    (n < 10 → 100 < c.natAbs → ∃ t, exec (.ptpMessage n c) s = .next t ∧ t.time.hold = true ∧ t.time.stepAt = some t0.tick.toNat ∧
      t.time.ptp = ((t0.ptp : Int) + c).toNat ∧ t.supEvents = s.supEvents ++ [SupEvent.tickStep c.natAbs]) ∧
    (t0.stepAt = none →
      (t0.tstart.toNat + t0.next * t0.tickp.toNat ≤ t0.ptp → t0.xin = [] → ∃ t, exec .tickBoundary s = .next t ∧
        t.time.tick = BitVec.ofNat 64 t0.next ∧ t.time.started = true ∧ (0, Instr.tickBoundary) ∈ t.agenda) ∧
      (t0.ptp < t0.tstart.toNat + t0.next * t0.tickp.toNat → ∃ t, exec .tickBoundary s = .next t ∧ t.time.tick = t0.tick ∧
        t.time.started = t0.started ∧ (0, Instr.tickBoundary) ∈ t.agenda)) ∧
    (t0.stepAt ≠ none → exec .tickBoundary s = .next s) ∧
    (exec (.exchangeFrameRx p (.items t0.xetype.toNat l)) s = .next { s with time := { t0 with xin := t0.xin ++ l } }) ∧
    (exec (.exchangeFrameRx p (.endOfTick t0.xetype.toNat n)) s =
      .next { s with time := { t0 with ended := t0.ended.set p (max t0.ended[p] (n + 1)) } }) ∧
    (e ≠ t0.xetype.toNat → e ≠ 0x88F7 → exec (.exchangeFrameRx p (.items e l)) s =
      .next { s with time := { t0 with discards := t0.discards + 1 } }) ∧
    (p.val = s.cur % 8 → s.boot.ready1.getLsbD (34 + p.val) = true → ∃ t, exec .exchangeLinkLoss s = .next t ∧
      t.time.hold = true ∧ t.boot.ready1.getLsbD (34 + p.val) = !s.bringDone ∧
      ∀ k x, t.launch? k = some x → x.nchip ≤ 1)

/-! ### Boot, launches, messages -/

/-- R13, R21 to R25 and the reset columns: package reset leaves DTIME 0, no context, no connection, no function ready,
and memory with nothing listed, and boots from the flash: with no first-stage image into recovery mode. A function
that is up sets its bit, one that is lost clears it and ends the launches that use it. The model's readings: logs 1,
2, 28 and 29. -/
def Obligations.ResetAndFunctions : Prop :=
  ∀ (s : State) (r : Bool) (b : Fin 64),
    let reg := fun (t : State) => if r then t.boot.ready1 else t.boot.ready0
    (State.reset.memWf = true ∧ State.reset.time.dtime = 0 ∧ State.reset.boot.ready0 = 0 ∧ State.reset.boot.ready1 = 0 ∧
      State.reset.boot.meas = Vector.replicate 8 0 ∧ State.reset.time.tickp = 2048 ∧ State.reset.time.xetype = 0x88B5 ∧
      State.reset.power.plimit = 2400 ∧ State.reset.power.droopth = 660 ∧ State.reset.ctxs = [] ∧ State.reset.conns = []) ∧
    (∃ t, exec .packageReset s = .next t ∧ t.time.dtime = 0 ∧ t.ctxs = [] ∧ t.conns = [] ∧ t.boot.ready0 = 0 ∧
      t.boot.ready1 = 0 ∧ t.strands = [] ∧ t.cores = [] ∧ t.ws = [] ∧ t.lds = [] ∧ t.opmem = [] ∧
      (∀ d, (t.die d).view.cells = []) ∧ t.boot.flash = s.boot.flash ∧
      (s.boot.flash.filter (fun (f : FwImage) => f.cls == 0) = [] → t.boot.failed = 1)) ∧
    (s.mayReady r b.val = true → ∃ t, exec (.functionReady r b) s = .next t ∧ (reg t).getLsbD b.val = true ∧
      ∀ i, i ≠ b.val → (reg t).getLsbD i = (reg s).getLsbD i) ∧
    (s.mayReady r b.val = false → exec (.functionReady r b) s = .next s) ∧
    ((reg s).getLsbD b.val = true → (r = false ∨ b.val < 43) → s.bringDone = true → ∃ t, exec (.funcLost r b) s = .next t ∧
      (reg t).getLsbD b.val = false ∧ (∀ i, i ≠ b.val → (reg t).getLsbD i = (reg s).getLsbD i) ∧
      ∀ k x l, s.ctx? k = some x → x.launch = some l → s.uses k x l r b.val = true → t.launch? k = none)

/-- R22, R43 to R46, R49 to R51, R57, R87 and R94: the next record of a queue becomes the active launch, or completes
BADREC, also while global memory may not be written (log 43); a wake message starts self-descent on a logical core; a
free strand takes a record and starts it with the registers of R99; the legs of a relay start together; a launch with
nothing left ends DONE with its completion record. Where what a start reads has an uncorrectable error (R135) nothing is
said. That the legs take the lowest free strands in leg order is the model's choice, log 41. The model's readings: logs
15, 17, 19, 30, 43 and 44 (a root record without SD where the launch has one logical core). -/
def Obligations.LaunchLife : Prop :=
  ∀ (s : State) (x : Ctx) (l : Launch),
    (s.ctx? s.cur = some x → x.launch = none → x.head ≠ x.tail → x.evicts = [] → x.evReply = none → s.backlog = [] →
      let b := s.queueHead s.cur x
      let conn := x.ringConn.head?.getD 0
      let lva := leAt b 0x60 8
      let table : Word := BitVec.ofNat 64 (if lva = 0 then x.area + remapOff else lva)
      (s.hbmReady = true → s.parseLaunch s.cur b conn = some l → s.startRoom x l = true → s.ecc = [] →
        (List.range 6).any (fun a => boxClass l.root a != 0 && boxExt l.root a == 0) = false →
        ∃ t y, exec .launchStart s = .next t ∧ t.ctx? s.cur = some y ∧
          y.launch = some { l with wake := wakeBytes s.cur (x.number + 1) (x.area + x.off[0] + 256 * (x.head % 64)) table } ∧
          y.number = x.number + 1 ∧ y.head = (x.head + 1) % 2 ^ 32 ∧
          ∀ r, r < 64 → l.remap.any (fun c => rowOf c == r) = true → (16 * r, Instr.wakeMessage s.cur) ∈ t.agenda) ∧
      (s.hbmReady = false ∨ s.parseLaunch s.cur b conn = none → ∃ t y, exec .launchStart s = .next t ∧ t.ctx? s.cur = some y ∧ y.launch = none ∧
        y.number = x.number ∧ y.head = (x.head + 1) % 2 ^ 32 ∧ ∃ rest, t.outbox = s.outbox ++
          HostMsg.write (BitVec.ofNat 64 (leAt b 0x88 8)) (BitVec.ofNat 32 (leAt b 0x90 4))
            (cplBytes (BitVec.ofNat 64 (leAt b 8 8)) 0 3 0 s.now s.now 0 0 0 x.trapHead) :: rest)) ∧
    (s.ctx? s.cur = some x → x.launch = some l → s.launchDone s.cur l = true → ∃ t, exec .launchEnd s = .next t ∧
      t.launch? s.cur = none ∧ t.outbox = s.outbox ++ HostMsg.write l.cplva l.cplrkey (cplBytes l.ltag x.number 0 l.flags.toNat
        l.start s.now l.tasks l.traps l.lastTrap x.trapHead) :: (if l.csend && s.connLive l.conn then [HostMsg.sendImm l.conn l.imm] else [])) ∧
    (∀ c k, s.ctx? c = some x → x.launch = some l → (s.hostedBy s.cur).filter (fun j => lcCtx j == c && !(s.lc j).awake) = [k] →
      (s.lc k).hw = [] → s.hdrHit c l.entrypc = false → ∃ t r, exec (.wakeMessage c) s = .next t ∧ (t.lc k).awake = true ∧ (t.lc k).hw = [⟨r, none⟩] ∧
        r.box = l.root ∧ r.pc = l.entrypc ∧ r.kind = .rule ∧ r.jref = 0 ∧ r.fitSd = decide (0 < l.d) ∧
        (colOf s.cur < 15 → (s.cur + 1, Instr.wakeMessage c) ∈ t.agenda)) ∧
    (∀ k r, isMgmt (coreOf s.cur) = false → (s.die (dieF (coreOf s.cur))).power = true → s.st.halted = false →
      s.st.phase = .free → s.hostedBy (coreOf s.cur) = [k] → (s.lc k).relay = none → s.workOf k = some .deque →
      (s.lc k).hw.head? = some ⟨r, none⟩ → r.kind = .rule → r.hdrOk = true → r.relay = 0 → r.foot = 0 → r.req = false →
      s.launch? (lcCtx k) = some l → ∃ t tk, exec .strandDispatch s = .next t ∧ t.st.phase = .running ∧
        t.st.pc = r.pc.setWidth 64 ∧ t.st.task = some tk ∧ tk.tr = r ∧ tk.lc = k ∧ t.rB 0 = r.box ∧
        t.rS 1 = r.args[0] ∧ t.rS 2 = r.args[1] ∧ t.rS 3 = r.args[2] ∧ t.rS 4 = r.args[3] ∧ t.rS 5 = 0 ∧
        t.st.vshape = 0x2004 ∧ t.st.fpcr = 0 ∧ t.st.fpsr = 0 ∧ t.st.depth = 0) ∧
    (∀ i legs, (s.lc s.cur).relay = some i → s.launch? (lcCtx s.cur) = some l → legs = l.legsOf i.tr → legs ≠ [] →
      let core := s.host (lcCtx s.cur) (lcLocal s.cur)
      let free := s.freeStrands core
      legs.length ≤ free.length → (s.die (dieF core)).power = true → i.tr.kind = .rule → i.tr.foot = 0 →
      ∃ t, exec .relayStart s = .next t ∧ (t.lc s.cur).relay = (s.lc s.cur).relays.head?.map (·.1) ∧ ∀ j, j < legs.length →
        (t.strand (nth free j 0)).phase = .running ∧ (t.strand (nth free j 0)).pc = (nth legs j 0).setWidth 64 ∧
        ((t.strand (nth free j 0)).task.map (fun (k : Task) => (k.leg, k.legs))) = some (j, free.take legs.length))

/-- R79 to R81, R119, R157, R170, R174 and R175: the one released message of a core is offered to the core of its
target and keeps its buffer entry until it is accepted, or leaves for the exchange when its target is on another chip;
an accepted one enters its handler queue and frees the entry; a full queue refuses it, and it is offered again no
sooner than 64 cycles later; an entry of a mailbox enters its queue. The model's readings: log 18. -/
def Obligations.Messages : Prop :=
  ∀ (s : State) (vn : Bool) (m : SendItem) (k : Nat) (q : QMsg) (r : List QMsg),
    let i : Fin 2 := if vn then 1 else 0
    let dest := s.host m.msg.ctx.toNat (m.msg.dest.toNat % 1024)
    let offered := fun (o : Host.Outcome State Fault Refusal) => ∃ t, o = .next t ∧ t.st.send[i] = [{ m with flight := true }] ∧
      (t.core dest).inbound = (s.core dest).inbound ++ [(s.cur, m.msg)] ∧ (dest, Instr.messageArrival) ∈ t.agenda
    let alone := s.st.send[i] = [m] ∧ m.released = true ∧ m.flight = false ∧ m.msg.vn = vn ∧
      ∀ j v, j < 4 → (4 * coreOf s.cur + j ≠ s.cur ∨ v ≠ vn) → (s.strand (4 * coreOf s.cur + j)).headMsg v = none
    (alone → m.xc = false → m.notBefore ≤ s.cyc (coreOf s.cur) →
      offered (exec (.messageInject vn) s) ∧ offered (exec (.messageReoffer vn) s)) ∧
    (alone → m.xc = true → m.notBefore ≤ s.cyc (coreOf s.cur) → ∃ t e, exec (.messageInject vn) s = .next t ∧
      t.st.send[i] = [] ∧ t.time.xout = s.time.xout ++ [e] ∧ e.tick = m.tick ∧ e.xseq = m.xseq ∧
      e.chip = m.msg.dest.toNat / 1024 ∧ e.ctx = m.msg.ctx.toNat) ∧
    (alone → s.cyc (coreOf s.cur) < m.notBefore → s.agenda.any (fun e => e.1 == s.cur && e.2 == .messageReoffer vn) = false →
      exec (.messageReoffer vn) s = .next (s.post s.cur (.messageReoffer vn))) ∧
    ((s.core s.cur).inbound = [(k, m.msg)] → k ≠ farSender → dest = s.cur → m.msg.vn = vn → m.flight = true →
      (s.strand k).send[i] = [m] →
      (s.route m.msg = .queue → ∃ t, exec .messageArrival s = .next t ∧ (t.core s.cur).inbound = [] ∧
        (t.core s.cur).q[i] = (s.core s.cur).q[i] ++ [QMsg.mk m.msg none] ∧ (t.strand k).send[i] = []) ∧
      (s.route m.msg = .refuse 64 → ∃ t, exec .messageArrival s = .next t ∧ (t.core s.cur).inbound = [] ∧
        (t.core s.cur).q[i] = (s.core s.cur).q[i] ∧ (t.strand k).send[i] =
          [{ m with flight := false, notBefore := s.cyc (coreOf k) + 64 }] ∧ (k, Instr.messageReoffer vn) ∈ t.agenda)) ∧
    ((s.lc s.cur).evicted = false → (s.lc s.cur).mailbox = q :: r → (∀ y ∈ q :: r, y.held = none) → q.msg.vn = vn →
      let core := s.host (lcCtx s.cur) (lcLocal s.cur)
      (s.core core).q[i].length < 32 → ∃ t, exec .mailboxDrain s = .next t ∧ (t.lc s.cur).mailbox = r ∧
        (t.core core).q[i] = (s.core core).q[i] ++ [q])

/-! ### Waits, holds, eviction, the splicer, and memory's own steps -/

/-- R89, R95, R166, R171 and R327: a wait whose condition holds ends with OK, also at its deadline; one that is unmet
ends with TIMEOUT at its deadline, FENCE with PARTIAL, and with EVICT at the eviction bound: EWAIT with bit 8 set, as
R171 says, and MWAIT, LDW, WAITC, VWAITC, FENCE and FENCESC with the detail that the instruction's own rule states,
which is the model's choice between the two (log 42). A pool entry whose counter has come is ready, one whose time has
passed is given EXP, and neither while its logical core is evicted; a test reads no bank that refreshes (R134); a task
that has used its BUDGET takes WATCHDOG. The model's readings: logs 9, 23, 42 and 48 (the detail of a fence's OK). -/
def Obligations.WaitsEnd : Prop :=
  ∀ (s : State) (g : Guard) (d a b l : SReg) (v : VReg) (y : Bool) (n24 : BitVec 24) (m1 m2 : BitVec 8) (w : Wait) (o : MxOp),
    let gives := fun (i : Instr) (v : Word) => ∃ t, exec i s = .next t ∧ t.st.pc = s.st.pc + 8 ∧ (d ≠ 0 → t.rS d = v) ∧
      t.st.wait = none
    let live := fun (p : MxOp) => p.of s.cur && !p.cancel
    let pend := s.pendOps s.cur % 256 * 2 ^ 40
    let ends := fun (late detail gone : Nat) =>
      (w.limit ≤ s.now → gives .deadlineExpiry (statusWord late detail)) ∧
      (∀ z, s.evBound s.cur = some z → z ≤ s.now → gives .evictionBound (statusWord 2 gone))
    let unmet := fun (late detail : Nat) => ends late detail detail
    let met := fun (detail : Nat) => gives .waitSatisfied (statusWord 0 detail) ∧
      (w.limit ≤ s.now → gives .deadlineExpiry (statusWord 0 detail))
    let x := s.who
    let counts := fun (eas : List Word) (tgt : Word) (detail : Nat) =>
      (∀ e ∈ eas, s.access x kLoad e 8 8 = .ok () ∧ s.eccHit x e 8 = false) → s.stalls (eas.flatMap (fun e => x.lines e 8)) = none →
      ((∀ e ∈ eas, tgt.toNat ≤ s.ldNat x e 8) → met detail) ∧
      ((∃ e ∈ eas, s.ldNat x e 8 < tgt.toNat) → unmet 1 detail)
    (s.st.wait = some w → w.instr = .mwait g d l → s.st.mxRep = [] →
      (s.ops.find? live = none → met 0) ∧ (s.ops.find? live = some o → o.stop = none → unmet 1 pend) ∧
      (s.now < w.limit → exec .deadlineExpiry s = .next s)) ∧
    (∀ c, s.st.wait = some w → w.instr = .ewait g d a l → s.byTag (s.rS a) = some c → c.st ≠ 2 → ends 1 0 1) ∧
    (s.st.wait = some w → w.instr = .ldw g d a b l n24 → let ea := s.rS a + n24.signExtend 64
      s.access x kLdw ea 8 8 = .ok () → s.eccHit x ea 8 = false → s.stalls (x.lines ea 8) = none →
      (s.ldwReady x ea = true → met 0) ∧ (s.ldwReady x ea = false → unmet 1 0)) ∧
    (s.st.wait = some w → w.instr = .waitc g y d a b l → counts [s.rS a] (s.rS b) (s.ldNat x (s.rS a) 8 % 2 ^ 56)) ∧
    (∀ e, s.st.wait = some w → w.instr = .vwaitc g y d a v l n24 → s.tile 8 = .ok e →
      let eas := (List.range e).map (fun j => s.rS a + BitVec.ofNat 64 (velem (s.rV v) 8 j))
      counts eas (n24.setWidth 64) (eas.countP (fun ea => decide (s.ldNat x ea 8 < n24.toNat)))) ∧
    (s.st.wait = some w → w.instr = .fence g d l m1 m2 → let k := s.drained s.cur m1.toNat
      (k = m1.toNat → met 0) ∧ (m1 ≠ 0 → m2 ≠ 0 → k ≠ m1.toNat → unmet 6 k)) ∧
    (s.st.wait = some w → w.instr = .fencesc g d l → s.drainedAll s.cur = 255 → s.settled (dieF (coreOf s.cur)) = true →
      met 255) ∧
    (s.st.wait = some w → w.instr = .fencesc g d l → s.drainedAll s.cur ≠ 255 → unmet 1 (s.drainedAll s.cur)) ∧
    ((s.lc s.cur).evicted = true → ∀ i, exec (.poolRetest i) s = .next s ∧ exec (.poolExpiry i) s = .next s) ∧
    (∀ i p, (s.lc s.cur).pool[i]? = some p → p.satisfied = false → p.tr.exp = false → (s.lc s.cur).evicted = false →
      s.eccHit (s.poolWho s.cur p.tr) p.tr.wctr 8 = false →
      s.unitStalls ((s.poolWho s.cur p.tr).lines p.tr.wctr 8) (p.stall, 0) = none → (s.poolMet s.cur p.tr = true → ∃ t, exec (.poolRetest i) s = .next t ∧
        (t.lc s.cur).pool[i]? = some { p with satisfied := true }) ∧
      (s.poolMet s.cur p.tr = false → ∃ t, exec (.poolRetest i) s = .next t ∧ (t.lc s.cur).pool = (s.lc s.cur).pool) ∧
      (p.expiry ≤ s.now → ∃ t, exec (.poolExpiry i) s = .next t ∧
        (t.lc s.cur).pool[i]? = some { p with tr := { p.tr with exp := true } })) ∧
    (s.watchdogDue s.cur = true → s.st.wait = none →
      exec .watchdog s = .next (s.takeTrap ⟨0x13, s.st.budget.toNat, 0, 0⟩))

/-- R67, R134, R137, R138, R152, R164 and R170: a hold of XLATE is told to the host once; one of PRIV or DEADLINE_ESC
sets DLCOUNT of its strand to 0 and goes where the code's routing byte says, SUP read as KILL; any other SUP hold ends
the launch, when no debugger is attached; an eviction goes from step to step as its conditions hold; an event of a
record that is OPEN counts its points, one of a record that is not has no effect, on the splicer's die, which has
first applied what came before it (R156); a die applies a write that its clock admits; a walk is cached, and one that
reads a line with an uncorrectable error ends the launch, as the splicer's read of such a record does (R135); the save
of an eviction waits while global memory may not be written (R22); a stall ends. The model's readings: logs 20, 21,
30, 32 and 43. -/
def Obligations.SupervisorAndUnits : Prop :=
  ∀ (s : State) (c i : Nat) (x : Ctx) (h : Hold) (e : Evict) (va : Word),
    let sd : Fin 4 := Fin.ofNat 4 (s.cur / 16)
    let u := s.drain sd
    (s.ctx? s.cur = some x → x.holds.find? (fun y => y.ix == i) = some h → h.ending = none →
      (h.code = 0x08 → h.raised = false → s.ctxWalk s.cur (h.va.toNat % 2 ^ 48) = none → ∃ t, exec (.supHoldService i) s = .next t ∧
        (t.ctx? s.cur).map (·.holds) = some (x.holds.map (fun y => if y.ix = i then { y with raised := true } else y))) ∧
      (h.code = 0x02 ∨ h.code = 0x15 →
        let v := s.routeOf s.cur h.code
        let user := v.1 = 0 ∧ v.2 ≠ 0 ∧ (s.lc h.lc).svc.length < 8
        ∃ t, exec (.supHoldService i) s = .next t ∧ (t.strand h.strand).dlcount = 0 ∧
          (user → ∃ y : SvcItem, (t.lc h.lc).svc = (s.lc h.lc).svc ++ [y] ∧ y.pc = BitVec.ofNat 32 v.2 ∧ y.trapIx = i ∧
            t.launch? s.cur = x.launch) ∧
          (¬ user → t.launch? s.cur = none)) ∧
      (h.code ≠ 0x08 → h.code ≠ 0x02 → h.code ≠ 0x15 → x.debugger = false → x.launch.isSome = true →
        ∃ t, exec (.supHoldService i) s = .next t ∧ t.launch? s.cur = none)) ∧
    (s.ctx? c = some x → x.evicts.find s.cur = some e →
      let at_ := fun (n : Nat) => ∃ t y, exec (.evictStepEnd c) s = .next t ∧ t.ctx? c = some y ∧
        y.evicts.find s.cur = some { e with step := n }
      (e.step = 1 → at_ 2) ∧ (e.step = 2 → at_ (if s.rowQuiet c s.cur then 3 else 2)) ∧
      (e.step = 3 → at_ (if s.rowDrained c s.cur then 4 else 3)) ∧ (e.step = 4 → at_ (if s.rowLanded c s.cur then 5 else 4)) ∧
      (e.step = 3 → s.rowDrained c s.cur = true → ∃ t, exec (.evictStepEnd c) s = .next t ∧
        ∀ k ∈ s.lcsOn c s.cur, (t.lc k).draining = true) ∧
      (e.step = 5 → s.hbmReady = false → at_ 5) ∧
      (e.step = 5 → s.hbmReady = true → ∃ t y, exec (.evictStepEnd c) s = .next t ∧ t.ctx? c = some y ∧
        y.evicts.find s.cur = some { e with step := 6 } ∧ y.rowPart.find s.cur = none)) ∧
    (∀ j (box : BoxImg) (r : List SplEv), (s.row s.cur).spl = .cover c j box :: r → u.splEarly sd c j = false →
      let at_ := j / 64 * 64
      let jn := u.join sd c at_
      let jbox := boxOfBytes ((u.dieRead sd c jn.image 64).getD [])
      let side := if jn.arrival then 0 else j % 2
      let cov := ((if side = 1 then jn.cov1 else jn.cov0) + boxPoints box) % 2 ^ 64
      (u.dieHit sd c at_ 64 = true → ∃ t, exec .splicerCover s = .next t ∧ t.launch? c = none) ∧
      (jn.st ≠ 1 → u.dieHit sd c at_ 64 = false → ∃ t, exec .splicerCover s = .next t ∧ (t.row s.cur).spl = r ∧ t.dies = u.dies) ∧
      (jn.st = 1 → joinComplete (if side = 1 then { jn with cov1 := cov } else { jn with cov0 := cov }) jbox = false →
        u.dieHit sd c at_ 64 = false →
        u.dieHit sd c jn.image 64 = false → ∃ t, exec .splicerCover s = .next t ∧ (t.row s.cur).spl = r ∧
          t.dies = (u.dieWrite sd c (at_ + 24 + 8 * side) (bytesOfNat 8 cov)).dies)) ∧
    (∀ j (tile : List Byte) (box : BoxImg) (m : Nat) (r : List SplEv), (s.row s.cur).spl = .deposit c j tile box m :: r →
      u.splEarly sd c j = false →
      let at_ := j / 64 * 64
      let jn := u.join sd c at_
      let jbox := boxOfBytes ((u.dieRead sd c jn.image 64).getD [])
      let side := if jn.arrival then 0 else j % 2
      let cov := ((if side = 1 then jn.cov1 else jn.cov0) + boxPoints box) % 2 ^ 64
      (u.dieHit sd c at_ 64 = true → ∃ t, exec .splicerDeposit s = .next t ∧ t.launch? c = none) ∧
      (jn.st ≠ 1 → u.dieHit sd c at_ 64 = false → ∃ t, exec .splicerDeposit s = .next t ∧ (t.row s.cur).spl = r ∧ t.dies = u.dies) ∧
      (jn.st = 1 → joinComplete (if side = 1 then { jn with cov1 := cov } else { jn with cov0 := cov }) jbox = false →
        u.dieHit sd c at_ 64 = false →
        u.dieHit sd c jn.image 64 = false → u.sideHit sd c jn jbox side = false → ∃ t, exec .splicerDeposit s = .next t ∧ (t.row s.cur).spl = r ∧
          t.dies = ((u.deposit sd c jn jbox side tile box).dieWrite sd c (at_ + 24 + 8 * side) (bytesOfNat 8 cov)).dies)) ∧
    (∀ (d : Fin 4) (w : PWrite), d.val = s.cur % 4 → (s.die d).view.pend[i]? = some w →
      (s.die d).view.admits i = true → ∃ t, exec (.writeApply i) s = .next t ∧
        (t.die d).view = { (s.die d).view.receive w with pend := dropNth (s.die d).view.pend i } ∧
        ∀ f, f ≠ d → t.die f = s.die f) ∧
    (c ≠ 0 → tlbFind (s.die (dieF s.cur)).tlb c va.toNat = none →
      let base := l1base (s.regs s.cur c).ttbase
      (s.walkBad (dieF s.cur) base va.toNat = true → ∃ t, exec (.tableWalk c va) s = .next t ∧ t.launch? c = none) ∧
      (∀ y, s.walkBad (dieF s.cur) base va.toNat = false → s.walk (dieF s.cur) base va.toNat = .ok y →
        ∃ t, exec (.tableWalk c va) s = .next t ∧
        ⟨c, va.toNat - y.off, y.page, y.size, y.write, y.replica⟩ ∈ (t.core s.cur).tlb ∧
        ⟨c, va.toNat - y.off, y.page, y.size, y.write, y.replica⟩ ∈ (t.die (dieF s.cur)).tlb)) ∧
    (∀ n j, s.st.stall = some (n, j) → n ≤ s.now → exec .refreshStallEnd s = .next (s.setStrand s.cur
      { s.st with stall := some (0, j), readyAt := s.cyc (coreOf s.cur) }))

/-! ### Guards, decoding and steps -/

/-- R201 with the word checks of R219: an instruction whose guard is false does nothing but move the pc past its
words. A supervisor opcode or register, and a register that the core does not have, is refused before the guard is
looked at. -/
def Obligations.GuardFalse : Prop :=
  ∀ (s : State) (i : Instr) (w : Word), encodeWord i = some w → wOp w ≠ 0 → s.guard (wG w) = false →
    (privWord w = true → s.st.sup = true) →
    (∀ g a n, i = .movc g a n ∨ i = .movcw g a n → 0xA00 ≤ n.toNat → isMgmt (coreOf s.cur) = true) →
    exec i s = .next (s.goes i.length id)

/-- R200 to R217: the words that the spec writes out for each field layout, and the instructions that they stand for.
A word of an unassigned OP, and one with a bit set in a field that its opcode does not use, stand for none (R219). -/
def Obligations.DecodeWords : Prop :=
  let reads := fun (w : Word) (i : Instr) => decodeWord w 0 = .ok i
  let g : Guard := ⟨0, false⟩
  let k : Msk := ⟨0, false⟩
  reads 0x0240000000000002 (.skip ⟨2, false⟩ 2) ∧
  reads 0x0300000000000040 (.call g 0x40) ∧
  reads 0x0701400000000020 (.movc g 5 0x020) ∧
  reads 0x1201400000020000 (.boxget g 5 0 .ext 0) ∧
  reads 0x1D425904C2000075 (.spawn ⟨2, false⟩ .handler 9 25 1 12 0x75) ∧
  reads 0x22024A2CC1000000 (.waitc g true 9 10 11 12) ∧
  reads 0x3500C41461C00000 (.sendb g 3 4 5 6 7 0) ∧
  reads 0x5901051870000000 (.bfxs g 4 5 6 7) ∧
  reads 0x6700451000000001 (.cmpi g .gt 1 5 1) ∧
  reads 0x7300420C40600000 (.ffma g .f64 .rup 1 2 3 4) ∧
  reads 0x8071C53000000040 (.ld ⟨3, true⟩ 7 5 (.bo .si32 0x40) .plain) ∧
  reads 0x8400CB0400000003 (.ldvx g .f64 k 3 11 1 3) ∧
  reads 0x9000C11401090100 (.vadd g .f32 .rne ⟨2, true⟩ 3 1 (.s 5)) ∧
  reads 0xA701C21801040000 (.redt g .f32 .rne 1 7 2 6) ∧
  reads 0xD5014824A50E0000 (.mma g ⟨.bf16, true, none⟩ 5 8 9 10 20) ∧
  reads 0xDA00110000040000 (.mout g .f32 .rne false 0 17 0) ∧
  reads 0xE602CA5091C00000 (.nlpairs g 11 10 20 9 7) ∧
  decodeWord 0xF001800000000000 0x123456789ABCDEF0 = .ok (.movx g 6 0x123456789ABCDEF0) ∧
  decodeWord 0xF100000000000000 0 = .error .unassigned ∧
  decodeWord 0x0100000000000001 0 = .error .badField

/-- R207 to R217: the decoder reads every well-formed instruction back from its word, with every field at every value. -/
def Obligations.RoundTrip : Prop :=
  ∀ (i : Instr) (w w2 : Word), i.wf = true → encodeWord i = some w → (∀ g d v, i = .movx g d v → w2 = v) →
    decodeWord w w2 = .ok i

/-- R93, R98, R200, R218: at the turn of a core that issues from strand k, with nothing pending at the instruction
boundary or one that goes on after a stall, and no line of the program in the instruction cache, the bytes at the pc
are read, and a step is exec of the instruction that they decode to, after which the clocks move on. A turn of the
device is exec of its oldest event that is due. A step stops only when the module has no power (the turns are the
model's choice, log 11). -/
def Obligations.StepRunsDecoded : Prop :=
  ∀ (s : State) (c k : Nat) (o : List Turn) (i : Instr),
    let p := [4 * c, 4 * c + 1, 4 * c + 2, 4 * c + 3].foldl (fun (s : State) k => s.pollStrand k)
      { s with order := o, lastCore := c }
    let q := { p with cur := k }
    let u := q.mod (fun t => { t with readyAt := q.cyc (coreOf k), issuedAt := q.steps })
    let ea := u.who.code u.st.pc
    let w := wordOfBytes (u.ldBytes u.who ea 8)
    let w2 := wordOfBytes (u.ldBytes u.who (ea + 8) 8)
    let runs := ∃ t, step s = ticked (exec i t) ∧ t.cur = k ∧ t.st = { u.st with iword := w } ∧ t.ctxs = u.ctxs ∧
      u.sameMemory t
    (s.power.off = true → step s = .fault .moduleOff) ∧
    (s.power.off = false →
      (∀ j rest, s.order = .event :: o → s.agenda = (j, i) :: rest →
        step s = ticked (exec i { s with order := o, cur := j, agenda := rest })) ∧
      (s.order = .core c :: o → p.pickStrand c = some k → u.st.stall.isSome = true ∨ (u.st.phase ≠ .stopping ∧
          u.st.haltReq = false ∧ (u.st.dlePend = false ∨ u.st.task = none) ∧ u.watchdogDue k = false ∧ u.st.breakAt = none) →
        u.st.pc.toNat + 8 < 2 ^ 32 → u.fetchCheck u.who ea = .ok () → u.fetchHit u.st.pc = false →
        (u.core (coreOf k)).icache = [] →
        (hasSecond w = false → decodeWord w 0 = .ok i → runs) ∧
        (hasSecond w = true → u.fetchHit (u.st.pc + 8) = false → u.fetchCheck u.who (ea + 8) = .ok () → decodeWord w w2 = .ok i → runs)))

/-- No step breaks the canonical form of the byte stores: whatever runs, equal memories stay equal data.
The model's readings: log 2. -/
def Obligations.StepKeepsMemory : Prop :=
  ∀ s t : State, s.memWf = true → step s = .next t → t.memWf = true
end

