-- ==== Sys2Proof/Laws/Exec.lean ====
section
/-! SUPPORT. One equation for each constructor of `Instr`: `exec` is the meaning that its arm names;
and what the reads of an instruction at issue do when nothing meets them. -/
namespace Sys2Proof.Machine

@[simp] theorem exec_illegal {w} (s : State) : exec (.illegal w) s = execIllegal w s := rfl
@[simp] theorem exec_nop {g} (s : State) : exec (.nop g) s = execNop g s := rfl
@[simp] theorem exec_skip {g} {n} (s : State) : exec (.skip g n) s = execSkip g n s := rfl
@[simp] theorem exec_call {g} {i} (s : State) : exec (.call g i) s = execCall g i s := rfl
@[simp] theorem exec_ret {g} (s : State) : exec (.ret g) s = execRet g s := rfl
@[simp] theorem exec_trap {g} {i} (s : State) : exec (.trap g i) s = execTrap g i s := rfl
@[simp] theorem exec_brk {g} (s : State) : exec (.brk g) s = execBrk g s := rfl
@[simp] theorem exec_movc {g} {d} {n} (s : State) : exec (.movc g d n) s = execMovc g d n s := rfl
@[simp] theorem exec_movcw {g} {a} {n} (s : State) : exec (.movcw g a n) s = execMovcw g a n s := rfl
@[simp] theorem exec_tresume {g} {d} {a} {c} (s : State) : exec (.tresume g d a c) s = execTresume g d a c s := rfl
@[simp] theorem exec_tdrop {g} {d} {a} {c} (s : State) : exec (.tdrop g d a c) s = execTdrop g d a c s := rfl
@[simp] theorem exec_tlbinv {g} {sc} {a} {b} (s : State) : exec (.tlbinv g sc a b) s = execTlbinv g sc a b s := rfl
@[simp] theorem exec_icinv {g} (s : State) : exec (.icinv g) s = execIcinv g s := rfl
@[simp] theorem exec_halt {g} {q} {d} {a} {l} (s : State) : exec (.halt g q d a l) s = execHalt g q d a l s := rfl
@[simp] theorem exec_boxld {g} {d} {a} {m} (s : State) : exec (.boxld g d a m) s = execBoxld g d a m s := rfl
@[simp] theorem exec_boxst {g} {d} {a} {m} (s : State) : exec (.boxst g d a m) s = execBoxst g d a m s := rfl
@[simp] theorem exec_boxget {g} {d} {a} {sel} {x} (s : State) : exec (.boxget g d a sel x) s = execBoxget g d a sel x s := rfl
@[simp] theorem exec_boxset {g} {d} {a} {b} {hi} {x} (s : State) : exec (.boxset g d a b hi x) s = execBoxset g d a b hi x s := rfl
@[simp] theorem exec_boxkey {g} {d} {a} {sel} (s : State) : exec (.boxkey g d a sel) s = execBoxkey g d a sel s := rfl
@[simp] theorem exec_fits {g} {d} {a} {x} (s : State) : exec (.fits g d a x) s = execFits g d a x s := rfl
@[simp] theorem exec_split {g} {x} (s : State) : exec (.split g x) s = execSplit g x s := rfl
@[simp] theorem exec_splitk {g} {pc} (s : State) : exec (.splitk g pc) s = execSplitk g pc s := rfl
@[simp] theorem exec_splitf {g} {mask} {pc} (s : State) : exec (.splitf g mask pc) s = execSplitf g mask pc s := rfl
@[simp] theorem exec_prune {g} (s : State) : exec (.prune g) s = execPrune g s := rfl
@[simp] theorem exec_leaf {g} {pc} (s : State) : exec (.leaf g pc) s = execLeaf g pc s := rfl
@[simp] theorem exec_done {g} (s : State) : exec (.done g) s = execDone g s := rfl
@[simp] theorem exec_requeue {g} (s : State) : exec (.requeue g) s = execRequeue g s := rfl
@[simp] theorem exec_spawn {g} {kd} {d} {a} {b} {l} {pc} (s : State) : exec (.spawn g kd d a b l pc) s = execSpawn g kd d a b l pc s := rfl
@[simp] theorem exec_send {g} {vn} {a} {pc} (s : State) : exec (.send g vn a pc) s = execSend g vn a pc s := rfl
@[simp] theorem exec_deposit {g} {t} {a} (s : State) : exec (.deposit g t a) s = execDeposit g t a s := rfl
@[simp] theorem exec_cinc {g} {a} (s : State) : exec (.cinc g a) s = execCinc g a s := rfl
@[simp] theorem exec_cadd {g} {a} {b} (s : State) : exec (.cadd g a b) s = execCadd g a b s := rfl
@[simp] theorem exec_waitc {g} {y} {d} {a} {b} {l} (s : State) : exec (.waitc g y d a b l) s = execWaitc g y d a b l s := rfl
@[simp] theorem exec_vwaitc {g} {y} {d} {a} {b} {l} {i} (s : State) : exec (.vwaitc g y d a b l i) s = execVwaitc g y d a b l i s := rfl
@[simp] theorem exec_bar {g} {sc} {d} {a} {b} {l} (s : State) : exec (.bar g sc d a b l) s = execBar g sc d a b l s := rfl
@[simp] theorem exec_bara {g} {sc} {d} {a} {b} (s : State) : exec (.bara g sc d a b) s = execBara g sc d a b s := rfl
@[simp] theorem exec_barw {g} {d} {a} {l} (s : State) : exec (.barw g d a l) s = execBarw g d a l s := rfl
@[simp] theorem exec_fence {g} {d} {l} {before} {after} (s : State) : exec (.fence g d l before after) s = execFence g d l before after s := rfl
@[simp] theorem exec_fencesc {g} {d} {l} (s : State) : exec (.fencesc g d l) s = execFencesc g d l s := rfl
@[simp] theorem exec_amo {g} {t} {op} {d} {a} {b} {c} (s : State) : exec (.amo g t op d a b c) s = execAmo g t op d a b c s := rfl
@[simp] theorem exec_bdecl {g} {rem} {d} {a} {x} (s : State) : exec (.bdecl g rem d a x) s = execBdecl g rem d a x s := rfl
@[simp] theorem exec_waitb {g} {prod} {d} {a} {b} {l} (s : State) : exec (.waitb g prod d a b l) s = execWaitb g prod d a b l s := rfl
@[simp] theorem exec_badv {g} {d} {a} {b} (s : State) : exec (.badv g d a b) s = execBadv g d a b s := rfl
@[simp] theorem exec_brel {g} {d} {a} {b} (s : State) : exec (.brel g d a b) s = execBrel g d a b s := rfl
@[simp] theorem exec_bstat {g} {d} {a} {b} (s : State) : exec (.bstat g d a b) s = execBstat g d a b s := rfl
@[simp] theorem exec_sendb {g} {d} {a} {b} {c} {l} {len} (s : State) : exec (.sendb g d a b c l len) s = execSendb g d a b c l len s := rfl
@[simp] theorem exec_add {g} {d} {a} {b} (s : State) : exec (.add g d a b) s = execAdd g d a b s := rfl
@[simp] theorem exec_sub {g} {d} {a} {b} (s : State) : exec (.sub g d a b) s = execSub g d a b s := rfl
@[simp] theorem exec_mul {g} {d} {a} {b} (s : State) : exec (.mul g d a b) s = execMul g d a b s := rfl
@[simp] theorem exec_mulh {g} {d} {a} {b} (s : State) : exec (.mulh g d a b) s = execMulh g d a b s := rfl
@[simp] theorem exec_mulhu {g} {d} {a} {b} (s : State) : exec (.mulhu g d a b) s = execMulhu g d a b s := rfl
@[simp] theorem exec_div {g} {d} {a} {b} (s : State) : exec (.div g d a b) s = execDiv g d a b s := rfl
@[simp] theorem exec_divu {g} {d} {a} {b} (s : State) : exec (.divu g d a b) s = execDivu g d a b s := rfl
@[simp] theorem exec_rem {g} {d} {a} {b} (s : State) : exec (.rem g d a b) s = execRem g d a b s := rfl
@[simp] theorem exec_remu {g} {d} {a} {b} (s : State) : exec (.remu g d a b) s = execRemu g d a b s := rfl
@[simp] theorem exec_and {g} {d} {a} {b} (s : State) : exec (.and g d a b) s = execAnd g d a b s := rfl
@[simp] theorem exec_or {g} {d} {a} {b} (s : State) : exec (.or g d a b) s = execOr g d a b s := rfl
@[simp] theorem exec_xor {g} {d} {a} {b} (s : State) : exec (.xor g d a b) s = execXor g d a b s := rfl
@[simp] theorem exec_andn {g} {d} {a} {b} (s : State) : exec (.andn g d a b) s = execAndn g d a b s := rfl
@[simp] theorem exec_shl {g} {d} {a} {b} (s : State) : exec (.shl g d a b) s = execShl g d a b s := rfl
@[simp] theorem exec_shr {g} {d} {a} {b} (s : State) : exec (.shr g d a b) s = execShr g d a b s := rfl
@[simp] theorem exec_sar {g} {d} {a} {b} (s : State) : exec (.sar g d a b) s = execSar g d a b s := rfl
@[simp] theorem exec_rot {g} {d} {a} {b} (s : State) : exec (.rot g d a b) s = execRot g d a b s := rfl
@[simp] theorem exec_min {g} {d} {a} {b} (s : State) : exec (.min g d a b) s = execMin g d a b s := rfl
@[simp] theorem exec_max {g} {d} {a} {b} (s : State) : exec (.max g d a b) s = execMax g d a b s := rfl
@[simp] theorem exec_minu {g} {d} {a} {b} (s : State) : exec (.minu g d a b) s = execMinu g d a b s := rfl
@[simp] theorem exec_maxu {g} {d} {a} {b} (s : State) : exec (.maxu g d a b) s = execMaxu g d a b s := rfl
@[simp] theorem exec_clz {g} {d} {a} (s : State) : exec (.clz g d a) s = execClz g d a s := rfl
@[simp] theorem exec_ctz {g} {d} {a} (s : State) : exec (.ctz g d a) s = execCtz g d a s := rfl
@[simp] theorem exec_popc {g} {d} {a} (s : State) : exec (.popc g d a) s = execPopc g d a s := rfl
@[simp] theorem exec_bfx {g} {d} {a} {b} {c} (s : State) : exec (.bfx g d a b c) s = execBfx g d a b c s := rfl
@[simp] theorem exec_bfxs {g} {d} {a} {b} {c} (s : State) : exec (.bfxs g d a b c) s = execBfxs g d a b c s := rfl
@[simp] theorem exec_bfi {g} {d} {a} {b} {c} (s : State) : exec (.bfi g d a b c) s = execBfi g d a b c s := rfl
@[simp] theorem exec_sel {g} {d} {a} {b} {c} (s : State) : exec (.sel g d a b c) s = execSel g d a b c s := rfl
@[simp] theorem exec_cmp {g} {c} {d} {a} {b} (s : State) : exec (.cmp g c d a b) s = execCmp g c d a b s := rfl
@[simp] theorem exec_addi {g} {d} {a} {i} (s : State) : exec (.addi g d a i) s = execAddi g d a i s := rfl
@[simp] theorem exec_andi {g} {d} {a} {i} (s : State) : exec (.andi g d a i) s = execAndi g d a i s := rfl
@[simp] theorem exec_ori {g} {d} {a} {i} (s : State) : exec (.ori g d a i) s = execOri g d a i s := rfl
@[simp] theorem exec_xori {g} {d} {a} {i} (s : State) : exec (.xori g d a i) s = execXori g d a i s := rfl
@[simp] theorem exec_shli {g} {d} {a} {i} (s : State) : exec (.shli g d a i) s = execShli g d a i s := rfl
@[simp] theorem exec_shri {g} {d} {a} {i} (s : State) : exec (.shri g d a i) s = execShri g d a i s := rfl
@[simp] theorem exec_sari {g} {d} {a} {i} (s : State) : exec (.sari g d a i) s = execSari g d a i s := rfl
@[simp] theorem exec_cmpi {g} {c} {d} {a} {i} (s : State) : exec (.cmpi g c d a i) s = execCmpi g c d a i s := rfl
@[simp] theorem exec_muli {g} {d} {a} {i} (s : State) : exec (.muli g d a i) s = execMuli g d a i s := rfl
@[simp] theorem exec_lea {g} {d} {i} (s : State) : exec (.lea g d i) s = execLea g d i s := rfl
@[simp] theorem exec_movi {g} {d} {i} (s : State) : exec (.movi g d i) s = execMovi g d i s := rfl
@[simp] theorem exec_movhi {g} {d} {i} (s : State) : exec (.movhi g d i) s = execMovhi g d i s := rfl
@[simp] theorem exec_fadd {g} {t} {m} {d} {a} {b} (s : State) : exec (.fadd g t m d a b) s = execFadd g t m d a b s := rfl
@[simp] theorem exec_fsub {g} {t} {m} {d} {a} {b} (s : State) : exec (.fsub g t m d a b) s = execFsub g t m d a b s := rfl
@[simp] theorem exec_fmul {g} {t} {m} {d} {a} {b} (s : State) : exec (.fmul g t m d a b) s = execFmul g t m d a b s := rfl
@[simp] theorem exec_ffma {g} {t} {m} {d} {a} {b} {c} (s : State) : exec (.ffma g t m d a b c) s = execFfma g t m d a b c s := rfl
@[simp] theorem exec_fdiv {g} {t} {m} {d} {a} {b} (s : State) : exec (.fdiv g t m d a b) s = execFdiv g t m d a b s := rfl
@[simp] theorem exec_fsqrt {g} {t} {m} {d} {a} (s : State) : exec (.fsqrt g t m d a) s = execFsqrt g t m d a s := rfl
@[simp] theorem exec_fmin {g} {t} {d} {a} {b} (s : State) : exec (.fmin g t d a b) s = execFmin g t d a b s := rfl
@[simp] theorem exec_fmax {g} {t} {d} {a} {b} (s : State) : exec (.fmax g t d a b) s = execFmax g t d a b s := rfl
@[simp] theorem exec_fcmp {g} {t} {c} {d} {a} {b} (s : State) : exec (.fcmp g t c d a b) s = execFcmp g t c d a b s := rfl
@[simp] theorem exec_fcvt {g} {t} {src} {m} {d} {a} (s : State) : exec (.fcvt g t src m d a) s = execFcvt g t src m d a s := rfl
@[simp] theorem exec_fclass {g} {t} {d} {a} (s : State) : exec (.fclass g t d a) s = execFclass g t d a s := rfl
@[simp] theorem exec_fexp {g} {t} {m} {d} {a} (s : State) : exec (.fexp g t m d a) s = execFexp g t m d a s := rfl
@[simp] theorem exec_flog {g} {t} {m} {d} {a} (s : State) : exec (.flog g t m d a) s = execFlog g t m d a s := rfl
@[simp] theorem exec_ferf {g} {t} {m} {d} {a} (s : State) : exec (.ferf g t m d a) s = execFerf g t m d a s := rfl
@[simp] theorem exec_ferfc {g} {t} {m} {d} {a} (s : State) : exec (.ferfc g t m d a) s = execFerfc g t m d a s := rfl
@[simp] theorem exec_fsgn {g} {t} {op} {d} {a} (s : State) : exec (.fsgn g t op d a) s = execFsgn g t op d a s := rfl
@[simp] theorem exec_ld {g} {d} {a} {m} {o} (s : State) : exec (.ld g d a m o) s = execLd g d a m o s := rfl
@[simp] theorem exec_st {g} {d} {a} {m} {o} (s : State) : exec (.st g d a m o) s = execSt g d a m o s := rfl
@[simp] theorem exec_ldv {g} {d} {a} {m} {o} (s : State) : exec (.ldv g d a m o) s = execLdv g d a m o s := rfl
@[simp] theorem exec_stv {g} {d} {a} {m} {o} (s : State) : exec (.stv g d a m o) s = execStv g d a m o s := rfl
@[simp] theorem exec_ldvx {g} {t} {k} {d} {a} {b} {sh} (s : State) : exec (.ldvx g t k d a b sh) s = execLdvx g t k d a b sh s := rfl
@[simp] theorem exec_stvx {g} {t} {k} {d} {a} {b} {sh} (s : State) : exec (.stvx g t k d a b sh) s = execStvx g t k d a b sh s := rfl
@[simp] theorem exec_ldw {g} {d} {a} {b} {l} {i} (s : State) : exec (.ldw g d a b l i) s = execLdw g d a b l i s := rfl
@[simp] theorem exec_mstore {g} {d} {a} {m} {o} (s : State) : exec (.mstore g d a m o) s = execMstore g d a m o s := rfl
@[simp] theorem exec_vadd {g} {t} {m} {k} {d} {a} {b} (s : State) : exec (.vadd g t m k d a b) s = execVadd g t m k d a b s := rfl
@[simp] theorem exec_vsub {g} {t} {m} {k} {d} {a} {b} (s : State) : exec (.vsub g t m k d a b) s = execVsub g t m k d a b s := rfl
@[simp] theorem exec_vmul {g} {t} {m} {k} {d} {a} {b} (s : State) : exec (.vmul g t m k d a b) s = execVmul g t m k d a b s := rfl
@[simp] theorem exec_vfma {g} {t} {m} {k} {d} {a} {b} {c} (s : State) : exec (.vfma g t m k d a b c) s = execVfma g t m k d a b c s := rfl
@[simp] theorem exec_vfms {g} {t} {m} {k} {d} {a} {b} {c} (s : State) : exec (.vfms g t m k d a b c) s = execVfms g t m k d a b c s := rfl
@[simp] theorem exec_vdiv {g} {t} {m} {k} {d} {a} {b} (s : State) : exec (.vdiv g t m k d a b) s = execVdiv g t m k d a b s := rfl
@[simp] theorem exec_vsqrt {g} {t} {m} {k} {d} {a} (s : State) : exec (.vsqrt g t m k d a) s = execVsqrt g t m k d a s := rfl
@[simp] theorem exec_vmin {g} {t} {k} {d} {a} {b} (s : State) : exec (.vmin g t k d a b) s = execVmin g t k d a b s := rfl
@[simp] theorem exec_vmax {g} {t} {k} {d} {a} {b} (s : State) : exec (.vmax g t k d a b) s = execVmax g t k d a b s := rfl
@[simp] theorem exec_vabs {g} {t} {k} {d} {a} (s : State) : exec (.vabs g t k d a) s = execVabs g t k d a s := rfl
@[simp] theorem exec_vneg {g} {t} {k} {d} {a} (s : State) : exec (.vneg g t k d a) s = execVneg g t k d a s := rfl
@[simp] theorem exec_vcmp {g} {t} {c} {k} {d} {a} {b} (s : State) : exec (.vcmp g t c k d a b) s = execVcmp g t c k d a b s := rfl
@[simp] theorem exec_vsel {g} {t} {k} {d} {a} {b} (s : State) : exec (.vsel g t k d a b) s = execVsel g t k d a b s := rfl
@[simp] theorem exec_vand {g} {t} {k} {d} {a} {b} (s : State) : exec (.vand g t k d a b) s = execVand g t k d a b s := rfl
@[simp] theorem exec_vor {g} {t} {k} {d} {a} {b} (s : State) : exec (.vor g t k d a b) s = execVor g t k d a b s := rfl
@[simp] theorem exec_vxor {g} {t} {k} {d} {a} {b} (s : State) : exec (.vxor g t k d a b) s = execVxor g t k d a b s := rfl
@[simp] theorem exec_vshl {g} {t} {k} {d} {a} {b} (s : State) : exec (.vshl g t k d a b) s = execVshl g t k d a b s := rfl
@[simp] theorem exec_vshr {g} {t} {k} {d} {a} {b} (s : State) : exec (.vshr g t k d a b) s = execVshr g t k d a b s := rfl
@[simp] theorem exec_vsar {g} {t} {k} {d} {a} {b} (s : State) : exec (.vsar g t k d a b) s = execVsar g t k d a b s := rfl
@[simp] theorem exec_vmov {g} {t} {k} {d} {a} (s : State) : exec (.vmov g t k d a) s = execVmov g t k d a s := rfl
@[simp] theorem exec_vshape {g} {x} (s : State) : exec (.vshape g x) s = execVshape g x s := rfl
@[simp] theorem exec_viota {g} {t} {k} {d} {a} (s : State) : exec (.viota g t k d a) s = execViota g t k d a s := rfl
@[simp] theorem exec_vred {g} {t} {m} {k} {cols} {d} {a} (s : State) : exec (.vred g t m k cols d a) s = execVred g t m k cols d a s := rfl
@[simp] theorem exec_redt {g} {t} {m} {k} {d} {a} {b} (s : State) : exec (.redt g t m k d a b) s = execRedt g t m k d a b s := rfl
@[simp] theorem exec_vcvt {g} {t} {src} {m} {k} {d} {a} (s : State) : exec (.vcvt g t src m k d a) s = execVcvt g t src m k d a s := rfl
@[simp] theorem exec_vreq {g} {t} {m} {k} {d} {a} {b} (s : State) : exec (.vreq g t m k d a b) s = execVreq g t m k d a b s := rfl
@[simp] theorem exec_vcomp {g} {t} {k} {d} {a} {c} (s : State) : exec (.vcomp g t k d a c) s = execVcomp g t k d a c s := rfl
@[simp] theorem exec_vexpd {g} {t} {k} {d} {a} (s : State) : exec (.vexpd g t k d a) s = execVexpd g t k d a s := rfl
@[simp] theorem exec_vperm {g} {t} {k} {d} {a} {b} (s : State) : exec (.vperm g t k d a b) s = execVperm g t k d a b s := rfl
@[simp] theorem exec_vtrans {g} {t} {d} {a} (s : State) : exec (.vtrans g t d a) s = execVtrans g t d a s := rfl
@[simp] theorem exec_vbcast {g} {t} {k} {d} {a} (s : State) : exec (.vbcast g t k d a) s = execVbcast g t k d a s := rfl
@[simp] theorem exec_vslide {g} {t} {down} {k} {d} {a} {b} (s : State) : exec (.vslide g t down k d a b) s = execVslide g t down k d a b s := rfl
@[simp] theorem exec_kop {g} {op} (s : State) : exec (.kop g op) s = execKop g op s := rfl
@[simp] theorem exec_vrand {g} {w64} {k} {d} (s : State) : exec (.vrand g w64 k d) s = execVrand g w64 k d s := rfl
@[simp] theorem exec_vgets {g} {t} {d} {a} {b} (s : State) : exec (.vgets g t d a b) s = execVgets g t d a b s := rfl
@[simp] theorem exec_vputs {g} {t} {d} {a} {b} (s : State) : exec (.vputs g t d a b) s = execVputs g t d a b s := rfl
@[simp] theorem exec_vfexp {g} {t} {m} {k} {d} {a} (s : State) : exec (.vfexp g t m k d a) s = execVfexp g t m k d a s := rfl
@[simp] theorem exec_vflog {g} {t} {m} {k} {d} {a} (s : State) : exec (.vflog g t m k d a) s = execVflog g t m k d a s := rfl
@[simp] theorem exec_vferf {g} {t} {m} {k} {d} {a} (s : State) : exec (.vferf g t m k d a) s = execVferf g t m k d a s := rfl
@[simp] theorem exec_vferfc {g} {t} {m} {k} {d} {a} (s : State) : exec (.vferfc g t m k d a) s = execVferfc g t m k d a s := rfl
@[simp] theorem exec_vlnt {g} {t} {k} {d} {a} (s : State) : exec (.vlnt g t k d a) s = execVlnt g t k d a s := rfl
@[simp] theorem exec_vlnf {g} {t} {m} {k} {d} {a} (s : State) : exec (.vlnf g t m k d a) s = execVlnf g t m k d a s := rfl
@[simp] theorem exec_vxexp {g} {t} {k} {d} {a} (s : State) : exec (.vxexp g t k d a) s = execVxexp g t k d a s := rfl
@[simp] theorem exec_vxrcp {g} {t} {k} {d} {a} (s : State) : exec (.vxrcp g t k d a) s = execVxrcp g t k d a s := rfl
@[simp] theorem exec_vxrsq {g} {t} {k} {d} {a} (s : State) : exec (.vxrsq g t k d a) s = execVxrsq g t k d a s := rfl
@[simp] theorem exec_vxsig {g} {t} {k} {d} {a} (s : State) : exec (.vxsig g t k d a) s = execVxsig g t k d a s := rfl
@[simp] theorem exec_vxtanh {g} {t} {k} {d} {a} (s : State) : exec (.vxtanh g t k d a) s = execVxtanh g t k d a s := rfl
@[simp] theorem exec_sclaim {g} {d} {x} (s : State) : exec (.sclaim g d x) s = execSclaim g d x s := rfl
@[simp] theorem exec_srel {g} {a} {x} (s : State) : exec (.srel g a x) s = execSrel g a x s := rfl
@[simp] theorem exec_sfill {g} {a} {b} {c} {len} (s : State) : exec (.sfill g a b c len) s = execSfill g a b c len s := rfl
@[simp] theorem exec_sstat {g} {d} {a} (s : State) : exec (.sstat g d a) s = execSstat g d a s := rfl
@[simp] theorem exec_mldw {g} {t} {ws} {a} {l} (s : State) : exec (.mldw g t ws a l) s = execMldw g t ws a l s := rfl
@[simp] theorem exec_mma {g} {o} {tile} {a} {b} {c} {l} (s : State) : exec (.mma g o tile a b c l) s = execMma g o tile a b c l s := rfl
@[simp] theorem exec_mmag {g} {o} {tile} {a} {b} {c} {l} (s : State) : exec (.mmag g o tile a b c l) s = execMmag g o tile a b c l s := rfl
@[simp] theorem exec_mmas {g} {o} {tile} {a} {b} {c} {l} (s : State) : exec (.mmas g o tile a b c l) s = execMmas g o tile a b c l s := rfl
@[simp] theorem exec_mwait {g} {d} {l} (s : State) : exec (.mwait g d l) s = execMwait g d l s := rfl
@[simp] theorem exec_mresume {g} {l} (s : State) : exec (.mresume g l) s = execMresume g l s := rfl
@[simp] theorem exec_mout {g} {t} {m} {sc} {tile} {a} {b} (s : State) : exec (.mout g t m sc tile a b) s = execMout g t m sc tile a b s := rfl
@[simp] theorem exec_mzero {g} {tile} (s : State) : exec (.mzero g tile) s = execMzero g tile s := rfl
@[simp] theorem exec_mstat {g} {d} {sel} (s : State) : exec (.mstat g d sel) s = execMstat g d sel s := rfl
@[simp] theorem exec_fetch {g} {d} {a} {b} {c} {l} (s : State) : exec (.fetch g d a b c l) s = execFetch g d a b c l s := rfl
@[simp] theorem exec_put {g} {d} {a} {b} {c} {l} (s : State) : exec (.put g d a b c l) s = execPut g d a b c l s := rfl
@[simp] theorem exec_gather {g} {d} {a} {b} {c} {l} {n} {z} (s : State) : exec (.gather g d a b c l n z) s = execGather g d a b c l n z s := rfl
@[simp] theorem exec_scata {g} {t} {d} {a} {b} {c} {l} {n} {z} (s : State) : exec (.scata g t d a b c l n z) s = execScata g t d a b c l n z s := rfl
@[simp] theorem exec_nlcfg {g} {d} {a} {l} (s : State) : exec (.nlcfg g d a l) s = execNlcfg g d a l s := rfl
@[simp] theorem exec_nlbin {g} {d} {a} {b} {l} (s : State) : exec (.nlbin g d a b l) s = execNlbin g d a b l s := rfl
@[simp] theorem exec_nlpairs {g} {d} {a} {b} {c} {l} (s : State) : exec (.nlpairs g d a b c l) s = execNlpairs g d a b c l s := rfl
@[simp] theorem exec_nlstat {g} {d} {sel} (s : State) : exec (.nlstat g d sel) s = execNlstat g d sel s := rfl
@[simp] theorem exec_conv {g} {t} {src} {dst} {d} {a} {b} {l} (s : State) : exec (.conv g t src dst d a b l) s = execConv g t src dst d a b l s := rfl
@[simp] theorem exec_ewait {g} {d} {a} {l} (s : State) : exec (.ewait g d a l) s = execEwait g d a l s := rfl
@[simp] theorem exec_estat {g} {d} {a} (s : State) : exec (.estat g d a) s = execEstat g d a s := rfl
@[simp] theorem exec_movx {g} {d} {imm} (s : State) : exec (.movx g d imm) s = execMovx g d imm s := rfl
@[simp] theorem exec_functionReady {reg} {bit} (s : State) : exec (.functionReady reg bit) s = execFunctionReady reg bit s := rfl
@[simp] theorem exec_funcLost {reg} {bit} (s : State) : exec (.funcLost reg bit) s = execFuncLost reg bit s := rfl
@[simp] theorem exec_supplyOutOfRange {mv} (s : State) : exec (.supplyOutOfRange mv) s = execSupplyOutOfRange mv s := rfl
@[simp] theorem exec_supplyInRange {mv} (s : State) : exec (.supplyInRange mv) s = execSupplyInRange mv s := rfl
@[simp] theorem exec_supplyDip {mv} (s : State) : exec (.supplyDip mv) s = execSupplyDip mv s := rfl
@[simp] theorem exec_powerSample {watts} (s : State) : exec (.powerSample watts) s = execPowerSample watts s := rfl
@[simp] theorem exec_droopDetect {mv} (s : State) : exec (.droopDetect mv) s = execDroopDetect mv s := rfl
@[simp] theorem exec_thermalThrottle {tempC} (s : State) : exec (.thermalThrottle tempC) s = execThermalThrottle tempC s := rfl
@[simp] theorem exec_ptpMessage {port} {correction} (s : State) : exec (.ptpMessage port correction) s = execPtpMessage port correction s := rfl
@[simp] theorem exec_exchangeFrameRx {port} {f} (s : State) : exec (.exchangeFrameRx port f) s = execExchangeFrameRx port f s := rfl
@[simp] theorem exec_createCtx {m} (s : State) : exec (.createCtx m) s = execCreateCtx m s := rfl
@[simp] theorem exec_map {m} (s : State) : exec (.map m) s = execMap m s := rfl
@[simp] theorem exec_unmap {m} (s : State) : exec (.unmap m) s = execUnmap m s := rfl
@[simp] theorem exec_loadWimage {m} (s : State) : exec (.loadWimage m) s = execLoadWimage m s := rfl
@[simp] theorem exec_launch {m} (s : State) : exec (.launch m) s = execLaunch m s := rfl
@[simp] theorem exec_evict {m} (s : State) : exec (.evict m) s = execEvict m s := rfl
@[simp] theorem exec_resume {m} (s : State) : exec (.resume m) s = execResume m s := rfl
@[simp] theorem exec_destroyCtx {m} (s : State) : exec (.destroyCtx m) s = execDestroyCtx m s := rfl
@[simp] theorem exec_readTrapring {m} (s : State) : exec (.readTrapring m) s = execReadTrapring m s := rfl
@[simp] theorem exec_attest {m} (s : State) : exec (.attest m) s = execAttest m s := rfl
@[simp] theorem exec_doorbellWrite {ctx} {val} (s : State) : exec (.doorbellWrite ctx val) s = execDoorbellWrite ctx val s := rfl
@[simp] theorem exec_hostRdmaWrite {rkey} {addr} {bytes} (s : State) : exec (.hostRdmaWrite rkey addr bytes) s = execHostRdmaWrite rkey addr bytes s := rfl
@[simp] theorem exec_hostRdmaRead {rkey} {addr} {len} (s : State) : exec (.hostRdmaRead rkey addr len) s = execHostRdmaRead rkey addr len s := rfl
@[simp] theorem exec_wakeMessage {ctx} (s : State) : exec (.wakeMessage ctx) s = execWakeMessage ctx s := rfl
@[simp] theorem exec_tstartWrite {v} (s : State) : exec (.tstartWrite v) s = execTstartWrite v s := rfl
@[simp] theorem exec_tickpWrite {v} (s : State) : exec (.tickpWrite v) s = execTickpWrite v s := rfl
@[simp] theorem exec_plimitWrite {v} (s : State) : exec (.plimitWrite v) s = execPlimitWrite v s := rfl
@[simp] theorem exec_fpcrWrite {v} (s : State) : exec (.fpcrWrite v) s = execFpcrWrite v s := rfl
@[simp] theorem exec_fpsrWrite {v} (s : State) : exec (.fpsrWrite v) s = execFpsrWrite v s := rfl
@[simp] theorem exec_agemaxWrite {v} (s : State) : exec (.agemaxWrite v) s = execAgemaxWrite v s := rfl
@[simp] theorem exec_dlescWrite {v} (s : State) : exec (.dlescWrite v) s = execDlescWrite v s := rfl
@[simp] theorem exec_evselWrite {n} {v} (s : State) : exec (.evselWrite n v) s = execEvselWrite n v s := rfl
@[simp] theorem exec_evcntWrite {n} {v} (s : State) : exec (.evcntWrite n v) s = execEvcntWrite n v s := rfl
@[simp] theorem exec_haltrelWrite {v} (s : State) : exec (.haltrelWrite v) s = execHaltrelWrite v s := rfl
@[simp] theorem exec_registerWrite {n} {v} (s : State) : exec (.registerWrite n v) s = execRegisterWrite n v s := rfl
@[simp] theorem exec_messageInject {vn} (s : State) : exec (.messageInject vn) s = execMessageInject vn s := rfl
@[simp] theorem exec_messageReoffer {vn} (s : State) : exec (.messageReoffer vn) s = execMessageReoffer vn s := rfl
@[simp] theorem exec_poolRetest {i} (s : State) : exec (.poolRetest i) s = execPoolRetest i s := rfl
@[simp] theorem exec_poolExpiry {i} (s : State) : exec (.poolExpiry i) s = execPoolExpiry i s := rfl
@[simp] theorem exec_supHoldService {i} (s : State) : exec (.supHoldService i) s = execSupHoldService i s := rfl
@[simp] theorem exec_evictStepEnd {ctx} (s : State) : exec (.evictStepEnd ctx) s = execEvictStepEnd ctx s := rfl
@[simp] theorem exec_writeApply {i} (s : State) : exec (.writeApply i) s = execWriteApply i s := rfl
@[simp] theorem exec_tableWalk {ctx} {va} (s : State) : exec (.tableWalk ctx va) s = execTableWalk ctx va s := rfl
@[simp] theorem exec_slotFillStart {slot} (s : State) : exec (.slotFillStart slot) s = execSlotFillStart slot s := rfl
@[simp] theorem exec_slotFillEnd {slot} (s : State) : exec (.slotFillEnd slot) s = execSlotFillEnd slot s := rfl
@[simp] theorem exec_gangBarrier {part} (s : State) : exec (.gangBarrier part) s = execGangBarrier part s := rfl
@[simp] theorem exec_connectionAccept {port} (s : State) : exec (.connectionAccept port) s = execConnectionAccept port s := rfl
@[simp] theorem exec_evOvf {n} (s : State) : exec (.evOvf n) s = execEvOvf n s := rfl
@[simp] theorem exec_packageReset (s : State) : exec (.packageReset) s = execPackageReset s := rfl
@[simp] theorem exec_recoveryStatusRead (s : State) : exec (.recoveryStatusRead) s = execRecoveryStatusRead s := rfl
@[simp] theorem exec_powerLoss (s : State) : exec (.powerLoss) s = execPowerLoss s := rfl
@[simp] theorem exec_supplyOvervoltage (s : State) : exec (.supplyOvervoltage) s = execSupplyOvervoltage s := rfl
@[simp] theorem exec_stretchRelax (s : State) : exec (.stretchRelax) s = execStretchRelax s := rfl
@[simp] theorem exec_droopRelease (s : State) : exec (.droopRelease) s = execDroopRelease s := rfl
@[simp] theorem exec_thermalTrip (s : State) : exec (.thermalTrip) s = execThermalTrip s := rfl
@[simp] theorem exec_tickBoundary (s : State) : exec (.tickBoundary) s = execTickBoundary s := rfl
@[simp] theorem exec_exchangeLinkLoss (s : State) : exec (.exchangeLinkLoss) s = execExchangeLinkLoss s := rfl
@[simp] theorem exec_connectionDrop (s : State) : exec (.connectionDrop) s = execConnectionDrop s := rfl
@[simp] theorem exec_launchStart (s : State) : exec (.launchStart) s = execLaunchStart s := rfl
@[simp] theorem exec_launchEnd (s : State) : exec (.launchEnd) s = execLaunchEnd s := rfl
@[simp] theorem exec_strandDispatch (s : State) : exec (.strandDispatch) s = execStrandDispatch s := rfl
@[simp] theorem exec_relayStart (s : State) : exec (.relayStart) s = execRelayStart s := rfl
@[simp] theorem exec_messageArrival (s : State) : exec (.messageArrival) s = execMessageArrival s := rfl
@[simp] theorem exec_stealRequest (s : State) : exec (.stealRequest) s = execStealRequest s := rfl
@[simp] theorem exec_stealGrant (s : State) : exec (.stealGrant) s = execStealGrant s := rfl
@[simp] theorem exec_stealDeny (s : State) : exec (.stealDeny) s = execStealDeny s := rfl
@[simp] theorem exec_stealBackoffExpiry (s : State) : exec (.stealBackoffExpiry) s = execStealBackoffExpiry s := rfl
@[simp] theorem exec_spawnReservationRequest (s : State) : exec (.spawnReservationRequest) s = execSpawnReservationRequest s := rfl
@[simp] theorem exec_spawnAnswer (s : State) : exec (.spawnAnswer) s = execSpawnAnswer s := rfl
@[simp] theorem exec_spawnRelease (s : State) : exec (.spawnRelease) s = execSpawnRelease s := rfl
@[simp] theorem exec_commitGroupRelease (s : State) : exec (.commitGroupRelease) s = execCommitGroupRelease s := rfl
@[simp] theorem exec_splicerDeposit (s : State) : exec (.splicerDeposit) s = execSplicerDeposit s := rfl
@[simp] theorem exec_splicerCover (s : State) : exec (.splicerCover) s = execSplicerCover s := rfl
@[simp] theorem exec_watchdog (s : State) : exec (.watchdog) s = execWatchdog s := rfl
@[simp] theorem exec_deadlineExpiry (s : State) : exec (.deadlineExpiry) s = execDeadlineExpiry s := rfl
@[simp] theorem exec_evictionBound (s : State) : exec (.evictionBound) s = execEvictionBound s := rfl
@[simp] theorem exec_waitSatisfied (s : State) : exec (.waitSatisfied) s = execWaitSatisfied s := rfl
@[simp] theorem exec_mailboxDrain (s : State) : exec (.mailboxDrain) s = execMailboxDrain s := rfl
@[simp] theorem exec_haltStop (s : State) : exec (.haltStop) s = execHaltStop s := rfl
@[simp] theorem exec_refreshStallEnd (s : State) : exec (.refreshStallEnd) s = execRefreshStallEnd s := rfl
@[simp] theorem exec_sequencerStep (s : State) : exec (.sequencerStep) s = execSequencerStep s := rfl
@[simp] theorem exec_mmasPrefetch (s : State) : exec (.mmasPrefetch) s = execMmasPrefetch s := rfl
@[simp] theorem exec_sendbArrival (s : State) : exec (.sendbArrival) s = execSendbArrival s := rfl
@[simp] theorem exec_sendbLanded (s : State) : exec (.sendbLanded) s = execSendbLanded s := rfl
@[simp] theorem exec_barrierArrival (s : State) : exec (.barrierArrival) s = execBarrierArrival s := rfl
@[simp] theorem exec_barrierWithdraw (s : State) : exec (.barrierWithdraw) s = execBarrierWithdraw s := rfl
@[simp] theorem exec_barrierComplete (s : State) : exec (.barrierComplete) s = execBarrierComplete s := rfl
@[simp] theorem exec_gdeTransferBlock (s : State) : exec (.gdeTransferBlock) s = execGdeTransferBlock s := rfl
@[simp] theorem exec_gdeRowFetch (s : State) : exec (.gdeRowFetch) s = execGdeRowFetch s := rfl
@[simp] theorem exec_scataApply (s : State) : exec (.scataApply) s = execScataApply s := rfl
@[simp] theorem exec_nlbinComplete (s : State) : exec (.nlbinComplete) s = execNlbinComplete s := rfl
@[simp] theorem exec_nleBlock (s : State) : exec (.nleBlock) s = execNleBlock s := rfl
@[simp] theorem exec_convPhase (s : State) : exec (.convPhase) s = execConvPhase s := rfl
@[simp] theorem exec_engineCommandEnd (s : State) : exec (.engineCommandEnd) s = execEngineCommandEnd s := rfl

/-- Reads of no line of the weight window never wait (R134). -/
theorem State.stalls_nil (s : State) : s.stalls [] = none := by simp [State.stalls, nextStall]

/-- Reads that no uncorrectable error meets and that lie in no line of window 0x1 count their touched pages
and do what follows them (R28, R134, R135). -/
theorem State.withReads_quiet (s : State) (w : Who) (l : List (Word × Nat)) (f : State → Except TrapInfo State)
    (he : l.any (fun e => s.eccHit w e.1 e.2) = false)
    (hl : l.flatMap (fun e => w.lines e.1 e.2) = []) :
    s.withReads w l f = f (l.foldl (fun s e => s.touch w e.1 e.2) s) := by
  cases l with
  | nil => rfl
  | cons x l => simp only [State.withReads, State.unlessEcc, he, State.afterStall, hl, State.stalls_nil]; rfl

/-- A command that RESUME leaves nothing to read again goes on at once (R341). -/
theorem State.rereadFirst_none (s : State) {c : Cmd} (stay : State → State) (f : State → Cmd → State)
    (h : c.reread = false) : s.rereadFirst c stay f = f s c := by simp [State.rereadFirst, h]

/-- No dip, one that is told, or one of less than 100 µs has no effect (R17). -/
theorem State.powerLost_short (s : State)
    (h : s.power.below42 = false ∨ s.power.told = true ∨ s.now < s.power.dipAt + 100000) : s.powerLost = s := by
  rcases h with h | h | h
  · simp [State.powerLost, h]
  · simp [State.powerLost, h]
  · exact if_neg (fun g => by omega)

/-- In a state without uncorrectable errors no read of the splicer or of firmware meets one (R135). -/
theorem State.dieHit_nil (s : State) (d : Fin 4) (ctx va n : Nat) (h : s.ecc = []) : s.dieHit d ctx va n = false := by
  simp [State.dieHit, h]
theorem State.hdrHit_nil (s : State) (ctx : Nat) (pc : BitVec 32) (h : s.ecc = []) : s.hdrHit ctx pc = false := by
  simp [State.hdrHit, State.dieHit_nil s _ _ _ _ h]

end Sys2Proof.Machine
end

