-- ==== Sys2Proof/Laws/State.lean ====
section
/-! SUPPORT. What each small update of the state leaves as it was: one lemma for each field. -/
namespace Sys2Proof.Machine

/-! `State.setStrand` changes `strands` alone. -/

@[simp] theorem State.setStrand_cur (s : State) (i : Nat) (t : Strand) :
    (s.setStrand i t).cur = s.cur := rfl
@[simp] theorem State.setStrand_agenda (s : State) (i : Nat) (t : Strand) :
    (s.setStrand i t).agenda = s.agenda := rfl
@[simp] theorem State.setStrand_order (s : State) (i : Nat) (t : Strand) :
    (s.setStrand i t).order = s.order := rfl
@[simp] theorem State.setStrand_lastCore (s : State) (i : Nat) (t : Strand) :
    (s.setStrand i t).lastCore = s.lastCore := rfl
@[simp] theorem State.setStrand_evNext (s : State) (i : Nat) (t : Strand) :
    (s.setStrand i t).evNext = s.evNext := rfl
@[simp] theorem State.setStrand_steps (s : State) (i : Nat) (t : Strand) :
    (s.setStrand i t).steps = s.steps := rfl
@[simp] theorem State.setStrand_free (s : State) (i : Nat) (t : Strand) :
    (s.setStrand i t).free = s.free := rfl
@[simp] theorem State.setStrand_time (s : State) (i : Nat) (t : Strand) :
    (s.setStrand i t).time = s.time := rfl
@[simp] theorem State.setStrand_power (s : State) (i : Nat) (t : Strand) :
    (s.setStrand i t).power = s.power := rfl
@[simp] theorem State.setStrand_boot (s : State) (i : Nat) (t : Strand) :
    (s.setStrand i t).boot = s.boot := rfl
@[simp] theorem State.setStrand_conns (s : State) (i : Nat) (t : Strand) :
    (s.setStrand i t).conns = s.conns := rfl
@[simp] theorem State.setStrand_outbox (s : State) (i : Nat) (t : Strand) :
    (s.setStrand i t).outbox = s.outbox := rfl
@[simp] theorem State.setStrand_supEvents (s : State) (i : Nat) (t : Strand) :
    (s.setStrand i t).supEvents = s.supEvents := rfl
@[simp] theorem State.setStrand_ctxs (s : State) (i : Nat) (t : Strand) :
    (s.setStrand i t).ctxs = s.ctxs := rfl
@[simp] theorem State.setStrand_lcs (s : State) (i : Nat) (t : Strand) :
    (s.setStrand i t).lcs = s.lcs := rfl
@[simp] theorem State.setStrand_cores (s : State) (i : Nat) (t : Strand) :
    (s.setStrand i t).cores = s.cores := rfl
@[simp] theorem State.setStrand_rows (s : State) (i : Nat) (t : Strand) :
    (s.setStrand i t).rows = s.rows := rfl
@[simp] theorem State.setStrand_dies (s : State) (i : Nat) (t : Strand) :
    (s.setStrand i t).dies = s.dies := rfl
@[simp] theorem State.setStrand_baseTlb (s : State) (i : Nat) (t : Strand) :
    (s.setStrand i t).baseTlb = s.baseTlb := rfl
@[simp] theorem State.setStrand_pmem (s : State) (i : Nat) (t : Strand) :
    (s.setStrand i t).pmem = s.pmem := rfl
@[simp] theorem State.setStrand_stamp (s : State) (i : Nat) (t : Strand) :
    (s.setStrand i t).stamp = s.stamp := rfl
@[simp] theorem State.setStrand_ws (s : State) (i : Nat) (t : Strand) :
    (s.setStrand i t).ws = s.ws := rfl
@[simp] theorem State.setStrand_lds (s : State) (i : Nat) (t : Strand) :
    (s.setStrand i t).lds = s.lds := rfl
@[simp] theorem State.setStrand_opmem (s : State) (i : Nat) (t : Strand) :
    (s.setStrand i t).opmem = s.opmem := rfl
@[simp] theorem State.setStrand_acc (s : State) (i : Nat) (t : Strand) :
    (s.setStrand i t).acc = s.acc := rfl
@[simp] theorem State.setStrand_ops (s : State) (i : Nat) (t : Strand) :
    (s.setStrand i t).ops = s.ops := rfl
@[simp] theorem State.setStrand_nextOp (s : State) (i : Nat) (t : Strand) :
    (s.setStrand i t).nextOp = s.nextOp := rfl
@[simp] theorem State.setStrand_cmds (s : State) (i : Nat) (t : Strand) :
    (s.setStrand i t).cmds = s.cmds := rfl
@[simp] theorem State.setStrand_xfers (s : State) (i : Nat) (t : Strand) :
    (s.setStrand i t).xfers = s.xfers := rfl
@[simp] theorem State.setStrand_hrec (s : State) (i : Nat) (t : Strand) :
    (s.setStrand i t).hrec = s.hrec := rfl
@[simp] theorem State.setStrand_barDie (s : State) (i : Nat) (t : Strand) :
    (s.setStrand i t).barDie = s.barDie := rfl
@[simp] theorem State.setStrand_backlog (s : State) (i : Nat) (t : Strand) :
    (s.setStrand i t).backlog = s.backlog := rfl
@[simp] theorem State.setStrand_ecc (s : State) (i : Nat) (t : Strand) :
    (s.setStrand i t).ecc = s.ecc := rfl
@[simp] theorem State.setStrand_hostSeen (s : State) (i : Nat) (t : Strand) :
    (s.setStrand i t).hostSeen = s.hostSeen := rfl
@[simp] theorem State.setStrand_gdeWin (s : State) (i : Nat) (t : Strand) :
    (s.setStrand i t).gdeWin = s.gdeWin := rfl

/-! `State.modStrand` changes `strands` alone. -/

@[simp] theorem State.modStrand_cur (s : State) (i : Nat) (f : Strand → Strand) :
    (s.modStrand i f).cur = s.cur := rfl
@[simp] theorem State.modStrand_agenda (s : State) (i : Nat) (f : Strand → Strand) :
    (s.modStrand i f).agenda = s.agenda := rfl
@[simp] theorem State.modStrand_order (s : State) (i : Nat) (f : Strand → Strand) :
    (s.modStrand i f).order = s.order := rfl
@[simp] theorem State.modStrand_lastCore (s : State) (i : Nat) (f : Strand → Strand) :
    (s.modStrand i f).lastCore = s.lastCore := rfl
@[simp] theorem State.modStrand_evNext (s : State) (i : Nat) (f : Strand → Strand) :
    (s.modStrand i f).evNext = s.evNext := rfl
@[simp] theorem State.modStrand_steps (s : State) (i : Nat) (f : Strand → Strand) :
    (s.modStrand i f).steps = s.steps := rfl
@[simp] theorem State.modStrand_free (s : State) (i : Nat) (f : Strand → Strand) :
    (s.modStrand i f).free = s.free := rfl
@[simp] theorem State.modStrand_time (s : State) (i : Nat) (f : Strand → Strand) :
    (s.modStrand i f).time = s.time := rfl
@[simp] theorem State.modStrand_power (s : State) (i : Nat) (f : Strand → Strand) :
    (s.modStrand i f).power = s.power := rfl
@[simp] theorem State.modStrand_boot (s : State) (i : Nat) (f : Strand → Strand) :
    (s.modStrand i f).boot = s.boot := rfl
@[simp] theorem State.modStrand_conns (s : State) (i : Nat) (f : Strand → Strand) :
    (s.modStrand i f).conns = s.conns := rfl
@[simp] theorem State.modStrand_outbox (s : State) (i : Nat) (f : Strand → Strand) :
    (s.modStrand i f).outbox = s.outbox := rfl
@[simp] theorem State.modStrand_supEvents (s : State) (i : Nat) (f : Strand → Strand) :
    (s.modStrand i f).supEvents = s.supEvents := rfl
@[simp] theorem State.modStrand_ctxs (s : State) (i : Nat) (f : Strand → Strand) :
    (s.modStrand i f).ctxs = s.ctxs := rfl
@[simp] theorem State.modStrand_lcs (s : State) (i : Nat) (f : Strand → Strand) :
    (s.modStrand i f).lcs = s.lcs := rfl
@[simp] theorem State.modStrand_cores (s : State) (i : Nat) (f : Strand → Strand) :
    (s.modStrand i f).cores = s.cores := rfl
@[simp] theorem State.modStrand_rows (s : State) (i : Nat) (f : Strand → Strand) :
    (s.modStrand i f).rows = s.rows := rfl
@[simp] theorem State.modStrand_dies (s : State) (i : Nat) (f : Strand → Strand) :
    (s.modStrand i f).dies = s.dies := rfl
@[simp] theorem State.modStrand_baseTlb (s : State) (i : Nat) (f : Strand → Strand) :
    (s.modStrand i f).baseTlb = s.baseTlb := rfl
@[simp] theorem State.modStrand_pmem (s : State) (i : Nat) (f : Strand → Strand) :
    (s.modStrand i f).pmem = s.pmem := rfl
@[simp] theorem State.modStrand_stamp (s : State) (i : Nat) (f : Strand → Strand) :
    (s.modStrand i f).stamp = s.stamp := rfl
@[simp] theorem State.modStrand_ws (s : State) (i : Nat) (f : Strand → Strand) :
    (s.modStrand i f).ws = s.ws := rfl
@[simp] theorem State.modStrand_lds (s : State) (i : Nat) (f : Strand → Strand) :
    (s.modStrand i f).lds = s.lds := rfl
@[simp] theorem State.modStrand_opmem (s : State) (i : Nat) (f : Strand → Strand) :
    (s.modStrand i f).opmem = s.opmem := rfl
@[simp] theorem State.modStrand_acc (s : State) (i : Nat) (f : Strand → Strand) :
    (s.modStrand i f).acc = s.acc := rfl
@[simp] theorem State.modStrand_ops (s : State) (i : Nat) (f : Strand → Strand) :
    (s.modStrand i f).ops = s.ops := rfl
@[simp] theorem State.modStrand_nextOp (s : State) (i : Nat) (f : Strand → Strand) :
    (s.modStrand i f).nextOp = s.nextOp := rfl
@[simp] theorem State.modStrand_cmds (s : State) (i : Nat) (f : Strand → Strand) :
    (s.modStrand i f).cmds = s.cmds := rfl
@[simp] theorem State.modStrand_xfers (s : State) (i : Nat) (f : Strand → Strand) :
    (s.modStrand i f).xfers = s.xfers := rfl
@[simp] theorem State.modStrand_hrec (s : State) (i : Nat) (f : Strand → Strand) :
    (s.modStrand i f).hrec = s.hrec := rfl
@[simp] theorem State.modStrand_barDie (s : State) (i : Nat) (f : Strand → Strand) :
    (s.modStrand i f).barDie = s.barDie := rfl
@[simp] theorem State.modStrand_backlog (s : State) (i : Nat) (f : Strand → Strand) :
    (s.modStrand i f).backlog = s.backlog := rfl
@[simp] theorem State.modStrand_ecc (s : State) (i : Nat) (f : Strand → Strand) :
    (s.modStrand i f).ecc = s.ecc := rfl
@[simp] theorem State.modStrand_hostSeen (s : State) (i : Nat) (f : Strand → Strand) :
    (s.modStrand i f).hostSeen = s.hostSeen := rfl
@[simp] theorem State.modStrand_gdeWin (s : State) (i : Nat) (f : Strand → Strand) :
    (s.modStrand i f).gdeWin = s.gdeWin := rfl

/-! `State.mod` changes `strands` alone. -/

@[simp] theorem State.mod_cur (s : State) (f : Strand → Strand) :
    (s.mod f).cur = s.cur := rfl
@[simp] theorem State.mod_agenda (s : State) (f : Strand → Strand) :
    (s.mod f).agenda = s.agenda := rfl
@[simp] theorem State.mod_order (s : State) (f : Strand → Strand) :
    (s.mod f).order = s.order := rfl
@[simp] theorem State.mod_lastCore (s : State) (f : Strand → Strand) :
    (s.mod f).lastCore = s.lastCore := rfl
@[simp] theorem State.mod_evNext (s : State) (f : Strand → Strand) :
    (s.mod f).evNext = s.evNext := rfl
@[simp] theorem State.mod_steps (s : State) (f : Strand → Strand) :
    (s.mod f).steps = s.steps := rfl
@[simp] theorem State.mod_free (s : State) (f : Strand → Strand) :
    (s.mod f).free = s.free := rfl
@[simp] theorem State.mod_time (s : State) (f : Strand → Strand) :
    (s.mod f).time = s.time := rfl
@[simp] theorem State.mod_power (s : State) (f : Strand → Strand) :
    (s.mod f).power = s.power := rfl
@[simp] theorem State.mod_boot (s : State) (f : Strand → Strand) :
    (s.mod f).boot = s.boot := rfl
@[simp] theorem State.mod_conns (s : State) (f : Strand → Strand) :
    (s.mod f).conns = s.conns := rfl
@[simp] theorem State.mod_outbox (s : State) (f : Strand → Strand) :
    (s.mod f).outbox = s.outbox := rfl
@[simp] theorem State.mod_supEvents (s : State) (f : Strand → Strand) :
    (s.mod f).supEvents = s.supEvents := rfl
@[simp] theorem State.mod_ctxs (s : State) (f : Strand → Strand) :
    (s.mod f).ctxs = s.ctxs := rfl
@[simp] theorem State.mod_lcs (s : State) (f : Strand → Strand) :
    (s.mod f).lcs = s.lcs := rfl
@[simp] theorem State.mod_cores (s : State) (f : Strand → Strand) :
    (s.mod f).cores = s.cores := rfl
@[simp] theorem State.mod_rows (s : State) (f : Strand → Strand) :
    (s.mod f).rows = s.rows := rfl
@[simp] theorem State.mod_dies (s : State) (f : Strand → Strand) :
    (s.mod f).dies = s.dies := rfl
@[simp] theorem State.mod_baseTlb (s : State) (f : Strand → Strand) :
    (s.mod f).baseTlb = s.baseTlb := rfl
@[simp] theorem State.mod_pmem (s : State) (f : Strand → Strand) :
    (s.mod f).pmem = s.pmem := rfl
@[simp] theorem State.mod_stamp (s : State) (f : Strand → Strand) :
    (s.mod f).stamp = s.stamp := rfl
@[simp] theorem State.mod_ws (s : State) (f : Strand → Strand) :
    (s.mod f).ws = s.ws := rfl
@[simp] theorem State.mod_lds (s : State) (f : Strand → Strand) :
    (s.mod f).lds = s.lds := rfl
@[simp] theorem State.mod_opmem (s : State) (f : Strand → Strand) :
    (s.mod f).opmem = s.opmem := rfl
@[simp] theorem State.mod_acc (s : State) (f : Strand → Strand) :
    (s.mod f).acc = s.acc := rfl
@[simp] theorem State.mod_ops (s : State) (f : Strand → Strand) :
    (s.mod f).ops = s.ops := rfl
@[simp] theorem State.mod_nextOp (s : State) (f : Strand → Strand) :
    (s.mod f).nextOp = s.nextOp := rfl
@[simp] theorem State.mod_cmds (s : State) (f : Strand → Strand) :
    (s.mod f).cmds = s.cmds := rfl
@[simp] theorem State.mod_xfers (s : State) (f : Strand → Strand) :
    (s.mod f).xfers = s.xfers := rfl
@[simp] theorem State.mod_hrec (s : State) (f : Strand → Strand) :
    (s.mod f).hrec = s.hrec := rfl
@[simp] theorem State.mod_barDie (s : State) (f : Strand → Strand) :
    (s.mod f).barDie = s.barDie := rfl
@[simp] theorem State.mod_backlog (s : State) (f : Strand → Strand) :
    (s.mod f).backlog = s.backlog := rfl
@[simp] theorem State.mod_ecc (s : State) (f : Strand → Strand) :
    (s.mod f).ecc = s.ecc := rfl
@[simp] theorem State.mod_hostSeen (s : State) (f : Strand → Strand) :
    (s.mod f).hostSeen = s.hostSeen := rfl
@[simp] theorem State.mod_gdeWin (s : State) (f : Strand → Strand) :
    (s.mod f).gdeWin = s.gdeWin := rfl

/-! `State.wS` changes `strands` alone. -/

@[simp] theorem State.wS_cur (s : State) (r : SReg) (v : Word) :
    (s.wS r v).cur = s.cur := rfl
@[simp] theorem State.wS_agenda (s : State) (r : SReg) (v : Word) :
    (s.wS r v).agenda = s.agenda := rfl
@[simp] theorem State.wS_order (s : State) (r : SReg) (v : Word) :
    (s.wS r v).order = s.order := rfl
@[simp] theorem State.wS_lastCore (s : State) (r : SReg) (v : Word) :
    (s.wS r v).lastCore = s.lastCore := rfl
@[simp] theorem State.wS_evNext (s : State) (r : SReg) (v : Word) :
    (s.wS r v).evNext = s.evNext := rfl
@[simp] theorem State.wS_steps (s : State) (r : SReg) (v : Word) :
    (s.wS r v).steps = s.steps := rfl
@[simp] theorem State.wS_free (s : State) (r : SReg) (v : Word) :
    (s.wS r v).free = s.free := rfl
@[simp] theorem State.wS_time (s : State) (r : SReg) (v : Word) :
    (s.wS r v).time = s.time := rfl
@[simp] theorem State.wS_power (s : State) (r : SReg) (v : Word) :
    (s.wS r v).power = s.power := rfl
@[simp] theorem State.wS_boot (s : State) (r : SReg) (v : Word) :
    (s.wS r v).boot = s.boot := rfl
@[simp] theorem State.wS_conns (s : State) (r : SReg) (v : Word) :
    (s.wS r v).conns = s.conns := rfl
@[simp] theorem State.wS_outbox (s : State) (r : SReg) (v : Word) :
    (s.wS r v).outbox = s.outbox := rfl
@[simp] theorem State.wS_supEvents (s : State) (r : SReg) (v : Word) :
    (s.wS r v).supEvents = s.supEvents := rfl
@[simp] theorem State.wS_ctxs (s : State) (r : SReg) (v : Word) :
    (s.wS r v).ctxs = s.ctxs := rfl
@[simp] theorem State.wS_lcs (s : State) (r : SReg) (v : Word) :
    (s.wS r v).lcs = s.lcs := rfl
@[simp] theorem State.wS_cores (s : State) (r : SReg) (v : Word) :
    (s.wS r v).cores = s.cores := rfl
@[simp] theorem State.wS_rows (s : State) (r : SReg) (v : Word) :
    (s.wS r v).rows = s.rows := rfl
@[simp] theorem State.wS_dies (s : State) (r : SReg) (v : Word) :
    (s.wS r v).dies = s.dies := rfl
@[simp] theorem State.wS_baseTlb (s : State) (r : SReg) (v : Word) :
    (s.wS r v).baseTlb = s.baseTlb := rfl
@[simp] theorem State.wS_pmem (s : State) (r : SReg) (v : Word) :
    (s.wS r v).pmem = s.pmem := rfl
@[simp] theorem State.wS_stamp (s : State) (r : SReg) (v : Word) :
    (s.wS r v).stamp = s.stamp := rfl
@[simp] theorem State.wS_ws (s : State) (r : SReg) (v : Word) :
    (s.wS r v).ws = s.ws := rfl
@[simp] theorem State.wS_lds (s : State) (r : SReg) (v : Word) :
    (s.wS r v).lds = s.lds := rfl
@[simp] theorem State.wS_opmem (s : State) (r : SReg) (v : Word) :
    (s.wS r v).opmem = s.opmem := rfl
@[simp] theorem State.wS_acc (s : State) (r : SReg) (v : Word) :
    (s.wS r v).acc = s.acc := rfl
@[simp] theorem State.wS_ops (s : State) (r : SReg) (v : Word) :
    (s.wS r v).ops = s.ops := rfl
@[simp] theorem State.wS_nextOp (s : State) (r : SReg) (v : Word) :
    (s.wS r v).nextOp = s.nextOp := rfl
@[simp] theorem State.wS_cmds (s : State) (r : SReg) (v : Word) :
    (s.wS r v).cmds = s.cmds := rfl
@[simp] theorem State.wS_xfers (s : State) (r : SReg) (v : Word) :
    (s.wS r v).xfers = s.xfers := rfl
@[simp] theorem State.wS_hrec (s : State) (r : SReg) (v : Word) :
    (s.wS r v).hrec = s.hrec := rfl
@[simp] theorem State.wS_barDie (s : State) (r : SReg) (v : Word) :
    (s.wS r v).barDie = s.barDie := rfl
@[simp] theorem State.wS_backlog (s : State) (r : SReg) (v : Word) :
    (s.wS r v).backlog = s.backlog := rfl
@[simp] theorem State.wS_ecc (s : State) (r : SReg) (v : Word) :
    (s.wS r v).ecc = s.ecc := rfl
@[simp] theorem State.wS_hostSeen (s : State) (r : SReg) (v : Word) :
    (s.wS r v).hostSeen = s.hostSeen := rfl
@[simp] theorem State.wS_gdeWin (s : State) (r : SReg) (v : Word) :
    (s.wS r v).gdeWin = s.gdeWin := rfl

/-! `State.wV` changes `strands` alone. -/

@[simp] theorem State.wV_cur (s : State) (r : VReg) (v : VWord) :
    (s.wV r v).cur = s.cur := rfl
@[simp] theorem State.wV_agenda (s : State) (r : VReg) (v : VWord) :
    (s.wV r v).agenda = s.agenda := rfl
@[simp] theorem State.wV_order (s : State) (r : VReg) (v : VWord) :
    (s.wV r v).order = s.order := rfl
@[simp] theorem State.wV_lastCore (s : State) (r : VReg) (v : VWord) :
    (s.wV r v).lastCore = s.lastCore := rfl
@[simp] theorem State.wV_evNext (s : State) (r : VReg) (v : VWord) :
    (s.wV r v).evNext = s.evNext := rfl
@[simp] theorem State.wV_steps (s : State) (r : VReg) (v : VWord) :
    (s.wV r v).steps = s.steps := rfl
@[simp] theorem State.wV_free (s : State) (r : VReg) (v : VWord) :
    (s.wV r v).free = s.free := rfl
@[simp] theorem State.wV_time (s : State) (r : VReg) (v : VWord) :
    (s.wV r v).time = s.time := rfl
@[simp] theorem State.wV_power (s : State) (r : VReg) (v : VWord) :
    (s.wV r v).power = s.power := rfl
@[simp] theorem State.wV_boot (s : State) (r : VReg) (v : VWord) :
    (s.wV r v).boot = s.boot := rfl
@[simp] theorem State.wV_conns (s : State) (r : VReg) (v : VWord) :
    (s.wV r v).conns = s.conns := rfl
@[simp] theorem State.wV_outbox (s : State) (r : VReg) (v : VWord) :
    (s.wV r v).outbox = s.outbox := rfl
@[simp] theorem State.wV_supEvents (s : State) (r : VReg) (v : VWord) :
    (s.wV r v).supEvents = s.supEvents := rfl
@[simp] theorem State.wV_ctxs (s : State) (r : VReg) (v : VWord) :
    (s.wV r v).ctxs = s.ctxs := rfl
@[simp] theorem State.wV_lcs (s : State) (r : VReg) (v : VWord) :
    (s.wV r v).lcs = s.lcs := rfl
@[simp] theorem State.wV_cores (s : State) (r : VReg) (v : VWord) :
    (s.wV r v).cores = s.cores := rfl
@[simp] theorem State.wV_rows (s : State) (r : VReg) (v : VWord) :
    (s.wV r v).rows = s.rows := rfl
@[simp] theorem State.wV_dies (s : State) (r : VReg) (v : VWord) :
    (s.wV r v).dies = s.dies := rfl
@[simp] theorem State.wV_baseTlb (s : State) (r : VReg) (v : VWord) :
    (s.wV r v).baseTlb = s.baseTlb := rfl
@[simp] theorem State.wV_pmem (s : State) (r : VReg) (v : VWord) :
    (s.wV r v).pmem = s.pmem := rfl
@[simp] theorem State.wV_stamp (s : State) (r : VReg) (v : VWord) :
    (s.wV r v).stamp = s.stamp := rfl
@[simp] theorem State.wV_ws (s : State) (r : VReg) (v : VWord) :
    (s.wV r v).ws = s.ws := rfl
@[simp] theorem State.wV_lds (s : State) (r : VReg) (v : VWord) :
    (s.wV r v).lds = s.lds := rfl
@[simp] theorem State.wV_opmem (s : State) (r : VReg) (v : VWord) :
    (s.wV r v).opmem = s.opmem := rfl
@[simp] theorem State.wV_acc (s : State) (r : VReg) (v : VWord) :
    (s.wV r v).acc = s.acc := rfl
@[simp] theorem State.wV_ops (s : State) (r : VReg) (v : VWord) :
    (s.wV r v).ops = s.ops := rfl
@[simp] theorem State.wV_nextOp (s : State) (r : VReg) (v : VWord) :
    (s.wV r v).nextOp = s.nextOp := rfl
@[simp] theorem State.wV_cmds (s : State) (r : VReg) (v : VWord) :
    (s.wV r v).cmds = s.cmds := rfl
@[simp] theorem State.wV_xfers (s : State) (r : VReg) (v : VWord) :
    (s.wV r v).xfers = s.xfers := rfl
@[simp] theorem State.wV_hrec (s : State) (r : VReg) (v : VWord) :
    (s.wV r v).hrec = s.hrec := rfl
@[simp] theorem State.wV_barDie (s : State) (r : VReg) (v : VWord) :
    (s.wV r v).barDie = s.barDie := rfl
@[simp] theorem State.wV_backlog (s : State) (r : VReg) (v : VWord) :
    (s.wV r v).backlog = s.backlog := rfl
@[simp] theorem State.wV_ecc (s : State) (r : VReg) (v : VWord) :
    (s.wV r v).ecc = s.ecc := rfl
@[simp] theorem State.wV_hostSeen (s : State) (r : VReg) (v : VWord) :
    (s.wV r v).hostSeen = s.hostSeen := rfl
@[simp] theorem State.wV_gdeWin (s : State) (r : VReg) (v : VWord) :
    (s.wV r v).gdeWin = s.gdeWin := rfl

/-! `State.wK` changes `strands` alone. -/

@[simp] theorem State.wK_cur (s : State) (r : KReg) (v : KWord) :
    (s.wK r v).cur = s.cur := rfl
@[simp] theorem State.wK_agenda (s : State) (r : KReg) (v : KWord) :
    (s.wK r v).agenda = s.agenda := rfl
@[simp] theorem State.wK_order (s : State) (r : KReg) (v : KWord) :
    (s.wK r v).order = s.order := rfl
@[simp] theorem State.wK_lastCore (s : State) (r : KReg) (v : KWord) :
    (s.wK r v).lastCore = s.lastCore := rfl
@[simp] theorem State.wK_evNext (s : State) (r : KReg) (v : KWord) :
    (s.wK r v).evNext = s.evNext := rfl
@[simp] theorem State.wK_steps (s : State) (r : KReg) (v : KWord) :
    (s.wK r v).steps = s.steps := rfl
@[simp] theorem State.wK_free (s : State) (r : KReg) (v : KWord) :
    (s.wK r v).free = s.free := rfl
@[simp] theorem State.wK_time (s : State) (r : KReg) (v : KWord) :
    (s.wK r v).time = s.time := rfl
@[simp] theorem State.wK_power (s : State) (r : KReg) (v : KWord) :
    (s.wK r v).power = s.power := rfl
@[simp] theorem State.wK_boot (s : State) (r : KReg) (v : KWord) :
    (s.wK r v).boot = s.boot := rfl
@[simp] theorem State.wK_conns (s : State) (r : KReg) (v : KWord) :
    (s.wK r v).conns = s.conns := rfl
@[simp] theorem State.wK_outbox (s : State) (r : KReg) (v : KWord) :
    (s.wK r v).outbox = s.outbox := rfl
@[simp] theorem State.wK_supEvents (s : State) (r : KReg) (v : KWord) :
    (s.wK r v).supEvents = s.supEvents := rfl
@[simp] theorem State.wK_ctxs (s : State) (r : KReg) (v : KWord) :
    (s.wK r v).ctxs = s.ctxs := rfl
@[simp] theorem State.wK_lcs (s : State) (r : KReg) (v : KWord) :
    (s.wK r v).lcs = s.lcs := rfl
@[simp] theorem State.wK_cores (s : State) (r : KReg) (v : KWord) :
    (s.wK r v).cores = s.cores := rfl
@[simp] theorem State.wK_rows (s : State) (r : KReg) (v : KWord) :
    (s.wK r v).rows = s.rows := rfl
@[simp] theorem State.wK_dies (s : State) (r : KReg) (v : KWord) :
    (s.wK r v).dies = s.dies := rfl
@[simp] theorem State.wK_baseTlb (s : State) (r : KReg) (v : KWord) :
    (s.wK r v).baseTlb = s.baseTlb := rfl
@[simp] theorem State.wK_pmem (s : State) (r : KReg) (v : KWord) :
    (s.wK r v).pmem = s.pmem := rfl
@[simp] theorem State.wK_stamp (s : State) (r : KReg) (v : KWord) :
    (s.wK r v).stamp = s.stamp := rfl
@[simp] theorem State.wK_ws (s : State) (r : KReg) (v : KWord) :
    (s.wK r v).ws = s.ws := rfl
@[simp] theorem State.wK_lds (s : State) (r : KReg) (v : KWord) :
    (s.wK r v).lds = s.lds := rfl
@[simp] theorem State.wK_opmem (s : State) (r : KReg) (v : KWord) :
    (s.wK r v).opmem = s.opmem := rfl
@[simp] theorem State.wK_acc (s : State) (r : KReg) (v : KWord) :
    (s.wK r v).acc = s.acc := rfl
@[simp] theorem State.wK_ops (s : State) (r : KReg) (v : KWord) :
    (s.wK r v).ops = s.ops := rfl
@[simp] theorem State.wK_nextOp (s : State) (r : KReg) (v : KWord) :
    (s.wK r v).nextOp = s.nextOp := rfl
@[simp] theorem State.wK_cmds (s : State) (r : KReg) (v : KWord) :
    (s.wK r v).cmds = s.cmds := rfl
@[simp] theorem State.wK_xfers (s : State) (r : KReg) (v : KWord) :
    (s.wK r v).xfers = s.xfers := rfl
@[simp] theorem State.wK_hrec (s : State) (r : KReg) (v : KWord) :
    (s.wK r v).hrec = s.hrec := rfl
@[simp] theorem State.wK_barDie (s : State) (r : KReg) (v : KWord) :
    (s.wK r v).barDie = s.barDie := rfl
@[simp] theorem State.wK_backlog (s : State) (r : KReg) (v : KWord) :
    (s.wK r v).backlog = s.backlog := rfl
@[simp] theorem State.wK_ecc (s : State) (r : KReg) (v : KWord) :
    (s.wK r v).ecc = s.ecc := rfl
@[simp] theorem State.wK_hostSeen (s : State) (r : KReg) (v : KWord) :
    (s.wK r v).hostSeen = s.hostSeen := rfl
@[simp] theorem State.wK_gdeWin (s : State) (r : KReg) (v : KWord) :
    (s.wK r v).gdeWin = s.gdeWin := rfl

/-! `State.wP` changes `strands` alone. -/

@[simp] theorem State.wP_cur (s : State) (r : PReg) (v : Bool) :
    (s.wP r v).cur = s.cur := rfl
@[simp] theorem State.wP_agenda (s : State) (r : PReg) (v : Bool) :
    (s.wP r v).agenda = s.agenda := rfl
@[simp] theorem State.wP_order (s : State) (r : PReg) (v : Bool) :
    (s.wP r v).order = s.order := rfl
@[simp] theorem State.wP_lastCore (s : State) (r : PReg) (v : Bool) :
    (s.wP r v).lastCore = s.lastCore := rfl
@[simp] theorem State.wP_evNext (s : State) (r : PReg) (v : Bool) :
    (s.wP r v).evNext = s.evNext := rfl
@[simp] theorem State.wP_steps (s : State) (r : PReg) (v : Bool) :
    (s.wP r v).steps = s.steps := rfl
@[simp] theorem State.wP_free (s : State) (r : PReg) (v : Bool) :
    (s.wP r v).free = s.free := rfl
@[simp] theorem State.wP_time (s : State) (r : PReg) (v : Bool) :
    (s.wP r v).time = s.time := rfl
@[simp] theorem State.wP_power (s : State) (r : PReg) (v : Bool) :
    (s.wP r v).power = s.power := rfl
@[simp] theorem State.wP_boot (s : State) (r : PReg) (v : Bool) :
    (s.wP r v).boot = s.boot := rfl
@[simp] theorem State.wP_conns (s : State) (r : PReg) (v : Bool) :
    (s.wP r v).conns = s.conns := rfl
@[simp] theorem State.wP_outbox (s : State) (r : PReg) (v : Bool) :
    (s.wP r v).outbox = s.outbox := rfl
@[simp] theorem State.wP_supEvents (s : State) (r : PReg) (v : Bool) :
    (s.wP r v).supEvents = s.supEvents := rfl
@[simp] theorem State.wP_ctxs (s : State) (r : PReg) (v : Bool) :
    (s.wP r v).ctxs = s.ctxs := rfl
@[simp] theorem State.wP_lcs (s : State) (r : PReg) (v : Bool) :
    (s.wP r v).lcs = s.lcs := rfl
@[simp] theorem State.wP_cores (s : State) (r : PReg) (v : Bool) :
    (s.wP r v).cores = s.cores := rfl
@[simp] theorem State.wP_rows (s : State) (r : PReg) (v : Bool) :
    (s.wP r v).rows = s.rows := rfl
@[simp] theorem State.wP_dies (s : State) (r : PReg) (v : Bool) :
    (s.wP r v).dies = s.dies := rfl
@[simp] theorem State.wP_baseTlb (s : State) (r : PReg) (v : Bool) :
    (s.wP r v).baseTlb = s.baseTlb := rfl
@[simp] theorem State.wP_pmem (s : State) (r : PReg) (v : Bool) :
    (s.wP r v).pmem = s.pmem := rfl
@[simp] theorem State.wP_stamp (s : State) (r : PReg) (v : Bool) :
    (s.wP r v).stamp = s.stamp := rfl
@[simp] theorem State.wP_ws (s : State) (r : PReg) (v : Bool) :
    (s.wP r v).ws = s.ws := rfl
@[simp] theorem State.wP_lds (s : State) (r : PReg) (v : Bool) :
    (s.wP r v).lds = s.lds := rfl
@[simp] theorem State.wP_opmem (s : State) (r : PReg) (v : Bool) :
    (s.wP r v).opmem = s.opmem := rfl
@[simp] theorem State.wP_acc (s : State) (r : PReg) (v : Bool) :
    (s.wP r v).acc = s.acc := rfl
@[simp] theorem State.wP_ops (s : State) (r : PReg) (v : Bool) :
    (s.wP r v).ops = s.ops := rfl
@[simp] theorem State.wP_nextOp (s : State) (r : PReg) (v : Bool) :
    (s.wP r v).nextOp = s.nextOp := rfl
@[simp] theorem State.wP_cmds (s : State) (r : PReg) (v : Bool) :
    (s.wP r v).cmds = s.cmds := rfl
@[simp] theorem State.wP_xfers (s : State) (r : PReg) (v : Bool) :
    (s.wP r v).xfers = s.xfers := rfl
@[simp] theorem State.wP_hrec (s : State) (r : PReg) (v : Bool) :
    (s.wP r v).hrec = s.hrec := rfl
@[simp] theorem State.wP_barDie (s : State) (r : PReg) (v : Bool) :
    (s.wP r v).barDie = s.barDie := rfl
@[simp] theorem State.wP_backlog (s : State) (r : PReg) (v : Bool) :
    (s.wP r v).backlog = s.backlog := rfl
@[simp] theorem State.wP_ecc (s : State) (r : PReg) (v : Bool) :
    (s.wP r v).ecc = s.ecc := rfl
@[simp] theorem State.wP_hostSeen (s : State) (r : PReg) (v : Bool) :
    (s.wP r v).hostSeen = s.hostSeen := rfl
@[simp] theorem State.wP_gdeWin (s : State) (r : PReg) (v : Bool) :
    (s.wP r v).gdeWin = s.gdeWin := rfl

/-! `State.wB` changes `strands` alone. -/

@[simp] theorem State.wB_cur (s : State) (r : BReg) (v : BoxImg) :
    (s.wB r v).cur = s.cur := rfl
@[simp] theorem State.wB_agenda (s : State) (r : BReg) (v : BoxImg) :
    (s.wB r v).agenda = s.agenda := rfl
@[simp] theorem State.wB_order (s : State) (r : BReg) (v : BoxImg) :
    (s.wB r v).order = s.order := rfl
@[simp] theorem State.wB_lastCore (s : State) (r : BReg) (v : BoxImg) :
    (s.wB r v).lastCore = s.lastCore := rfl
@[simp] theorem State.wB_evNext (s : State) (r : BReg) (v : BoxImg) :
    (s.wB r v).evNext = s.evNext := rfl
@[simp] theorem State.wB_steps (s : State) (r : BReg) (v : BoxImg) :
    (s.wB r v).steps = s.steps := rfl
@[simp] theorem State.wB_free (s : State) (r : BReg) (v : BoxImg) :
    (s.wB r v).free = s.free := rfl
@[simp] theorem State.wB_time (s : State) (r : BReg) (v : BoxImg) :
    (s.wB r v).time = s.time := rfl
@[simp] theorem State.wB_power (s : State) (r : BReg) (v : BoxImg) :
    (s.wB r v).power = s.power := rfl
@[simp] theorem State.wB_boot (s : State) (r : BReg) (v : BoxImg) :
    (s.wB r v).boot = s.boot := rfl
@[simp] theorem State.wB_conns (s : State) (r : BReg) (v : BoxImg) :
    (s.wB r v).conns = s.conns := rfl
@[simp] theorem State.wB_outbox (s : State) (r : BReg) (v : BoxImg) :
    (s.wB r v).outbox = s.outbox := rfl
@[simp] theorem State.wB_supEvents (s : State) (r : BReg) (v : BoxImg) :
    (s.wB r v).supEvents = s.supEvents := rfl
@[simp] theorem State.wB_ctxs (s : State) (r : BReg) (v : BoxImg) :
    (s.wB r v).ctxs = s.ctxs := rfl
@[simp] theorem State.wB_lcs (s : State) (r : BReg) (v : BoxImg) :
    (s.wB r v).lcs = s.lcs := rfl
@[simp] theorem State.wB_cores (s : State) (r : BReg) (v : BoxImg) :
    (s.wB r v).cores = s.cores := rfl
@[simp] theorem State.wB_rows (s : State) (r : BReg) (v : BoxImg) :
    (s.wB r v).rows = s.rows := rfl
@[simp] theorem State.wB_dies (s : State) (r : BReg) (v : BoxImg) :
    (s.wB r v).dies = s.dies := rfl
@[simp] theorem State.wB_baseTlb (s : State) (r : BReg) (v : BoxImg) :
    (s.wB r v).baseTlb = s.baseTlb := rfl
@[simp] theorem State.wB_pmem (s : State) (r : BReg) (v : BoxImg) :
    (s.wB r v).pmem = s.pmem := rfl
@[simp] theorem State.wB_stamp (s : State) (r : BReg) (v : BoxImg) :
    (s.wB r v).stamp = s.stamp := rfl
@[simp] theorem State.wB_ws (s : State) (r : BReg) (v : BoxImg) :
    (s.wB r v).ws = s.ws := rfl
@[simp] theorem State.wB_lds (s : State) (r : BReg) (v : BoxImg) :
    (s.wB r v).lds = s.lds := rfl
@[simp] theorem State.wB_opmem (s : State) (r : BReg) (v : BoxImg) :
    (s.wB r v).opmem = s.opmem := rfl
@[simp] theorem State.wB_acc (s : State) (r : BReg) (v : BoxImg) :
    (s.wB r v).acc = s.acc := rfl
@[simp] theorem State.wB_ops (s : State) (r : BReg) (v : BoxImg) :
    (s.wB r v).ops = s.ops := rfl
@[simp] theorem State.wB_nextOp (s : State) (r : BReg) (v : BoxImg) :
    (s.wB r v).nextOp = s.nextOp := rfl
@[simp] theorem State.wB_cmds (s : State) (r : BReg) (v : BoxImg) :
    (s.wB r v).cmds = s.cmds := rfl
@[simp] theorem State.wB_xfers (s : State) (r : BReg) (v : BoxImg) :
    (s.wB r v).xfers = s.xfers := rfl
@[simp] theorem State.wB_hrec (s : State) (r : BReg) (v : BoxImg) :
    (s.wB r v).hrec = s.hrec := rfl
@[simp] theorem State.wB_barDie (s : State) (r : BReg) (v : BoxImg) :
    (s.wB r v).barDie = s.barDie := rfl
@[simp] theorem State.wB_backlog (s : State) (r : BReg) (v : BoxImg) :
    (s.wB r v).backlog = s.backlog := rfl
@[simp] theorem State.wB_ecc (s : State) (r : BReg) (v : BoxImg) :
    (s.wB r v).ecc = s.ecc := rfl
@[simp] theorem State.wB_hostSeen (s : State) (r : BReg) (v : BoxImg) :
    (s.wB r v).hostSeen = s.hostSeen := rfl
@[simp] theorem State.wB_gdeWin (s : State) (r : BReg) (v : BoxImg) :
    (s.wB r v).gdeWin = s.gdeWin := rfl

/-! `State.adv` changes `strands` alone. -/

@[simp] theorem State.adv_cur (s : State) (n : Nat) :
    (s.adv n).cur = s.cur := rfl
@[simp] theorem State.adv_agenda (s : State) (n : Nat) :
    (s.adv n).agenda = s.agenda := rfl
@[simp] theorem State.adv_order (s : State) (n : Nat) :
    (s.adv n).order = s.order := rfl
@[simp] theorem State.adv_lastCore (s : State) (n : Nat) :
    (s.adv n).lastCore = s.lastCore := rfl
@[simp] theorem State.adv_evNext (s : State) (n : Nat) :
    (s.adv n).evNext = s.evNext := rfl
@[simp] theorem State.adv_steps (s : State) (n : Nat) :
    (s.adv n).steps = s.steps := rfl
@[simp] theorem State.adv_free (s : State) (n : Nat) :
    (s.adv n).free = s.free := rfl
@[simp] theorem State.adv_time (s : State) (n : Nat) :
    (s.adv n).time = s.time := rfl
@[simp] theorem State.adv_power (s : State) (n : Nat) :
    (s.adv n).power = s.power := rfl
@[simp] theorem State.adv_boot (s : State) (n : Nat) :
    (s.adv n).boot = s.boot := rfl
@[simp] theorem State.adv_conns (s : State) (n : Nat) :
    (s.adv n).conns = s.conns := rfl
@[simp] theorem State.adv_outbox (s : State) (n : Nat) :
    (s.adv n).outbox = s.outbox := rfl
@[simp] theorem State.adv_supEvents (s : State) (n : Nat) :
    (s.adv n).supEvents = s.supEvents := rfl
@[simp] theorem State.adv_ctxs (s : State) (n : Nat) :
    (s.adv n).ctxs = s.ctxs := rfl
@[simp] theorem State.adv_lcs (s : State) (n : Nat) :
    (s.adv n).lcs = s.lcs := rfl
@[simp] theorem State.adv_cores (s : State) (n : Nat) :
    (s.adv n).cores = s.cores := rfl
@[simp] theorem State.adv_rows (s : State) (n : Nat) :
    (s.adv n).rows = s.rows := rfl
@[simp] theorem State.adv_dies (s : State) (n : Nat) :
    (s.adv n).dies = s.dies := rfl
@[simp] theorem State.adv_baseTlb (s : State) (n : Nat) :
    (s.adv n).baseTlb = s.baseTlb := rfl
@[simp] theorem State.adv_pmem (s : State) (n : Nat) :
    (s.adv n).pmem = s.pmem := rfl
@[simp] theorem State.adv_stamp (s : State) (n : Nat) :
    (s.adv n).stamp = s.stamp := rfl
@[simp] theorem State.adv_ws (s : State) (n : Nat) :
    (s.adv n).ws = s.ws := rfl
@[simp] theorem State.adv_lds (s : State) (n : Nat) :
    (s.adv n).lds = s.lds := rfl
@[simp] theorem State.adv_opmem (s : State) (n : Nat) :
    (s.adv n).opmem = s.opmem := rfl
@[simp] theorem State.adv_acc (s : State) (n : Nat) :
    (s.adv n).acc = s.acc := rfl
@[simp] theorem State.adv_ops (s : State) (n : Nat) :
    (s.adv n).ops = s.ops := rfl
@[simp] theorem State.adv_nextOp (s : State) (n : Nat) :
    (s.adv n).nextOp = s.nextOp := rfl
@[simp] theorem State.adv_cmds (s : State) (n : Nat) :
    (s.adv n).cmds = s.cmds := rfl
@[simp] theorem State.adv_xfers (s : State) (n : Nat) :
    (s.adv n).xfers = s.xfers := rfl
@[simp] theorem State.adv_hrec (s : State) (n : Nat) :
    (s.adv n).hrec = s.hrec := rfl
@[simp] theorem State.adv_barDie (s : State) (n : Nat) :
    (s.adv n).barDie = s.barDie := rfl
@[simp] theorem State.adv_backlog (s : State) (n : Nat) :
    (s.adv n).backlog = s.backlog := rfl
@[simp] theorem State.adv_ecc (s : State) (n : Nat) :
    (s.adv n).ecc = s.ecc := rfl
@[simp] theorem State.adv_hostSeen (s : State) (n : Nat) :
    (s.adv n).hostSeen = s.hostSeen := rfl
@[simp] theorem State.adv_gdeWin (s : State) (n : Nat) :
    (s.adv n).gdeWin = s.gdeWin := rfl

/-! `State.modCore` changes `cores` alone. -/

@[simp] theorem State.modCore_cur (s : State) (c : Nat) (f : Core → Core) :
    (s.modCore c f).cur = s.cur := rfl
@[simp] theorem State.modCore_agenda (s : State) (c : Nat) (f : Core → Core) :
    (s.modCore c f).agenda = s.agenda := rfl
@[simp] theorem State.modCore_order (s : State) (c : Nat) (f : Core → Core) :
    (s.modCore c f).order = s.order := rfl
@[simp] theorem State.modCore_lastCore (s : State) (c : Nat) (f : Core → Core) :
    (s.modCore c f).lastCore = s.lastCore := rfl
@[simp] theorem State.modCore_evNext (s : State) (c : Nat) (f : Core → Core) :
    (s.modCore c f).evNext = s.evNext := rfl
@[simp] theorem State.modCore_steps (s : State) (c : Nat) (f : Core → Core) :
    (s.modCore c f).steps = s.steps := rfl
@[simp] theorem State.modCore_free (s : State) (c : Nat) (f : Core → Core) :
    (s.modCore c f).free = s.free := rfl
@[simp] theorem State.modCore_time (s : State) (c : Nat) (f : Core → Core) :
    (s.modCore c f).time = s.time := rfl
@[simp] theorem State.modCore_power (s : State) (c : Nat) (f : Core → Core) :
    (s.modCore c f).power = s.power := rfl
@[simp] theorem State.modCore_boot (s : State) (c : Nat) (f : Core → Core) :
    (s.modCore c f).boot = s.boot := rfl
@[simp] theorem State.modCore_conns (s : State) (c : Nat) (f : Core → Core) :
    (s.modCore c f).conns = s.conns := rfl
@[simp] theorem State.modCore_outbox (s : State) (c : Nat) (f : Core → Core) :
    (s.modCore c f).outbox = s.outbox := rfl
@[simp] theorem State.modCore_supEvents (s : State) (c : Nat) (f : Core → Core) :
    (s.modCore c f).supEvents = s.supEvents := rfl
@[simp] theorem State.modCore_ctxs (s : State) (c : Nat) (f : Core → Core) :
    (s.modCore c f).ctxs = s.ctxs := rfl
@[simp] theorem State.modCore_lcs (s : State) (c : Nat) (f : Core → Core) :
    (s.modCore c f).lcs = s.lcs := rfl
@[simp] theorem State.modCore_strands (s : State) (c : Nat) (f : Core → Core) :
    (s.modCore c f).strands = s.strands := rfl
@[simp] theorem State.modCore_rows (s : State) (c : Nat) (f : Core → Core) :
    (s.modCore c f).rows = s.rows := rfl
@[simp] theorem State.modCore_dies (s : State) (c : Nat) (f : Core → Core) :
    (s.modCore c f).dies = s.dies := rfl
@[simp] theorem State.modCore_baseTlb (s : State) (c : Nat) (f : Core → Core) :
    (s.modCore c f).baseTlb = s.baseTlb := rfl
@[simp] theorem State.modCore_pmem (s : State) (c : Nat) (f : Core → Core) :
    (s.modCore c f).pmem = s.pmem := rfl
@[simp] theorem State.modCore_stamp (s : State) (c : Nat) (f : Core → Core) :
    (s.modCore c f).stamp = s.stamp := rfl
@[simp] theorem State.modCore_ws (s : State) (c : Nat) (f : Core → Core) :
    (s.modCore c f).ws = s.ws := rfl
@[simp] theorem State.modCore_lds (s : State) (c : Nat) (f : Core → Core) :
    (s.modCore c f).lds = s.lds := rfl
@[simp] theorem State.modCore_opmem (s : State) (c : Nat) (f : Core → Core) :
    (s.modCore c f).opmem = s.opmem := rfl
@[simp] theorem State.modCore_acc (s : State) (c : Nat) (f : Core → Core) :
    (s.modCore c f).acc = s.acc := rfl
@[simp] theorem State.modCore_ops (s : State) (c : Nat) (f : Core → Core) :
    (s.modCore c f).ops = s.ops := rfl
@[simp] theorem State.modCore_nextOp (s : State) (c : Nat) (f : Core → Core) :
    (s.modCore c f).nextOp = s.nextOp := rfl
@[simp] theorem State.modCore_cmds (s : State) (c : Nat) (f : Core → Core) :
    (s.modCore c f).cmds = s.cmds := rfl
@[simp] theorem State.modCore_xfers (s : State) (c : Nat) (f : Core → Core) :
    (s.modCore c f).xfers = s.xfers := rfl
@[simp] theorem State.modCore_hrec (s : State) (c : Nat) (f : Core → Core) :
    (s.modCore c f).hrec = s.hrec := rfl
@[simp] theorem State.modCore_barDie (s : State) (c : Nat) (f : Core → Core) :
    (s.modCore c f).barDie = s.barDie := rfl
@[simp] theorem State.modCore_backlog (s : State) (c : Nat) (f : Core → Core) :
    (s.modCore c f).backlog = s.backlog := rfl
@[simp] theorem State.modCore_ecc (s : State) (c : Nat) (f : Core → Core) :
    (s.modCore c f).ecc = s.ecc := rfl
@[simp] theorem State.modCore_hostSeen (s : State) (c : Nat) (f : Core → Core) :
    (s.modCore c f).hostSeen = s.hostSeen := rfl
@[simp] theorem State.modCore_gdeWin (s : State) (c : Nat) (f : Core → Core) :
    (s.modCore c f).gdeWin = s.gdeWin := rfl

/-! `State.modRow` changes `rows` alone. -/

@[simp] theorem State.modRow_cur (s : State) (r : Nat) (f : Row → Row) :
    (s.modRow r f).cur = s.cur := rfl
@[simp] theorem State.modRow_agenda (s : State) (r : Nat) (f : Row → Row) :
    (s.modRow r f).agenda = s.agenda := rfl
@[simp] theorem State.modRow_order (s : State) (r : Nat) (f : Row → Row) :
    (s.modRow r f).order = s.order := rfl
@[simp] theorem State.modRow_lastCore (s : State) (r : Nat) (f : Row → Row) :
    (s.modRow r f).lastCore = s.lastCore := rfl
@[simp] theorem State.modRow_evNext (s : State) (r : Nat) (f : Row → Row) :
    (s.modRow r f).evNext = s.evNext := rfl
@[simp] theorem State.modRow_steps (s : State) (r : Nat) (f : Row → Row) :
    (s.modRow r f).steps = s.steps := rfl
@[simp] theorem State.modRow_free (s : State) (r : Nat) (f : Row → Row) :
    (s.modRow r f).free = s.free := rfl
@[simp] theorem State.modRow_time (s : State) (r : Nat) (f : Row → Row) :
    (s.modRow r f).time = s.time := rfl
@[simp] theorem State.modRow_power (s : State) (r : Nat) (f : Row → Row) :
    (s.modRow r f).power = s.power := rfl
@[simp] theorem State.modRow_boot (s : State) (r : Nat) (f : Row → Row) :
    (s.modRow r f).boot = s.boot := rfl
@[simp] theorem State.modRow_conns (s : State) (r : Nat) (f : Row → Row) :
    (s.modRow r f).conns = s.conns := rfl
@[simp] theorem State.modRow_outbox (s : State) (r : Nat) (f : Row → Row) :
    (s.modRow r f).outbox = s.outbox := rfl
@[simp] theorem State.modRow_supEvents (s : State) (r : Nat) (f : Row → Row) :
    (s.modRow r f).supEvents = s.supEvents := rfl
@[simp] theorem State.modRow_ctxs (s : State) (r : Nat) (f : Row → Row) :
    (s.modRow r f).ctxs = s.ctxs := rfl
@[simp] theorem State.modRow_lcs (s : State) (r : Nat) (f : Row → Row) :
    (s.modRow r f).lcs = s.lcs := rfl
@[simp] theorem State.modRow_strands (s : State) (r : Nat) (f : Row → Row) :
    (s.modRow r f).strands = s.strands := rfl
@[simp] theorem State.modRow_cores (s : State) (r : Nat) (f : Row → Row) :
    (s.modRow r f).cores = s.cores := rfl
@[simp] theorem State.modRow_dies (s : State) (r : Nat) (f : Row → Row) :
    (s.modRow r f).dies = s.dies := rfl
@[simp] theorem State.modRow_baseTlb (s : State) (r : Nat) (f : Row → Row) :
    (s.modRow r f).baseTlb = s.baseTlb := rfl
@[simp] theorem State.modRow_pmem (s : State) (r : Nat) (f : Row → Row) :
    (s.modRow r f).pmem = s.pmem := rfl
@[simp] theorem State.modRow_stamp (s : State) (r : Nat) (f : Row → Row) :
    (s.modRow r f).stamp = s.stamp := rfl
@[simp] theorem State.modRow_ws (s : State) (r : Nat) (f : Row → Row) :
    (s.modRow r f).ws = s.ws := rfl
@[simp] theorem State.modRow_lds (s : State) (r : Nat) (f : Row → Row) :
    (s.modRow r f).lds = s.lds := rfl
@[simp] theorem State.modRow_opmem (s : State) (r : Nat) (f : Row → Row) :
    (s.modRow r f).opmem = s.opmem := rfl
@[simp] theorem State.modRow_acc (s : State) (r : Nat) (f : Row → Row) :
    (s.modRow r f).acc = s.acc := rfl
@[simp] theorem State.modRow_ops (s : State) (r : Nat) (f : Row → Row) :
    (s.modRow r f).ops = s.ops := rfl
@[simp] theorem State.modRow_nextOp (s : State) (r : Nat) (f : Row → Row) :
    (s.modRow r f).nextOp = s.nextOp := rfl
@[simp] theorem State.modRow_cmds (s : State) (r : Nat) (f : Row → Row) :
    (s.modRow r f).cmds = s.cmds := rfl
@[simp] theorem State.modRow_xfers (s : State) (r : Nat) (f : Row → Row) :
    (s.modRow r f).xfers = s.xfers := rfl
@[simp] theorem State.modRow_hrec (s : State) (r : Nat) (f : Row → Row) :
    (s.modRow r f).hrec = s.hrec := rfl
@[simp] theorem State.modRow_barDie (s : State) (r : Nat) (f : Row → Row) :
    (s.modRow r f).barDie = s.barDie := rfl
@[simp] theorem State.modRow_backlog (s : State) (r : Nat) (f : Row → Row) :
    (s.modRow r f).backlog = s.backlog := rfl
@[simp] theorem State.modRow_ecc (s : State) (r : Nat) (f : Row → Row) :
    (s.modRow r f).ecc = s.ecc := rfl
@[simp] theorem State.modRow_hostSeen (s : State) (r : Nat) (f : Row → Row) :
    (s.modRow r f).hostSeen = s.hostSeen := rfl
@[simp] theorem State.modRow_gdeWin (s : State) (r : Nat) (f : Row → Row) :
    (s.modRow r f).gdeWin = s.gdeWin := rfl

/-! `State.modDie` changes `dies` alone. -/

@[simp] theorem State.modDie_cur (s : State) (d : Fin 4) (f : Die → Die) :
    (s.modDie d f).cur = s.cur := rfl
@[simp] theorem State.modDie_agenda (s : State) (d : Fin 4) (f : Die → Die) :
    (s.modDie d f).agenda = s.agenda := rfl
@[simp] theorem State.modDie_order (s : State) (d : Fin 4) (f : Die → Die) :
    (s.modDie d f).order = s.order := rfl
@[simp] theorem State.modDie_lastCore (s : State) (d : Fin 4) (f : Die → Die) :
    (s.modDie d f).lastCore = s.lastCore := rfl
@[simp] theorem State.modDie_evNext (s : State) (d : Fin 4) (f : Die → Die) :
    (s.modDie d f).evNext = s.evNext := rfl
@[simp] theorem State.modDie_steps (s : State) (d : Fin 4) (f : Die → Die) :
    (s.modDie d f).steps = s.steps := rfl
@[simp] theorem State.modDie_free (s : State) (d : Fin 4) (f : Die → Die) :
    (s.modDie d f).free = s.free := rfl
@[simp] theorem State.modDie_time (s : State) (d : Fin 4) (f : Die → Die) :
    (s.modDie d f).time = s.time := rfl
@[simp] theorem State.modDie_power (s : State) (d : Fin 4) (f : Die → Die) :
    (s.modDie d f).power = s.power := rfl
@[simp] theorem State.modDie_boot (s : State) (d : Fin 4) (f : Die → Die) :
    (s.modDie d f).boot = s.boot := rfl
@[simp] theorem State.modDie_conns (s : State) (d : Fin 4) (f : Die → Die) :
    (s.modDie d f).conns = s.conns := rfl
@[simp] theorem State.modDie_outbox (s : State) (d : Fin 4) (f : Die → Die) :
    (s.modDie d f).outbox = s.outbox := rfl
@[simp] theorem State.modDie_supEvents (s : State) (d : Fin 4) (f : Die → Die) :
    (s.modDie d f).supEvents = s.supEvents := rfl
@[simp] theorem State.modDie_ctxs (s : State) (d : Fin 4) (f : Die → Die) :
    (s.modDie d f).ctxs = s.ctxs := rfl
@[simp] theorem State.modDie_lcs (s : State) (d : Fin 4) (f : Die → Die) :
    (s.modDie d f).lcs = s.lcs := rfl
@[simp] theorem State.modDie_strands (s : State) (d : Fin 4) (f : Die → Die) :
    (s.modDie d f).strands = s.strands := rfl
@[simp] theorem State.modDie_cores (s : State) (d : Fin 4) (f : Die → Die) :
    (s.modDie d f).cores = s.cores := rfl
@[simp] theorem State.modDie_rows (s : State) (d : Fin 4) (f : Die → Die) :
    (s.modDie d f).rows = s.rows := rfl
@[simp] theorem State.modDie_baseTlb (s : State) (d : Fin 4) (f : Die → Die) :
    (s.modDie d f).baseTlb = s.baseTlb := rfl
@[simp] theorem State.modDie_pmem (s : State) (d : Fin 4) (f : Die → Die) :
    (s.modDie d f).pmem = s.pmem := rfl
@[simp] theorem State.modDie_stamp (s : State) (d : Fin 4) (f : Die → Die) :
    (s.modDie d f).stamp = s.stamp := rfl
@[simp] theorem State.modDie_ws (s : State) (d : Fin 4) (f : Die → Die) :
    (s.modDie d f).ws = s.ws := rfl
@[simp] theorem State.modDie_lds (s : State) (d : Fin 4) (f : Die → Die) :
    (s.modDie d f).lds = s.lds := rfl
@[simp] theorem State.modDie_opmem (s : State) (d : Fin 4) (f : Die → Die) :
    (s.modDie d f).opmem = s.opmem := rfl
@[simp] theorem State.modDie_acc (s : State) (d : Fin 4) (f : Die → Die) :
    (s.modDie d f).acc = s.acc := rfl
@[simp] theorem State.modDie_ops (s : State) (d : Fin 4) (f : Die → Die) :
    (s.modDie d f).ops = s.ops := rfl
@[simp] theorem State.modDie_nextOp (s : State) (d : Fin 4) (f : Die → Die) :
    (s.modDie d f).nextOp = s.nextOp := rfl
@[simp] theorem State.modDie_cmds (s : State) (d : Fin 4) (f : Die → Die) :
    (s.modDie d f).cmds = s.cmds := rfl
@[simp] theorem State.modDie_xfers (s : State) (d : Fin 4) (f : Die → Die) :
    (s.modDie d f).xfers = s.xfers := rfl
@[simp] theorem State.modDie_hrec (s : State) (d : Fin 4) (f : Die → Die) :
    (s.modDie d f).hrec = s.hrec := rfl
@[simp] theorem State.modDie_barDie (s : State) (d : Fin 4) (f : Die → Die) :
    (s.modDie d f).barDie = s.barDie := rfl
@[simp] theorem State.modDie_backlog (s : State) (d : Fin 4) (f : Die → Die) :
    (s.modDie d f).backlog = s.backlog := rfl
@[simp] theorem State.modDie_ecc (s : State) (d : Fin 4) (f : Die → Die) :
    (s.modDie d f).ecc = s.ecc := rfl
@[simp] theorem State.modDie_hostSeen (s : State) (d : Fin 4) (f : Die → Die) :
    (s.modDie d f).hostSeen = s.hostSeen := rfl
@[simp] theorem State.modDie_gdeWin (s : State) (d : Fin 4) (f : Die → Die) :
    (s.modDie d f).gdeWin = s.gdeWin := rfl

/-! `State.modLc` changes `lcs` alone. -/

@[simp] theorem State.modLc_cur (s : State) (k : Nat) (f : LCore → LCore) :
    (s.modLc k f).cur = s.cur := rfl
@[simp] theorem State.modLc_agenda (s : State) (k : Nat) (f : LCore → LCore) :
    (s.modLc k f).agenda = s.agenda := rfl
@[simp] theorem State.modLc_order (s : State) (k : Nat) (f : LCore → LCore) :
    (s.modLc k f).order = s.order := rfl
@[simp] theorem State.modLc_lastCore (s : State) (k : Nat) (f : LCore → LCore) :
    (s.modLc k f).lastCore = s.lastCore := rfl
@[simp] theorem State.modLc_evNext (s : State) (k : Nat) (f : LCore → LCore) :
    (s.modLc k f).evNext = s.evNext := rfl
@[simp] theorem State.modLc_steps (s : State) (k : Nat) (f : LCore → LCore) :
    (s.modLc k f).steps = s.steps := rfl
@[simp] theorem State.modLc_free (s : State) (k : Nat) (f : LCore → LCore) :
    (s.modLc k f).free = s.free := rfl
@[simp] theorem State.modLc_time (s : State) (k : Nat) (f : LCore → LCore) :
    (s.modLc k f).time = s.time := rfl
@[simp] theorem State.modLc_power (s : State) (k : Nat) (f : LCore → LCore) :
    (s.modLc k f).power = s.power := rfl
@[simp] theorem State.modLc_boot (s : State) (k : Nat) (f : LCore → LCore) :
    (s.modLc k f).boot = s.boot := rfl
@[simp] theorem State.modLc_conns (s : State) (k : Nat) (f : LCore → LCore) :
    (s.modLc k f).conns = s.conns := rfl
@[simp] theorem State.modLc_outbox (s : State) (k : Nat) (f : LCore → LCore) :
    (s.modLc k f).outbox = s.outbox := rfl
@[simp] theorem State.modLc_supEvents (s : State) (k : Nat) (f : LCore → LCore) :
    (s.modLc k f).supEvents = s.supEvents := rfl
@[simp] theorem State.modLc_ctxs (s : State) (k : Nat) (f : LCore → LCore) :
    (s.modLc k f).ctxs = s.ctxs := rfl
@[simp] theorem State.modLc_strands (s : State) (k : Nat) (f : LCore → LCore) :
    (s.modLc k f).strands = s.strands := rfl
@[simp] theorem State.modLc_cores (s : State) (k : Nat) (f : LCore → LCore) :
    (s.modLc k f).cores = s.cores := rfl
@[simp] theorem State.modLc_rows (s : State) (k : Nat) (f : LCore → LCore) :
    (s.modLc k f).rows = s.rows := rfl
@[simp] theorem State.modLc_dies (s : State) (k : Nat) (f : LCore → LCore) :
    (s.modLc k f).dies = s.dies := rfl
@[simp] theorem State.modLc_baseTlb (s : State) (k : Nat) (f : LCore → LCore) :
    (s.modLc k f).baseTlb = s.baseTlb := rfl
@[simp] theorem State.modLc_pmem (s : State) (k : Nat) (f : LCore → LCore) :
    (s.modLc k f).pmem = s.pmem := rfl
@[simp] theorem State.modLc_stamp (s : State) (k : Nat) (f : LCore → LCore) :
    (s.modLc k f).stamp = s.stamp := rfl
@[simp] theorem State.modLc_ws (s : State) (k : Nat) (f : LCore → LCore) :
    (s.modLc k f).ws = s.ws := rfl
@[simp] theorem State.modLc_lds (s : State) (k : Nat) (f : LCore → LCore) :
    (s.modLc k f).lds = s.lds := rfl
@[simp] theorem State.modLc_opmem (s : State) (k : Nat) (f : LCore → LCore) :
    (s.modLc k f).opmem = s.opmem := rfl
@[simp] theorem State.modLc_acc (s : State) (k : Nat) (f : LCore → LCore) :
    (s.modLc k f).acc = s.acc := rfl
@[simp] theorem State.modLc_ops (s : State) (k : Nat) (f : LCore → LCore) :
    (s.modLc k f).ops = s.ops := rfl
@[simp] theorem State.modLc_nextOp (s : State) (k : Nat) (f : LCore → LCore) :
    (s.modLc k f).nextOp = s.nextOp := rfl
@[simp] theorem State.modLc_cmds (s : State) (k : Nat) (f : LCore → LCore) :
    (s.modLc k f).cmds = s.cmds := rfl
@[simp] theorem State.modLc_xfers (s : State) (k : Nat) (f : LCore → LCore) :
    (s.modLc k f).xfers = s.xfers := rfl
@[simp] theorem State.modLc_hrec (s : State) (k : Nat) (f : LCore → LCore) :
    (s.modLc k f).hrec = s.hrec := rfl
@[simp] theorem State.modLc_barDie (s : State) (k : Nat) (f : LCore → LCore) :
    (s.modLc k f).barDie = s.barDie := rfl
@[simp] theorem State.modLc_backlog (s : State) (k : Nat) (f : LCore → LCore) :
    (s.modLc k f).backlog = s.backlog := rfl
@[simp] theorem State.modLc_ecc (s : State) (k : Nat) (f : LCore → LCore) :
    (s.modLc k f).ecc = s.ecc := rfl
@[simp] theorem State.modLc_hostSeen (s : State) (k : Nat) (f : LCore → LCore) :
    (s.modLc k f).hostSeen = s.hostSeen := rfl
@[simp] theorem State.modLc_gdeWin (s : State) (k : Nat) (f : LCore → LCore) :
    (s.modLc k f).gdeWin = s.gdeWin := rfl

/-! `State.modRegs` changes `cores` alone. -/

@[simp] theorem State.modRegs_cur (s : State) (c k : Nat) (f : CtxRegs → CtxRegs) :
    (s.modRegs c k f).cur = s.cur := rfl
@[simp] theorem State.modRegs_agenda (s : State) (c k : Nat) (f : CtxRegs → CtxRegs) :
    (s.modRegs c k f).agenda = s.agenda := rfl
@[simp] theorem State.modRegs_order (s : State) (c k : Nat) (f : CtxRegs → CtxRegs) :
    (s.modRegs c k f).order = s.order := rfl
@[simp] theorem State.modRegs_lastCore (s : State) (c k : Nat) (f : CtxRegs → CtxRegs) :
    (s.modRegs c k f).lastCore = s.lastCore := rfl
@[simp] theorem State.modRegs_evNext (s : State) (c k : Nat) (f : CtxRegs → CtxRegs) :
    (s.modRegs c k f).evNext = s.evNext := rfl
@[simp] theorem State.modRegs_steps (s : State) (c k : Nat) (f : CtxRegs → CtxRegs) :
    (s.modRegs c k f).steps = s.steps := rfl
@[simp] theorem State.modRegs_free (s : State) (c k : Nat) (f : CtxRegs → CtxRegs) :
    (s.modRegs c k f).free = s.free := rfl
@[simp] theorem State.modRegs_time (s : State) (c k : Nat) (f : CtxRegs → CtxRegs) :
    (s.modRegs c k f).time = s.time := rfl
@[simp] theorem State.modRegs_power (s : State) (c k : Nat) (f : CtxRegs → CtxRegs) :
    (s.modRegs c k f).power = s.power := rfl
@[simp] theorem State.modRegs_boot (s : State) (c k : Nat) (f : CtxRegs → CtxRegs) :
    (s.modRegs c k f).boot = s.boot := rfl
@[simp] theorem State.modRegs_conns (s : State) (c k : Nat) (f : CtxRegs → CtxRegs) :
    (s.modRegs c k f).conns = s.conns := rfl
@[simp] theorem State.modRegs_outbox (s : State) (c k : Nat) (f : CtxRegs → CtxRegs) :
    (s.modRegs c k f).outbox = s.outbox := rfl
@[simp] theorem State.modRegs_supEvents (s : State) (c k : Nat) (f : CtxRegs → CtxRegs) :
    (s.modRegs c k f).supEvents = s.supEvents := rfl
@[simp] theorem State.modRegs_ctxs (s : State) (c k : Nat) (f : CtxRegs → CtxRegs) :
    (s.modRegs c k f).ctxs = s.ctxs := rfl
@[simp] theorem State.modRegs_lcs (s : State) (c k : Nat) (f : CtxRegs → CtxRegs) :
    (s.modRegs c k f).lcs = s.lcs := rfl
@[simp] theorem State.modRegs_strands (s : State) (c k : Nat) (f : CtxRegs → CtxRegs) :
    (s.modRegs c k f).strands = s.strands := rfl
@[simp] theorem State.modRegs_rows (s : State) (c k : Nat) (f : CtxRegs → CtxRegs) :
    (s.modRegs c k f).rows = s.rows := rfl
@[simp] theorem State.modRegs_dies (s : State) (c k : Nat) (f : CtxRegs → CtxRegs) :
    (s.modRegs c k f).dies = s.dies := rfl
@[simp] theorem State.modRegs_baseTlb (s : State) (c k : Nat) (f : CtxRegs → CtxRegs) :
    (s.modRegs c k f).baseTlb = s.baseTlb := rfl
@[simp] theorem State.modRegs_pmem (s : State) (c k : Nat) (f : CtxRegs → CtxRegs) :
    (s.modRegs c k f).pmem = s.pmem := rfl
@[simp] theorem State.modRegs_stamp (s : State) (c k : Nat) (f : CtxRegs → CtxRegs) :
    (s.modRegs c k f).stamp = s.stamp := rfl
@[simp] theorem State.modRegs_ws (s : State) (c k : Nat) (f : CtxRegs → CtxRegs) :
    (s.modRegs c k f).ws = s.ws := rfl
@[simp] theorem State.modRegs_lds (s : State) (c k : Nat) (f : CtxRegs → CtxRegs) :
    (s.modRegs c k f).lds = s.lds := rfl
@[simp] theorem State.modRegs_opmem (s : State) (c k : Nat) (f : CtxRegs → CtxRegs) :
    (s.modRegs c k f).opmem = s.opmem := rfl
@[simp] theorem State.modRegs_acc (s : State) (c k : Nat) (f : CtxRegs → CtxRegs) :
    (s.modRegs c k f).acc = s.acc := rfl
@[simp] theorem State.modRegs_ops (s : State) (c k : Nat) (f : CtxRegs → CtxRegs) :
    (s.modRegs c k f).ops = s.ops := rfl
@[simp] theorem State.modRegs_nextOp (s : State) (c k : Nat) (f : CtxRegs → CtxRegs) :
    (s.modRegs c k f).nextOp = s.nextOp := rfl
@[simp] theorem State.modRegs_cmds (s : State) (c k : Nat) (f : CtxRegs → CtxRegs) :
    (s.modRegs c k f).cmds = s.cmds := rfl
@[simp] theorem State.modRegs_xfers (s : State) (c k : Nat) (f : CtxRegs → CtxRegs) :
    (s.modRegs c k f).xfers = s.xfers := rfl
@[simp] theorem State.modRegs_hrec (s : State) (c k : Nat) (f : CtxRegs → CtxRegs) :
    (s.modRegs c k f).hrec = s.hrec := rfl
@[simp] theorem State.modRegs_barDie (s : State) (c k : Nat) (f : CtxRegs → CtxRegs) :
    (s.modRegs c k f).barDie = s.barDie := rfl
@[simp] theorem State.modRegs_backlog (s : State) (c k : Nat) (f : CtxRegs → CtxRegs) :
    (s.modRegs c k f).backlog = s.backlog := rfl
@[simp] theorem State.modRegs_ecc (s : State) (c k : Nat) (f : CtxRegs → CtxRegs) :
    (s.modRegs c k f).ecc = s.ecc := rfl
@[simp] theorem State.modRegs_hostSeen (s : State) (c k : Nat) (f : CtxRegs → CtxRegs) :
    (s.modRegs c k f).hostSeen = s.hostSeen := rfl
@[simp] theorem State.modRegs_gdeWin (s : State) (c k : Nat) (f : CtxRegs → CtxRegs) :
    (s.modRegs c k f).gdeWin = s.gdeWin := rfl

/-! `State.post` changes `agenda` alone. -/

@[simp] theorem State.post_cur (s : State) (u : Nat) (i : Instr) :
    (s.post u i).cur = s.cur := rfl
@[simp] theorem State.post_order (s : State) (u : Nat) (i : Instr) :
    (s.post u i).order = s.order := rfl
@[simp] theorem State.post_lastCore (s : State) (u : Nat) (i : Instr) :
    (s.post u i).lastCore = s.lastCore := rfl
@[simp] theorem State.post_evNext (s : State) (u : Nat) (i : Instr) :
    (s.post u i).evNext = s.evNext := rfl
@[simp] theorem State.post_steps (s : State) (u : Nat) (i : Instr) :
    (s.post u i).steps = s.steps := rfl
@[simp] theorem State.post_free (s : State) (u : Nat) (i : Instr) :
    (s.post u i).free = s.free := rfl
@[simp] theorem State.post_time (s : State) (u : Nat) (i : Instr) :
    (s.post u i).time = s.time := rfl
@[simp] theorem State.post_power (s : State) (u : Nat) (i : Instr) :
    (s.post u i).power = s.power := rfl
@[simp] theorem State.post_boot (s : State) (u : Nat) (i : Instr) :
    (s.post u i).boot = s.boot := rfl
@[simp] theorem State.post_conns (s : State) (u : Nat) (i : Instr) :
    (s.post u i).conns = s.conns := rfl
@[simp] theorem State.post_outbox (s : State) (u : Nat) (i : Instr) :
    (s.post u i).outbox = s.outbox := rfl
@[simp] theorem State.post_supEvents (s : State) (u : Nat) (i : Instr) :
    (s.post u i).supEvents = s.supEvents := rfl
@[simp] theorem State.post_ctxs (s : State) (u : Nat) (i : Instr) :
    (s.post u i).ctxs = s.ctxs := rfl
@[simp] theorem State.post_lcs (s : State) (u : Nat) (i : Instr) :
    (s.post u i).lcs = s.lcs := rfl
@[simp] theorem State.post_strands (s : State) (u : Nat) (i : Instr) :
    (s.post u i).strands = s.strands := rfl
@[simp] theorem State.post_cores (s : State) (u : Nat) (i : Instr) :
    (s.post u i).cores = s.cores := rfl
@[simp] theorem State.post_rows (s : State) (u : Nat) (i : Instr) :
    (s.post u i).rows = s.rows := rfl
@[simp] theorem State.post_dies (s : State) (u : Nat) (i : Instr) :
    (s.post u i).dies = s.dies := rfl
@[simp] theorem State.post_baseTlb (s : State) (u : Nat) (i : Instr) :
    (s.post u i).baseTlb = s.baseTlb := rfl
@[simp] theorem State.post_pmem (s : State) (u : Nat) (i : Instr) :
    (s.post u i).pmem = s.pmem := rfl
@[simp] theorem State.post_stamp (s : State) (u : Nat) (i : Instr) :
    (s.post u i).stamp = s.stamp := rfl
@[simp] theorem State.post_ws (s : State) (u : Nat) (i : Instr) :
    (s.post u i).ws = s.ws := rfl
@[simp] theorem State.post_lds (s : State) (u : Nat) (i : Instr) :
    (s.post u i).lds = s.lds := rfl
@[simp] theorem State.post_opmem (s : State) (u : Nat) (i : Instr) :
    (s.post u i).opmem = s.opmem := rfl
@[simp] theorem State.post_acc (s : State) (u : Nat) (i : Instr) :
    (s.post u i).acc = s.acc := rfl
@[simp] theorem State.post_ops (s : State) (u : Nat) (i : Instr) :
    (s.post u i).ops = s.ops := rfl
@[simp] theorem State.post_nextOp (s : State) (u : Nat) (i : Instr) :
    (s.post u i).nextOp = s.nextOp := rfl
@[simp] theorem State.post_cmds (s : State) (u : Nat) (i : Instr) :
    (s.post u i).cmds = s.cmds := rfl
@[simp] theorem State.post_xfers (s : State) (u : Nat) (i : Instr) :
    (s.post u i).xfers = s.xfers := rfl
@[simp] theorem State.post_hrec (s : State) (u : Nat) (i : Instr) :
    (s.post u i).hrec = s.hrec := rfl
@[simp] theorem State.post_barDie (s : State) (u : Nat) (i : Instr) :
    (s.post u i).barDie = s.barDie := rfl
@[simp] theorem State.post_backlog (s : State) (u : Nat) (i : Instr) :
    (s.post u i).backlog = s.backlog := rfl
@[simp] theorem State.post_ecc (s : State) (u : Nat) (i : Instr) :
    (s.post u i).ecc = s.ecc := rfl
@[simp] theorem State.post_hostSeen (s : State) (u : Nat) (i : Instr) :
    (s.post u i).hostSeen = s.hostSeen := rfl
@[simp] theorem State.post_gdeWin (s : State) (u : Nat) (i : Instr) :
    (s.post u i).gdeWin = s.gdeWin := rfl

/-! `State.posts` changes `agenda` alone. -/

@[simp] theorem State.posts_cur (s : State) (l : List (Nat × Instr)) :
    (s.posts l).cur = s.cur := rfl
@[simp] theorem State.posts_order (s : State) (l : List (Nat × Instr)) :
    (s.posts l).order = s.order := rfl
@[simp] theorem State.posts_lastCore (s : State) (l : List (Nat × Instr)) :
    (s.posts l).lastCore = s.lastCore := rfl
@[simp] theorem State.posts_evNext (s : State) (l : List (Nat × Instr)) :
    (s.posts l).evNext = s.evNext := rfl
@[simp] theorem State.posts_steps (s : State) (l : List (Nat × Instr)) :
    (s.posts l).steps = s.steps := rfl
@[simp] theorem State.posts_free (s : State) (l : List (Nat × Instr)) :
    (s.posts l).free = s.free := rfl
@[simp] theorem State.posts_time (s : State) (l : List (Nat × Instr)) :
    (s.posts l).time = s.time := rfl
@[simp] theorem State.posts_power (s : State) (l : List (Nat × Instr)) :
    (s.posts l).power = s.power := rfl
@[simp] theorem State.posts_boot (s : State) (l : List (Nat × Instr)) :
    (s.posts l).boot = s.boot := rfl
@[simp] theorem State.posts_conns (s : State) (l : List (Nat × Instr)) :
    (s.posts l).conns = s.conns := rfl
@[simp] theorem State.posts_outbox (s : State) (l : List (Nat × Instr)) :
    (s.posts l).outbox = s.outbox := rfl
@[simp] theorem State.posts_supEvents (s : State) (l : List (Nat × Instr)) :
    (s.posts l).supEvents = s.supEvents := rfl
@[simp] theorem State.posts_ctxs (s : State) (l : List (Nat × Instr)) :
    (s.posts l).ctxs = s.ctxs := rfl
@[simp] theorem State.posts_lcs (s : State) (l : List (Nat × Instr)) :
    (s.posts l).lcs = s.lcs := rfl
@[simp] theorem State.posts_strands (s : State) (l : List (Nat × Instr)) :
    (s.posts l).strands = s.strands := rfl
@[simp] theorem State.posts_cores (s : State) (l : List (Nat × Instr)) :
    (s.posts l).cores = s.cores := rfl
@[simp] theorem State.posts_rows (s : State) (l : List (Nat × Instr)) :
    (s.posts l).rows = s.rows := rfl
@[simp] theorem State.posts_dies (s : State) (l : List (Nat × Instr)) :
    (s.posts l).dies = s.dies := rfl
@[simp] theorem State.posts_baseTlb (s : State) (l : List (Nat × Instr)) :
    (s.posts l).baseTlb = s.baseTlb := rfl
@[simp] theorem State.posts_pmem (s : State) (l : List (Nat × Instr)) :
    (s.posts l).pmem = s.pmem := rfl
@[simp] theorem State.posts_stamp (s : State) (l : List (Nat × Instr)) :
    (s.posts l).stamp = s.stamp := rfl
@[simp] theorem State.posts_ws (s : State) (l : List (Nat × Instr)) :
    (s.posts l).ws = s.ws := rfl
@[simp] theorem State.posts_lds (s : State) (l : List (Nat × Instr)) :
    (s.posts l).lds = s.lds := rfl
@[simp] theorem State.posts_opmem (s : State) (l : List (Nat × Instr)) :
    (s.posts l).opmem = s.opmem := rfl
@[simp] theorem State.posts_acc (s : State) (l : List (Nat × Instr)) :
    (s.posts l).acc = s.acc := rfl
@[simp] theorem State.posts_ops (s : State) (l : List (Nat × Instr)) :
    (s.posts l).ops = s.ops := rfl
@[simp] theorem State.posts_nextOp (s : State) (l : List (Nat × Instr)) :
    (s.posts l).nextOp = s.nextOp := rfl
@[simp] theorem State.posts_cmds (s : State) (l : List (Nat × Instr)) :
    (s.posts l).cmds = s.cmds := rfl
@[simp] theorem State.posts_xfers (s : State) (l : List (Nat × Instr)) :
    (s.posts l).xfers = s.xfers := rfl
@[simp] theorem State.posts_hrec (s : State) (l : List (Nat × Instr)) :
    (s.posts l).hrec = s.hrec := rfl
@[simp] theorem State.posts_barDie (s : State) (l : List (Nat × Instr)) :
    (s.posts l).barDie = s.barDie := rfl
@[simp] theorem State.posts_backlog (s : State) (l : List (Nat × Instr)) :
    (s.posts l).backlog = s.backlog := rfl
@[simp] theorem State.posts_ecc (s : State) (l : List (Nat × Instr)) :
    (s.posts l).ecc = s.ecc := rfl
@[simp] theorem State.posts_hostSeen (s : State) (l : List (Nat × Instr)) :
    (s.posts l).hostSeen = s.hostSeen := rfl
@[simp] theorem State.posts_gdeWin (s : State) (l : List (Nat × Instr)) :
    (s.posts l).gdeWin = s.gdeWin := rfl

/-! What they write. -/

@[simp] theorem State.setStrand_strands (s : State) (i : Nat) (t : Strand) :
    (s.setStrand i t).strands = s.strands.set i t := rfl
@[simp] theorem State.modDie_dies (s : State) (d : Fin 4) (f : Die → Die) :
    (s.modDie d f).dies = s.dies.set d (f s.dies[d]) := rfl
@[simp] theorem State.post_agenda (s : State) (u : Nat) (i : Instr) : (s.post u i).agenda = s.agenda ++ [(u, i)] := rfl
@[simp] theorem State.posts_agenda (s : State) (l : List (Nat × Instr)) : (s.posts l).agenda = s.agenda ++ l := rfl

end Sys2Proof.Machine
end

