-- ==== Sys2Proof/Laws/Memory.lean ====
section
/-! SUPPORT. Tables and byte stores: what reads give after writes, and the canonical form that every write keeps. -/
namespace Sys2Proof

theorem Table.find_set {α : Type} (t : Table α) (k : Nat) (v : α) (j : Nat) :
    (t.set k v).find j = if j = k then some v else t.find j := by
  induction t with
  | nil =>
    simp only [Table.set, Table.find]
    by_cases h : k = j
    · simp [h]
    · simp [h, Ne.symm h]
  | cons e t ih =>
    obtain ⟨i, w⟩ := e
    simp only [Table.set]
    split
    · rename_i h
      simp only [Table.find]
      by_cases h1 : k = j
      · simp [h1]
      · simp [h1, Ne.symm h1]
    · split
      · rename_i h h'
        subst h'
        simp only [Table.find]
        by_cases h1 : k = j
        · simp [h1]
        · simp [h1, Ne.symm h1]
      · rename_i h h'
        simp only [Table.find, ih]
        by_cases h1 : i = j
        · subst h1; simp [Ne.symm h']
        · simp [h1]

@[simp] theorem Table.get_set_self {α : Type} (t : Table α) (k : Nat) (v d : α) : (t.set k v).get k d = v := by
  simp [Table.get, Table.find_set]

theorem Table.get_set_ne {α : Type} (t : Table α) {k j : Nat} (v d : α) (h : j ≠ k) :
    (t.set k v).get j d = t.get j d := by
  simp [Table.get, Table.find_set, h]

theorem Table.set_set {α : Type} (t : Table α) (k : Nat) (v w : α) : (t.set k v).set k w = t.set k w := by
  induction t with
  | nil => simp [Table.set]
  | cons e t ih =>
    obtain ⟨i, u⟩ := e
    by_cases h1 : k < i
    · simp [Table.set, h1]
    · by_cases h2 : k = i
      · simp [Table.set, h2]
      · simp [Table.set, h1, h2, ih]

theorem Table.find_erase {α : Type} (t : Table α) (k j : Nat) :
    (t.erase k).find j = if j = k then none else t.find j := by
  induction t with
  | nil => simp [Table.erase, Table.find]
  | cons e t ih =>
    obtain ⟨i, u⟩ := e
    simp only [Table.erase] at ih
    by_cases h : i = k
    · subst h
      simp only [Table.erase, Table.find, List.filter, beq_self_eq_true, Bool.not_true, ih]
      by_cases h1 : j = i
      · simp [h1]
      · simp [h1, Ne.symm h1]
    · have hk : (i == k) = false := by simpa using h
      simp only [Table.erase, Table.find, List.filter, hk, Bool.not_false, ih]
      by_cases h1 : i = j
      · subst h1; simp [h]
      · simp [h1]

namespace Machine

/-- What a byte store reads after one write. -/
theorem Mem.get_set (m : List Host.Cell) (a : Nat) (b : Byte) (j : Nat) :
    Mem.get (Mem.set m a b) j = if j = a then b else Mem.get m j := by
  unfold Mem.get Mem.set
  by_cases h : b = 0
  · simp only [h, if_true, Table.get, Table.find_erase]
    by_cases h1 : j = a <;> simp [h1]
  · simp only [h, if_false, Table.get, Table.find_set]
    by_cases h1 : j = a <;> simp [h1]

/-- What a byte store reads outside a write of several bytes. -/
theorem Mem.get_write_outside (l : List Byte) : ∀ (m : List Host.Cell) (a j : Nat), (j < a ∨ a + l.length ≤ j) →
    Mem.get (Mem.write m a l) j = Mem.get m j := by
  induction l with
  | nil => intro m a j _; rfl
  | cons b t ih =>
    intro m a j h
    have h' : j < a + 1 ∨ a + 1 + t.length ≤ j := by
      rcases h with h | h
      · exact .inl (by omega)
      · exact .inr (by simp only [List.length_cons] at h; omega)
    have hne : j ≠ a := by
      rcases h with h | h
      · omega
      · simp only [List.length_cons] at h; omega
    simp only [Mem.write]
    rw [ih _ _ _ h', Mem.get_set, if_neg hne]

/-- What a byte store reads inside a write of several bytes. -/
theorem Mem.get_write_inside (l : List Byte) : ∀ (m : List Host.Cell) (a i : Nat) (h : i < l.length),
    Mem.get (Mem.write m a l) (a + i) = l[i] := by
  induction l with
  | nil => intro m a i h; exact absurd h (Nat.not_lt_zero _)
  | cons b t ih =>
    intro m a i h
    simp only [Mem.write]
    cases i with
    | zero =>
      show Mem.get (Mem.write (Mem.set m a b) (a + 1) t) a = b
      rw [Mem.get_write_outside t _ (a + 1) a (.inl (Nat.lt_succ_self a)), Mem.get_set, if_pos rfl]
    | succ n =>
      have hn : n < t.length := by simpa using h
      have := ih (Mem.set m a b) (a + 1) n hn
      rw [show a + (n + 1) = a + 1 + n by omega, this]
      rfl

/-- The canonical form, said of the tail and of the first address that follows. -/
theorem Mem.wf_cons (a : Nat) (b : Byte) (t : List Host.Cell) :
    Mem.wf ((a, b) :: t) = true ↔ b ≠ 0 ∧ (∀ e ∈ t.head?, a < e.1) ∧ Mem.wf t = true := by
  cases t with
  | nil => simp [Mem.wf]
  | cons e t =>
    obtain ⟨a', b'⟩ := e
    simp only [Mem.wf, Bool.and_eq_true, bne_iff_ne, decide_eq_true_eq, List.head?_cons, Option.mem_some_iff,
      forall_eq']
    tauto

theorem Mem.head_set (m : List Host.Cell) (a : Nat) (b : Byte) :
    ∀ e ∈ (Table.set (α := Byte) m a b).head?, e.1 = a ∨ e ∈ m.head? := by
  cases m with
  | nil => simp [Table.set]
  | cons e t =>
    obtain ⟨i, u⟩ := e
    intro e he
    simp only [Table.set] at he
    split at he
    · simp only [List.head?_cons, Option.mem_some_iff] at he; left; rw [← he]
    · split at he
      · simp only [List.head?_cons, Option.mem_some_iff] at he; left; rw [← he]
      · simp only [List.head?_cons, Option.mem_some_iff] at he; right; simp [he]

theorem Mem.wf_tableSet (m : List Host.Cell) (a : Nat) (b : Byte) (hb : b ≠ 0) (h : Mem.wf m = true) :
    Mem.wf (Table.set (α := Byte) m a b) = true := by
  induction m with
  | nil => simpa [Table.set, Mem.wf] using hb
  | cons e t ih =>
    obtain ⟨i, u⟩ := e
    have h0 := (Mem.wf_cons i u t).mp h
    simp only [Table.set]
    split
    · rename_i h1
      rw [Mem.wf_cons]
      exact ⟨hb, by simpa using h1, h⟩
    · split
      · rename_i h1 h2
        subst h2
        rw [Mem.wf_cons]
        exact ⟨hb, h0.2.1, h0.2.2⟩
      · rename_i h1 h2
        rw [Mem.wf_cons]
        refine ⟨h0.1, ?_, ih h0.2.2⟩
        intro e he
        rcases Mem.head_set t a b e he with h3 | h3
        · omega
        · exact h0.2.1 e h3

/-- Every listed address of a canonical store lies above the first. -/
theorem Mem.wf_lt {a : Nat} {b : Byte} : ∀ {t : List Host.Cell}, Mem.wf ((a, b) :: t) = true → ∀ e ∈ t, a < e.1 := by
  intro t
  induction t generalizing a b with
  | nil => simp
  | cons e t ih =>
    intro h e' he'
    obtain ⟨i, u⟩ := e
    have h0 := (Mem.wf_cons a b _).mp h
    have h1 : a < i := h0.2.1 (i, u) (by simp)
    rcases List.mem_cons.mp he' with h2 | h2
    · rw [h2]; exact h1
    · exact Nat.lt_trans h1 (ih h0.2.2 e' h2)

theorem Mem.wf_filter (p : Host.Cell → Bool) (m : List Host.Cell) (h : Mem.wf m = true) :
    Mem.wf (m.filter p) = true := by
  induction m with
  | nil => simpa using h
  | cons e t ih =>
    obtain ⟨i, u⟩ := e
    have h0 := (Mem.wf_cons i u t).mp h
    have hr := ih h0.2.2
    by_cases hp : p (i, u) = true
    · rw [List.filter_cons_of_pos hp, Mem.wf_cons]
      refine ⟨h0.1, ?_, hr⟩
      intro e he
      exact Mem.wf_lt h e (List.mem_of_mem_filter (List.mem_of_mem_head? he))
    · rw [List.filter_cons_of_neg hp]; exact hr

/-- A write keeps the canonical form. -/
theorem Mem.wf_set (m : List Host.Cell) (a : Nat) (b : Byte) (h : Mem.wf m = true) : Mem.wf (Mem.set m a b) = true := by
  unfold Mem.set
  split
  · exact Mem.wf_filter _ m h
  · rename_i hb; exact Mem.wf_tableSet m a b hb h

theorem Mem.wf_write (l : List Byte) : ∀ (m : List Host.Cell) (a : Nat), Mem.wf m = true →
    Mem.wf (Mem.write m a l) = true := by
  induction l with
  | nil => intro m a h; exact h
  | cons b t ih => intro m a h; exact ih _ _ (Mem.wf_set m a b h)

/-- A read gives as many bytes as it asks for. -/
theorem Mem.length_read (m : List Host.Cell) : ∀ (n a : Nat), (Mem.read m a n).length = n := by
  intro n
  induction n with
  | zero => intro a; rfl
  | succ n ih => intro a; simp [Mem.read, ih]

/-- A view keeps the canonical form when a write is applied to it. -/
theorem View.wf_apply (v : View) (stamp pa : Nat) (bytes : List Byte) (tag : Option Bool)
    (h : Mem.wf v.cells = true) : Mem.wf (v.apply stamp pa bytes tag).cells = true :=
  Mem.wf_write bytes v.cells pa h

end Machine
end Sys2Proof
end

