-- ==== Sys2Proof/Laws/Ops.lean ====
section
/-! SUPPORT. What the shared operations do: registers of the current strand, guards, traps and blocking instructions, each
said once. -/
namespace Sys2Proof.Machine

/-! ### Strands -/

@[simp] theorem State.strand_setStrand_self (s : State) (i : Nat) (t : Strand) : (s.setStrand i t).strand i = t := by
  simp [State.strand]

theorem State.strand_setStrand_ne (s : State) {i j : Nat} (t : Strand) (h : j ≠ i) :
    (s.setStrand i t).strand j = s.strand j := by
  simp [State.strand, Table.get_set_ne _ _ _ h]

theorem State.setStrand_setStrand (s : State) (i : Nat) (t u : Strand) :
    (s.setStrand i t).setStrand i u = s.setStrand i u := by
  simp [State.setStrand, Table.set_set]

@[simp] theorem State.st_setStrand (s : State) (t : Strand) : (s.setStrand s.cur t).st = t :=
  State.strand_setStrand_self s s.cur t

@[simp] theorem State.st_mod (s : State) (f : Strand → Strand) : (s.mod f).st = f s.st := by
  simp [State.mod, State.modStrand, State.st]

theorem State.mod_eq (s : State) (f : Strand → Strand) : s.mod f = s.setStrand s.cur (f s.st) := rfl

/-- Two changes of the current strand are one. -/
theorem State.mod_mod (s : State) (f g : Strand → Strand) : (s.mod f).mod g = s.mod (fun t => g (f t)) := by
  show (s.mod f).setStrand s.cur (g (s.mod f).st) = s.setStrand s.cur (g (f s.st))
  rw [State.st_mod, State.mod_eq, State.setStrand_setStrand]

theorem State.strand_mod_ne (s : State) (f : Strand → Strand) {k : Nat} (h : k ≠ s.cur) :
    (s.mod f).strand k = s.strand k := State.strand_setStrand_ne s _ h

/-! ### Registers of a strand -/

theorem Strand.rS_wS (t : Strand) (d r : SReg) (v : Word) :
    (t.wS d v).rS r = if r = d ∧ d ≠ 0 then v else t.rS r := by
  unfold Strand.wS Strand.rS
  by_cases hd : d = 0
  · simp [hd]
  · by_cases hr : r = d
    · subst hr; simp [hd]
    · have h : d.val ≠ r.val := fun h => hr (Fin.ext h.symm)
      simp [hd, hr, Vector.getElem_set_ne, h]

theorem Strand.rP_wP (t : Strand) (d r : PReg) (v : Bool) :
    (t.wP d v).rP r = if r = d ∧ d ≠ 0 then v else t.rP r := by
  unfold Strand.wP Strand.rP
  by_cases hd : d = 0
  · simp [hd]
  · by_cases hr : r = d
    · subst hr; simp [hd]
    · have h : d.val ≠ r.val := fun h => hr (Fin.ext h.symm)
      simp [hd, hr, Vector.getElem_set_ne, h]

theorem Strand.rK_wK (t : Strand) (d r : KReg) (v : KWord) :
    (t.wK d v).rK r = if r = d ∧ d ≠ 0 then v else t.rK r := by
  unfold Strand.wK Strand.rK
  by_cases hd : d = 0
  · simp [hd]
  · by_cases hr : r = d
    · subst hr; simp [hd]
    · have h : d.val ≠ r.val := fun h => hr (Fin.ext h.symm)
      simp [hd, hr, Vector.getElem_set_ne, h]

theorem Strand.rV_wV (t : Strand) (d r : VReg) (v : VWord) :
    (t.wV d v).rV r = if r = d then v else t.rV r := by
  unfold Strand.wV Strand.rV
  by_cases hr : r = d
  · subst hr; simp
  · have h : d.val ≠ r.val := fun h => hr (Fin.ext h.symm)
    simp [hr, Vector.getElem_set_ne, h]

@[simp] theorem State.st_wS (s : State) (d : SReg) (v : Word) : (s.wS d v).st = s.st.wS d v := State.st_mod s _
@[simp] theorem State.st_wV (s : State) (d : VReg) (v : VWord) : (s.wV d v).st = s.st.wV d v := State.st_mod s _
@[simp] theorem State.st_wK (s : State) (d : KReg) (v : KWord) : (s.wK d v).st = s.st.wK d v := State.st_mod s _
@[simp] theorem State.st_wP (s : State) (d : PReg) (v : Bool) : (s.wP d v).st = s.st.wP d v := State.st_mod s _
@[simp] theorem State.st_wB (s : State) (d : BReg) (v : BoxImg) : (s.wB d v).st = s.st.wB d v := State.st_mod s _
@[simp] theorem State.st_adv (s : State) (n : Nat) :
    (s.adv n).st = { s.st with pc := s.st.pc + BitVec.ofNat 64 n } := State.st_mod s _

@[simp] theorem Strand.wS_pc (t : Strand) (d : SReg) (v : Word) : (t.wS d v).pc = t.pc := by
  unfold Strand.wS; split <;> rfl
@[simp] theorem Strand.wV_pc (t : Strand) (d : VReg) (v : VWord) : (t.wV d v).pc = t.pc := rfl
@[simp] theorem Strand.wK_pc (t : Strand) (d : KReg) (v : KWord) : (t.wK d v).pc = t.pc := by
  unfold Strand.wK; split <;> rfl
@[simp] theorem Strand.wP_pc (t : Strand) (d : PReg) (v : Bool) : (t.wP d v).pc = t.pc := by
  unfold Strand.wP; split <;> rfl
@[simp] theorem Strand.wB_pc (t : Strand) (d : BReg) (v : BoxImg) : (t.wB d v).pc = t.pc := by
  unfold Strand.wB; split <;> rfl

/-! ### Guards and traps -/

/-- An instruction whose guard is false only moves the pc. -/
theorem guarded_false {g : Guard} {n : Nat} {s : State} {body : State → Except TrapInfo State}
    (h : s.guard g = false) : guarded g n s body = .next (s.adv n) := by
  simp [guarded, h]

/-- An instruction that executes answers its body's state. -/
theorem guarded_ok {g : Guard} {n : Nat} {s t : State} {body : State → Except TrapInfo State}
    (h : s.guard g = true) (hb : body s = .ok t) : guarded g n s body = .next t := by
  simp [guarded, h, hb, State.orTrap]

/-- An instruction whose body traps takes that trap. -/
theorem guarded_trap {g : Guard} {n : Nat} {s : State} {t : TrapInfo} {body : State → Except TrapInfo State}
    (h : s.guard g = true) (hb : body s = .error t) : guarded g n s body = .next (s.takeTrap t) := by
  simp [guarded, h, hb, State.orTrap]

theorem plain_true {g : Guard} {s : State} {f : State → State} (h : s.guard g = true) :
    plain g s f = .next ((f s).adv 8) := guarded_ok h rfl

theorem plain_false {g : Guard} {s : State} {f : State → State} (h : s.guard g = false) :
    plain g s f = .next (s.adv 8) := guarded_false h

/-- Whatever a guarded instruction does, the step goes on. -/
theorem guarded_next (g : Guard) (n : Nat) (s : State) (body : State → Except TrapInfo State) :
    ∃ t, guarded g n s body = .next t := by
  unfold guarded State.orTrap
  split
  · split <;> exact ⟨_, rfl⟩
  · exact ⟨_, rfl⟩

/-! ### Blocking instructions -/

/-- A blocking instruction whose condition holds ends with its status. -/
theorem State.blocking_some {s : State} {p : Poll} {i : Instr} {d : SReg} {dl : Nat}
    {cond : State → Option (Nat × Nat × State)} {late : State → Nat × Nat × State} {code detail : Nat} {t : State}
    (h : cond s = some (code, detail, t)) :
    s.blocking p i d dl cond late = ((t.unblock).statusB d code detail).adv 8 := by
  simp [State.blocking, h]

/-- One whose condition does not hold waits, with a deadline, when it was issued or tested again. -/
theorem State.blocking_none {s : State} {i : Instr} {d : SReg} {dl : Nat}
    {cond : State → Option (Nat × Nat × State)} {late : State → Nat × Nat × State} (h : cond s = none) (hd : dl ≠ 0) :
    s.blocking .issue i d dl cond late = s.block i dl (((s.st.wait).map (·.stage)).getD 0) := by
  have h1 : (Poll.issue == Poll.expire) = false := rfl
  have h2 : (Poll.issue == Poll.bound) = false := rfl
  simp [State.blocking, h, h1, h2, hd]

/-- Without a wait in progress there is nothing to end. -/
theorem State.unblock_none {s : State} (h : s.st.wait = none) : s.unblock = s.mod (fun t => t) := by
  have h' : (s.strand s.cur).wait = none := h
  simp only [State.unblock, State.mod, State.modStrand, h']

/-- At the eviction bound an unmet wait ends EVICT, with the detail of `late` where the rule of the instruction states
it (log 42). -/
theorem State.blocking_bound {s t : State} {i : Instr} {d : SReg} {dl code detail : Nat}
    {cond : State → Option (Nat × Nat × State)} {late : State → Nat × Nat × State} (h : cond s = none)
    (hl : late s = (code, detail, t)) (hi : ownEvict i = true) :
    s.blocking .bound i d dl cond late =
      (((t.unblock).statusB d sEVICT detail).adv 8).count (coreOf s.cur) 0x12 := by
  simp [State.blocking, h, hl, hi]

/-- A single task yields at once: its record enters the pool (R88). -/
theorem State.yield_single {s : State} {tk : Task} {ctr tgt : Word} {dl : Nat} (h : s.st.task = some tk)
    (hp : s.st.phase ≠ .stopping) (hl : tk.legs = []) :
    s.yield ctr tgt dl = s.yieldNow s.cur tk ctr tgt (s.now + dl) := by
  simp [State.yield, h, hp, State.stopLegs, State.legsMoving, hl]

end Sys2Proof.Machine
end

