-- ==== Sys2Proof/Laws/Goes.lean ====
section
/-! SUPPORT. Instructions that write registers of the current strand and go on: their next state in one form. -/
namespace Sys2Proof.Machine

theorem Strand.wS_setPc (t : Strand) (d : SReg) (v p : Word) :
    ({ t.wS d v with pc := p } : Strand) = ({ t with pc := p } : Strand).wS d v := by
  unfold Strand.wS; split <;> rfl
theorem Strand.wP_setPc (t : Strand) (d : PReg) (v : Bool) (p : Word) :
    ({ t.wP d v with pc := p } : Strand) = ({ t with pc := p } : Strand).wP d v := by
  unfold Strand.wP; split <;> rfl
theorem Strand.wV_setPc (t : Strand) (d : VReg) (v : VWord) (p : Word) :
    ({ t.wV d v with pc := p } : Strand) = ({ t with pc := p } : Strand).wV d v := rfl
theorem Strand.wK_setPc (t : Strand) (d : KReg) (v : KWord) (p : Word) :
    ({ t.wK d v with pc := p } : Strand) = ({ t with pc := p } : Strand).wK d v := by
  unfold Strand.wK; split <;> rfl
theorem Strand.wB_setPc (t : Strand) (d : BReg) (v : BoxImg) (p : Word) :
    ({ t.wB d v with pc := p } : Strand) = ({ t with pc := p } : Strand).wB d v := by
  unfold Strand.wB; split <;> rfl

/-- A change of the current strand that commutes with the pc, then the move of the pc. -/
theorem State.mod_adv (s : State) (n : Nat) (f : Strand → Strand)
    (h : ∀ (t : Strand) (p : Word), ({ f t with pc := p } : Strand) = f { t with pc := p })
    (hp : ∀ t : Strand, (f t).pc = t.pc) : (s.mod f).adv n = s.goes n f := by
  unfold State.adv
  rw [State.mod_mod, State.mod_eq]
  simp only [State.goes, hp, h]

theorem State.wS_adv (s : State) (d : SReg) (v : Word) (n : Nat) : (s.wS d v).adv n = s.goes n (·.wS d v) :=
  s.mod_adv n _ (fun t p => t.wS_setPc d v p) (fun t => t.wS_pc d v)
theorem State.wP_adv (s : State) (d : PReg) (v : Bool) (n : Nat) : (s.wP d v).adv n = s.goes n (·.wP d v) :=
  s.mod_adv n _ (fun t p => t.wP_setPc d v p) (fun t => t.wP_pc d v)
theorem State.wV_adv (s : State) (d : VReg) (v : VWord) (n : Nat) : (s.wV d v).adv n = s.goes n (·.wV d v) :=
  s.mod_adv n _ (fun t p => t.wV_setPc d v p) (fun t => t.wV_pc d v)
theorem State.wK_adv (s : State) (d : KReg) (v : KWord) (n : Nat) : (s.wK d v).adv n = s.goes n (·.wK d v) :=
  s.mod_adv n _ (fun t p => t.wK_setPc d v p) (fun t => t.wK_pc d v)
theorem State.wB_adv (s : State) (d : BReg) (v : BoxImg) (n : Nat) : (s.wB d v).adv n = s.goes n (·.wB d v) :=
  s.mod_adv n _ (fun t p => t.wB_setPc d v p) (fun t => t.wB_pc d v)
theorem State.adv_goes (s : State) (n : Nat) : s.adv n = s.goes n (fun t => t) := rfl

/-- Writing an s register under a true guard. -/
theorem plain_wS {g : Guard} {s : State} {d : SReg} {f : State → Word} (h : s.guard g = true) :
    plain g s (fun s => s.wS d (f s)) = s.givesS d (f s) := by
  rw [plain_true h, State.wS_adv]; rfl
theorem plain_wP {g : Guard} {s : State} {d : PReg} {f : State → Bool} (h : s.guard g = true) :
    plain g s (fun s => s.wP d (f s)) = s.givesP d (f s) := by
  rw [plain_true h, State.wP_adv]; rfl
theorem plain_wV {g : Guard} {s : State} {d : VReg} {f : State → VWord} (h : s.guard g = true) :
    plain g s (fun s => s.wV d (f s)) = s.givesV d (f s) := by
  rw [plain_true h, State.wV_adv]; rfl
theorem plain_wK {g : Guard} {s : State} {d : KReg} {f : State → KWord} (h : s.guard g = true) :
    plain g s (fun s => s.wK d (f s)) = s.givesK d (f s) := by
  rw [plain_true h, State.wK_adv]; rfl

/-- What `goes` leaves: every other field, and every other strand. -/
theorem State.goes_strand_ne (s : State) (n : Nat) (f : Strand → Strand) {k : Nat} (h : k ≠ s.cur) :
    (s.goes n f).strand k = s.strand k := State.strand_setStrand_ne s _ h
@[simp] theorem State.goes_st (s : State) (n : Nat) (f : Strand → Strand) :
    (s.goes n f).st = f { s.st with pc := s.st.pc + BitVec.ofNat 64 n } := State.st_setStrand s _
theorem State.goes_sameMemory (s : State) (n : Nat) (f : Strand → Strand) : s.sameMemory (s.goes n f) :=
  ⟨fun _ _ => rfl, fun _ => rfl, fun _ => rfl, fun _ => rfl⟩

end Sys2Proof.Machine
end

