-- ==== Sys2Proof/Laws/Keeps.lean ====
section
/-! SUPPORT. What writes of global memory do to the rest of the chip, and that every store keeps its canonical form. -/
namespace Sys2Proof.Machine

theorem State.memWf_iff (s : State) : s.memWf = true ↔
    (∀ d, Mem.wf (s.die d).view.cells = true) ∧ Mem.wf s.ws = true ∧ Mem.wf s.lds = true ∧ Mem.wf s.opmem = true := by
  have h : s.dies.toList.all (fun (d : Die) => Mem.wf d.view.cells) = true ↔ ∀ d, Mem.wf (s.die d).view.cells = true := by
    rw [List.all_eq_true]
    constructor
    · intro h d; exact h _ (by simp [State.die])
    · intro h x hx
      obtain ⟨i, hi, rfl⟩ := List.mem_iff_getElem.mp hx
      simp only [Vector.length_toList] at hi
      simpa [State.die] using h ⟨i, hi⟩
  simp only [State.memWf, Bool.and_eq_true, h, and_assoc]

/-- A change of anything else keeps the form. -/
theorem State.memWf_of_stores {s t : State} (hd : t.dies = s.dies) (hw : t.ws = s.ws) (hl : t.lds = s.lds)
    (ho : t.opmem = s.opmem) (h : s.memWf = true) : t.memWf = true := by
  simpa only [State.memWf, hd, hw, hl, ho] using h

theorem State.memWf_setStrand {s : State} (k : Nat) (t : Strand) (h : s.memWf = true) : (s.setStrand k t).memWf = true :=
  State.memWf_of_stores rfl rfl rfl rfl h
theorem State.memWf_posts {s : State} (l : List (Nat × Instr)) (h : s.memWf = true) : (s.posts l).memWf = true :=
  State.memWf_of_stores rfl rfl rfl rfl h
theorem State.memWf_modCtx {s : State} (c : Nat) (f : Ctx → Ctx) (h : s.memWf = true) : (s.modCtx c f).memWf = true := by
  unfold State.modCtx; split <;> exact State.memWf_of_stores rfl rfl rfl rfl h
theorem State.memWf_modLc {s : State} (k : Nat) (f : LCore → LCore) (h : s.memWf = true) : (s.modLc k f).memWf = true :=
  State.memWf_of_stores rfl rfl rfl rfl h
theorem State.memWf_modCore {s : State} (k : Nat) (f : Core → Core) (h : s.memWf = true) : (s.modCore k f).memWf = true :=
  State.memWf_of_stores rfl rfl rfl rfl h

/-- A write of the local stores, of the operand memories or of the weight stores keeps the form. -/
theorem State.memWf_lds {s : State} (a : Nat) (l : List Byte) (h : s.memWf = true) :
    ({ s with lds := Mem.write s.lds a l } : State).memWf = true := by
  rw [State.memWf_iff] at h ⊢; exact ⟨h.1, h.2.1, Mem.wf_write l _ a h.2.2.1, h.2.2.2⟩
theorem State.memWf_opmem {s : State} (a : Nat) (l : List Byte) (h : s.memWf = true) :
    ({ s with opmem := Mem.write s.opmem a l } : State).memWf = true := by
  rw [State.memWf_iff] at h ⊢; exact ⟨h.1, h.2.1, h.2.2.1, Mem.wf_write l _ a h.2.2.2⟩
theorem State.memWf_ws {s : State} (a : Nat) (l : List Byte) (h : s.memWf = true) :
    ({ s with ws := Mem.write s.ws a l } : State).memWf = true := by
  rw [State.memWf_iff] at h ⊢; exact ⟨h.1, Mem.wf_write l _ a h.2.1, h.2.2.1, h.2.2.2⟩

/-- A change of one die whose view keeps its form. -/
theorem State.memWf_modDie {s : State} (d : Fin 4) (f : Die → Die)
    (hf : Mem.wf (s.die d).view.cells = true → Mem.wf (f (s.die d)).view.cells = true) (h : s.memWf = true) :
    (s.modDie d f).memWf = true := by
  rw [State.memWf_iff] at h ⊢
  refine ⟨fun e => ?_, h.2⟩
  by_cases he : e = d
  · subst he; simpa [State.modDie, State.die] using hf (h.1 e)
  · have hn : d.val ≠ e.val := fun x => he (Fin.ext x.symm)
    simpa [State.modDie, State.die, Vector.getElem_set_ne, hn] using h.1 e

theorem View.wf_receive (v : View) (w : PWrite) (h : Mem.wf v.cells = true) : Mem.wf (v.receive w).cells = true :=
  View.wf_apply v w.stamp w.pa w.bytes w.tag h

theorem View.wf_receiveAll (l : List PWrite) : ∀ v : View, Mem.wf v.cells = true →
    Mem.wf (l.foldl (fun (v : View) w => v.receive w) v).cells = true := by
  induction l with
  | nil => exact fun v h => h
  | cons w t ih => exact fun v h => ih _ (View.wf_receive v w h)

theorem View.wf_catchUp (v : View) (ws : List Nat) (h : Mem.wf v.cells = true) : Mem.wf (v.catchUp ws).cells = true :=
  View.wf_receiveAll _ v h

theorem State.memWf_drain {s : State} (d : Fin 4) (h : s.memWf = true) : (s.drain d).memWf = true :=
  State.memWf_modDie d _ (fun hd => View.wf_receiveAll _ _ hd) h

theorem State.memWf_catchUp {s : State} (d : Fin 4) (ws : List Nat) (h : s.memWf = true) : (s.catchUp d ws).memWf = true :=
  State.memWf_modDie d _ (fun hd => View.wf_catchUp _ ws hd) h

theorem State.memWf_gwriteAll {s : State} (pa : Nat) (l : List Byte) (tag : Option Bool) (h : s.memWf = true) :
    (s.gwriteAll pa l tag).memWf = true := by
  rw [State.memWf_iff] at h ⊢
  refine ⟨fun e => ?_, h.2⟩
  simpa [State.gwriteAll, State.die] using View.wf_apply _ _ pa l tag (View.wf_catchUp _ (wordsOf pa l.length) (h.1 e))

theorem State.memWf_gwrite {s : State} (d : Fin 4) (pa : Nat) (l : List Byte) (tag : Option Bool) (mark path : Nat)
    (h : s.memWf = true) : (s.gwrite d pa l tag mark path).memWf = true := by
  refine State.memWf_posts _ ?_
  rw [State.memWf_iff] at h ⊢
  refine ⟨fun e => ?_, h.2⟩
  by_cases he : e = d
  · subst he
    simpa [State.die] using View.wf_apply _ (s.stamp + 1) pa l tag (View.wf_catchUp _ (wordsOf pa l.length) (h.1 e))
  · simpa [State.die, he] using h.1 e

/-- `t` is `s` with other views of global memory. -/
def State.viewsOnly (s t : State) : Prop := ∃ d n, t = { s with dies := d, stamp := n }

theorem State.viewsOnly_refl (s : State) : s.viewsOnly s := ⟨s.dies, s.stamp, rfl⟩
theorem State.viewsOnly_trans {s t u : State} (h : s.viewsOnly t) (h' : t.viewsOnly u) : s.viewsOnly u := by
  obtain ⟨d, n, rfl⟩ := h
  obtain ⟨d', n', rfl⟩ := h'
  exact ⟨d', n', rfl⟩
theorem State.gwriteAll_rest (s : State) (pa : Nat) (l : List Byte) (tag : Option Bool) :
    s.viewsOnly (s.gwriteAll pa l tag) := ⟨_, _, rfl⟩

/-- A write of a context's memory changes the views of the dies and the number of writes, and nothing else. -/
theorem State.ctxWrite_rest (ctx : Nat) (tag : Option Bool) (l : List Byte) : ∀ (s : State) (va : Nat),
    s.viewsOnly (s.ctxWrite ctx tag va l) := by
  have fold : ∀ (x : Xl) (b : Byte) (r : List Nat) (s : State),
      s.viewsOnly (r.foldl (fun s d => s.gwriteAll (x.pa d) [b] tag) s) := by
    intro x b r
    induction r with
    | nil => exact State.viewsOnly_refl
    | cons d r ih => exact fun s => State.viewsOnly_trans (s.gwriteAll_rest _ _ _) (ih _)
  induction l with
  | nil => exact fun s _ => s.viewsOnly_refl
  | cons b t ih =>
    intro s va
    unfold State.ctxWrite
    split
    · exact ih s _
    · refine State.viewsOnly_trans ?_ (ih _ _)
      split
      · exact fold _ b _ s
      · exact s.gwriteAll_rest _ _ _

theorem State.memWf_ctxWrite (ctx : Nat) (tag : Option Bool) (l : List Byte) : ∀ (s : State) (va : Nat),
    s.memWf = true → (s.ctxWrite ctx tag va l).memWf = true := by
  have fold : ∀ (x : Xl) (b : Byte) (r : List Nat) (s : State), s.memWf = true →
      (r.foldl (fun s d => s.gwriteAll (x.pa d) [b] tag) s).memWf = true := by
    intro x b r
    induction r with
    | nil => exact fun s h => h
    | cons d r ih => exact fun s h => ih _ (State.memWf_gwriteAll _ _ _ h)
  induction l with
  | nil => exact fun s _ h => h
  | cons b t ih =>
    intro s va h
    unfold State.ctxWrite
    split
    · exact ih s _ h
    · refine ih _ _ ?_
      split
      · exact fold _ b _ s h
      · exact State.memWf_gwriteAll _ _ _ h

end Sys2Proof.Machine
end

