-- ==== Sys2Proof/Laws/Tile.lean ====
section
/-! SUPPORT. Vector instructions: what a tile reads after it is written, and the one law of element-wise instructions. -/
namespace Sys2Proof.Machine

/-- A field replaced, as a number. -/
theorem putBits_toNat {n : Nat} (x : BitVec n) (w v : Nat) (h : w ≤ n) :
    (putBits x 0 w v).toNat = 2 ^ w * (x.toNat / 2 ^ w) + v % 2 ^ w := by
  have hx : x.toNat < 2 ^ n := x.isLt
  have hv : v % 2 ^ w < 2 ^ w := Nat.mod_lt _ (Nat.two_pow_pos w)
  have hd := Nat.div_add_mod x.toNat (2 ^ w)
  have e : x.toNat - x.toNat % 2 ^ w = 2 ^ w * (x.toNat / 2 ^ w) := by omega
  simp only [putBits, BitVec.toNat_ofNat, Nat.shiftRight_zero, Nat.pow_zero, Nat.mul_one, e]
  apply Nat.mod_eq_of_lt
  have h1 : x.toNat / 2 ^ w < 2 ^ (n - w) := by
    apply Nat.div_lt_of_lt_mul
    rw [← Nat.pow_add, Nat.add_sub_cancel' h]
    exact hx
  calc 2 ^ w * (x.toNat / 2 ^ w) + v % 2 ^ w
      < 2 ^ w * (x.toNat / 2 ^ w) + 2 ^ w := Nat.add_lt_add_left hv _
    _ = 2 ^ w * (x.toNat / 2 ^ w + 1) := by rw [Nat.mul_add, Nat.mul_one]
    _ ≤ 2 ^ w * 2 ^ (n - w) := Nat.mul_le_mul_left _ h1
    _ = 2 ^ n := by rw [← Nat.pow_add, Nat.add_sub_cancel' h]

/-- Above the field nothing changes. -/
theorem putBits_above {n : Nat} (x : BitVec n) (w v j : Nat) (h : w ≤ n) (hj : w ≤ j) :
    (putBits x 0 w v).getLsbD j = x.getLsbD j := by
  have hv : v % 2 ^ w < 2 ^ w := Nat.mod_lt _ (Nat.two_pow_pos w)
  rw [BitVec.getLsbD, BitVec.getLsbD, putBits_toNat x w v h, Nat.testBit_two_pow_mul_add _ hv, if_neg (by omega),
    Nat.testBit_div_two_pow, Nat.sub_add_cancel hj]

theorem ofElems_lt (size : Nat) (l : List Nat) : ofElems size l < 2 ^ (8 * size * l.length) := by
  induction l with
  | nil => simp [ofElems]
  | cons a t ih =>
    have ha : a % 2 ^ (8 * size) < 2 ^ (8 * size) := Nat.mod_lt _ (Nat.two_pow_pos _)
    show a % 2 ^ (8 * size) + 2 ^ (8 * size) * ofElems size t < _
    have e : 8 * size * (a :: t).length = 8 * size + 8 * size * t.length := by
      rw [List.length_cons, Nat.mul_add, Nat.mul_one, Nat.add_comm]
    rw [e, Nat.pow_add]
    calc a % 2 ^ (8 * size) + 2 ^ (8 * size) * ofElems size t
        < 2 ^ (8 * size) + 2 ^ (8 * size) * ofElems size t := Nat.add_lt_add_right ha _
      _ = 2 ^ (8 * size) * (ofElems size t + 1) := by rw [Nat.mul_add, Nat.mul_one, Nat.add_comm]
      _ ≤ 2 ^ (8 * size) * 2 ^ (8 * size * t.length) := Nat.mul_le_mul_left _ ih

theorem ofElems_digit (size : Nat) (l : List Nat) : ∀ (i : Nat) (h : i < l.length),
    ofElems size l / 2 ^ (8 * size * i) % 2 ^ (8 * size) = l[i] % 2 ^ (8 * size) := by
  induction l with
  | nil => intro i h; exact absurd h (Nat.not_lt_zero _)
  | cons a t ih =>
    intro i h
    have hB : 0 < 2 ^ (8 * size) := Nat.two_pow_pos _
    have ha : a % 2 ^ (8 * size) < 2 ^ (8 * size) := Nat.mod_lt _ hB
    show (a % 2 ^ (8 * size) + 2 ^ (8 * size) * ofElems size t) / _ % _ = _
    cases i with
    | zero => simp
    | succ i =>
      have h' : i < t.length := by simpa using h
      have e : 8 * size * (i + 1) = 8 * size + 8 * size * i := by rw [Nat.mul_add, Nat.mul_one, Nat.add_comm]
      rw [e, Nat.pow_add, ← Nat.div_div_eq_div_mul, Nat.add_mul_div_left _ _ hB, Nat.div_eq_of_lt ha, Nat.zero_add,
        ih i h']
      rfl

/-- An element of a register whose tile was written. -/
theorem velem_putTile (v : VWord) (size : Nat) (l : List Nat) (i : Nat) (h : i < l.length)
    (hw : 8 * size * l.length ≤ 8192) : velem (putTile v size l) size i = l[i] % 2 ^ (8 * size) := by
  have hlt := ofElems_lt size l
  unfold velem putTile
  rw [putBits_toNat v _ _ hw, Nat.mod_eq_of_lt hlt, Nat.shiftRight_eq_div_pow]
  have e : 8 * size * l.length = 8 * size * i + 8 * size + 8 * size * (l.length - (i + 1)) := by
    have : l.length = i + 1 + (l.length - (i + 1)) := by omega
    conv_lhs => rw [this]
    rw [Nat.mul_add, Nat.mul_add, Nat.mul_one]
  rw [← ofElems_digit size l i h, Nat.add_comm]
  generalize v.toNat / 2 ^ (8 * size * l.length) = q
  rw [e, Nat.pow_add, Nat.pow_add, Nat.mul_assoc, Nat.mul_assoc, Nat.add_mul_div_left _ _ (Nat.two_pow_pos _),
    Nat.mul_assoc, Nat.add_mul_mod_self_left]

theorem putTile_above (v : VWord) (size : Nat) (l : List Nat) (j : Nat) (hw : 8 * size * l.length ≤ 8192)
    (hj : 8 * size * l.length ≤ j) : (putTile v size l).getLsbD j = v.getLsbD j := putBits_above v _ _ j hw hj

/-! ### Element-wise instructions -/

theorem State.tiles_ok (s : State) : ∀ l : List Nat, (∀ n ∈ l, s.tileFits n) → s.tiles l = .ok s.elems := by
  intro l
  induction l with
  | nil => intro _; rfl
  | cons n t ih =>
    intro h
    obtain ⟨h1, h2, h3, h4, h5⟩ := h n (by simp)
    have hn : ¬ (s.st.rows = 0 ∨ 64 < s.st.rows ∨ s.st.cols = 0 ∨ 64 < s.st.cols ∨
        1024 < s.st.rows * s.st.cols * n) := by
      have : s.elems * n = s.st.rows * s.st.cols * n := rfl
      omega
    simp only [State.tiles, State.tile, hn, if_false]
    exact ih (fun m hm => h m (by simp [hm]))

theorem unionFlags_results (s : State) (k : KReg) (z : Bool) (d : VReg) (size : Nat) (f : Nat → Nat × FFlags) :
    unionFlags (results s k z d size s.elems f) = s.raised k f := by
  unfold unionFlags results State.raised
  rw [List.foldl_map]
  congr 1
  funext x i
  by_cases h : (s.rK k).getLsbD i = true
  · simp [h]
  · cases z <;> simp [h]

/-- An element-wise instruction whose tiles fit. -/
theorem ewise_writes {g : Guard} {sizes : List Nat} {size : Nat} {k : Msk} {d : VReg} {s : State}
    (f : State → Nat → Nat × FFlags) (h : s.guard g = true) (hf : ∀ n ∈ sizes, s.tileFits n) (hs : s.tileFits size) :
    s.writesTile k d size (f s) (ewise g sizes size k d f s) := by
  intro hr
  have hlen : (List.map (fun x : Nat × FFlags => x.1) (results s k.k k.z d size s.elems (f s))).length = s.elems := by
    simp [results]
  have hw : 8 * size * s.elems ≤ 8192 := by
    obtain ⟨_, _, _, _, h5⟩ := hs
    rw [Nat.mul_assoc, Nat.mul_comm size]
    omega
  have hr' : ¬ (unionFlags (results s k.k k.z d size s.elems (f s)) &&& s.st.te ≠ 0) := by
    rw [unionFlags_results]; simpa using hr
  refine ⟨putTile (s.rV d) size ((results s k.k k.z d size s.elems (f s)).map (fun x => x.1)), ?_, ?_, ?_⟩
  · unfold ewise
    apply guarded_ok h
    rw [s.tiles_ok sizes hf]
    simp only [State.vwrite, State.withFlags, hr', if_false]
    show Except.ok (((s.orFlags _).wV d _).adv 8) = _
    rw [unionFlags_results]
    congr 1
    unfold State.orFlags State.wV State.adv
    rw [State.mod_mod, State.mod_mod, State.mod_eq]
    simp only [State.goes, State.rV]
    congr 1
    simp only [State.st_mod, Strand.wV, Strand.rV]
  · intro i hi
    rw [velem_putTile _ _ _ _ (by rw [hlen]; exact hi) (by rw [hlen]; exact hw)]
    simp only [results, List.map_map, List.getElem_map, List.getElem_range, Function.comp]
    split
    · rfl
    · split
      · simp
      · simp only [State.va, velem, Nat.mod_mod]
  · intro j hj
    exact putTile_above _ _ _ _ (by rw [hlen]; exact hw) (by rw [hlen]; exact hj)

theorem ewiseT_writes {g : Guard} {t : Fmt} {k : Msk} {d : VReg} {s : State} (f : State → Nat → Nat × FFlags)
    (h : s.guard g = true) (hf : s.tileFits (fmtSize t)) :
    s.writesTile k d (fmtSize t) (f s) (ewiseT g t k d f s) :=
  ewise_writes f h (by simpa using hf) hf

end Sys2Proof.Machine
end

