-- ==== Sys2Proof/Tests/Slice0.lean ====
section
/-! SUPPORT. Tests: words written out from the encodings of the reference, ill-formed instructions, single steps on small
states with results from the reference's examples, and a witness for the hypotheses of each statement. -/
namespace Sys2Proof.Machine.Tests

set_option Elab.async false

/-! ### Small states -/

def g0 : Guard := ⟨0, false⟩
def m0 : Msk := ⟨0, false⟩

/-- Strand 0 of core 0 runs a LEAF task of context 1 at PC 0, with a frame of 4 KiB; its launch is in arrival mode. -/
def base : State :=
  let s := { State.reset.place [] with lcs := [(1024, idleLc)] }
  (s.modLaunch 1 (fun l => { l with arrival := true })).mod (fun t =>
    { t with task := t.task.map (fun k => { k with frameLen := 4096 }) })

/-- `base` with a changed strand, task, launch or context. -/
def onSt (f : Strand → Strand) : State := base.mod f
def onTask (f : Task → Task) : State := base.mod (fun t => { t with task := t.task.map f })
def onLaunch (f : Launch → Launch) : State := base.modLaunch 1 f
def onCtx (f : Ctx → Ctx) : State := base.modCtx 1 f

/-- The VA of the frame, and a word of the local store (R126). -/
def frame : Word := 0x2000000000000000
/-- `s` with s1 to s3 written. -/
def args (s : State) (x y z : Word) : State := ((s.wS 1 x).wS 2 y).wS 3 z

/-! ### Words written out from the encodings (R202, R207 to R217) -/

/-- The guard !p5. -/
def g : Guard := ⟨5, true⟩
/-- Each word, before a second word of the number given, decodes to its instruction. -/
def reads (l : List (Word × Instr)) : Bool := l.all (fun p => decodeWord p.1 0x123456789ABCDEF0 = .ok p.2)

/-- Words of system and control (R208), written out field by field with the guard !p5. -/
theorem test_decode_0_1 : reads [
    (0x00ABCDEF01234567, .illegal 0xABCDEF01234567),
    (0x01B0000000000000, .nop g),
    (0x02B00000000FFFFF, .skip g 0xFFFFF),
    (0x03B00003FFFFFFFB, .call g (-5)),
    (0x04B0000000000000, .ret g),
    (0x05B0000087654321, .trap g 0x87654321),
    (0x06B0000000000000, .brk g),
    (0x07B2C0000000091F, .movc g 11 0x91F),
    (0x08B016000000006F, .movcw g 22 0x06F),
    (0x09B2D6000000001F, .tresume g 11 22 31),
    (0x0AB2D60000000007, .tdrop g 11 22 7),
    (0x0BB0168400020000, .tlbinv g .all 22 33)] = true := by decide

/-- Words of system and control (R208), written out field by field with the guard !p5. -/
theorem test_decode_0_2 : reads [
    (0x0CB0000000000000, .icinv g),
    (0x0DB2D60321000000, .halt g true 11 22 50)] = true := by decide

/-- Words of rules and tasks (R209), written out field by field with the guard !p5. -/
theorem test_decode_1_1 : reads [
    (0x10B1560100FFFFC0, .boxld g 5 22 (.pi .f64 (-64))),
    (0x11B1968480000003, .boxst g 6 22 (.bi 33 3)),
    (0x12B2C60000040005, .boxget g 11 6 .rank 5),
    (0x13B1468400010004, .boxset g 5 6 33 true 4),
    (0x14B2C60000020000, .boxkey g 11 6 .right),
    (0x15B0C60000001234, .fits g 3 6 0x1234),
    (0x16B0000000000005, .split g 5),
    (0x17B0000087654320, .splitk g 0x87654320),
    (0x18BA800000000048, .splitf g 0x2A 0x48),
    (0x19B0000000000000, .prune g),
    (0x1AB0000000000030, .leaf g 0x30),
    (0x1BB0000000000000, .done g)] = true := by decide

/-- Words of rules and tasks (R209), written out field by field with the guard !p5. -/
theorem test_decode_1_2 : reads [
    (0x1CB0000000000000, .requeue g),
    (0x1DB2D61B23123456, .spawn g .cont 11 22 6 50 0x123456),
    (0x1EB0560000000180, .send g true 22 0x180),
    (0x1FB0160003000000, .deposit g .bf16 22)] = true := by decide

/-- Words of synchronisation (R210), written out field by field with the guard !p5. -/
theorem test_decode_2 : reads [
    (0x20B0160000000000, .cinc g 22),
    (0x21B0168400000000, .cadd g 22 33),
    (0x22B2D68721000000, .waitc g true 11 22 33 50),
    (0x23B2D67F20FFFFFE, .vwaitc g false 11 22 31 50 0xFFFFFE),
    (0x24B2D68723000000, .bar g .sys 11 22 33 50),
    (0x25B2D68402000000, .bara g .pkg 11 22 33),
    (0x26B2D60320000000, .barw g 11 22 50),
    (0x27B2C00320002C81, .fence g 11 50 0x81 0x2C),
    (0x28B2C00320000000, .fencesc g 11 50),
    (0x29B2D686CE010000, .amo g .si64 .cas 11 22 33 44)] = true := by decide

/-- Words of batons (R210), written out field by field with the guard !p5. -/
theorem test_decode_3 : reads [
    (0x30B2D60000010009, .bdecl g true 11 22 9),
    (0x31B2D68721000000, .waitb g true 11 22 33 50),
    (0x32B2D68400000000, .badv g 11 22 33),
    (0x33B2D68400000000, .brel g 11 22 33),
    (0x34B2D68400000000, .bstat g 11 22 33),
    (0x35B2D686CC800400, .sendb g 11 22 33 44 50 1024)] = true := by decide

/-- Words of scalar integer (R211), written out field by field with the guard !p5. -/
theorem test_decode_4_1 : reads [
    (0x40B2D68400000000, .add g 11 22 33),
    (0x41B2D68400000000, .sub g 11 22 33),
    (0x42B2D68400000000, .mul g 11 22 33),
    (0x43B2D68400000000, .mulh g 11 22 33),
    (0x44B2D68400000000, .mulhu g 11 22 33),
    (0x45B2D68400000000, .div g 11 22 33),
    (0x46B2D68400000000, .divu g 11 22 33),
    (0x47B2D68400000000, .rem g 11 22 33),
    (0x48B2D68400000000, .remu g 11 22 33),
    (0x49B2D68400000000, .and g 11 22 33),
    (0x4AB2D68400000000, .or g 11 22 33),
    (0x4BB2D68400000000, .xor g 11 22 33)] = true := by decide

/-- Words of scalar integer (R211), written out field by field with the guard !p5. -/
theorem test_decode_4_2 : reads [
    (0x4CB2D68400000000, .andn g 11 22 33),
    (0x4DB2D68400000000, .shl g 11 22 33),
    (0x4EB2D68400000000, .shr g 11 22 33),
    (0x4FB2D68400000000, .sar g 11 22 33)] = true := by decide

/-- Words of scalar integer (R211), written out field by field with the guard !p5. -/
theorem test_decode_5_1 : reads [
    (0x50B2D68400000000, .rot g 11 22 33),
    (0x51B2D68400000000, .min g 11 22 33),
    (0x52B2D68400000000, .max g 11 22 33),
    (0x53B2D68400000000, .minu g 11 22 33),
    (0x54B2D68400000000, .maxu g 11 22 33),
    (0x55B2D60000000000, .clz g 11 22),
    (0x56B2D60000000000, .ctz g 11 22),
    (0x57B2D60000000000, .popc g 11 22),
    (0x58B2D686C0000000, .bfx g 11 22 33 44),
    (0x59B2D686C0000000, .bfxs g 11 22 33 44),
    (0x5AB2D686C0000000, .bfi g 11 22 33 44),
    (0x5BB2D68460000000, .sel g 11 22 33 6)] = true := by decide

/-- Words of scalar integer (R211), written out field by field with the guard !p5. -/
theorem test_decode_5_2 : reads [
    (0x5CB0D684000B0000, .cmp g .ntst 3 22 33)] = true := by decide

/-- Words of immediates (R211), written out field by field with the guard !p5. -/
theorem test_decode_6 : reads [
    (0x60B2D60289ABCDEF, .addi g 11 22 0x289ABCDEF),
    (0x61B2D60289ABCDEF, .andi g 11 22 0x289ABCDEF),
    (0x62B2D60289ABCDEF, .ori g 11 22 0x289ABCDEF),
    (0x63B2D60289ABCDEF, .xori g 11 22 0x289ABCDEF),
    (0x64B2D60289ABCDEF, .shli g 11 22 0x289ABCDEF),
    (0x65B2D60289ABCDEF, .shri g 11 22 0x289ABCDEF),
    (0x66B2D60289ABCDEF, .sari g 11 22 0x289ABCDEF),
    (0x67B0D61BFFFFFFFF, .cmpi g .ltu 3 22 (-1)),
    (0x68B2D603FFFFFFFE, .muli g 11 22 (-2)),
    (0x69B2C00000000030, .lea g 11 0x30),
    (0x6AB2C003FFFFFFFF, .movi g 11 (-1)),
    (0x6BB2C0003FFFFFFF, .movhi g 11 0x3FFFFFFF)] = true := by decide

/-- Words of scalar floating point (R212), written out field by field with the guard !p5. -/
theorem test_decode_7_1 : reads [
    (0x70B2D68402200000, .fadd g .f16 .rtz 11 22 33),
    (0x71B2D68402200000, .fsub g .f16 .rtz 11 22 33),
    (0x72B2D68402200000, .fmul g .f16 .rtz 11 22 33),
    (0x74B2D68402200000, .fdiv g .f16 .rtz 11 22 33),
    (0x73B2D686C1E00000, .ffma g .f32 .dyn 11 22 33 44),
    (0x75B2D60003800000, .fsqrt g .bf16 .rna 11 22),
    (0x76B2D68401000000, .fmin g .f32 11 22 33),
    (0x77B2D68401000000, .fmax g .f32 11 22 33),
    (0x78B0D68401060000, .fcmp g .f32 .un 3 22 33),
    (0x79B2D6000C400001, .fcvt g .si32 .f32 .rdn 11 22),
    (0x7AB2D60002000000, .fclass g .f16 11 22),
    (0x7BB2D60001600000, .fexp g .f32 .rup 11 22)] = true := by decide

/-- Words of scalar floating point (R212), written out field by field with the guard !p5. -/
theorem test_decode_7_2 : reads [
    (0x7CB2D60001600000, .flog g .f32 .rup 11 22),
    (0x7DB2D60001600000, .ferf g .f32 .rup 11 22),
    (0x7EB2D60001600000, .ferfc g .f32 .rup 11 22),
    (0x7FB2D68401020000, .fsgn g .f32 (.copy 33) 11 22)] = true := by decide

/-- Words of memory (R213), written out field by field with the guard !p5. -/
theorem test_decode_8 : reads [
    (0x80B2D63A01FFFFF8, .ld g 11 22 (.pc .si64 (-8)) .acq),
    (0x81B2D635CA000010, .st g 11 22 (.piw .ui32 9 16) .rel),
    (0x82B5561000000040, .ldv g 21 22 (.bo .fb8 64) .plain),
    (0x83B5561D00000004, .stv g 21 22 (.pi .lg24 4) .plain),
    (0x84B5563402190003, .ldvx g .f16 ⟨6, true⟩ 21 22 13 3),
    (0x85B5563402180001, .stvx g .f16 6 21 22 13 1),
    (0x86B2D68720FFFFF8, .ldw g 11 22 33 50 0xFFFFF8),
    (0x87B2D68480000002, .mstore g 11 22 (.bi 33 2) .plain)] = true := by decide

/-- Words of vector (R214), written out field by field with the guard !p5. -/
theorem test_decode_9_1 : reads [
    (0x90B5568401590100, .vadd g .f32 .rdn ⟨6, true⟩ 21 22 (.s 33)),
    (0x91B5568401590100, .vsub g .f32 .rdn ⟨6, true⟩ 21 22 (.s 33)),
    (0x92B5568401590100, .vmul g .f32 .rdn ⟨6, true⟩ 21 22 (.s 33)),
    (0x95B5568401590100, .vdiv g .f32 .rdn ⟨6, true⟩ 21 22 (.s 33)),
    (0x97B5563409180000, .vmin g .ui8 ⟨6, false⟩ 21 22 (.v 13)),
    (0x98B5563409180000, .vmax g .ui8 ⟨6, false⟩ 21 22 (.v 13)),
    (0x93B55684E1F80100, .vfma g .f32 .dyn ⟨6, false⟩ 21 22 (.s 33) 14),
    (0x94B55684E1F80100, .vfms g .f32 .dyn ⟨6, false⟩ 21 22 (.s 33) 14),
    (0x96B5560000380000, .vsqrt g .f64 .rtz ⟨6, false⟩ 21 22),
    (0x99B5560008190000, .vabs g .si8 ⟨6, true⟩ 21 22),
    (0x9AB5560008190000, .vneg g .si8 ⟨6, true⟩ 21 22),
    (0x9BB1568401190103, .vcmp g .f32 (.f .le) ⟨6, true⟩ 5 22 (.s 33))] = true := by decide

/-- Words of vector (R214), written out field by field with the guard !p5. -/
theorem test_decode_9_2 : reads [
    (0x9CB5563400180000, .vsel g .f64 6 21 22 13),
    (0x9DB556340B180000, .vand g .ui16 ⟨6, false⟩ 21 22 (.v 13)),
    (0x9EB556340B180000, .vor g .ui16 ⟨6, false⟩ 21 22 (.v 13)),
    (0x9FB556340B180000, .vxor g .ui16 ⟨6, false⟩ 21 22 (.v 13))] = true := by decide

/-- Words of vector (R214), written out field by field with the guard !p5. -/
theorem test_decode_a : reads [
    (0xA0B556340B180000, .vshl g .ui16 ⟨6, false⟩ 21 22 (.v 13)),
    (0xA1B556340B180000, .vshr g .ui16 ⟨6, false⟩ 21 22 (.v 13)),
    (0xA2B556340B180000, .vsar g .ui16 ⟨6, false⟩ 21 22 (.v 13)),
    (0xA3B5560004190000, .vmov g .fb8 ⟨6, true⟩ 21 22),
    (0xA4B0000000002004, .vshape g 0x2004),
    (0xA5B556000D180000, .viota g .ui32 ⟨6, false⟩ 21 22),
    (0xA6B5560001980001, .vred g .f32 .rna ⟨6, false⟩ true 21 22),
    (0xA7B2D68401380000, .redt g .f32 .rtz 6 11 22 33)] = true := by decide

/-- Words of vector (R214), written out field by field with the guard !p5. -/
theorem test_decode_b_1 : reads [
    (0xB0B5560005780001, .vcvt g .fb5 .f32 .rup ⟨6, false⟩ 21 22),
    (0xB1B5568406380000, .vreq g .fb3 .rtz ⟨6, false⟩ 21 22 33),
    (0xB2B55602C1180000, .vcomp g .f32 6 21 22 44),
    (0xB3B5560001190000, .vexpd g .f32 ⟨6, true⟩ 21 22),
    (0xB4B5563401180000, .vperm g .f32 ⟨6, false⟩ 21 22 13),
    (0xB5B5560001000000, .vtrans g .f32 21 22),
    (0xB6B5610007180000, .vbcast g .lg24 ⟨6, false⟩ 21 33),
    (0xB7B5568401180001, .vslide g .f32 true ⟨6, false⟩ 21 22 33),
    (0xB8B1461C00000000, .kop g (.and 5 6 7)),
    (0xB8B1461C00000001, .kop g (.or 5 6 7)),
    (0xB8B1461C00000002, .kop g (.xor 5 6 7)),
    (0xB8B1460000000003, .kop g (.not 5 6))] = true := by decide

/-- Words of vector (R214), written out field by field with the guard !p5. -/
theorem test_decode_b_2 : reads [
    (0xB8B2C60000000004, .kop g (.pop 11 6)),
    (0xB8B1460000000005, .kop g (.mov 5 6)),
    (0xB9B540000F180000, .vrand g true ⟨6, false⟩ 21),
    (0xB9B540000D180000, .vrand g false ⟨6, false⟩ 21),
    (0xBAB2D68401000000, .vgets g .f32 11 22 33),
    (0xBBB5568401000000, .vputs g .f32 21 22 33)] = true := by decide

/-- Words of special functions (R214), written out field by field with the guard !p5. -/
theorem test_decode_c : reads [
    (0xC0B5560000F80000, .vfexp g .f64 .dyn ⟨6, false⟩ 21 22),
    (0xC1B5560000F80000, .vflog g .f64 .dyn ⟨6, false⟩ 21 22),
    (0xC2B5560000F80000, .vferf g .f64 .dyn ⟨6, false⟩ 21 22),
    (0xC3B5560000F80000, .vferfc g .f64 .dyn ⟨6, false⟩ 21 22),
    (0xC4B5560003180000, .vlnt g .bf16 ⟨6, false⟩ 21 22),
    (0xC5B5560001380000, .vlnf g .f32 .rtz ⟨6, false⟩ 21 22),
    (0xC6B5560002190000, .vxexp g .f16 ⟨6, true⟩ 21 22),
    (0xC7B5560002190000, .vxrcp g .f16 ⟨6, true⟩ 21 22),
    (0xC8B5560002190000, .vxrsq g .f16 ⟨6, true⟩ 21 22),
    (0xC9B5560002190000, .vxsig g .f16 ⟨6, true⟩ 21 22),
    (0xCAB5560002190000, .vxtanh g .f16 ⟨6, true⟩ 21 22)] = true := by decide

/-- Words of matrix sequencer (R215), written out field by field with the guard !p5. -/
theorem test_decode_d_1 : reads [
    (0xD0B2C00000000020, .sclaim g 11 32),
    (0xD1B0160000000001, .srel g 22 1),
    (0xD2B01686C0000080, .sfill g 22 33 44 128),
    (0xD3B2D60000000000, .sstat g 11 22),
    (0xD4B016000C8C0001, .mldw g .bf16 true 22 50),
    (0xD5BFD686CC8F8421, .mma g ⟨.bf16, true, some 0x8421⟩ 63 22 33 44 50),
    (0xD6BFD686CC900000, .mmag g ⟨.fb8, false, none⟩ 63 22 33 44 50),
    (0xD7BFD686CC860000, .mmas g ⟨.f32, true, none⟩ 63 22 33 44 50),
    (0xD8B2C00320000000, .mwait g 11 50),
    (0xD9B000000C800000, .mresume g 50),
    (0xDABFD6840009C000, .mout g .f16 .rup true 63 22 33),
    (0xDBBFC00000000000, .mzero g 63)] = true := by decide

/-- Words of matrix sequencer (R215), written out field by field with the guard !p5. -/
theorem test_decode_d_2 : reads [
    (0xDCB2C00000000002, .mstat g 11 .fva)] = true := by decide

/-- Words of engines (R215), written out field by field with the guard !p5. -/
theorem test_decode_e : reads [
    (0xE0B2D686CC800000, .fetch g 11 22 33 44 50),
    (0xE1B2D686CC800000, .put g 11 22 33 44 50),
    (0xE2B2D686CC8155FF, .gather g 11 22 33 44 50 0xFF 0x155),
    (0xE3B2D686CCBAAA3F, .scata g .si64 11 22 33 44 50 0x3F 0x2AA),
    (0xE4B2D6000C800000, .nlcfg g 11 22 50),
    (0xE5B2D6840C840000, .nlbin g 11 22 33 50),
    (0xE6B2D686CC800000, .nlpairs g 11 22 33 44 50),
    (0xE7B2C00000000008, .nlstat g 11 8),
    (0xE8B2D6840C880012, .conv g .f16 .csr .tiles 11 22 33 50),
    (0xE9B2D60320000000, .ewait g 11 22 50),
    (0xEAB2D60000000000, .estat g 11 22)] = true := by decide

/-- Words of MOVX (R215), written out field by field with the guard !p5. -/
theorem test_decode_f : reads [
    (0xF0B2C00000000000, .movx g 11 0x123456789ABCDEF0)] = true := by decide

/-! ### Well-formedness: an ill-formed term for each check, and its word refused (R203, R205, R216, R217, R295) -/

/-- Each instruction is ill formed, and the decoder refuses its word. -/
def refused (l : List Instr) : Bool :=
  l.all (fun i => !i.wf && (match encodeWord i with
    | some w => match decodeWord w 0 with
      | .ok _ => false
      | .error _ => true
    | none => false))

theorem test_wf_control : refused [.movc g 1 0x003, .movc g 1 0x023, .movcw g 1 0x052, .movcw g 1 0xA21, .movc g 1 0x808,
    .movc g 1 0xFFF] = true := by decide

theorem test_wf_tasks : refused [.boxld g 0 1 (.bo .f64 0), .boxld g 1 1 (.bo .f32 0), .boxst g 1 1 (.bo .ui8 0),
    .boxst g 1 1 (.pc .f64 0), .boxget g 1 1 .lo 6, .boxget g 1 1 .nkey 1, .boxset g 0 1 1 true 0, .boxset g 1 1 1 true 6,
    .split g 6, .splitk g 4, .splitf g 1 2, .leaf g 1, .spawn g .leaf 1 60 1 1 0, .send g true 60 0, .send g true 1 4,
    .deposit g .si8 1] = true := by decide

theorem test_wf_sync : refused [.amo g .f64 .add 1 1 1 0, .amo g .ui32 .add 1 1 1 1, .bdecl g false 1 1 0,
    .sendb g 1 1 1 1 1 1025] = true := by decide

theorem test_wf_float : refused [.fadd g .lg24 .rne 1 1 1, .fsub g .si8 .rne 1 1 1, .fmul g .fb8 .rne 1 1 1,
    .fdiv g .ui64 .rne 1 1 1, .ffma g .fb3 .rne 1 1 1 1, .fsqrt g .si64 .rne 1 1, .fmin g .lg24 1 1 1, .fmax g .lg24 1 1 1,
    .fcmp g .si8 .eq 1 1 1, .fcvt g .fb8 .f32 .rne 1 1, .fcvt g .f32 .lg24 .rne 1 1, .fclass g .si8 1 1] = true := by decide

theorem test_wf_functions : refused [.fexp g .f16 .rne 1 1, .flog g .bf16 .rne 1 1, .ferf g .f16 .rne 1 1,
    .ferfc g .f16 .rne 1 1, .fsgn g .si8 .abs 1 1, .vfexp g .f16 .rne ⟨1, false⟩ 1 1, .vflog g .bf16 .rne ⟨1, false⟩ 1 1,
    .vferf g .f16 .rne ⟨1, false⟩ 1 1, .vferfc g .f16 .rne ⟨1, false⟩ 1 1, .vlnt g .lg24 ⟨1, false⟩ 1 1,
    .vlnf g .lg24 .rne ⟨1, false⟩ 1 1, .vxexp g .f64 ⟨1, false⟩ 1 1, .vxrcp g .si8 ⟨1, false⟩ 1 1,
    .vxrsq g .f64 ⟨1, false⟩ 1 1, .vxsig g .f64 ⟨1, false⟩ 1 1, .vxtanh g .f64 ⟨1, false⟩ 1 1] = true := by decide

theorem test_wf_memory : refused [.ld g 1 1 (.bo .fb8 0) .plain, .ld g 1 1 (.bo .f64 0) .rel, .st g 1 1 (.pc .f64 0) .plain,
    .st g 1 1 (.bo .lg24 0) .plain, .st g 1 1 (.bo .f64 0) .acq, .mstore g 1 1 (.pc .f64 0) .plain, .ldv g 1 1 (.bi 1 0) .plain,
    .ldv g 1 1 (.bo .f32 0) .rel, .stv g 1 1 (.bi 1 0) .plain, .stv g 1 1 (.pc .f32 0) .plain,
    .stv g 1 1 (.bo .f32 0) .acq] = true := by decide

theorem test_wf_vector : refused [.vadd g .fb8 .rne ⟨1, false⟩ 1 1 (.v 1), .vadd g .si8 .rtz ⟨1, false⟩ 1 1 (.v 1),
    .vsub g .fb5 .rne ⟨1, false⟩ 1 1 (.v 1), .vmul g .lg24 .rdn ⟨1, false⟩ 1 1 (.v 1), .vdiv g .lg24 .rne ⟨1, false⟩ 1 1 (.v 1),
    .vfma g .si8 .rne ⟨1, false⟩ 1 1 (.v 1) 1, .vfms g .lg24 .rne ⟨1, false⟩ 1 1 (.v 1) 1, .vsqrt g .si8 .rne ⟨1, false⟩ 1 1,
    .vmin g .lg24 ⟨1, false⟩ 1 1 (.v 1), .vmax g .fb8 ⟨1, false⟩ 1 1 (.v 1), .vabs g .lg24 ⟨1, false⟩ 1 1,
    .vneg g .fb3 ⟨1, false⟩ 1 1] = true := by decide

theorem test_wf_vector2 : refused [.vcmp g .si8 (.i .ltu) ⟨1, false⟩ 1 1 (.v 1),
    .vand g .f32 ⟨1, false⟩ 1 1 (.v 1), .vor g .f32 ⟨1, false⟩ 1 1 (.v 1), .vxor g .lg24 ⟨1, false⟩ 1 1 (.v 1),
    .vshl g .lg24 ⟨1, false⟩ 1 1 (.v 1), .vshr g .f32 ⟨1, false⟩ 1 1 (.v 1), .vsar g .f32 ⟨1, false⟩ 1 1 (.v 1),
    .viota g .f32 ⟨1, false⟩ 1 1, .vred g .si8 .rne ⟨1, false⟩ true 1 1, .redt g .lg24 .rne 1 1 1 1,
    .vcvt g .fb8 .fb5 .rne ⟨1, false⟩ 1 1, .vcvt g .si8 .fb8 .rne ⟨1, false⟩ 1 1, .vreq g .f32 .rne ⟨1, false⟩ 1 1 1,
    .vbcast g .fb8 ⟨1, false⟩ 1 1, .vgets g .fb5 1 1 1, .vputs g .fb3 1 1 1] = true := by decide

theorem test_wf_units : refused [.sclaim g 1 0, .sclaim g 1 33, .srel g 1 0, .srel g 1 63, .sfill g 1 1 1 129, .mldw g .f64 true 1 1,
    .mma g ⟨.lg24, false, none⟩ 1 1 1 1 1, .mmag g ⟨.f32, false, none⟩ 1 63 1 1 1, .mmas g ⟨.si8, false, none⟩ 1 1 1 1 1,
    .mout g .lg24 .rne false 1 1 1, .scata g .f16 1 1 1 1 1 0 0, .nlstat g 1 9, .conv g .si8 .dense .csr 1 1 1 1] = true := by decide

/-- Codes that no constructor has: a rounding mode 5, an FP condition 8, an integer condition 12, an order 3, an address mode
5, an access type with a high bit, Z = 10, AMO 10, Q = 2 of WAITC, scope 4 of BAR, CONV layout 3, KOP 6 (R204 to R217). -/
theorem test_undefined_codes : ([0x7000000000A00000, 0x7800000001080000, 0x5C000000000C0000, 0x8000000003000000,
    0x8000000280000000, 0x8000004000000000, 0x9000000001020000, 0x290000000D0A0000, 0x2200000002000000, 0x2400000004000000,
    0xE800000000000003, 0xB800000000000006] : List Word).all (fun w => match decodeWord w 0 with
      | .ok _ => false
      | .error _ => true) = true := by decide

/-- The kind of a VCMP condition is that of T (R299). -/
theorem test_wf_vcond : (Instr.vcmp g .f32 (.i .eq) ⟨1, false⟩ 1 1 (.v 1)).wf = false ∧
    (Instr.vcmp g .si8 (.f .eq) ⟨1, false⟩ 1 1 (.v 1)).wf = false := by decide
/-! ### Hypotheses of the statements: a state that meets them, for each clause -/

theorem test_hyp_guard : base.guard g0 = true ∧ (base.wP 3 true).guard ⟨3, false⟩ = true ∧ base.guard ⟨3, true⟩ = true ∧
    base.guard ⟨3, false⟩ = false := by decide +kernel

/-- ScalarFloatingPoint, with all traps enabled: 1 + 2 raises no flag; ScalarCompareClassSign. -/
theorem test_hyp_scalarFp : let s := onSt (fun t => { t with fpcr := 0x1F00 })
    (fadd .f64 .rne (fval .f64 0x3FF0000000000000) (fval .f64 0x4000000000000000)).2 &&& s.st.te = 0 ∧
    (fcond .lt (fval .f64 0x3FF0000000000000) (fval .f64 0x4000000000000000)).2 &&& s.st.te = 0 := by decide +kernel

/-- RoundingKeepsValues: the smallest subnormal of F16. -/
theorem test_hyp_rounding : Fmt.isIeee .f16 = true ∧ 0x0001 < 2 ^ ieeeBits .f16 ∧
    (match fval .f16 0x0001 with | .fin _ m _ => decide (m ≠ 0) | _ => false) = true := by decide +kernel

/-- FpxBeforeResult: ∞ − ∞, ∞ · 0, 1 / 0, √−1, a conversion that overflows, and signalling NaNs, with all traps enabled. -/
theorem test_hyp_fpx : let te := (onSt (fun t => { t with fpcr := 0x1F00 })).st.te
    let inf := fval .f16 0x7C00
    let sig : Nat := 0x7C01
    (fadd .f16 .rne inf inf.flip).2 &&& te ≠ 0 ∧ (fmul .f16 .rne inf (fval .f16 0)).2 &&& te ≠ 0 ∧
    (ffma .f16 .rne inf (fval .f16 0) inf).2 &&& te ≠ 0 ∧ (fminmax .f16 false sig 0).2 &&& te ≠ 0 ∧
    (fminmax .f16 true sig 0).2 &&& te ≠ 0 ∧ (fcond .eq (fval .f16 sig) inf).2 &&& te ≠ 0 ∧
    (crExp .f16 .rne sig).2 &&& te ≠ 0 ∧ (crLn .f16 .rne sig).2 &&& te ≠ 0 ∧ (crErf .f16 .rne sig).2 &&& te ≠ 0 ∧
    (crErfc .f16 .rne sig).2 &&& te ≠ 0 ∧
    (fadd .f64 .rne (fval .f64 0x7FF0000000000000) (fval .f64 0xFFF0000000000000)).2 &&& te ≠ 0 ∧
    (fdiv .f64 .rne (fval .f64 0x3FF0000000000000) (fval .f64 0)).2 &&& te ≠ 0 ∧
    (fsqrt .f64 .rne (fval .f64 0xBFF0000000000000)).2 &&& te ≠ 0 ∧
    (convert .f16 .f64 .rne 0x7FE0000000000000).2 &&& te ≠ 0 := by decide +kernel

/-- Tiles that fit: 4 × 32 of each size, the boundary of 1,024 bytes, and an FB tile of 32 columns. -/
theorem test_hyp_tiles : let s := onSt (fun t => { t with vshape := 0x2008 })
    s.tileFits 4 ∧ s.tileFits 2 ∧ s.tileFits 1 ∧ (onSt (fun t => { t with vshape := 0x2004 })).tileFits 8 ∧
    s.st.cols % 32 = 0 ∧ s.elems / 32 * fmtSize .fb8 ≤ 1024 ∧ Fmt.isFb .fb8 = true ∧ Fmt.isInt .si8 = true ∧
    s.elems = 256 := by decide +kernel

/-- VectorCompare, with a NaN in the tile and no trap enabled; writesTile with all enabled and no flag raised. -/
theorem test_hyp_raised : let s := (onSt (fun t => { t with vshape := 0x0101 })).wV 1 0x7FC00000
    (s.raised 0 (fun i => (0, (vCmpE .f32 (.f .lt) (velem (s.rV 1) 4 i) 0).2)) &&& s.st.te = 0 ∧
      s.raised 0 (fun i => (0, (vCmpE .f32 (.f .lt) (velem (s.rV 1) 4 i) 0).2)) ≠ 0) ∧
    (let u := s.mod (fun t => { t with fpcr := 0x1F00 })
     u.raised 0 (fun i => fadd .f32 .rne (fval .f32 (velem (u.rV 2) 4 i)) (fval .f32 (velem (u.rV 2) 4 i))) &&& u.st.te = 0) := by
  decide +kernel

/-- VectorReductions and VectorScalarsAndMasks: an index at the last element and just beyond the tile. -/
theorem test_hyp_index : let s := args (onSt (fun t => { t with vshape := 0x2004 })) 127 128 0
    s.tileFits 4 ∧ Fmt.isIeee .f32 = true ∧ s.st.te = 0 ∧ (s.rS 1).toNat < s.elems ∧ s.elems ≤ (s.rS 2).toNat := by
  decide +kernel

/-- ControlFlow: the return stack empty, in use and full. -/
theorem test_hyp_stack : (onSt (fun t => { t with depth := 3 })).st.depth < 4 ∧ 0 < (onSt (fun t => { t with depth := 4 })).st.depth ∧
    4 ≤ (onSt (fun t => { t with depth := 4 })).st.depth ∧ base.st.depth = 0 := by decide +kernel

/-- TakingATrap and TrapRoutes: a task of a launch, a route of SUP, the codes that are forced and another, the three routes,
and a full queue of services. -/
theorem test_hyp_trap : base.st.task.isSome = true ∧ (base.st.task.map (·.legs)) = some [] ∧ (base.ctx? 1).isSome = true ∧
    base.curLaunch.isSome = true ∧ (base.chooseRoute 1 1024 0x02 false).1 ≠ 2 ∧ (base.routeOf 1 0x19).1 = 0 ∧
    (let s := base.modLc 1024 (fun l => { l with svc := List.replicate 8 ⟨0, 0, 0⟩ })
     8 ≤ (s.lc 1024).svc.length) := by decide +kernel

/-- ControlRegisters, Privilege, CacheInvalidation: user mode, supervisor mode, a management core. -/
theorem test_hyp_modes : base.st.sup = false ∧ (onSt (fun t => { t with sup := true })).st.sup = true ∧
    (0x7FF : BitVec 12).toNat < 0x800 ∧ 0x800 ≤ (0x800 : BitVec 12).toNat ∧ isMgmt (coreOf 4096) = true ∧ isMgmt (coreOf 4095) = false ∧
    base.storesDone 0 = true := by decide +kernel

/-- HoldEnding: a hold of a deque record, one of a message with two behind it, and a handle of none. -/
theorem test_hyp_hold :
    let s := ((onCtx (fun x => { x with holds := [⟨0, 8, 1024, 0, 0, 0, 1, false, [], none⟩, ⟨1, 8, 1024, 1, 0, 0, 1, false, [], none⟩] })).mod
      (fun t => { t with sup := true })).modCore 0 (fun c =>
        { c with q := c.q.set 0 [⟨⟨0, false, 1, 0, 0, 0, Vector.replicate 4 0, 0⟩, some 1⟩,
                                 ⟨⟨0, false, 1, 0, 0, 1, Vector.replicate 4 0, 0⟩, none⟩] })
    s.st.sup = true ∧ (s.findHold 1 0).map (·.kind) = some 0 ∧ (s.findHold 1 0x100000001).map (·.kind) = some 1 ∧
    s.findHold 1 0x100000002 = none ∧ (s.findHold 1 0x100000001).map s.heldBehind = some 2 ∧
    s.st.task.map (·.effects) = some [] := by decide +kernel

/-- HaltAndRelease: a management core, a row that is and one that is not ready, a halted strand, a requested halt. -/
theorem test_hyp_halt :
    let m := ({ base with cur := 4096, boot := { base.boot with ready0 := 1 } }).mod (fun t => { t with sup := true })
    let s := (m.wS 1 3).modStrand 3 (fun t => { t with halted := true })
    let h := onSt (fun t => { t with haltReq := true })
    isMgmt (coreOf m.cur) = true ∧ m.st.sup = true ∧ m.guard g0 = true ∧ s.rS 1 < 4096 ∧ s.boot.ready0.getLsbD (3 / 64) = true ∧
    (s.strand 3).halted = true ∧ s.notLanded 0 = [] ∧ (m.wS 1 4095).boot.ready0.getLsbD (4095 / 64) = false ∧
    isMgmt (coreOf base.cur) = false ∧ h.st.haltReq = true ∧ h.st.wait = none ∧ h.st.stalled = false := by decide +kernel

/-- LoadsThroughAddressModes: a word, a tile and a box of the frame, at its last byte and with each kind of base update. -/
theorem test_hyp_loads : let s := args (onSt (fun t => { t with vshape := 0x2004 })) (frame + 4088) (frame + 4032) (frame + 3584)
    (s.accessEa s.who kLoad (s.effAddr 1 (.bo .f64 0)) 8 8 = .ok () ∧ s.stalls (s.who.lines (s.effAddr 1 (.bo .f64 0)).ea 8) = none) ∧
    (s.accessEa s.who kLoad (s.effAddr 2 (.pi .f64 64)) 64 64 = .ok () ∧ (s.effAddr 2 (.pi .f64 64)).upd ≠ none) ∧
    (s.tileFits 4 ∧ s.accessEa s.who kLoad (s.effAddr 3 (.bo .f32 0)) (s.elems * 4) (tileAlign .f32) = .ok ()) ∧
    s.eccHit s.who (s.effAddr 1 (.bo .f64 0)).ea 8 = false ∧ s.eccHit s.who (s.effAddr 3 (.bo .f32 0)).ea (s.elems * 4) = false := by
  decide +kernel

/-- StoresToLocalStore: the same places, for a store and for MSTORE. -/
theorem test_hyp_stores : let s := args (onSt (fun t => { t with vshape := 0x2004 })) (frame + 4088) (frame + 4032) (frame + 3584)
    (window (s.effAddr 1 (.bo .f64 0)).ea = 2 ∧ s.accessEa s.who kStore (s.effAddr 1 (.bo .f64 0)) 8 8 = .ok () ∧
      s.accessEa s.who kMstore (s.effAddr 1 (.bo .f64 0)) 8 8 = .ok () ∧ s.who.inKeep (inWindowOff (s.rS 1)) 8 = false) ∧
    (s.accessEa s.who kStore (s.effAddr 2 (.bo .f64 0)) 64 64 = .ok () ∧ s.who.inKeep (inWindowOff (s.rS 2)) 64 = false) ∧
    (s.accessEa s.who kStore (s.effAddr 3 (.bo .f32 0)) (s.elems * 4) (tileAlign .f32) = .ok ()) := by decide +kernel

/-- The page of `base` writable, for accesses to global memory. -/
def wide : State := base.gwriteAll placeL2 (bytesOfNat 8 (placeCode + 7)) none

/-- LoadsThroughAddressModes: a word of global memory in a line with an uncorrectable error. -/
theorem test_hyp_ecc : let s := args { wide with ecc := [placeCode + 0x1000] } 0x1008 0 0
    let e := s.effAddr 1 (.bo .f64 0)
    s.accessEa s.who kLoad e 8 8 = .ok () ∧ s.eccHit s.who e.ea 8 = true ∧ (args wide 0 0 0).eccHit s.who e.ea 8 = false := by
  decide +kernel

theorem test_hyp_global : let s := args wide 0x1FFFFFF8 0 0
    let e := s.effAddr 1 (.bo .ui64 0)
    window e.ea = 0 ∧ s.accessEa s.who kStore e 8 8 = .ok () ∧
    (match s.xlate 0 1 e.ea.toNat with | .ok x => !x.replica | .error _ => false) = true ∧ s.who.exact = false ∧
    s.st.task.map (fun t => decide (t.tagLog.length ≤ 256)) = some true := by decide +kernel

theorem get_le (n : Nat) : ∀ t : Table Nat, t.all (fun e => decide (e.2 ≤ n)) = true → ∀ y, t.get y 0 ≤ n
  | [], _, _ => Nat.zero_le n
  | (j, v) :: t, h, y => by
    simp only [List.all_cons, Bool.and_eq_true, decide_eq_true_eq] at h
    simp only [Table.get, Table.find]
    split
    · exact h.1
    · exact get_le n t h.2 y

/-- StoreToGlobalMemory and HostAccess: no view lists a stamp above the state's. -/
theorem test_hyp_stamps : ∀ d y, (wide.die d).view.stamps.get y 0 ≤ wide.stamp := by
  intro d
  exact get_le wide.stamp _ (by revert d; decide +kernel)
/-- GatherAndScatterElements: two active elements, then one; a frame address for the store. -/
theorem test_hyp_gather : let s := (args (onSt (fun t => { t with vshape := 0x0201 })) frame 0 0).wK 1 1
    s.tileFits 4 ∧ s.active 0 s.elems = [0, 1] ∧ s.active 1 s.elems = [0] ∧
    s.elemChecks s.who kLoad (fun i => s.elemAddr 1 2 0 i) 4 (tileAlign .f32) (s.active 0 s.elems) = .ok () ∧
    s.stalls ((s.active 0 s.elems).flatMap (fun i => s.who.lines (s.elemAddr 1 2 0 i) 4)) = none ∧
    (s.active 0 s.elems).all (fun i => !s.eccHit s.who (s.elemAddr 1 2 0 i) 4) = true ∧
    window (s.elemAddr 1 2 0 0) = 2 ∧ s.elemChecks s.who kStore (fun i => s.elemAddr 1 2 0 i) 4 (tileAlign .f32) [0] = .ok () ∧
    s.who.inKeep (inWindowOff (s.elemAddr 1 2 0 0)) 4 = false := by decide +kernel

/-- AlignmentFirst and AtomicOperations. -/
theorem test_hyp_align : let s := args base (frame + 4) (frame + 4088) 0
    1 < fmtSize (AccTy (.bo .f64 0)) ∧ (s.effAddr 1 (.bo .f64 0)).ea.toNat % 8 ≠ 0 ∧ (s.rS 1).toNat % fmtSize .ui64 ≠ 0 ∧
    window (s.rS 2) = 2 ∧ s.access s.who kAmo (s.rS 2) 8 8 = .ok () ∧ s.access s.who kAmo (s.rS 1) 4 4 = .ok () ∧
    s.who.exact = false ∧ s.who.inKeep (inWindowOff (s.rS 2)) 8 = false := by decide +kernel

/-- A PUB tensor of one word, whose tag is not set (R71, R291). -/
def pub : State := (wide.modLaunch 1 (fun l => { l with arrival := false, tensors := [⟨0x1000, 64, 2, .f64, [(8, 8, 0)]⟩] }))

/-- LoadWait: a word of the frame, and one of a PUB tensor that is not yet published, with and without a deadline. -/
theorem test_hyp_loadWait : let s := args base frame 0 100
    let u := args pub 0x1000 0 100
    s.access s.who kLdw (s.rS 1) 8 8 = .ok () ∧ window (s.rS 1) = 2 ∧ s.st.wait = none ∧
    (s.touch s.who (s.rS 1) 8).ldwReady s.who (s.rS 1) = true ∧
    u.access u.who kLdw (u.rS 1) 8 8 = .ok () ∧ s.eccHit s.who (s.rS 1) 8 = false ∧ u.eccHit u.who (u.rS 1) 8 = false ∧ window (u.rS 1) = 0 ∧
    (u.touch u.who (u.rS 1) 8).ldwReady u.who (u.rS 1) = false ∧ u.deadline 0 = 0 ∧
    (onSt (fun t => { t with dlmax := 100 })).deadline 0 = 0 ∧
    (args (onSt (fun t => { t with dlmax := 100 })) 0 0 50).deadline 3 ≠ 0 := by decide +kernel

/-- BoxRegisters: b0 of a task, a key with two children, and a descriptor that names a footprint. -/
theorem test_hyp_boxes :
    let s := (onLaunch (fun l => { l with desc := { l.desc with foots := [[[], [], []]] } })).wB 1 (BitVec.ofNat 512 (2 ^ 451))
    let key : Word := (s.rB 1).extractLsb' 448 64
    key ≠ 0 ∧ key &&& (0 - key) ≠ 1 ∧ s.curLaunch.isSome = true ∧
    (s.curLaunch.bind (fun l => l.desc.foots[0]?)) = some [[], [], []] ∧
    (s.curLaunch.bind (fun l => l.desc.foots[1]?)) = none ∧ s.st.task.map (·.tr.kind) = some .leaf := by decide +kernel

/-- The image of a box of two points on axis 0, SPLIT, with the node key of its root. -/
def box2 : BoxImg := BitVec.ofNat 512 (2 * 2 ^ 32 + 1 * 2 ^ 384 + 1 * 2 ^ 448)

/-- VerdictsAndEnds: a RULE task on a box with two points, one on a box without a key axis, and tasks of other kinds with 31 and
with 32 effects; a REQUEUE whose group is to be released. -/
theorem test_hyp_verdicts : let s := onTask (fun k => { k with tr := { k.tr with kind := .rule, box := box2 } })
    let n := fun (c : Nat) => onTask (fun k => { k with effects := List.replicate c (.add 0 1) })
    let q := (onTask (fun k => { k with trigger := .msg false })).mod (fun t => { t with phase := .ending .requeue })
    s.st.task.map (fun k => (k.tr.kind, k.legs)) = some (.rule, []) ∧ s.st.phase = .running ∧ boxClass box2 0 = 1 ∧
    2 ≤ boxExt box2 0 ∧ boxDepth box2 < 63 ∧ (n 31).st.task.map (·.counted) = some 31 ∧ (n 32).st.task.map (·.counted) = some 32 ∧
    keyAxis box2 = none ∧ keyAxis (BitVec.ofNat 512 (2 * 2 ^ 32 + 2 * 2 ^ 384)) = some 0 ∧
    q.st.phase = .ending .requeue ∧ q.opsHold q.cur = false ∧ q.st.task.map (fun k => k.mxFlags &&& q.st.te) = some 0 ∧
    q.st.arr = Vector.replicate 4 none := by decide +kernel

/-- CommitEffects: a target below NLCORE and at it, a buffer with 15 and with 16 entries, a leaf with and without a join. -/
theorem test_hyp_effects : let s := args base frame 1 0
    let item : SendItem := ⟨⟨0, false, 1, 0, 0, 0, Vector.replicate 4 0, 0⟩, false, false, 0, false, 0, 0, 0, 0⟩
    let n := fun (c : Nat) => onSt (fun t => { t with send := t.send.set 0 (List.replicate c item) })
    let j := onTask (fun k => { k with tr := { k.tr with jref := 64 } })
    s.curLaunch.map (fun l => decide ((s.rS 3).toNat < l.nlcore ∧ l.nlcore ≤ (s.rS 2).toNat)) = some true ∧
    (n 15).st.send[0].length < 16 ∧ 16 ≤ (n 16).st.send[0].length ∧
    j.st.task.map (fun k => (k.tr.kind, decide (k.tr.jref ≠ 0), k.legs, k.deposited, k.counted)) = some (.leaf, true, [], false, 0) ∧
    (args j frame 0 0).access j.who kLoad frame (tileLen (boxFree 0) (fmtSize .f32)) 8 = .ok () ∧
    s.st.task.map (·.tr.jref) = some 0 ∧ s.access s.who kCounter frame 8 8 = .ok () := by decide +kernel

/-- SpawnAndStealing: a request, its stages and answers, a reserved strand, and a thief in each of its situations. -/
theorem test_hyp_spawn : let s := args (onSt (fun t => { t with dlmax := 100 })) 0 1 50
    let i : Instr := .spawn g0 .leaf 4 1 1 3 0
    let r := fun (a : Option (Option Nat)) => (⟨1, 0, .leaf, 0, 0, Vector.replicate 4 0, a⟩ : SpawnReq)
    let w := fun (a : Option (Option Nat)) => s.mod (fun t => { t with spawn := some (r a), wait := some ⟨i, 50, 0, 1⟩ })
    s.st.wait = none ∧ s.deadline 3 ≠ 0 ∧ boxMalformed (s.rB 1) = false ∧ (s.rS 1).toNat < 1 ∧ 1 ≤ (s.rS 2).toNat ∧
    (w (some (some 1))).st.wait.map (fun u => (u.instr, u.stage)) = some (i, 1) ∧
    (w (some none)).st.spawn.map (·.answer) = some (some none) ∧ (w none).st.spawn.map (·.answer) = some none ∧
    (onSt (fun t => { t with phase := .reserved 7 })).st.phase = .reserved 7 := by decide +kernel

theorem test_hyp_steal : let s := { base with cur := 1024 }
    let th := fun (f : Thief → Thief) => s.modThief 1024 f
    let rule : TaskRec := { blankRec with kind := .rule }
    let v := ((th (fun t => { t with pos := some 0 })).modLaunch 1 (fun l => { l with nlcore := 2, remap := [0, 1] })).modLc 1025
      (fun l => { l with awake := true, hw := [⟨rule, none⟩, ⟨rule, none⟩] })
    let at_ := fun (i : Nat) => nth (stealRound (s.host 1 0)) i 0
    (match (th (fun t => { t with pos := some 0 })).answerSteal 1 (at_ 0) with | .error _ => true | .ok _ => false) = true ∧
    (List.range 32).any (fun i => match v.answerSteal 1 (at_ i) with | .error _ => false | .ok _ => true) = true ∧
    ((th (fun t => { t with grant := some rule })).lc 1024).hw.length < 64 ∧
    ((th (fun t => { t with pos := some 32, deny := some 0 })).lc 1024).thief.pos = some 32 ∧ s.idle 1024 = true ∧
    s.evicting 1 (s.host 1 0) = false ∧
    (let b := ((th (fun t => { t with notBefore := 5, fails := 1 })).modLc 1024 (fun l => { l with awake := true })).modDie 0
       (fun d => { d with cycle := 5 })
     (b.lc 1024).thief.notBefore ≤ b.cyc (b.host 1 0) ∧ (b.lc 1024).awake = true ∧ (b.launch? 1).isSome = true ∧
       b.idle 1024 = true) := by decide +kernel
/-- WaitsForConditions: a counter at its target, one below it with and without a deadline, a task that may yield; a tile of
offsets; a fence whose paths are drained, and one with a store that is not yet performed on every die. -/
theorem test_hyp_waits : let s := args (onSt (fun t => { t with dlmax := 100, vshape := 0x0102 })) frame 1 50
    let late := wide.gwrite 0 0x3000 [1] none (wide.mark 0) 0
    (s.elemChecks s.who kLoad (fun j => nth [s.rS 1] j 0) 8 8 (List.range 1) = .ok () ∧
      s.stalls ([s.rS 1].flatMap (fun e => s.who.lines e 8)) = none) ∧
    (s.rS 0).toNat ≤ s.ldNat s.who (s.rS 1) 8 ∧ s.ldNat s.who (s.rS 1) 8 < (s.rS 2).toNat ∧ s.deadline 0 = 0 ∧ s.deadline 3 ≠ 0 ∧
    s.st.wait = none ∧ s.st.task.map (·.legs) = some [] ∧ s.expHere (s.rS 1) = false ∧ s.canYield = true ∧ s.st.phase ≠ .stopping ∧
    s.tile 8 = .ok 2 ∧ s.elemChecks s.who kLoad (fun j => nth [frame, frame] j 0) 8 8 (List.range 2) = .ok () ∧
    s.drained s.cur 255 = 255 ∧ s.drainedAll s.cur = 255 ∧ s.settled 0 = true ∧
    late.drainedAll late.cur ≠ 255 := by decide +kernel

/-- FENCE: a SENDB of the strand still on its way leaves path 1 undrained. -/
theorem test_hyp_fence : let s := { base with xfers := [⟨0, 1, 0, 0, frame, none, 64, 1024, 0, 0, 0, 0, true⟩] }
    s.drained s.cur 2 ≠ 2 := by decide +kernel

/-- Barriers: the lowest free slot is the third, no slot is free, and an arrival in each of its states. -/
theorem test_hyp_barrier : let a : Arrival := ⟨.row, 0, 7, true, true, 0⟩
    let s := onSt (fun t => { t with arr := (t.arr.set 0 (some a)).set 1 (some a) })
    let full := onSt (fun t => { t with arr := Vector.replicate 4 (some a) })
    let h : Word := 7 * 2 ^ 32 + 1 * 512 + 256
    let wait := fun (i : Instr) (n : Nat) (b : Arrival) => onSt (fun t =>
      { t with wait := some ⟨i, 100, 0, n⟩, arr := t.arr.set 1 (some b) })
    s.st.arrAt 2 = none ∧ (List.range 2).all (fun i => (s.st.arrAt i).isSome) = true ∧
    (List.range 4).all (fun i => (full.st.arrAt i).isSome) = true ∧ s.barCheck .row 0 = .ok () ∧ s.st.wait = none ∧
    wide.barCheck .die 0x1000 = .ok () ∧ s.st.barSlot h = some 1 ∧ s.st.barSlot 0 = none ∧
    (wait (.bar g0 .row 4 1 2 3) 4 a).st.wait.map (fun u => (u.instr, u.stage)) = some (.bar g0 .row 4 1 2 3, 4) ∧
    (wait (.bara g0 .row 4 1 2) 4 a).st.arrAt 1 = some a ∧
    (let b := wait (.bar g0 .row 4 1 2 3) 4 { a with reply := false, done := false }
     (b.st.arrAt 1).map (·.reply) = some false ∧ ((b.wS 2 1).rS 2).getLsbD (colOf 0) = true ∧
       ((b.wS 2 2).rS 2).getLsbD (colOf 0) = false) ∧
    ((wait (.bar g0 .row 4 1 2 3) 5 { a with done := false }).st.wait.map (·.stage)) = some 5 := by decide +kernel

/-- Barriers: a record of a die, of generation 0, that no arrival has touched, and one whose generation has passed. -/
theorem test_hyp_barrierRecord : (match wide.xlate 0 1 0x1000 with
    | .ok x => decide (wide.latestDie (x.pa 0) = dieF 0 ∧ (wide.barRead (x.pa 0)).1 = 0 ∧ (wide.barRead (x.pa 0)).2.1 ≠ 1)
    | .error _ => false) = true := by decide +kernel

/-- A launch with a CORE baton of two slots of 64 bytes, and its table at the logical core (R130, R131). -/
def batons (sl : BSlot) (core : Bool) (next : BitVec 32) : State :=
  (onLaunch (fun l => { l with sa := 4096, desc := { l.desc with batons := [(0, 64, 2, core, 0)] } })).modLc 1024 (fun c =>
    { c with batons := [⟨0, 64, 2, core, next, [sl, noSlot]⟩], sbase := 0x17F000 })
def own : Word := 0x0000080000000000

/-- Batons: handles, sequences before, at and beyond the window, and slots FREE, FILLING, FULL and IN_USE. -/
theorem test_hyp_batons : let s := fun (st : Nat) (core : Bool) => args (batons ⟨st, some 0, 0, false, 0⟩ core 0) own 0 1
    let f := s 0 true
    (f.curLaunch.bind (fun n => n.baton 0)).isSome = true ∧ (f.curLaunch.bind (fun n => n.baton 1)) = none ∧
    f.ownBaton own = some (1024, 0) ∧ f.ownBaton 0 = none ∧ (f.batonOf 1024 0).index 0 < (f.batonOf 1024 0).slots.length ∧
    (batons noSlot true 1).batonOf 1024 0 = ⟨0, 64, 2, true, 1, [noSlot, noSlot]⟩ ∧ ((batons noSlot true 1).batonOf 1024 0).rel 0 < 0 ∧
    0 ≤ (f.batonOf 1024 0).rel 1 ∧ (f.batonOf 1024 0).rel 1 < 2 ∧ ((f.batonOf 1024 0).slot 0).st = 0 ∧
    (((s 2 true).batonOf 1024 0).slot 0).tag = some 0 ∧ (s 1 true).ownsSlot (((s 1 true).batonOf 1024 0).slot 0) = true ∧
    ((s 3 false).batonOf 1024 0).core = false ∧ ((s 3 true).batonOf 1024 0).core = true ∧
    f.who.hosted 0 = true ∧ (f.curLaunch.map (fun n => decide (0 < n.nlcore))) = some true := by decide +kernel

/-- Batons: SENDB to a CORE and to a RELAY baton, its offer and its arrival. -/
theorem test_hyp_sendb : let s := args (batons noSlot true 0) own frame 0
    let u := s.mod (fun t => { t with wait := some ⟨.sendb g0 4 2 1 3 5 0, 100, 0, 0⟩ })
    let y : Xfer := ⟨0, 1, 0, 0, frame, none, 64, 1024, 0, 0, 0, 0, true⟩
    s.anyBaton own = some (1024, 0) ∧ (batons noSlot false 0).anyBaton own = some (1024, 0) ∧
    s.sendbCheck frame 64 = .ok () ∧ (s.batonOf 1024 0).size < 128 ∧ u.offer 1024 0 0 = 1 ∧
    u.st.wait.map (·.stage) = some 0 ∧ ({ s with xfers := [y] }).xfers = [y] ∧ y.baton < (s.lc 1024).batons.length ∧
    y.slot < (s.batonOf 1024 0).slots.length := by decide +kernel

/-- OperandSlots: a free run that begins at slot 1, too small a CAPSLOT, a ring, and slots in each state. -/
theorem test_hyp_slots : let s := (base.modRegs 0 1 (fun r => { r with capslot := 31 })).modSlot 0 0 (fun x => { x with st := 1 })
    let r := fun (x : Slot) => (onTask (fun k => { k with ring := some (4, 2) })).modSlot 0 5 (fun _ => x)
    let c : Slot := { freeSlot with st := 1 }
    s.st.task.map (·.ring) = some none ∧ 31 ≤ s.capslot 0 s.curCtx ∧ s.capslot 0 s.curCtx < 32 ∧
    (List.range 31).all (fun j => (s.slot 0 (1 + j)).st == 0) = true ∧ (s.slot 0 0).st = 1 ∧
    (r c).st.task.map (·.ring) = some (some (4, 2)) ∧ ((r c).slot 0 5).st = 1 ∧ ((r c).slot 0 5).pend = none ∧
    (args (r c) frame 5 1).access (r c).who kFill frame 64 64 = .ok () ∧ 5 = 4 + (1 : BitVec 32).toNat % 2 ∧
    ((r { c with st := 3 }).slot 0 5).st = 3 ∧ (s.slot 0 31).st ≠ 4 ∧ (s.slot 0 31).pend = none := by decide +kernel

/-- OperandSlots: a pending fill that nothing names, and a fill from the frame. -/
theorem test_hyp_fill : let s := base.modSlot 0 5 (fun x => { x with st := 3, pend := some (1, ⟨frame, 64, none⟩) })
    let f := base.modSlot 0 5 (fun x => { x with st := 2, fill := some ⟨frame, 64, none⟩ })
    (s.slot 0 5).pend = some (1, ⟨frame, 64, none⟩) ∧ s.ops = [] ∧ (f.slot 0 5).fill = some ⟨frame, 64, none⟩ ∧ (f.slot 0 5).rel = false ∧
    (f.whoOf 0).addrCheck frame 64 false = .ok () ∧ f.xfail (f.whoOf 0) frame 64 = none ∧ window frame ≠ 0 := by decide +kernel

/-- A task with a ring of all slots, on a core whose partition names a slot source. -/
def matrix : State := (onTask (fun k => { k with ring := some (0, 32) })).modCore 0 (fun c =>
  { c with named := c.named.set 0 (.slot .bf16 []) })

/-- MatrixIssue: the last tile below T and the one at it, a queue with room and a full one, and each instruction's operands. -/
theorem test_hyp_matrix : let s := args matrix 0 1 1
    let full := { s with ops := List.replicate 8 (s.newOp (.mzero 0) 0) }
    let ws : Word := 0x1000000000000000
    let big := s.modCtx 1 (fun x => { x with wslen := 65536 })
    s.stackTop 0 1 = 32 ∧ s.queueFree 0 0 = true ∧ full.queueFree 0 0 = false ∧
    wide.access wide.who kMstore 0x10000 (moutLen .f32) 64 = .ok () ∧ wide.who.exact = false ∧
    big.access big.who kLoad ws (tileBytes .f32) 64 = .ok () ∧ window ws = 1 ∧ window frame ≠ 1 ∧
    (s.rS 2).toNat % ((s.rS 3).toNat * fmtSlots .bf16) = 0 ∧ 31 + (s.rS 2).toNat / ((s.rS 3).toNat * fmtSlots .bf16) ≤ 32 ∧
    s.srcCheck 1 0x0505 = .ok () ∧ stackTiles 1 ≤ s.captree 0 1 ∧ s.st.task.map (fun k => decide (k.ring ≠ none)) = some true ∧
    (1 : BitVec 16).getLsbD (colOf 0) = true ∧
    (match mmaOp ⟨.bf16, false, some 1⟩ 0 1 2 3 s with | .ok _ => true | .error _ => false) = true := by decide +kernel

/-- MatrixIssue: a group table of one group of one row, an entry list of one entry, and a member that the barrier has let go. -/
theorem test_hyp_matrix2 : let s := ((args matrix 0 1 1).wS 5 0).wS 6 frame
    let g := { s with lds := Mem.write (Mem.write [] 0 (bytesOfNat 8 1)) 8 (bytesOfNat 4 1) }
    let m := { s with lds := Mem.write [] 0 (bytesOfNat 4 1 ++ bytesOfNat 4 1 ++ bytesOfNat 2 1 ++ bytesOfNat 2 1 ++ bytesOfNat 1 3) }
    let w := s.mod (fun t => { t with wait := some ⟨.mma g0 ⟨.bf16, false, some 1⟩ 0 1 2 3 4, 100, 0, 1⟩ })
    (match mmasOp ⟨.bf16, false, none⟩ 0 6 3 3 m with | .ok _ => true | .error _ => false) = true ∧
    (match mmagOp ⟨.bf16, false, none⟩ 0 5 3 3 g with | .ok _ => true | .error _ => false) = true ∧
    w.st.wait.map (·.stage) = some 1 := by decide +kernel

/-- MatrixSteps: nothing unended, a report, a stopped op, a group of one, an MZERO and an MLDW at their step. -/
theorem test_hyp_steps : let o : MxOp := base.newOp (.mzero 3) 0
    let s := fun (x : MxOp) => { base with ops := [x] }
    let st := { o with stop := some (6, 2, 0) }
    let live := fun (x : MxOp) => x.of 0 && !x.cancel
    let bar := base.modRow 0 (fun r => { r with barr := r.barr.set 0 [⟨0, 1, none, 2⟩] })
    let e : MxOp := { base.newOp (.mldw .f32 (.ws .f32 0x1000000000000000 0 []) none) 0 with ring := (0, 32) }
    base.st.mxRep = [] ∧ base.ops.find? live = none ∧ (onSt (fun t => { t with mxRep := [(6, 2)] })).st.mxRep = [(6, 2)] ∧
    (s st).ops.find? live = some st ∧ st.gang = [] ∧ gangGroup (base.row 0).barr[0] = none ∧
    (bar.row 0).barr[0] = [⟨0, 1, none, 2⟩] ∧ (1 : BitVec 16) = BitVec.ofNat 16 (2 ^ colOf (coreOf 0)) ∧
    (o.core = 0 ∧ coreOf o.strand = 0 ∧ o.part < 4 ∧ o.step = 0 ∧ o.stop = none ∧ o.cancel = false ∧ o.bad = false) ∧
    (e.core = 0 ∧ e.gang = [] ∧ e.step = 0 ∧ e.stop = none ∧ e.cancel = false ∧ e.bad = false) ∧
    base.prefetching 0 = none := by decide +kernel
/-- A chip whose functions are all ready. -/
def ready (s : State) : State := { s with boot := { s.boot with ready0 := BitVec.allOnes 64, ready1 := BitVec.allOnes 64 } }

/-- EngineCommands: a transfer of the shortest and one of a wrong length, from global memory to the frame and back. -/
theorem test_hyp_transfers : let s := args (ready wide) 0x1000 frame 8
    let i : Instr := .fetch g0 4 1 2 3 0
    (s.rS 3).toNat % 8 = 0 ∧ 8 ≤ (s.rS 3).toNat ∧ (s.rS 3).toNat ≤ 2 ^ 24 ∧ s.access s.who kFetch (s.rS 1) 8 8 = .ok () ∧
    s.access s.who kPut (s.rS 2) 8 8 = .ok () ∧ window (s.rS 1) ≤ 1 ∧ window (s.rS 2) = 2 ∧ s.unitReady 12 = true ∧
    (args wide 0 0 0).unitReady 12 = false ∧ s.cmdRoom (s.newCmd 1 0 i 0 0 0) = true ∧
    s.access s.who kFetch (s.rS 2) 8 8 = .ok () ∧ s.access s.who kPut (s.rS 1) 8 8 = .ok () ∧
    (match s.logRun s.who 0x1000 8 with | .ok _ => true | .error _ => false) = true ∧
    ¬ (7 % 8 = 0) := by decide +kernel

/-- EngineCommands: an index list of one entry, a CORE baton for GATHER and none, and SCATA's values. -/
theorem test_hyp_gatherScata : let s := args (ready ((batons noSlot true 0).gwriteAll placeL2 (bytesOfNat 8 (placeCode + 7)) none)) frame 0x1000 own
    (match s.indexList s.who (s.rS 1) (rowCount 0) with | .ok l => decide (l = [0]) | .error _ => false) = true ∧
    rowBytes 7 ≤ 4096 ∧ s.rowChecks s.who kFetch (s.rS 2) (rowBytes 7) [0] = .ok () ∧ s.anyBaton 0 = none ∧
    s.sinkCheck own (rowBytes 7) = 0 ∧ s.tableChecks s.who (s.rS 2) (rowBytes 7) none [0] = .ok () ∧ outTensor s.who 0x1000 64 = none ∧
    (match s.heapAlloc s.curCtx 64 with | .ok _ => true | .error _ => false) = true ∧
    s.access s.who kLoad frame (rowCount 0 * rowBytes 7) 8 = .ok () ∧ s.unitReady 12 = true ∧
    s.cmdRoom (s.newCmd 1 0 (.gather g0 4 1 2 3 0 0 7) 0 0 0) = true := by decide +kernel

/-- A configuration of 3 × 3 × 3 cells of cutoff 1 in a box of side 10, and one with no cells. -/
def nlBlock : List Byte := (List.replicate 3 (bytesOfNat 4 0x41200000)).flatten ++ bytesOfNat 4 0x3F800000 ++ bytesOfNat 4 0 ++
  [0, 8] ++ bytesOfNat 2 3 ++ bytesOfNat 2 3 ++ bytesOfNat 2 3 ++ bytesOfNat 4 1 ++ bytesOfNat 8 0x10000 ++ bytesOfNat 8 1024 ++
  List.replicate 16 0

/-- EngineCommands: NLCFG, NLBIN and NLPAIRS, with and without a configuration and bins. -/
theorem test_hyp_neighbours : let s := args (ready { (batons noSlot true 0) with lds := Mem.write [] 64 nlBlock }) (frame + 64) 1 0
    let c := s.modNle 0 1 (fun n => { n with cfg := some (nlParse nlBlock), bins := some [(0, [])] })
    s.access s.who kLoad (s.rS 1) 64 64 = .ok () ∧ s.unitReady 20 = true ∧ nlBlock.length = 64 ∧
    s.ldBytes s.who (s.rS 1) 64 = nlBlock ∧ (nlParse nlBlock).valid nlBlock = true ∧
    (nlParse (List.replicate 64 0)).valid (List.replicate 64 0) = false ∧ (s.nle 0 1).cfg = none ∧ (c.nle 0 1).cfg ≠ none ∧
    s.access s.who kLoad (s.rS 1) 16 16 = .ok () ∧ (s.nle 0 1).bins = none ∧ (nlParse nlBlock).cells = 27 ∧
    (c.nle 0 1).pos = [] ∧ (match wide.access wide.who kWork (nlParse nlBlock).work (nlParse nlBlock).workLen 64 with
      | .ok _ => true | .error _ => false) = true ∧ (2 ^ 24 : Nat) < (2 ^ 24 + 1 : Word).toNat ∧ s.cmdRoom (s.newCmd 2 0 (.nlcfg g0 4 1 0) 0 0 0) = true ∧
    ((args (batons ⟨0, none, 0, false, 0⟩ true 0) 0 own 0).modBaton 1024 0 (fun b => { b with size := 4096 })).sinkCheck own 4096 = 0 := by
  decide +kernel

/-- EngineCommands: CONV of a dense to a block-tile layout of 1 × 1, and its tag's command in each state. -/
theorem test_hyp_conv : let blk := bytesOfNat 8 0x2000 ++ bytesOfNat 4 1 ++ bytesOfNat 4 1 ++ bytesOfNat 8 0x3000 ++ List.replicate 40 0
    let tl := bytesOfNat 8 0x4000 ++ bytesOfNat 4 1 ++ bytesOfNat 4 1 ++ bytesOfNat 8 0x8000 ++ bytesOfNat 4 1 ++ List.replicate 36 0
    let s := args (ready { wide with lds := Mem.write (Mem.write [] 0 blk) 64 tl }) frame (frame + 64) 0
    (layoutParse .dense (s.ldBytes s.who frame 64)).isSome = true ∧ (layoutParse .tiles (s.ldBytes s.who (frame + 64) 64)).isSome = true ∧
    (match layoutParse .dense blk, layoutParse .tiles tl with
      | some u, some v => layoutsOk .dense .tiles u v && decide (s.rangeChecks s.who kFetch (u.ranges .dense .f32 true) = .ok ())
          && decide (s.rangeChecks s.who kPut (v.ranges .tiles .f32 false) = .ok ())
      | _, _ => false) = true ∧ s.unitReady 24 = true ∧
    s.cmdRoom (s.newCmd 3 0 (.conv g0 .f32 .dense .tiles 4 1 2 0) 0 0 0) = true := by decide +kernel

theorem test_hyp_tags : let c : Cmd := { base.newCmd 1 0 (.fetch g0 4 1 2 3 0) 0x1000 frame 64 with count := 1 }
    let s := fun (x : Cmd) => { base with cmds := [x] }
    let tag : Word := 2 ^ 48 + 1
    base.byTag tag = none ∧ (s { c with st := 2 }).byTag tag = some { c with st := 2 } ∧
    (s { c with st := 2, final := 3 }).byTag tag = some { c with st := 2, final := 3 } ∧ (s c).byTag tag = some c ∧ c.st < 2 ∧
    base.deadline 0 = 0 := by decide +kernel

/-- EngineSteps: a FETCH with a block to move, at a page and at none, and one that has ended. -/
theorem test_hyp_fetchStep : let c : Cmd := { wide.newCmd 1 0 (.fetch g0 4 1 2 3 0) 0x1000 frame 64 with count := 1 }
    let s := fun (x : Cmd) => { wide with cmds := [x], cur := cmdKey x }
    let far : Word := 2 ^ 40
    (s c).findCmd (s c).cur = some c ∧ c.st < 2 ∧ c.cancel = false ∧ c.spill = [] ∧ c.retryAt ≤ (s c).cyc c.core ∧
    window frame = 2 ∧ ((s c).core c.core).refuse = false ∧ (((s c).modCore 0 (fun x => { x with refuse := true })).core 0).refuse = true ∧
    (s c).eccHit ((s c).cmdWho c) 0x1000 64 = false ∧ (s c).unitStalls (((s c).cmdWho c).lines 0x1000 64) c.stall = none ∧
    (s c).xfail ((s c).cmdWho c) 0x1000 64 = none ∧ (s { c with st := 4 }).findCmd (cmdKey c) = some { c with st := 4 } ∧
    (match (s c).xfail ((s c).cmdWho c) far 64 with | some _ => true | none => false) = true := by decide +kernel

/-- EngineSteps: a GATHER into a free slot, NLBIN with a configuration, NLPAIRS with empty and with filled bins, CONV. -/
theorem test_hyp_rowStep : let b := (batons noSlot true 0).gwriteAll placeL2 (bytesOfNat 8 (placeCode + 7)) none
    let c : Cmd := { b.newCmd 1 0 (.gather g0 4 1 2 3 0 0 7) frame 0x1000 own with count := 1, idx := [0] }
    let s := { b with cmds := [c], cur := cmdKey c }
    s.sinkOf c = some (1024, 0) ∧ s.xfail (s.cmdWho c) (rowAt c.b (rowBytes 7) 0) (rowBytes 7) = none ∧
    s.eccHit (s.cmdWho c) (rowAt c.b (rowBytes 7) 0) (rowBytes 7) = false ∧ s.away 1024 = false ∧ s.offer 1024 0 0 = 1 := by
  decide +kernel

theorem test_hyp_nleStep : let cfg := nlParse nlBlock
    (match binAll cfg 0 [bytesOfNat 4 0x3F800000 ++ bytesOfNat 4 0x3F800000 ++ bytesOfNat 4 0x3F800000] [] 0 with
      | .ok (tb, _) => decide (tb ≠ []) | .error _ => false) = true ∧
    (match binAll { cfg with cap := 0, overMax := 0 } 0 [bytesOfNat 4 0x3F800000 ++ bytesOfNat 4 0x3F800000 ++ bytesOfNat 4 0x3F800000] [] 0 with
      | .error none => true | _ => false) = true := by decide +kernel

theorem test_hyp_pairStep : let cfg := nlParse nlBlock
    let s := { wide with lds := Mem.write [] 0 ((List.replicate 2 ((List.replicate 3 (bytesOfNat 4 0x3F800000)).flatten ++ bytesOfNat 4 0)).flatten) }
    let w := s.who
    s.nextPairs w frame cfg [(0, [])] 257 28 0 0 0 [] = [] ∧
    ((s.nextPairs w frame cfg [(0, [0, 1])] 257 28 0 0 0 []).filter (fun e => decide (e.1 < 27))) ≠ [] := by decide +kernel

/-- EngineSteps: CONV's first phase, and an update of SCATA that is due in arrival mode. -/
theorem test_hyp_convStep : let tl := bytesOfNat 8 0x4000 ++ bytesOfNat 4 1 ++ bytesOfNat 4 1 ++ bytesOfNat 8 0x8000 ++ bytesOfNat 4 1 ++ List.replicate 36 0
    let h : HeldScata := ⟨0, 0, 0x1000, [0], 8, .f64, bytesOfNat 8 0, 0, 1⟩
    let v := { onLaunch (fun l => { l with arrival := true, scata := [h] }) with cur := 1 }
    (layoutParse .tiles tl).isSome = true ∧ wide.xfail wide.who 0x4000 4 = none ∧ Layout.tiles ≠ .dense ∧
    (v.launch? v.cur).map (fun l => (l.arrival, l.scata)) = some (true, [h]) := by decide +kernel
/-! More clauses of the statements above. -/

/-- An Except that holds a value. -/
def passes {α : Type} (e : Except TrapInfo α) : Bool := match e with
  | .ok _ => true
  | .error _ => false

/-- `wide` with a second page, of four copies, at 2^29 (R137, R141); `pub` with a tag log of some runs that do not meet; `wide`
with its page in the TLB of core 0, and a tile of 2 × 2 words. -/
def copies : State := wide.gwriteAll (placeL2 + 8) (bytesOfNat 8 (2 ^ 31 + 23)) none
def logged (n : Nat) : State :=
  pub.mod (fun t => { t with task := t.task.map (fun k => { k with tagLog := (List.range n).map (fun i => (0x8000 + 16 * i, 8)) }) })
def cached : State := (wide.modCore 0 (fun c => { c with tlb := [⟨1, 0, placeCode, 2 ^ 29, true, false⟩] })).mod
  (fun t => { t with vshape := 0x0202 })

/-- RoundingKeepsValues: an integral value and a NaN for a conversion, and the elements of a block with a scale. -/
theorem test_hyp_formats : Fmt.isInt .si8 = true ∧ (fval .f16 0x7E00).isNan = true ∧ (fval .f16 0x4900).isFin = true ∧
    (fval .f16 0x4900).q = (10 : ℤ) ∧ Fmt.isFb .fb8 = true ∧ (List.replicate 32 (FVal.fin false 1 0)).all FVal.isFin = true ∧
    fbExp (fbEncode .fb8 .rne (List.replicate 32 (FVal.fin false 1 0)) none).1 ≠ 0 ∧
    (List.replicate 32 (FVal.fin false 0 0)).all FVal.isZero = true ∧ (FVal.inf true).isFin = false := by decide +kernel

/-- TakingATrap: a relay with a leg inside an instruction; a deque with room. -/
theorem test_hyp_legs : let s := (onTask (fun k => { k with legs := [0, 1] })).modStrand 1 (fun t => { t with wait := some ⟨.nop g0, 1, 0, 0⟩ })
    s.st.phase ≠ .stopping ∧ base.st.phase ≠ .stopping ∧ (base.lc 1024).hw.length < 64 ∧ (s.strand 1).midway = true ∧ (1 : Nat) ≠ s.cur := by
  decide +kernel

/-- RegisterWriteSteps: a TSTART after PTP time and one that is not, with delivery held and not. -/
theorem test_hyp_tstart : base.time.ptp < (1 : Word).toNat ∧ (0 : Word).toNat ≤ base.time.ptp ∧ base.time.hold = false ∧
    ({ base with time := { base.time with hold := true } } : State).time.hold = true := by decide +kernel

/-- StoreToGlobalMemory: a word of four copies and one of one, with nothing on its way to them; a word of a PUB tensor, in
exact mode, with room in the tag log and without; a tile, a box and an AMO. -/
theorem test_hyp_copies : let s := args copies 0x20002010 0 7
    let e := s.effAddr 1 (.bo .ui64 0)
    let x : Xl := ⟨2 ^ 31, 0x2010, true, true, 2 ^ 29⟩
    s.xl s.who e.ea.toNat = .ok x ∧ window e.ea = 0 ∧ s.accessEa s.who kMstore e 8 8 = .ok () ∧ s.accessEa s.who kStore e 8 8 = .ok () ∧
    s.who.pubRun e.ea 8 = none ∧ (∀ f, f < 4 → s.quietAt 0 (x.pa f) 8) := by decide +kernel
theorem test_hyp_plain : let s := args cached 0x2000 0 7
    let x : Xl := ⟨placeCode, 0x2000, true, false, 2 ^ 29⟩
    let e := s.effAddr 1 (.bo .f32 0)
    s.xl s.who e.ea.toNat = .ok x ∧ s.who.pubRun e.ea 64 = none ∧ s.quietAt 0 (x.pa 0) 64 ∧ s.tileFits 4 ∧ s.elems * 4 = 16 ∧
    (∀ j, j < 64 → tlbFind (s.core 0).tlb 1 (e.ea.toNat + j) = some { x with off := x.off + j }) ∧
    s.accessEa s.who kStore e 16 (tileAlign .f32) = .ok () ∧ s.accessEa s.who kStore e 64 64 = .ok () ∧
    s.accessEa s.who kStore e 4 4 = .ok () ∧ s.accessEa s.who kMstore e 4 4 = .ok () ∧
    s.access s.who kAmo (s.rS 1) 8 8 = .ok () ∧ s.eccHit s.who (s.rS 1) 8 = false ∧ s.who.exact = false := by decide +kernel
theorem test_hyp_tagLog : let c := fun (n : Nat) => (args (logged n) 0x1000 0 7)
    let e := (c 0).effAddr 1 (.bo .ui64 0)
    (c 0).xl (c 0).who 0x1000 = .ok ⟨placeCode, 0x1000, true, false, 2 ^ 29⟩ ∧ (c 0).who.exact = true ∧
    ((c 0).who.tensor 0x1000).map (fun p => (p.1, p.2.cls)) = some (0, 2) ∧ (c 0).accessEa (c 0).who kStore e 8 8 = .ok () ∧
    (c 256).accessEa (c 256).who kStore e 8 8 = .ok () ∧
    ((c 255).st.task.map (fun k => (addRun k.tagLog (e.ea.toNat / 8 * 8) 8).length)) = some 256 ∧
    ((c 256).st.task.map (fun k => (addRun k.tagLog (e.ea.toNat / 8 * 8) 8).length)) = some 257 := by decide +kernel

/-- AlignmentFirst: the first failing check of a store, of a load and of an AMO, one for each trap, and none; a tile that leaves
its window. -/
theorem test_hyp_checks : let s := args pub 0x1000 0 0
    let f := fun (s : State) (n : Nat) (ea : Word) => ((s.firstFail true false false n ea).map (fun (x : TrapInfo) => x.code))
    let t := (args (onSt (fun t => { t with vshape := 0x2004 })) 0x1FFFFFFFFFFFFF00 0 0)
    f s 8 0x1004 = some 3 ∧ f s 8 0x0001000000000000 = some 7 ∧ f s 8 0x4000000000000000 = some 5 ∧ f (s.modLaunch 1 (fun l => { l with sa := 4096 })) 8 0x300000000017FFF8 = some 6 ∧
    f s 8 0x2000 = some 0x0A ∧ f (args copies 0 0 0) 8 0x40000000 = some 8 ∧ f (args base 0 0 0) 8 0x1000 = some 9 ∧ f s 8 0x1000 = none ∧
    ((s.firstFail true true false 8 0x1000).map (fun (x : TrapInfo) => x.code)) = some 0x0D ∧
    (wide.firstFail true true false 8 0x1000) = none ∧ (s.firstFail false false false 8 frame) = none ∧
    (wide.firstFail true false true 8 0x1000) = none ∧ (s.effAddr 1 (.bo .ui64 0)).piw = none ∧
    (f ({ s with dies := s.dies.map (fun (d : Die) => { d with view := { d.view with tags := [(placeCode + 0x1000, ())] } }) } : State) 8 0x1000) =
      some 0x0B ∧
    (f (copies.modLaunch 1 (fun l => { l with arrival := false, tensors := [⟨0x20001000, 64, 2, .f64, [(8, 8, 0)]⟩] })) 8 0x20001000) = some 0x0C ∧
    t.tileFits 4 ∧ (t.rS 1).toNat % tileAlign .f32 = 0 ∧ window (t.rS 1 + BitVec.ofNat 64 (t.elems * 4 - 1)) ≠ window (t.rS 1) := by
  decide +kernel

/-- A strand whose DONE is to be released, with effects and a journal (R96, R129). -/
def ending (s : State) (e : List Effect) (j : List (Nat × List Byte)) : State :=
  s.mod (fun t => { t with phase := .ending .done, task := t.task.map (fun k => { k with effects := e, journal := j }) })

/-- VerdictsAndEnds and CommitEffects: groups with an add to each memory, a message, a deposit, a journal. -/
theorem test_hyp_release : let a := ending wide [.add 0x1000 5] []
    let item : SendItem := ⟨⟨0, false, 1, 0, 0, 0, Vector.replicate 4 0, 0⟩, false, false, 0, false, 0, 0, 0, 0⟩
    let c := (ending base [.send false] []).mod (fun t => { t with send := t.send.set 0 [item] })
    let j := ending base [] [(64, [1, 2, 3])]
    let d := ending (onTask (fun k => { k with deposited := true, tr := { k.tr with jref := 64 } })) [.deposit 64 frame .f32 0] []
    let ok := fun (s : State) => s.st.phase = .ending .done ∧ s.opsHold s.cur = false ∧ s.xfers = [] ∧ s.st.arr = Vector.replicate 4 none ∧
      s.st.task.map (fun k => (k.mxFlags &&& s.st.te, k.legs)) = some (0, []) ∧ s.st.task.map (fun k => k.tr.kind) = some .leaf
    ok a ∧ ok c ∧ ok j ∧ ok d ∧ window 0x1000 = 0 ∧ window frame = 2 ∧ passes ((a.xl a.who 0x1000).mapError (fun _ => ⟨0, 0, 0, 0⟩)) = true ∧
    c.st.send[0] = [item] ∧ a.st.task.map (fun k => decide (k.tr.jref = 0 ∧ lcCtx k.lc = k.ctx)) = some true ∧
    (match d.ctx? 1, d.curLaunch with | some x, some l => joinChip x l 64 == l.chipno | _, _ => false) = true ∧
    d.eccHit d.who frame (tileLen (boxFree 0) (fmtSize .f32)) = false := by decide +kernel

/-- SpawnAndStealing and WaitsForConditions: a granted strand for a task with 32 effects; words without an error. -/
theorem test_hyp_thirtyTwo : let s := onTask (fun k => { k with effects := List.replicate 32 (.add 0 1) })
    s.st.task.map (fun k => decide (32 ≤ k.counted)) = some true ∧ base.eccHit base.who frame 8 = false := by decide +kernel

/-- Barriers: a member that waits for another, and one whose group is complete. -/
theorem test_hyp_gangFull : let x : Arrival := ⟨.row, 0, 0, true, false, 0⟩
    let s := fun (m : BitVec 16) => (onSt (fun t => { t with wait := some ⟨.bar g0 .row 4 1 2 3, 100, 0, 5⟩, arr := t.arr.set 1 (some x) })).modRow 0
      (fun r => { r with barr := r.barr.set 0 [⟨0, m, none, 1⟩] })
    (s 1).gangFull 0 1 = true ∧ (s 3).gangFull 0 1 = false ∧ (s 1).st.arrAt 1 = some x := by decide +kernel

/-- Batons: a transfer whose last block lands. -/
theorem test_hyp_landing : let y : Xfer := ⟨base.mark 0, 1, 0, 1024, frame, none, 64, 1024, 0, 0, 0, 0, true⟩
    markStrand y.mark = base.cur ∧ y.path = 1 ∧ y.last = true ∧ y.baton < ((batons noSlot true 0).lc y.lc).batons.length := by
  decide +kernel

/-- OperandSlots: a fill of the task that started it, from the frame and from a bank of the weight store that refreshes. -/
theorem test_hyp_fillSource : let fl := fun (a : Word) => (⟨a, 64, base.st.task⟩ : Fill)
    let s := fun (a : Word) => (base.modCtx 1 (fun x => { x with wslen := 65536 })).modSlot 0 5 (fun x => { x with st := 2, fill := some (fl a) })
    let ws : Word := 0x1000000000000000
    let ok := fun (a : Word) => passes (((s a).fillWho 0 0 (fl a)).addrCheck a 64 false) = true ∧ (s a).xfail ((s a).fillWho 0 0 (fl a)) a 64 = none ∧
      window a ≠ 0 ∧ (s a).eccHit ((s a).fillWho 0 0 (fl a)) a 64 = false
    ok frame ∧ ok ws ∧ (s frame).unitStalls (((s frame).fillWho 0 0 (fl frame)).lines frame 64) (0, 0) = none ∧
    (s ws).unitStalls (((s ws).fillWho 0 0 (fl ws)).lines ws 64) (0, 0) ≠ none ∧ ((s ws).slot 0 5).stall = (0, 0) := by decide +kernel

/-- MatrixIssue: the sizes of MMA that are illegal, and one whose units reach beyond T. -/
theorem test_hyp_sizes : let sa := fmtSlots .bf16
    4096 < (4097 : Word).toNat ∧ (3 : Nat) % (2 * sa) ≠ 0 ∧ (2 : Nat) % (1 * sa) = 0 ∧ 32 < 31 + 2 / (1 * sa) * gangSize none ∧
    wide.who.pubRun 0x10000 (moutLen .f32) = none := by decide +kernel

/-- MatrixSteps: an MLDW whose tile may be read; an MMA with its weights, and its operand slot; an MOUT to the frame. -/
theorem test_hyp_products : let ws : Word := 0x1000000000000000
    let e : MxOp := { base.newOp (.mldw .f32 (.ws .f32 ws 0 []) none) 0 with stall := (0, 256) }
    let o : MxOp := { base.newOp (.mma 3 .bf16 false 0 1 1) 0 with ring := (0, 32) }
    let s := (({ base with ops := [o] } : State).latchSrc 0 0 (.slot .bf16 [])).modSlot 0 0 (fun x => { x with st := 3 })
    base.unitStalls ((base.whoOf 0).lines ws (tileBytes .f32)) e.stall = none ∧ s.ops = [o] ∧ o.part = 0 ∧
    s.weightTile o.strand o.part 0 = some (.bf16, []) ∧ s.tileLines o.part 0 o.strand = [] ∧ s.slotCheck o = none ∧ s.slotFault o = none ∧
    s.slotWait o = none ∧ (s.acc.map Prod.fst).Pairwise (· < ·) ∧ window frame = 2 ∧ Fmt.isIeee .f32 = true := by decide +kernel

/-- MatrixSteps: the entries of a list of two, the first present and the second absent, each read ahead. -/
theorem test_hyp_entries :
    let list := bytesOfNat 4 1 ++ bytesOfNat 4 2 ++ bytesOfNat 2 4 ++ bytesOfNat 2 4 ++ List.replicate 20 0 ++ bytesOfNat 2 1 ++
      bytesOfNat 2 2 ++ bytesOfNat 4 0 ++ bytesOfNat 8 0x200 ++ bytesOfNat 2 2 ++ bytesOfNat 2 2 ++ bytesOfNat 4 1 ++ bytesOfNat 8 0
    let m : State := { base with lds := Mem.write [] 0 list }
    let s := fun (l : List MmasEnt) => (({ m with ops := [{ m.newOp (.mmas 0 .bf16 false frame 2 4 4 9) 0 with ring := (4, 8), ents := l }] } :
      State).modSlot 0 5 (fun x => { x with st := 1 }))
    let a : MmasEnt := ⟨1, 2, false, 0x200, none⟩
    (s []).readEntry ((s []).whoOf 0) frame 0 4 4 none = (a, 0) ∧ (s [a]).readEntry ((s [a]).whoOf 0) frame 1 4 4 (some (2, 1)) = (⟨2, 2, true, 0, none⟩, 0) ∧
    ((s []).prefetching 0).map (fun o => (o.ents, (s []).slotsClear o 0 [o.slotOf 9])) = some ([], true) ∧
    ((s [a]).prefetching 0).map (fun o => o.ents) = some [a] ∧ (s []).eccHit ((s []).whoOf 0) (frame + 32) 16 = false := by decide +kernel

/-- NLBIN of too many positions, in the weight store. -/
theorem test_hyp_nlbinCount : let s := args (onCtx (fun x => { x with wslen := 2 ^ 29 })) 0x1000000000000000 (2 ^ 24 + 1) 0
    (s.rS 1).toNat % 16 = 0 ∧ 2 ^ 24 < (s.rS 2).toNat ∧ s.access s.who kLoad (s.rS 1) (16 * (s.rS 2).toNat) 16 = .ok () := by decide +kernel

/-- WaitsEnd: a command that has not ended; a word that is published and one that is not; a counter below its target and at it;
paths that are drained and not; bounds that have passed. -/
theorem test_hyp_waiting : let c : Cmd := { base.newCmd 1 0 (.fetch g0 4 1 2 3 0) 0x1000 frame 64 with count := 1 }
    let w := fun (s : State) (i : Instr) => s.mod (fun t => { t with wait := some ⟨i, 100, 0, 0⟩ })
    let late := wide.gwrite 0 0x3000 [1] none (wide.mark 0) 0
    let xf := { base with xfers := [⟨base.mark 0, 1, 0, 0, frame, none, 64, 1024, 0, 0, 0, 0, true⟩] }
    let u := args pub 0x1000 0 0
    let v := args { base with lds := Mem.write [] 0 [6] } frame 6 7
    let t := v.mod (fun t => { t with vshape := 0x0101 })
    (({ base with cmds := [c] } : State).byTag (2 ^ 48 + 1)).map (·.st) = some 0 ∧ (w base (.ewait g0 4 1 0)).st.wait = some ⟨.ewait g0 4 1 0, 100, 0, 0⟩ ∧
    u.access u.who kLdw 0x1000 8 8 = .ok () ∧ u.stalls (u.who.lines 0x1000 8) = none ∧ u.eccHit u.who 0x1000 8 = false ∧
    u.ldwReady u.who 0x1000 = false ∧ v.ldwReady v.who frame = true ∧ v.access v.who kLoad frame 8 8 = .ok () ∧ v.eccHit v.who frame 8 = false ∧
    v.stalls ([frame].flatMap (fun e => v.who.lines e 8)) = none ∧ (v.rS 2).toNat ≤ v.ldNat v.who frame 8 ∧ v.ldNat v.who frame 8 < (v.rS 3).toNat ∧
    t.tile 8 = .ok 1 ∧ base.drained 0 3 = 3 ∧ xf.drained 0 3 ≠ 3 ∧ late.drainedAll 0 ≠ 255 := by decide +kernel

/-! Clauses about reads at issue, refresh, the release of a baton slot, quiet stores, readiness and holds. -/

/-- CommitEffects and Batons: a group whose counter has no error, and one that releases a CORE slot, of which the next is free. -/
theorem test_hyp_releases : let b := ending (batons ⟨3, some 0, 0, false, 0⟩ true 0) [.brel 1024 0 0] []
    wide.eccHit wide.who 0x1000 8 = false ∧ b.st.phase = .ending .done ∧ b.opsHold b.cur = false ∧ b.xfers = [] ∧
    b.st.task.map (fun k => (k.mxFlags &&& b.st.te, k.legs, k.journal)) = some (0, [], []) ∧
    b.st.task.map (fun k => (k.effects, k.tr.kind, decide (k.tr.jref = 0))) = some ([Effect.brel 1024 0 0], .leaf, true) ∧
    0 < (b.lc 1024).batons.length ∧ 0 < (b.batonOf 1024 0).slots.length ∧ 0 < (b.batonOf 1024 0).depth := by decide +kernel

/-- MatrixIssue and EngineCommands: reads of the frame, without an error and without a bank that refreshes. -/
theorem test_hyp_quiet : let s := args matrix frame 0 0
    let q := fun (r : List (Word × Nat)) => r.all (fun e => !s.eccHit s.who e.1 e.2) &&
      (s.stalls (r.flatMap (fun e => s.who.lines e.1 e.2))).isNone
    q [(frame, 32)] = true ∧ q [(frame, 64), (frame + 64, 64)] = true ∧ q [(frame, 4 * rowCount 0)] = true ∧
    q [(frame, 4 * rowCount 0), (frame, rowCount 0 * rowBytes 7)] = true ∧
    (let g := { (args matrix 0 1 1).wS 6 frame with lds := Mem.write [] 0 (bytesOfNat 8 1) }
     mmagReads 5 g = [(frame, 12)]) := by decide +kernel

/-- MatrixSteps: a product of a gang that disagrees, with room in the queue and without; a quiet store; an entry in a bank
of the weight store that refreshes. -/
theorem test_hyp_told : let o : MxOp := { base.newOp (.mma 3 .bf16 false 0 1 1) 0 with bad := true }
    let x : RowArr := ⟨0, 1, some (o, 0xD5), gangSlot⟩
    let ws : Word := 0x1000000000000000
    x.told = true ∧ (⟨0, 1, none, 2⟩ : RowArr).told = false ∧ base.queueFree o.core o.part = true ∧
    ({ base with ops := List.replicate 8 (base.newOp (.mzero 0) 0) } : State).queueFree o.core o.part = false ∧
    ((base.modCore 0 (fun c => { c with refuse := true })).core base.cur).refuse = true ∧ (base.core base.cur).refuse = false ∧
    base.unitStalls ((base.whoOf 0).lines (frame + 32) 16) (0, 0) = none ∧
    (let s : State := onCtx (fun x => { x with wslen := 65536 })
     let m : State := { s with ops := [{ s.newOp (.mmas 0 .bf16 false ws 2 4 4 9) 0 with ring := (4, 8) }] }
     (m.prefetching 0).isSome = true ∧ (m.readEntry (m.whoOf 0) ws 0 4 4 none).2 = 0 ∧
       (m.unitStalls ((m.whoOf 0).lines (ws + 32) 16) (0, 0)).isSome = true) := by decide +kernel

/-- EngineSteps: positions that a block reads in the frame, and no line with an error. -/
theorem test_hyp_positions : let cfg := nlParse nlBlock
    let at_ := (cfg.particles [(0, [0, 1])] 0 26).map (fun j => frame + BitVec.ofNat 64 (16 * j))
    at_ = [frame, frame + 16] ∧ at_.all (fun e => !wide.eccHit wide.who e 12) = true ∧
    wide.unitStalls (at_.flatMap (fun e => wide.who.lines e 12)) (0, 0) = none ∧ wide.ecc = [] ∧
    wide.unitStalls (wide.who.lines frame 32) (0, 0) = none := by decide +kernel

/-- HostAccess: a TAIL that goes back; WaitsEnd: an evicted logical core; SupervisorAndUnits: a hold of DEADLINE_ESC, of a
context whose routing byte says USER with a vector of 0, so KILL, and with a vector of 64. -/
theorem test_hyp_goesBack : let x : Ctx := { blankCtx with head := 3, tail := 5 }
    let h : Hold := ⟨7, 0x15, 1024, 0, 0, 0, 1, false, [], none⟩
    let s := wide.modCtx 1 (fun x => { x with area := 0x20000, holds := [h] })
    2 ^ 31 ≤ ((4 : Word).toNat % 2 ^ 32 + 2 ^ 32 - x.tail) % 2 ^ 32 ∧
    ((base.modLc 1024 (fun l => { l with evicted := true })).lc 1024).evicted = true ∧ (base.lc 1024).evicted = false ∧
    h.ending = none ∧ (s.ctx? 1).map (fun x => x.holds.find? (fun y => y.ix == 7)) = some (some h) ∧
    s.routeOf 1 0x15 = (0, 0) ∧ (s.ctxWrite 1 none (0x20000 + 0x100 + 4 * 0x15) (bytesOfNat 4 64)).routeOf 1 0x15 = (0, 64) ∧
    (s.lc 1024).svc.length < 8 := by decide +kernel

/-- CacheInvalidation, CommitEffects and TakingATrap: a store that is not yet on all dies, a deposit from the frame, no
uncorrectable error. -/
theorem test_hyp_stalledIssue : let late := (wide.gwrite 0 0x3000 [1] none (wide.mark 0) 0).mod (fun t => { t with sup := true })
    let d := ending (onTask (fun k => { k with deposited := true, tr := { k.tr with jref := 64 } })) [.deposit 64 frame .f32 0] []
    late.storesDone late.cur = false ∧ late.st.sup = true ∧ d.unitStalls (d.depositLines d.cur) (d.st.stall.getD (0, 0)) = none ∧
    base.ecc = [] := by decide +kernel

/-- Barriers: an arrival that its home has refused, and a record without an error. -/
theorem test_hyp_refusedArrival : let s := onSt (fun t =>
      { t with wait := some ⟨.bara g0 .die 4 1 2, 100, 0, 4⟩, arr := t.arr.set 1 (some ⟨.die, 0, 7, false, true, 4⟩) })
    (s.st.arrAt 1).map (fun x => (x.reply, x.fail)) = some (true, 4) ∧
    s.st.wait.map (fun u => (u.instr, u.stage)) = some (.bara g0 .die 4 1 2, 4) ∧ wide.barHit 0 1 0x1000 = false := by decide +kernel

/-- EngineSteps: pages whose walk meets no error: the one that a FETCH lacks, that of NLBIN's work area, that of CONV's header. -/
theorem test_hyp_walks : let far : Word := 2 ^ 40
    (wide.tableHit wide.who far 1 = false ∧ (wide.xfail wide.who far 64).isSome = true) ∧
    wide.tableHit wide.who (nlParse nlBlock).work (nlParse nlBlock).workLen = false ∧ wide.tableHit wide.who 0x4000 4 = false := by
  decide +kernel

/-- LaunchLife: a relay that waits, with a second one behind it. -/
theorem test_hyp_nextRelay : let r : DqItem := ⟨{ blankRec with kind := .rule, relay := 1 }, none⟩
    let s := base.modLc 1024 (fun c => { c with relay := some r, relays := [(r, 0, 64)] })
    (s.lc 1024).relays.head?.map (·.1) = some r := by decide +kernel

/-- WaitsForConditions and WaitsEnd: a FENCESC with every path drained; a pool entry's test that reads no refreshing bank. -/
theorem test_hyp_drainedWait : let s := onSt (fun t => { t with wait := some ⟨.fencesc g0 4 0, 100, 0, 0⟩ })
    let met : TaskRec := { blankRec with wctr := 0x1000, wtgt := 0 }
    s.drainedAll s.cur = 255 ∧ s.settled (dieF (coreOf s.cur)) = true ∧
    wide.unitStalls ((wide.poolWho 1024 met).lines met.wctr 8) (0, 0) = none := by decide +kernel

/-- SupervisorAndUnits: a save with and without global memory; an error in a join record, in its image and in a tile; one in
the walk of a page. -/
theorem test_hyp_errors : let j := ({ wide with cur := 0 } : State).ctxWrite 1 none 0x3000 ([1, 3] ++ List.replicate 62 0)
    let at_ := fun (s : State) (a : Nat) => ({ s with ecc := [a] } : State).drain 0
    let jn := (j.drain 0).join 0 1 0x3000
    let va := fun (a : Nat) => placeCode + a
    (ready base).hbmReady = true ∧ ({ base with boot := { base.boot with ready1 := 0 } } : State).hbmReady = false ∧
    (at_ j (va 0x3000)).dieHit 0 1 0x3000 64 = true ∧ (at_ j (va 0x8000)).dieHit 0 1 0x3000 64 = false ∧
    (at_ j (va 0x8000)).dieHit 0 1 jn.image 64 = false ∧ (j.drain 0).sideHit 0 1 jn 0 0 = false ∧
    wide.walkBad (dieF 0) (l1base (wide.regs 0 1).ttbase) 0 = false ∧
    ({ wide with ecc := [placeL2] } : State).walkBad (dieF 0) (l1base (wide.regs 0 1).ttbase) 0 = true := by decide +kernel

/-- RegisterWriteSteps and HaltAndRelease: a counter one below its wrap and one that has all to go, with OVI; an event still to
be raised; a core on which no other strand is halted with Q, and one on which one is. -/
theorem test_hyp_overflow : let d := fun (c : Word) => ({ base with dies := base.dies.map (fun (x : Die) =>
      { x with evsel := x.evsel.set 2 0xC0100003, evcnt := x.evcnt.set 2 c, ovi := x.ovi.set 2 1 }) } : State).die 1
    let e := (d 1).evsel[2]
    e.toNat % 256 = (3 : Word).toNat % 256 ∧ e.getLsbD 31 = true ∧ e.extractLsb' 16 5 = 0x10 ∧ e.getLsbD 30 = true ∧
    (d 0xFFFFFFFFFFFF).evcnt[2].toNat = 2 ^ 48 - 1 ∧ (d 1).evcnt[2].toNat = 2 ^ 48 - (2 ^ 48 - 1) ∧ (d 1).ovi[2] ≠ 0 ∧
    (base.die 1).ovi[2] = 0 ∧ (List.range 4).all (fun j => !(base.strand j).haltQ) = true ∧
    ((base.modStrand 1 (fun t => { t with haltQ := true })).strand 1).haltQ = true := by decide +kernel

/-- EngineCommands and EngineSteps: the log of a task that takes the work area of NLBIN and the destination of CONV; commands
with nothing to read again. -/
theorem test_hyp_logRuns : passes (wide.logRun wide.who (nlParse nlBlock).work (nlParse nlBlock).workLen) = true ∧
    passes (pub.logRuns pub.who [(0x1000, 64), (0x8000, 4)]) = true ∧ (wide.newCmd 1 0 (.fetch g0 4 1 2 3 0) 0x1000 frame 64).reread = false ∧
    base.cmds = [] := by decide +kernel

/-- SupplyAndTemperature: a dip that has not yet lasted 100 µs, by one ns. -/
theorem test_hyp_shortDip : let s := { State.reset with power := { State.reset.power with below42 := true, inRange := false },
                                                         time := { State.reset.time with dtime := 99999 } }
    s.now < s.power.dipAt + 100000 ∧ s.power.below42 = true := by decide +kernel
/-! The host: connection 5 has created context 1, and every function is ready. -/

def hosts (s : State) : State := { ready s with conns := [(5, ⟨false, 0, [1], 0, true⟩)], cur := 5 }
def vcp (cmd ctx : Nat) (body : List Byte) : VcpMsg := ⟨5, 1, cmd, 0, 1, ctx, body.length, 0, 0, body⟩
def idle : State := hosts ((onCtx (fun x => { x with launch := none, wslen := 65536 })))

/-- HostCommands: headers that pass and one that fails, and CREATE_CTX of the lowest free number. -/
theorem test_hyp_commands : let create := vcp 1 0 (bytesOfNat 4 0 ++ bytesOfNat 4 64 ++ bytesOfNat 8 (2 ^ 32) ++ List.replicate 16 0)
    idle.boot.failed = 0 ∧ idle.deferred create = false ∧ idle.conns.find 5 = some ⟨false, 0, [1], 0, true⟩ ∧
    idle.vcpCheck create 1 0x20 = 0 ∧ idle.vcpCheck { create with seq := 2 } 1 0x20 = 2 ∧
    [(2, 0x18), (3, 0x10), (4, 0x20), (5, 256), (6, 8), (7, 8), (8, 0), (9, 8)].all (fun e =>
      idle.vcpCheck (vcp e.1 1 (List.replicate e.2 0)) e.1 e.2 == 0 && idle.vcpCheck (vcp e.1 2 (List.replicate e.2 0)) e.1 e.2 == 4) = true ∧
    idle.vcpCheck (vcp 0x0A 0 (List.replicate 0x88 0)) 0x0A 0x88 = 0 ∧ idle.hbmReady = true ∧ createOk create = true ∧
    idle.hbmReady = true ∧ ({ idle with boot := { idle.boot with ready1 := 0 } } : State).hbmReady = false ∧ idle.ctx? 2 = none ∧ idle.ctx? 1 ≠ none ∧ leAt create.body 8 8 + areaBytes ≤ 2 ^ 48 ∧ idle.wsPlace 0 = some 0 ∧
    (match (idle.consume create).makeArea create 2 0 with
      | some u => (u.ctx? 2).isSome && decide (u.outbox = idle.outbox ∧ u.conns = (idle.consume create).conns ∧ u.time = idle.time)
      | none => false) = true := by decide +kernel

theorem test_hyp_create (m : VcpMsg) (s a : State) (h : s.makeArea m 2 0 = some a) : ∃ u, s.makeCtx m 2 0 = some u ∧
    u.ctx? 2 = a.ctx? 2 ∧ u.outbox = a.outbox ∧ u.conns = a.conns ∧ u.time = a.time := by
  refine ⟨_, by rw [State.makeCtx, h]; rfl, ?_⟩
  obtain ⟨d, n, h⟩ := a.ctxWrite_rest 2 none ((List.range 256).map (fun i => BitVec.ofNat 8 (initialRoute i))) (bodyAt m 8 8)
  dsimp only
  rw [h]
  exact ⟨rfl, rfl, rfl, rfl⟩

/-- HostCommands: MAP of a page, and UNMAP of one with and without a launch. -/
theorem test_hyp_maps : let body := bytesOfNat 8 (2 ^ 43) ++ bytesOfNat 8 65536 ++ bytesOfNat 8 0
    let m := vcp 2 1 body
    let x : Ctx := (idle.ctx? 1).getD blankCtx
    let y : Mapping := ⟨2 ^ 43, 65536, false, false, false, false, 0, 0⟩
    mapOk x m = true ∧ leAt body 0x10 4 / 8 % 2 = 0 ∧ leAt body 0x10 4 / 4 % 2 = 0 ∧ x.launch = none ∧
    (match (idle.consume m).palloc 65536 65536 0 with
      | some (pa, u) => (match u.mapPages 1 x.ttpa (2 ^ 43) pa 1 (pteFlags false false false) (pagesOf (2 ^ 43) 65536 false) with
        | some v => (v.ctx? 1).map (·.holds) == some []
        | none => false)
      | none => false) = true ∧
    meets (2 ^ 43) 65536 x.area x.areaSize = false ∧ meets (2 ^ 43) 65536 y.va y.len = true ∧
    2 ^ 43 ≤ y.va ∧ y.va + y.len ≤ 2 ^ 43 + 65536 ∧ (hosts base).ctx? 1 ≠ none ∧
    ((hosts base).ctx? 1).map (fun c => c.launch.isSome) = some true := by decide +kernel

/-- HostCommands: LOAD_WIMAGE of 64 bytes into die 0; a queue with room and a full one; one that is empty. -/
theorem test_hyp_load : let m := vcp 4 1 (bytesOfNat 4 1 ++ bytesOfNat 4 0 ++ bytesOfNat 8 0x1000 ++ bytesOfNat 8 0 ++ bytesOfNat 8 64)
    let f := fun (o n : Nat) => leAt m.body o n
    let full := onCtx (fun x => { x with tail := 64 })
    f 0 4 = 2 ^ 0 ∧ f 4 4 = 0 ∧ idle.boot.ready1.getLsbD 28 = true ∧ f 0x10 8 % 64 = 0 ∧ f 0x18 8 % 64 = 0 ∧
    f 0x10 8 + f 0x18 8 ≤ 65536 ∧ (idle.ctxRead 1 (f 8 8) (f 0x18 8)).isSome = true ∧
    (idle.ctx? 1).map (fun x => (x.tail + 2 ^ 32 - x.head) % 2 ^ 32) = some 0 ∧
    (full.ctx? 1).map (fun x => (x.tail + 2 ^ 32 - x.head) % 2 ^ 32) = some 64 ∧
    (idle.ctx? 1).map (fun x => decide (x.launch = none ∧ x.head = x.tail)) = some true := by decide +kernel

/-- HostCommands: EVICT of row 0 where the context is not, is, and is with a halted strand; RESUME; a count of READ_TRAPRING
in and out of range; ATTEST without an extension. -/
theorem test_hyp_evict : let f := fun (b : List Byte) => maskRows (leAt b 0 8) (List.range 64)
    let s := hosts (onCtx (fun x => { x with rowPart := [(0, 0)] }))
    let e := hosts (onCtx (fun x => { x with evicts := [(0, ⟨6, 0, false, 0⟩)] }))
    f (bytesOfNat 8 1) = [0] ∧ f (bytesOfNat 8 0) = List.range 64 ∧ (hosts base).haltedOn 1 0 = false ∧
    (s.modStrand 0 (fun t => { t with halted := true })).haltedOn 1 0 = true ∧
    (s.ctx? 1).map (fun x => (x.rowPart.find 0, x.evicts.find 0)) = some (some 0, none) ∧
    ((hosts base).ctx? 1).map (fun x => (x.rowPart.find 0).isSome) = some false ∧
    (e.ctx? 1).map (fun x => ((x.evicts.find 0).map (fun (e : Evict) => e.step == 6)).getD false) = some true ∧
    e.freePart 0 = some 0 ∧ e.loadRoom 1 0 = true ∧ e.freePart 63 = some 0 ∧
    leAt (bytesOfNat 4 0 ++ bytesOfNat 4 1) 4 4 = 1 ∧ leAt (bytesOfNat 4 0 ++ bytesOfNat 4 64) 4 4 = 64 ∧
    leAt (bytesOfNat 4 0 ++ bytesOfNat 4 65) 4 4 = 65 ∧ leAt (bytesOfNat 4 0 ++ bytesOfNat 4 0) 4 4 = 0 ∧
    leAt (List.replicate 0x88 (0 : Byte)) 0x40 4 = 0 ∧ leAt (List.replicate 0x88 (0 : Byte)) 0x44 4 = 0 := by decide +kernel

/-- A context with a mapping that the host may write, in a state whose page at 0 is writable. -/
def shared : State := hosts (wide.modCtx 1 (fun x => { x with maps := [⟨0x10000, 65536, false, true, false, true, 0, 9⟩] }))

/-- HostAccess: a new connection, a doorbell in range, at its bound and beyond, and accesses with and without an rkey. -/
theorem test_hyp_access : let s := ready base
    s.conns.find s.cur = none ∧ s.cur < dropped ∧ shared.cur < dropped ∧ (s.conns.filter (fun e => e.2.live && e.2.port == false)).length < 64 ∧ s.boot.failed = 0 ∧
    s.boot.ready1.getLsbD 32 = true ∧ s.boot.ready1.getLsbD 33 = true ∧ shared.connUp shared.cur = true ∧
    shared.conns.find shared.cur = some ⟨false, 0, [1], 0, true⟩ ∧
    (shared.ctx? 1).map (fun x => ((64 + 2 ^ 32 - x.head) % 2 ^ 32, (65 + 2 ^ 32 - x.head) % 2 ^ 32, (64 + 2 ^ 32 - x.tail) % 2 ^ 32)) =
      some (64, 65, 64) ∧
    shared.reach 7 0x10000 8 false = .none ∧ shared.reach 9 0x10000 65536 false = .mem 1 ∧ shared.reach 9 0x10000 1 true = .mem 1 ∧
    shared.hbmReady = true ∧ ({ shared with boot := { shared.boot with ready1 := 0 } } : State).hbmReady = false ∧
    shared.reach 7 0x10000 1 true = .none ∧ (shared.ctxWalk 1 0x10000).map (·.replica) = some false := by decide +kernel

/-- HostAccess: no write is on its way to any die, and a launch of the connection that drops. -/
theorem test_hyp_accessQuiet : (∀ d, shared.quietAt d 0 1) ∧ (({ shared with cur := 0 } : State).launch? 1).map (fun l => l.conn) = some 0 := by
  decide +kernel

/-- SupplyAndTemperature. -/
theorem test_hyp_supply : let s := State.reset
    let p := fun (f : Power → Power) => ({ s with power := f s.power } : State)
    let a := p (fun q => { q with inRange := true })
    let out := p (fun q => { q with inRange := false })
    let dip := { (p (fun q => { q with below42 := true })) with time := { s.time with dtime := 100000 } }
    let die := fun (f : Die → Die) => ({ s with dies := s.dies.map f } : State)
    let relax := { (die (fun d => { d with stretch := 1 })) with time := { s.time with dtime := 1000000 } }
    a.power.inRange = true ∧ out.power.inRange = false ∧ s.power.below42 = false ∧ dip.power.below42 = true ∧
    dip.power.told = false ∧ (p (fun q => { q with told := true })).power.told = true ∧ dip.power.dipAt + 100000 ≤ dip.now ∧ (relax.die 0).stretch ≠ 0 ∧ relax.power.relaxAt + 1000000 ≤ relax.now ∧
    relax.power.exceeded = false ∧ relax.power.hot = false ∧ (0 : Fin 4).val = s.cur % 4 ∧ (1 : Fin 4).val = 65 / 64 ∧ 659 < s.power.droopth.toNat ∧
    s.power.droopth.toNat ≤ 660 ∧ ((die (fun d => { d with droop := true })).die 0).droop = true ∧
    ((die (fun d => { d with droop := true })).die 0).droopEnd = 0 ∧
    ((die (fun d => { d with low := 2 })).die 0).low &&& ~~~(1 <<< (s.cur % 64) : BitVec 64) = 2 ∧
    (let r := die (fun d => { d with droop := true, droopEnd := 1, cycle := 1 })
     (r.die 0).droop = true ∧ (r.die 0).droopEnd ≠ 0 ∧ (r.die 0).droopEnd ≤ (r.die 0).cycle) := by decide +kernel

/-- TimeAndExchange: the tick due and not due, a stopped generator, a port whose link is up. -/
theorem test_hyp_time : let s := State.reset
    let t := fun (f : Time → Time) => ({ s with time := f s.time } : State).time
    s.time.stepAt = none ∧ s.time.tstart.toNat + s.time.next * s.time.tickp.toNat ≤ s.time.ptp ∧ s.time.xin = [] ∧
    (let u := t (fun x => { x with started := true }); u.ptp < u.tstart.toNat + u.next * u.tickp.toNat) ∧
    (t (fun x => { x with stepAt := some 0 })).stepAt ≠ none ∧ (0x1234 ≠ s.time.xetype.toNat ∧ 0x1234 ≠ 0x88F7) ∧
    State.reset.time.slew = 0 ∧ (0 : Fin 8).val = s.cur % 8 ∧ (ready s).boot.ready1.getLsbD 34 = true := by decide +kernel

/-- ResetAndFunctions: an empty flash, a function that may be ready and one that may not, and one that a launch uses. -/
theorem test_hyp_reset : let s := State.reset
    s.boot.flash.filter (fun (f : FwImage) => f.cls == 0) = [] ∧ s.mayReady true 0 = true ∧ s.mayReady true 43 = false ∧
    (ready base).bringDone = true ∧ s.bringDone = false ∧ s.mayReady true 62 = false ∧ s.mayReady true 42 = false ∧ s.mayReady false 0 = false ∧ (ready base).boot.ready0.getLsbD 0 = true ∧
    (ready base).boot.ready1.getLsbD 42 = true ∧ (match (ready base).ctx? 1 with
      | some x => (match x.launch with
        | some l => (ready base).uses 1 x l false 0 && (ready base).uses 1 x l true 42
        | none => false)
      | none => false) = true := by decide +kernel

/-- The first record of the queue of context 1, at `areaOff` in an area at 2^29, with a descriptor block and a table in the
same page: one logical core, a root of one point, one tensor of length 0. -/
def record : List Byte :=
  bytesOfNat 2 1 ++ [0, 1] ++ bytesOfNat 4 0 ++ bytesOfNat 8 7 ++ bytesOfNat 8 0 ++ bytesOfNat 4 0 ++ bytesOfNat 4 1
    ++ bytesOfNat 4 0 ++ bytesOfNat 4 1 ++ List.replicate 40 0 ++ bytesOfNat 8 0x4000 ++ bytesOfNat 8 0x5000
    ++ List.replicate 56 0 ++ bytesOfNat 2 1 ++ List.replicate 102 0
def queued : State :=
  let s := wide.modCtx 1 (fun x => { x with launch := none, tail := 1, off := areaOff, ringConn := [5] })
  let h := [1] ++ List.replicate 17 0 ++ bytesOfNat 2 1 ++ List.replicate 16 0 ++ bytesOfNat 4 0x100 ++ List.replicate 24 0
  { (((ready s).gwriteAll (placeCode + 0x10000) record none).gwriteAll (placeCode + 0x4000) h none).gwriteAll
      (placeCode + 0x4100) [0, 3, 1] none with cur := 1 }

/-- LaunchLife: a record that starts, one that is invalid, a launch that is done. -/
theorem test_hyp_launch : let x : Ctx := (queued.ctx? 1).getD blankCtx
    x.launch = none ∧ x.head ≠ x.tail ∧ x.evicts = [] ∧ x.evReply = none ∧ queued.backlog = [] ∧ queued.cur = 1 ∧
    queued.hbmReady = true ∧ ({ queued with boot := { queued.boot with ready1 := 0 } } : State).hbmReady = false ∧
    queued.parseLaunch 1 (record.set 0 2) 5 = none ∧ queued.queueHead 1 x = record ∧
    (let s := ({ base with cur := 1 }.modStrand 0 (fun t => { t with phase := .free, task := none })).modLc (lcKey 1 0) (fun c => { c with awake := true })
     (s.ctx? 1).map (fun x => x.launch.map (fun l => s.launchDone 1 l)) = some (some true)) := by decide +kernel

/-- LaunchLife: the record of `queued` parses, and there is room for its launch. -/
theorem test_hyp_record : (match queued.parseLaunch 1 record 5 with
      | some l => queued.startRoom ((queued.ctx? 1).getD blankCtx) l && !(List.range 6).any (fun a => boxClass l.root a != 0 && boxExt l.root a == 0)
          && l.remap.any (fun c => rowOf c == 0)
      | none => false) = true := by decide +kernel

/-- LaunchLife: a core to be woken, a free strand with a record, a relay of two legs. -/
theorem test_hyp_dispatch : let free := base.mod (fun t => { t with phase := .free, task := none })
    let up : State := { free with dies := free.dies.map (fun (d : Die) => { d with power := true }) }
    let rec_ : TaskRec := { blankRec with kind := .rule, launch := 1 }
    let d := up.modLc 1024 (fun c => { c with awake := true, hw := [⟨rec_, none⟩] })
    base.hostedBy 0 = [1024] ∧ (base.hostedBy base.cur).filter (fun j => lcCtx j == 1 && !(base.lc j).awake) = [1024] ∧
    (base.lc 1024).hw = [] ∧ isMgmt (coreOf d.cur) = false ∧ (d.die (dieF (coreOf d.cur))).power = true ∧ d.st.halted = false ∧
    d.st.phase = .free ∧ d.hostedBy (coreOf d.cur) = [1024] ∧ (d.lc 1024).relay = none ∧ d.workOf 1024 = some (.deque) ∧
    (d.lc 1024).hw.head? = some ⟨rec_, none⟩ ∧ rec_.hdrOk = true ∧ rec_.relay = 0 ∧ rec_.foot = 0 ∧ rec_.req = false ∧
    (d.launch? (lcCtx 1024)).isSome = true := by decide +kernel

theorem test_hyp_relay : let many := onLaunch (fun l => { l with desc := { l.desc with relays := [[0x100, 0x200]] } })
    let free : State := many.mod (fun t => { t with phase := .free, task := none })
    let tr : TaskRec := { blankRec with kind := .rule, relay := 1 }
    let s := ({ free with dies := free.dies.map (fun (d : Die) => { d with power := true }), cur := 1024 } : State).modLc 1024 (fun c => { c with awake := true, relay := some ⟨tr, none⟩ })
    (s.lc s.cur).relay = some ⟨tr, none⟩ ∧ (s.launch? (lcCtx s.cur)).map (fun l => l.legsOf tr) = some [0x100, 0x200] ∧
    2 ≤ (s.freeStrands (s.host (lcCtx s.cur) (lcLocal s.cur))).length ∧
    (s.die (dieF (s.host (lcCtx s.cur) (lcLocal s.cur)))).power = true ∧ tr.foot = 0 := by decide +kernel

/-- Messages: a released message, an arrival in each of its two answers, a mailbox of one entry. -/
theorem test_hyp_messages : let m : SendItem := ⟨⟨0, false, 1, 0, 0, 0, Vector.replicate 4 0, 0⟩, true, false, 0, false, 0, 0, 0, 0⟩
    let s := onSt (fun t => { t with send := t.send.set 0 [m] })
    let f := onSt (fun t => { t with send := t.send.set 0 [{ m with flight := true }] })
    let a := f.modCore 0 (fun c => { c with inbound := [(0, m.msg)] })
    let full := a.modCore 0 (fun c => { c with q := c.q.set 0 (List.replicate 32 ⟨m.msg, none⟩) })
    let b := (base.modLc 1024 (fun c => { c with mailbox := [⟨m.msg, none⟩] }))
    s.st.send[0] = [m] ∧ m.released = true ∧ m.flight = false ∧ m.xc = false ∧ m.notBefore ≤ s.cyc (coreOf s.cur) ∧
    m.msg.vn = false ∧ (List.range 4).all (fun j => [false, true].all (fun v =>
      (j == 0 && !v) || ((s.strand (4 * coreOf s.cur + j)).headMsg v).isNone)) = true ∧ ({ m with xc := true } : SendItem).xc = true ∧
    s.agenda.any (fun e => e.1 == s.cur && e.2 == .messageReoffer false) = false ∧ s.cyc (coreOf s.cur) < ({ m with notBefore := 64 } : SendItem).notBefore ∧ (a.core a.cur).inbound = [(0, m.msg)] ∧ 0 ≠ farSender ∧
    a.host 1 0 = a.cur ∧ (a.strand 0).send[0] = [{ m with flight := true }] ∧ a.route m.msg = .queue ∧
    full.route m.msg = .refuse 64 ∧ (b.lc 1024).evicted = false ∧ (b.lc 1024).mailbox = [⟨m.msg, none⟩] ∧ ((b.lc 1024).mailbox.map (·.held)) = [none] ∧
    (b.core (b.host 1 0)).q[0].length < 32 := by decide +kernel

/-- WaitsEnd: an MWAIT that nothing holds, one that an op holds before, at and after its limit and at its eviction bound, a pool
entry in each state, and a used budget. -/
theorem test_hyp_waitsEnd : let i : Instr := .mwait g0 4 0
    let s := onSt (fun t => { t with wait := some ⟨i, 100, 0, 0⟩ })
    let at_ := fun (n : Nat) => ({ s with time := { s.time with dtime := BitVec.ofNat 64 n } } : State)
    let o : MxOp := base.newOp (.mzero 3) 0
    let held := { s with ops := [o] }
    let ev := (held.modCtx 1 (fun x => { x with evicts := [(0, ⟨2, 0, false, 0⟩)] })).modRegs 0 1 (fun r => { r with grace := 0 })
    let met : TaskRec := { blankRec with wctr := 0x1000, wtgt := 0 }
    s.st.wait = some ⟨i, 100, 0, 0⟩ ∧ s.st.mxRep = [] ∧ s.ops.find? (fun p => p.of s.cur && !p.cancel) = none ∧
    100 ≤ (at_ 100).now ∧ s.now < 100 ∧ held.ops.find? (fun p => p.of held.cur && !p.cancel) = some o ∧ o.stop = none ∧
    ev.evBound ev.cur = some 0 ∧ 0 ≤ ev.now ∧ wide.poolMet 1024 met = true ∧ wide.poolMet 1024 { met with wtgt := 1 } = false ∧
    wide.eccHit (wide.poolWho 1024 met) met.wctr 8 = false ∧ met.exp = false ∧ 0 ≤ base.now ∧ (onSt (fun t => { t with budget := 0 })).watchdogDue 0 = true ∧ base.st.wait = none := by
  decide +kernel

/-- SupervisorAndUnits: holds of XLATE and of another code, an eviction at each step. -/
theorem test_hyp_holds : let h := fun (n : Nat) (r : Bool) (va : Word) => (⟨0, n, 1024, 0, 0, va, 1, r, [], none⟩ : Hold)
    let e := fun (n : Nat) => ({ base with cur := 0 }.modCtx 1 (fun x => { x with evicts := [(0, ⟨n, 0, false, 0⟩)] }))
    base.ctxWalk 1 (((2 ^ 43 : Word).toNat) % 2 ^ 48) = none ∧
    (h 8 false (2 ^ 43)).ending = none ∧ [h 8 false (2 ^ 43)].find? (fun y => y.ix == 0) = some (h 8 false (2 ^ 43)) ∧ (base.ctx? 1).map (fun x => (x.debugger, x.launch.isSome)) = some (false, true) ∧
    [1, 2, 3, 4, 5].all (fun n => ((e n).ctx? 1).map (fun x => x.evicts.find 0) == some (some ⟨n, 0, false, 0⟩)) = true ∧
    (e 3).rowDrained 1 0 = true ∧ (e 2).rowQuiet 1 0 = false := by decide +kernel

/-- SupervisorAndUnits: a record that is FREE and one that is OPEN and not complete; a write that its clock admits; a walk. -/
theorem test_hyp_units : let b := ({ wide with cur := 0 }.modRow 0 (fun r => { r with spl := [.cover 1 0x3000 0] }))
    let dep := ({ wide with cur := 0 }.modRow 0 (fun r => { r with spl := [.deposit 1 0x3000 [] 0 0] }))
    let s := b.ctxWrite 1 none 0x3000 ([1, 3] ++ List.replicate 62 0)
    let u := fun (x : State) => x.drain 0
    let jn := (u s).join 0 1 0x3000
    let w : PWrite := ⟨1, (Vector.replicate 4 0).set 1 1, 1, 0x20000000, [1], none, 0, 0⟩
    let p := ({ wide with dies := wide.dies.map (fun d => { d with view := { d.view with pend := [w] } }), cur := 0 } : State)
    (b.row b.cur).spl = [.cover 1 0x3000 0] ∧ (dep.row dep.cur).spl = [.deposit 1 0x3000 [] 0 0] ∧ (u b).splEarly 0 1 0x3000 = false ∧ (u dep).splEarly 0 1 0x3000 = false ∧
    (u s).splEarly 0 1 0x3000 = false ∧ jn.st = 1 ∧
    ((u b).join 0 1 0x3000).st ≠ 1 ∧ joinComplete { jn with cov0 := 7 } 0 = false ∧
    (p.die 0).view.pend[0]? = some w ∧ (p.die 0).view.admits 0 = true ∧ (1 : Nat) ≠ 0 ∧
    tlbFind (wide.die (dieF 0)).tlb 1 0 = none ∧
    (match wide.walk (dieF 0) (l1base (wide.regs 0 1).ttbase) 0 with | .ok _ => true | .error _ => false) = true ∧
    (onSt (fun t => { t with stall := some (0, 0) })).st.stall = some (0, 0) := by decide +kernel

/-- GuardFalse: a register of the user's, a supervisor's opcode and a management register, each where it is allowed. -/
theorem test_hyp_guardFalse : let g : Guard := ⟨1, false⟩
    let ok := fun (s : State) (i : Instr) => (match encodeWord i with
      | some w => decide (wOp w ≠ 0 ∧ s.guard (wG w) = false ∧ (privWord w = true → s.st.sup = true))
      | none => false)
    let m := ({ base with cur := 4096 }).mod (fun t => { t with sup := true })
    ok base (.movc g 5 0x020) = true ∧ ok (onSt (fun t => { t with sup := true })) (.halt g false 4 1 0) = true ∧
    ok m (.movc g 5 0xA00) = true ∧ isMgmt (coreOf m.cur) = true := by decide +kernel

/-- RoundTrip. -/
theorem test_hyp_roundTrip : (Instr.movx ⟨0, false⟩ 6 5).wf = true ∧ encodeWord (.movx ⟨0, false⟩ 6 5) ≠ none ∧
    (Instr.sub ⟨3, true⟩ 255 0 1).wf = true ∧ encodeWord (.sub ⟨3, true⟩ 255 0 1) ≠ none := by decide +kernel

/-- StepRunsDecoded: a step of a placed program and of the oldest event, with and without power. -/
theorem test_hyp_step : let s := State.reset.place (bytesOfNat 8 0x0240000000000002)
    let p := [0, 1, 2, 3].foldl (fun (s : State) k => s.pollStrand k) { s with order := [], lastCore := 0 }
    let q := { p with cur := 0 }
    let u := q.mod (fun t => { t with readyAt := q.cyc 0, issuedAt := q.steps })
    s.power.off = false ∧ s.order = [.core 0] ∧ p.pickStrand 0 = some 0 ∧ u.st.stall = none ∧ u.st.phase ≠ .stopping ∧
    u.fetchHit u.st.pc = false ∧ u.fetchHit (u.st.pc + 8) = false ∧ (u.st.haltReq = false ∧ u.st.dlePend = false) ∧
    u.watchdogDue 0 = false ∧ u.st.breakAt = none ∧ u.st.pc.toNat + 8 < 2 ^ 32 ∧ u.fetchCheck u.who (u.who.code u.st.pc) = .ok () ∧
    (u.core (coreOf 0)).icache = [] ∧ u.fetchCheck u.who (u.who.code u.st.pc + 8) = .ok () ∧
    hasSecond (wordOfBytes (u.ldBytes u.who (u.who.code u.st.pc) 8)) = false ∧
    decodeWord (wordOfBytes (u.ldBytes u.who (u.who.code u.st.pc) 8)) 0 = .ok (.skip ⟨2, false⟩ 2) ∧
    hasSecond 0xF001800000000000 = true ∧ State.reset.agenda = [(0, .tickBoundary)] ∧
    ({ State.reset with order := [.event] } : State).order = [.event] ∧
    ({ State.reset with power := { State.reset.power with off := true } } : State).power.off = true := by decide +kernel

/-- StepKeepsMemory. -/
theorem test_hyp_reset_memWf : State.reset.memWf = true := by decide

/-! ### Single steps -/

/-- R203, R218: the word of the reference's table, placed as a program, runs as the first instruction and moves the pc. -/
theorem test_step_skip : (match step (State.reset.withFetchWord 64 0x0240000000000002) with
    | .next t => t.st.pc == 8 | _ => false) = true := by decide +kernel

/-- R275: an addition wraps. -/
theorem test_step_add : (match exec (.add g0 4 1 2) (args base 0xFFFFFFFFFFFFFFFF 2 0) with
    | .next t => t.rS 4 == 1 && t.st.pc == 8 | _ => false) = true := by decide +kernel

/-- R201: a false guard only moves the pc, by two words for MOVX. -/
theorem test_step_guard : (match exec (.movx ⟨1, false⟩ 4 7) base with
    | .next t => t.rS 4 == 0 && t.st.pc == 16 | _ => false) = true := by decide +kernel

/-- R277: a field of 8 bits at bit 4, with and without the sign. -/
theorem test_bfx : let s := args base 0xABCD 4 8
    (match exec (.bfx g0 4 1 2 3) s, exec (.bfxs g0 5 1 2 3) s with
    | .next t, .next u => t.rS 4 == 0xBC && u.rS 5 == 0xFFFFFFFFFFFFFFBC | _, _ => false) = true := by decide +kernel

/-- R160: an unassigned opcode takes ILLOP, whose code TRAPCODE shows. -/
theorem test_step_illegal : (match step (State.reset.withFetchWord 64 0xF100000000000000) with
    | .next t => (t.ctx? 1).map (fun c => bits c.trapcode 7 0) == some 1 | _ => false) = true := by decide +kernel

/-- R17: a module without power stops. -/
theorem test_step_off : (match step { State.reset with power := { State.reset.power with off := true } } with
    | .fault .moduleOff => true | _ => false) = true := by decide +kernel

/-- StoreToGlobalMemory, Barriers and HostAccess: an error in the walk of a store, in the record of an arrival, and in what a host
reads, and none; LaunchLife: none in the header of a root record. -/
theorem test_hyp_badReads : let s := args { wide with ecc := [placeL2] } 0x1000 0 7
    let e := s.effAddr 1 (.bo .ui64 0)
    let g := args wide 0x1000 0 7
    let a : Arrival := ⟨.die, 0x1000, 7, false, true, 0⟩
    let b := fun (l : List Nat) => ({ wide with ecc := l }).mod (fun t => { t with arr := t.arr.set 1 (some a) })
    s.tableHit s.who e.ea 8 = true ∧ s.accessEa s.who kStore e 8 8 = .ok () ∧ g.tableHit g.who (g.rS 1) 8 = false ∧
    (b [placeCode + 0x1000]).arrHit 0 = true ∧ (b []).arrHit 0 = false ∧ (b [placeCode + 0x1000]).st.arrAt 1 = some a ∧
    shared.hostHit 1 0x10000 8 = false ∧ ({ shared with ecc := [placeCode + 0x10000] } : State).hostHit 1 0x10000 8 = true ∧
    base.hdrHit 1 0 = false := by decide +kernel

end Sys2Proof.Machine.Tests
end

section
/-! SUPPORT. What the end of a launch, an event to the host and a bit of READYMAP change, and what they leave. -/
namespace Sys2Proof

theorem Table.mem_of_find {α : Type} {t : Table α} {k : Nat} {v : α} (h : t.find k = some v) : (k, v) ∈ t := by
  induction t with
  | nil => simp [Table.find] at h
  | cons e t ih =>
    obtain ⟨i, w⟩ := e
    by_cases hi : i = k
    · simp_all [Table.find]
    · exact List.mem_cons_of_mem _ (ih (by simpa [Table.find, hi] using h))

namespace Machine

/-! ### Changes that are made one after the other -/

/-- What every step of a fold keeps, the fold keeps. -/
theorem foldl_keeps {σ α β : Type} (p : σ → α) {f : σ → β → σ} (h : ∀ s b, p (f s b) = p s) (l : List β) :
    ∀ s, p (l.foldl f s) = p s := by
  induction l with
  | nil => exact fun _ => rfl
  | cons b l ih => exact fun s => (ih _).trans (h s b)

/-! ### The end of a launch (R46) -/

/-- The parts of the state that belong to the package and not to the work on its compute dies. -/
def State.package (s : State) : Time × Power × Boot × Table Conn × List HostMsg × Table Ctx :=
  (s.time, s.power, s.boot, s.conns, s.outbox, s.ctxs)

theorem State.package_eq_iff {s t : State} : t.package = s.package ↔ t.time = s.time ∧ t.power = s.power ∧
    t.boot = s.boot ∧ t.conns = s.conns ∧ t.outbox = s.outbox ∧ t.ctxs = s.ctxs := by
  simp [State.package]

theorem State.package_ctxs {s t : State} (h : t.package = s.package) : t.ctxs = s.ctxs := by
  obtain ⟨-, -, -, -, -, hctxs⟩ := State.package_eq_iff.mp h
  exact hctxs

@[simp] theorem State.package_posts (s : State) (l : List (Nat × Instr)) : (s.posts l).package = s.package := rfl
@[simp] theorem State.package_drain (s : State) (d : Fin 4) : (s.drain d).package = s.package := rfl
@[simp] theorem State.package_relSlot (s : State) (c i : Nat) : (s.relSlot c i).package = s.package := rfl
@[simp] theorem State.package_settleSlots (s : State) (c : Nat) : (s.settleSlots c).package = s.package := rfl
@[simp] theorem State.package_freeStrand (s : State) (k : Nat) : (s.freeStrand k).package = s.package := rfl

@[simp] theorem State.package_relRing (s : State) (k : Nat) (r : Option (Nat × Nat)) : (s.relRing k r).package = s.package := by
  unfold State.relRing
  split
  · rfl
  · exact foldl_keeps State.package (fun s i => s.package_relSlot _ _) _ _

/-- The end of an active launch: some state with the package as it was, then the completion, the context and the turn of the
next record. -/
theorem State.endLaunch_active {s : State} {ctx status : Nat} {c : Ctx} {l : Launch} (hc : s.ctx? ctx = some c)
    (hl : c.launch = some l) : ∃ u : State, u.package = s.package ∧ s.endLaunch ctx status =
      (({ u with outbox := u.outbox ++ ([HostMsg.write l.cplva l.cplrkey
            (cplBytes l.ltag c.number status l.flags.toNat l.start u.now l.tasks l.traps l.lastTrap c.trapHead)] ++
          (if l.csend && u.connLive l.conn then [HostMsg.sendImm l.conn l.imm] else [])) } : State).modCtx ctx (fun c =>
        { c with launch := none, holds := [], evicts := []
                 rowPart := c.rowPart.filter (fun (e : Nat × Nat) => (c.evicts.find e.1).isNone) })).post ctx .launchStart := by
  simp only [State.endLaunch, hc, hl]
  refine ⟨_, ?_, rfl⟩
  rw [State.package_posts, foldl_keeps State.package (fun s c => s.package_settleSlots c)]
  generalize hg : List.foldl (fun s k => State.freeStrand _ k) _ _ = g
  have hk : g.package = s.package := by
    rw [← hg, foldl_keeps State.package (fun s k => by simp), foldl_keeps State.package State.package_drain]
  exact hk

theorem State.ctx?_modCtx (s : State) (c j : Nat) (f : Ctx → Ctx) :
    (s.modCtx c f).ctx? j = if j = c then (s.ctx? c).map f else s.ctx? j := by
  unfold State.modCtx State.ctx?
  split
  · next h => by_cases hj : j = c <;> simp [hj, h]
  · next x h => by_cases hj : j = c <;> simp [Table.find_set, hj, h]

/-- A change of a context is seen in the table of contexts alone. -/
theorem State.modCtx_keeps {α : Type} (p : State → α) (hp : ∀ s l, p { s with ctxs := l } = p s) (s : State) (c : Nat)
    (f : Ctx → Ctx) : p (s.modCtx c f) = p s := by
  unfold State.modCtx
  split
  · rfl
  · exact hp _ _

/-- The parts of the package that the end of a launch leaves. -/
def State.chassis (s : State) : Time × Power × Boot × Table Conn := (s.time, s.power, s.boot, s.conns)

theorem State.launch?_eq_some {s : State} {k : Nat} {l : Launch} :
    s.launch? k = some l ↔ ∃ c, s.ctx? k = some c ∧ c.launch = some l := by
  simp [State.launch?, Option.bind_eq_some_iff]

theorem State.chassis_eq_iff {s t : State} : t.chassis = s.chassis ↔ t.time = s.time ∧ t.power = s.power ∧
    t.boot = s.boot ∧ t.conns = s.conns := by
  simp [State.chassis]

theorem State.endLaunch_inactive {s : State} {ctx : Nat} (status : Nat) (h : s.launch? ctx = none) :
    s.endLaunch ctx status = s := by
  unfold State.endLaunch
  split
  · rfl
  · next c hc =>
    have hl : c.launch = none := by simpa [State.launch?, hc] using h
    simp only [hl]

theorem State.launch?_endLaunch (s : State) (ctx status j : Nat) :
    (s.endLaunch ctx status).launch? j = if j = ctx then none else s.launch? j := by
  cases h : s.launch? ctx with
  | none => rw [State.endLaunch_inactive status h]; split <;> simp_all
  | some l =>
    obtain ⟨c, hc, hl⟩ := State.launch?_eq_some.mp h
    obtain ⟨u, hu, he⟩ := State.endLaunch_active (status := status) hc hl
    have hx : ∀ j, u.ctx? j = s.ctx? j := fun j => congrArg (Table.find · j) (State.package_ctxs hu)
    rw [he]
    show ((State.modCtx _ ctx _).ctx? j).bind _ = _
    rw [State.ctx?_modCtx]
    show (if j = ctx then (u.ctx? ctx).map _ else u.ctx? j).bind _ = _
    rw [hx, hx]
    split
    · simp [hc]
    · rfl

theorem State.chassis_endLaunch (s : State) (ctx status : Nat) : (s.endLaunch ctx status).chassis = s.chassis := by
  cases h : s.launch? ctx with
  | none => rw [State.endLaunch_inactive status h]
  | some l =>
    obtain ⟨c, hc, hl⟩ := State.launch?_eq_some.mp h
    obtain ⟨u, hu, he⟩ := State.endLaunch_active (status := status) hc hl
    rw [he]
    refine (State.modCtx_keeps State.chassis (fun _ _ => rfl) _ ctx _).trans ?_
    obtain ⟨htime, hpower, hboot, hconns, -⟩ := State.package_eq_iff.mp hu
    exact State.chassis_eq_iff.mpr ⟨htime, hpower, hboot, hconns⟩

/-- The completion record, and the send with immediate if the record asks for it (R46). -/
theorem State.endLaunch_outbox {s : State} {ctx : Nat} (status : Nat) {c : Ctx} {l : Launch} (hc : s.ctx? ctx = some c)
    (hl : c.launch = some l) : (s.endLaunch ctx status).outbox = s.outbox ++ HostMsg.write l.cplva l.cplrkey
      (cplBytes l.ltag c.number status l.flags.toNat l.start s.now l.tasks l.traps l.lastTrap c.trapHead) ::
        (if l.csend && s.connLive l.conn then [HostMsg.sendImm l.conn l.imm] else []) := by
  obtain ⟨u, hu, he⟩ := State.endLaunch_active (status := status) hc hl
  obtain ⟨htime, -, -, hconns, hout, -⟩ := State.package_eq_iff.mp hu
  have hnow : u.now = s.now := congrArg (fun t : Time => t.dtime.toNat) htime
  have hlive : u.connLive l.conn = s.connLive l.conn :=
    congrArg (fun t => ((Table.find t l.conn).map (fun x : Conn => x.live)).getD false) hconns
  rw [he]
  refine (State.modCtx_keeps State.outbox (fun _ _ => rfl) _ ctx _).trans ?_
  rw [hnow, hlive, hout]
  rfl

/-! ### All launches that satisfy a test -/

/-- One context of `State.endAll`. -/
def State.endOne (p : Nat → Ctx → Launch → Bool) (status : Nat) (t : State) (e : Nat × Ctx) : State :=
  match e.2.launch with
  | some l => if p e.1 e.2 l then t.endLaunch e.1 status else t
  | none => t

theorem State.endAll_eq (s : State) (p : Nat → Ctx → Launch → Bool) (status : Nat) :
    s.endAll p status = s.ctxs.foldl (State.endOne p status) s := rfl

theorem State.endOne_cases (p : Nat → Ctx → Launch → Bool) (status : Nat) (t : State) (e : Nat × Ctx) :
    State.endOne p status t e = t ∨ State.endOne p status t e = t.endLaunch e.1 status := by
  unfold State.endOne
  split
  · split
    · exact .inr rfl
    · exact .inl rfl
  · exact .inl rfl

theorem State.chassis_endAll (s : State) (p : Nat → Ctx → Launch → Bool) (status : Nat) :
    (s.endAll p status).chassis = s.chassis := by
  rw [State.endAll_eq]
  refine foldl_keeps State.chassis (fun t e => ?_) s.ctxs s
  rcases State.endOne_cases p status t e with h | h
  · exact congrArg State.chassis h
  · exact (congrArg State.chassis h).trans (State.chassis_endLaunch t e.1 status)

theorem State.launch?_foldl_endOne (p : Nat → Ctx → Launch → Bool) (status k : Nat) (l : List (Nat × Ctx)) : ∀ t : State,
    (l.foldl (State.endOne p status) t).launch? k = none ∨ (l.foldl (State.endOne p status) t).launch? k = t.launch? k := by
  induction l with
  | nil => exact fun _ => .inr rfl
  | cons e l ih =>
    intro t
    have step : (State.endOne p status t e).launch? k = none ∨ (State.endOne p status t e).launch? k = t.launch? k := by
      rcases State.endOne_cases p status t e with h | h <;> rw [h]
      · exact .inr rfl
      · rw [State.launch?_endLaunch]; split
        · exact .inl rfl
        · exact .inr rfl
    rcases ih (State.endOne p status t e) with h | h
    · exact .inl h
    · rw [List.foldl_cons, h]; exact step

/-- No launch begins there. -/
theorem State.launch?_endAll (s : State) (p : Nat → Ctx → Launch → Bool) (status k : Nat) :
    (s.endAll p status).launch? k = none ∨ (s.endAll p status).launch? k = s.launch? k := by
  rw [State.endAll_eq]
  exact State.launch?_foldl_endOne p status k s.ctxs s

/-- A launch that satisfies the test ends. -/
theorem State.launch?_endAll_of {s : State} {p : Nat → Ctx → Launch → Bool} (status : Nat) {k : Nat} {c : Ctx} {l : Launch}
    (hc : s.ctx? k = some c) (hl : c.launch = some l) (hp : p k c l = true) : (s.endAll p status).launch? k = none := by
  have mem : ∀ (r : List (Nat × Ctx)) (t : State), (k, c) ∈ r → (r.foldl (State.endOne p status) t).launch? k = none := by
    intro r
    induction r with
    | nil => intro t h; simp at h
    | cons e r ih =>
      intro t h
      rcases List.mem_cons.mp h with h | h
      · have gone : (State.endOne p status t (k, c)).launch? k = none := by
          simp [State.endOne, hl, hp, State.launch?_endLaunch]
        rw [← h, List.foldl_cons]
        rcases State.launch?_foldl_endOne p status k r (State.endOne p status t (k, c)) with h' | h'
        · exact h'
        · rw [h', gone]
      · exact ih _ h
  rw [State.endAll_eq]
  exact mem s.ctxs s (Table.mem_of_find hc)

/-- Where every launch satisfies the test, none is left. -/
theorem State.launch?_endAll_true (s : State) (status k : Nat) : (s.endAll (fun _ _ _ => true) status).launch? k = none := by
  cases h : s.launch? k with
  | none => simpa [h] using s.launch?_endAll (fun _ _ _ => true) status k
  | some l =>
    obtain ⟨c, hc, hl⟩ := State.launch?_eq_some.mp h
    exact State.launch?_endAll_of status hc hl rfl

/-! ### What an event, a change of a die and a step posted leave -/

@[simp] theorem State.event_power (s : State) (code ctx : Nat) (b : List Byte) : (s.event code ctx b).power = s.power := rfl
@[simp] theorem State.event_agenda (s : State) (code ctx : Nat) (b : List Byte) : (s.event code ctx b).agenda = s.agenda := rfl
@[simp] theorem State.event_launch? (s : State) (code ctx : Nat) (b : List Byte) (k : Nat) :
    (s.event code ctx b).launch? k = s.launch? k := rfl

theorem State.endAll_power (s : State) (p : Nat → Ctx → Launch → Bool) (status : Nat) : (s.endAll p status).power = s.power := by
  obtain ⟨-, hpower, -⟩ := State.chassis_eq_iff.mp (s.chassis_endAll p status)
  exact hpower
theorem State.endAll_boot (s : State) (p : Nat → Ctx → Launch → Bool) (status : Nat) : (s.endAll p status).boot = s.boot := by
  obtain ⟨-, -, hboot, -⟩ := State.chassis_eq_iff.mp (s.chassis_endAll p status)
  exact hboot

theorem State.die_modDie (s : State) (d e : Fin 4) (f : Die → Die) :
    (s.modDie d f).die e = if e = d then f (s.die d) else s.die e := by
  by_cases h : e = d
  · subst h; simp [State.die]
  · have hn : d.val ≠ e.val := fun x => h (Fin.ext x.symm)
    simp [State.die, Vector.getElem_set_ne, hn, h]
@[simp] theorem State.die_post (s : State) (u : Nat) (i : Instr) (d : Fin 4) : (s.post u i).die d = s.die d := rfl

/-! ### Bits of a register -/

/-- A word split at bit `i`. -/
theorem testBit_split (q b r i j : Nat) (hb : b < 2) (hr : r < 2 ^ i) :
    (2 ^ i * (2 * q + b) + r).testBit j =
      if j < i then r.testBit j else if j = i then decide (b = 1) else q.testBit (j - i - 1) := by
  rw [Nat.testBit_two_pow_mul_add _ hr]
  split
  · rfl
  · split
    · next h => subst h; simp [Nat.testBit_zero]; omega
    · next h1 h2 =>
      obtain ⟨k, hk⟩ : ∃ k, j - i = k + 1 := ⟨j - i - 1, by omega⟩
      rw [hk, Nat.testBit_succ, show (2 * q + b) / 2 = q by omega, Nat.add_sub_cancel]

theorem getLsbD_putBits_one {w : Nat} (x : BitVec w) {i : Nat} (v j : Nat) (hi : i < w) :
    (putBits x i 1 v).getLsbD j = if j = i then decide (v % 2 = 1) else x.getLsbD j := by
  by_cases hj : w ≤ j
  · rw [BitVec.getLsbD_of_ge _ _ hj, BitVec.getLsbD_of_ge _ _ hj, if_neg (by omega)]
  · obtain ⟨q, b, r, hb, hr, hx⟩ : ∃ q b r, b < 2 ∧ r < 2 ^ i ∧ x.toNat = 2 ^ i * (2 * q + b) + r :=
      ⟨x.toNat / 2 ^ i / 2, x.toNat / 2 ^ i % 2, x.toNat % 2 ^ i, Nat.mod_lt _ (by decide), Nat.mod_lt _ (Nat.two_pow_pos i),
        by rw [Nat.div_add_mod, Nat.div_add_mod]⟩
    have hbit : x.toNat >>> i % 2 ^ 1 = b := by
      rw [hx, Nat.shiftRight_eq_div_pow, Nat.mul_add_div (Nat.two_pow_pos i), Nat.div_eq_of_lt hr]
      omega
    have hput : x.toNat - x.toNat >>> i % 2 ^ 1 * 2 ^ i + v % 2 ^ 1 * 2 ^ i = 2 ^ i * (2 * q + v % 2) + r := by
      rw [hbit, hx, Nat.pow_one, Nat.mul_add, Nat.mul_add, Nat.mul_comm b, Nat.mul_comm (v % 2)]
      omega
    rw [putBits, hput, BitVec.getLsbD_ofNat, testBit_split _ _ _ _ _ (Nat.mod_lt _ (by decide)) hr, BitVec.getLsbD, hx,
      testBit_split _ _ _ _ _ hb hr]
    have hj' : j < w := by omega
    by_cases hji : j = i <;> simp [hj', hji, hi]

/-- READYMAP1, or READYMAP0 (`reg` false). -/
def Boot.ready (b : Boot) (reg : Bool) : Word := if reg then b.ready1 else b.ready0

theorem State.setReady_ready (s : State) (reg : Bool) (bit v j : Nat) (h : bit < 64) :
    ((s.setReady reg bit v).boot.ready reg).getLsbD j = if j = bit then decide (v % 2 = 1) else (s.boot.ready reg).getLsbD j := by
  cases reg
  · exact getLsbD_putBits_one s.boot.ready0 v j h
  · exact getLsbD_putBits_one s.boot.ready1 v j h

theorem State.setReady_launch? (s : State) (reg : Bool) (bit v k : Nat) : (s.setReady reg bit v).launch? k = s.launch? k := by
  cases reg <;> rfl

end Machine
end Sys2Proof
end

section
/-! SUPPORT. Wake-ups, counted events and posts: what they leave; deques, and a strand at the dispatch of a task (R99). -/
namespace Sys2Proof.Machine

/-! ### Parts of the state that small steps leave -/

theorem State.lc_modLc (s : State) (k j : Nat) (f : LCore → LCore) :
    (s.modLc k f).lc j = if j = k then f (s.lc k) else s.lc j := by
  by_cases h : j = k <;> simp [State.lc, State.modLc, Table.get, Table.find_set, h]

theorem State.strand_modStrand (s : State) (k j : Nat) (f : Strand → Strand) :
    (s.modStrand k f).strand j = if j = k then f (s.strand k) else s.strand j := by
  by_cases h : j = k
  · subst h; simp [State.modStrand]
  · rw [if_neg h]; exact State.strand_setStrand_ne s _ h

@[simp] theorem State.lc_posts (s : State) (l : List (Nat × Instr)) (k : Nat) : (s.posts l).lc k = s.lc k := rfl
@[simp] theorem State.strand_posts (s : State) (l : List (Nat × Instr)) (k : Nat) : (s.posts l).strand k = s.strand k := rfl
@[simp] theorem State.lc_modLc_self (s : State) (k : Nat) (f : LCore → LCore) : (s.modLc k f).lc k = f (s.lc k) := by
  rw [State.lc_modLc, if_pos rfl]

theorem State.postOnce_eq (s : State) (u : Nat) (i : Instr) : ∃ l, s.postOnce u i = s.posts l := by
  unfold State.postOnce
  split
  · exact ⟨[], by simp [State.posts]⟩
  · exact ⟨[(u, i)], rfl⟩

/-- The free strands of a core are told of work by posts alone. -/
theorem State.wakeCore_eq (s : State) (core : Nat) : ∃ l, s.wakeCore core = s.posts l := by
  unfold State.wakeCore
  refine List.foldlRecOn (motive := fun t : State => ∃ l, t = s.posts l) _ _ ⟨[], by simp [State.posts]⟩ ?_
  rintro t ⟨l, rfl⟩ i -
  dsimp only
  split
  · obtain ⟨l', h⟩ := State.postOnce_eq (s.posts l) (4 * core + i) .strandDispatch
    exact ⟨l ++ l', by rw [h]; simp [State.posts]⟩
  · exact ⟨l, rfl⟩

/-- Events are counted in the dies, and what they raise is posted. -/
theorem State.count_eq (s : State) (core code : Nat) : ∃ d l, s.count core code = ({ s with dies := d } : State).posts l := by
  unfold State.count
  split
  · exact ⟨s.dies, [], by simp [State.posts]⟩
  · exact ⟨_, _, rfl⟩

/-- A part of the state that changes of the dies and posts leave. -/
def State.offDies {α : Type} (p : State → α) : Prop := ∀ (s : State) d a, p { s with dies := d, agenda := a } = p s

section
variable {α : Type} {p : State → α}

theorem State.count_keeps (hp : State.offDies p) (s : State) (core code : Nat) : p (s.count core code) = p s := by
  obtain ⟨d, l, h⟩ := s.count_eq core code
  rw [h]
  exact hp s d (s.agenda ++ l)

theorem State.wakeCore_keeps (hp : State.offDies p) (s : State) (core : Nat) : p (s.wakeCore core) = p s := by
  obtain ⟨l, h⟩ := s.wakeCore_eq core
  rw [h]
  exact hp s s.dies (s.agenda ++ l)

end

@[simp] theorem State.strand_count (s : State) (core code k : Nat) : (s.count core code).strand k = s.strand k :=
  State.count_keeps (p := fun s => s.strand k) (fun _ _ _ => rfl) s core code
@[simp] theorem State.launch?_count (s : State) (core code k : Nat) : (s.count core code).launch? k = s.launch? k :=
  State.count_keeps (p := fun s => s.launch? k) (fun _ _ _ => rfl) s core code
@[simp] theorem State.cur_count (s : State) (core code : Nat) : (s.count core code).cur = s.cur :=
  State.count_keeps (p := fun s => s.cur) (fun _ _ _ => rfl) s core code

/-! ### The bottom of a deque (R82, R83) -/

theorem State.refill_nonempty {s : State} {k : Nat} (h : (s.lc k).hw ≠ []) : s.refill k = s := by
  have he : (s.lc k).hw.isEmpty = false := by simpa using h
  simp [State.refill, he]

theorem LCore.bottom_head {l : LCore} {r : TaskRec} {rest : List DqItem} (h : l.hw = ⟨r, none⟩ :: rest) :
    l.bottom = some (false, 0, r) := by
  simp [LCore.bottom, h, findIdx]

theorem State.popRec_head {s : State} {k : Nat} {r : TaskRec} {rest : List DqItem} (h : (s.lc k).hw = ⟨r, none⟩ :: rest) :
    s.popRec k = some (r, s.modLc k (fun l => { l with hw := dropNth l.hw 0 })) := by
  simp [State.popRec, State.refill_nonempty (s := s) (k := k) (by simp [h]), LCore.bottom_head h, State.takeRec, h]

/-- Only a continuation's tiles are moved before it runs. -/
theorem State.pinCont_notCont (s : State) (ctx : Nat) {r : TaskRec} (h : r.kind ≠ .cont) : s.pinCont ctx r = some (r, s) := by
  have hc : ∀ va, r.contOf va = false := fun va => by simp [TaskRec.contOf, h]
  unfold State.pinCont
  split
  · next c l _ _ =>
    have hfind : l.heap.find? (fun e => r.contOf (r.args[0].toNat - 64) && l.heapBase c + e.1 == r.args[0].toNat - 64) = none :=
      List.find?_eq_none.mpr fun e _ => by simp [hc]
    dsimp only
    rw [hfind]
  · rfl

/-! ### The start of a task (R76, R99, R230) -/

theorem State.fitRecord_notLeaf (s : State) (l : Launch) {tk : Task} (h : tk.tr.kind ≠ .leaf) :
    s.fitRecord l tk = .ok (s, tk.tr) := if_neg (fun hh => h hh.1)

theorem Launch.frameOf_noFoot (l : Launch) {tr : TaskRec} (h : tr.foot = 0) : l.frameOf tr = 0 := by
  unfold Launch.frameOf
  split
  · rfl
  · simp [Launch.footOf, h]

theorem Launch.legsOf_single (l : Launch) {r : TaskRec} (h : r.relay = 0) : l.legsOf r = [] := if_pos (.inl h)

/-- A strand as a task finds it at its dispatch (R99): the registers of the record, and nothing else set. A record with REQ set
loses its marks (R90). -/
def Strand.dispatched (t : Strand) (tk : Task) (pc : BitVec 32) : Prop :=
  t.phase = .running ∧ t.pc = pc.setWidth 64 ∧ t.sr = argRegs tk.tr.args ∧
    (∃ c tr, t.task = some { tk with tr := tr, cyc0 := c } ∧ (tk.tr.req = false → tr = tk.tr)) ∧
    t.vshape = 0x2004 ∧ t.fpcr = 0 ∧ t.fpsr = 0 ∧ t.depth = 0

theorem State.seat_dispatched (s : State) (k : Nat) (tk : Task) (pc : BitVec 32) :
    ((s.seat k tk pc).strand k).dispatched tk pc := by
  unfold State.seat
  rw [State.strand_modStrand, if_pos rfl]
  refine ⟨rfl, rfl, ?_, ⟨_, _, rfl, fun h => if_neg (by simp [h])⟩, rfl, rfl, rfl, rfl⟩
  dsimp only
  split <;> rfl

theorem argRegs_get (a : Vector Word 4) : (argRegs a)[1] = a[0] ∧ (argRegs a)[2] = a[1] ∧ (argRegs a)[3] = a[2] ∧
    (argRegs a)[4] = a[3] ∧ (argRegs a)[5] = 0 := by
  simp [argRegs]

/-- The strand once its record is fitted: the record's box in b0, and its box and join reference in the task (R62). -/
def Strand.fitted (t : Strand) (r : TaskRec) : Strand :=
  { t with br := t.br.set 0 r.box, task := t.task.map (fun x => { x with tr := { x.tr with box := r.box, jref := r.jref } }) }

/-- The state in which a task has its registers. -/
def State.seated (s : State) (k : Nat) (tk : Task) : State :=
  (({ s with cur := k } : State).drain (dieF (coreOf k))).seat k tk tk.tr.pc

/-- A rule with a valid header and no footprint starts with the registers that it has been given. -/
theorem State.startTask_rule {s : State} {k : Nat} {tk : Task} {l : Launch} (hl : s.launch? tk.ctx = some l)
    (hk : tk.tr.kind = .rule) (hok : tk.tr.hdrOk = true) (hf : tk.tr.foot = 0) :
    s.startTask k tk = ((s.seated k tk).count (coreOf k) 0x06).mod (fun t => t.fitted tk.tr) := by
  have hl' : ((s.seated k tk).count (coreOf k) 0x06).launch? tk.ctx = some l := (State.launch?_count _ _ _ _).trans hl
  unfold State.startTask
  dsimp only
  rw [hk]
  dsimp only
  rw [show (((({ s with cur := k } : State).drain (dieF (coreOf k))).seat k tk tk.tr.pc).count (coreOf k) 6).launch? tk.ctx
    = some l from hl']
  dsimp only
  rw [if_neg (by simp [hok]), State.fitRecord_notLeaf _ l (by simp [hk])]
  dsimp only
  rw [if_pos (.inr (l.frameOf_noFoot hf))]
  rfl

/-- A strand that has begun a record of a logical core, with the registers of R99. -/
def Strand.begins (t : Strand) (lck : Nat) (r : TaskRec) : Prop :=
  t.phase = .running ∧ t.pc = r.pc.setWidth 64 ∧ (∃ tk, t.task = some tk ∧ tk.tr = r ∧ tk.lc = lck) ∧ t.rB 0 = r.box ∧
    t.rS 1 = r.args[0] ∧ t.rS 2 = r.args[1] ∧ t.rS 3 = r.args[2] ∧ t.rS 4 = r.args[3] ∧ t.rS 5 = 0 ∧
    t.vshape = 0x2004 ∧ t.fpcr = 0 ∧ t.fpsr = 0 ∧ t.depth = 0

theorem Strand.begins_of_dispatched {t : Strand} {lck : Nat} {r : TaskRec} {trig : Trigger}
    (h : t.dispatched (taskOfRec lck r trig) r.pc) (hq : r.req = false) : (t.fitted r).begins lck r := by
  obtain ⟨hph, hpc, hsr, ⟨c, tr, htask, htr⟩, hvs, hcr, hsr', hdep⟩ := h
  obtain ⟨h1, h2, h3, h4, h5⟩ := argRegs_get r.args
  have hrec : tr = r := htr hq
  refine ⟨hph, hpc, ⟨_, congrArg (Option.map _) htask, by rw [hrec], rfl⟩, Vector.getElem_set_self _,
    (congrArg (·[1]) hsr).trans h1, (congrArg (·[2]) hsr).trans h2, (congrArg (·[3]) hsr).trans h3,
    (congrArg (·[4]) hsr).trans h4, (congrArg (·[5]) hsr).trans h5, hvs, hcr, hsr', hdep⟩

theorem State.startTask_begins {s : State} {k lck : Nat} {r : TaskRec} {trig : Trigger} {l : Launch}
    (hl : s.launch? (lcCtx lck) = some l) (hk : r.kind = .rule) (hok : r.hdrOk = true) (hf : r.foot = 0) (hq : r.req = false) :
    (s.startTask k (taskOfRec lck r trig)).st.begins lck r := by
  have hst : ((s.seated k (taskOfRec lck r trig)).count (coreOf k) 0x06).st = (s.seated k (taskOfRec lck r trig)).strand k := by
    rw [State.st, State.strand_count, State.cur_count]
    rfl
  rw [State.startTask_rule (tk := taskOfRec lck r trig) hl hk hok hf, State.st_mod, hst]
  exact Strand.begins_of_dispatched (State.seat_dispatched _ k _ r.pc) hq

end Sys2Proof.Machine
end

section
/-! PROOF. Supply, power limit, droop and temperature (R17 to R20). -/
namespace Sys2Proof.Machine

/-- A dip below 42 V has lasted its 100 µs and has not had its effect (R17). -/
def State.dipOver (s : State) : Prop := s.power.below42 = true ∧ s.power.told = false ∧ s.power.dipAt + 100000 ≤ s.now

theorem State.powerLost_of_not {s : State} (h : ¬ s.dipOver) : s.powerLost = s := by
  have h' : ¬ (s.power.below42 = true ∧ (!s.power.told) = true ∧ s.power.dipAt + 100000 ≤ s.now) := by
    simpa [State.dipOver] using h
  simp only [State.powerLost, h', if_false]

theorem State.powerLost_power {s : State} (h : s.dipOver) : s.powerLost.power = { s.power with told := true } := by
  have h' : s.power.below42 = true ∧ (!s.power.told) = true ∧ s.power.dipAt + 100000 ≤ s.now := by
    simpa [State.dipOver] using h
  simp only [State.powerLost, h', and_self, if_true, State.event_power, State.endAll_power]

theorem State.powerLost_launch? {s : State} (h : s.dipOver) (k : Nat) : s.powerLost.launch? k = none := by
  have h' : s.power.below42 = true ∧ (!s.power.told) = true ∧ s.power.dipAt + 100000 ≤ s.now := by
    simpa [State.dipOver] using h
  simp only [State.powerLost, h', and_self, if_true, State.event_launch?, State.launch?_endAll_true]

theorem State.powerLost_plimit (s : State) : s.powerLost.power.plimit = s.power.plimit := by
  by_cases h : s.dipOver
  · rw [State.powerLost_power h]
  · rw [State.powerLost_of_not h]

theorem State.outOfRange_power (s : State) (mv : Nat) (below : Bool) : (s.outOfRange mv below).power =
    { s.power with
      inRange := false, below42 := below, dipAt := if below && !s.power.below42 then s.now else s.power.dipAt
      told := s.power.told && s.power.below42, low := if s.power.inRange then mv else Nat.min s.power.low mv
      high := if s.power.inRange then mv else Nat.max s.power.high mv } := by
  unfold State.outOfRange
  dsimp only
  split <;> rfl

theorem State.outOfRange_launch? (s : State) (mv k : Nat) (below : Bool) :
    (s.outOfRange mv below).launch? k = s.launch? k := by
  unfold State.outOfRange
  dsimp only
  split <;> rfl

/-- SUPPLY_RANGE as the input leaves its range (R47). -/
theorem State.outOfRange_outbox {s : State} (mv : Nat) (below : Bool) (h : s.power.inRange = true) :
    (s.outOfRange mv below).outbox = s.outbox ++ (s.conns.filter (fun e => e.2.live)).map (fun e =>
        HostMsg.send e.1 (s.eventBytes 7 0 (e.2.events + 1) (bytesOfNat 8 s.now ++ bytesOfNat 4 mv ++ bytesOfNat 4 0))) := by
  have hit : ∀ c : Conn, (c.live && ((0 : Nat) == 0 || !c.created.isEmpty)) = c.live := fun c => by simp
  simp only [State.outOfRange, h, if_true, State.supplyEvent, State.event, hit]
  rfl

/-! ### R17 -/

/-- The input is outside 44 to 56 V and within 42 to 60 V. -/
def outsideRated (mv : Nat) : Prop := (42000 ≤ mv ∧ mv < 44000) ∨ (56000 < mv ∧ mv ≤ 60000)

theorem exec_supplyOutOfRange_of {mv : Nat} (s : State) (h : outsideRated mv) :
    exec (.supplyOutOfRange mv) s = .next (s.powerLost.outOfRange mv false) := if_pos h

/-- The input leaves its rated range: the lower limit holds, and the host is told. -/
theorem exec_supplyOutOfRange_leaves {s : State} {mv : Nat} (h : outsideRated mv) (hin : s.power.inRange = true)
    (hd : ¬ s.dipOver) : ∃ t, exec (.supplyOutOfRange mv) s = .next t ∧
      t.power.inRange = false ∧ t.power.limit = min s.power.plimit.toNat 2000 ∧
      t.outbox = s.outbox ++ (s.conns.filter (fun e => e.2.live)).map (fun e =>
        HostMsg.send e.1 (s.eventBytes 7 0 (e.2.events + 1) (bytesOfNat 8 s.now ++ bytesOfNat 4 mv ++ bytesOfNat 4 0))) := by
  refine ⟨_, exec_supplyOutOfRange_of s h, ?_⟩
  rw [State.powerLost_of_not hd]
  exact ⟨by rw [State.outOfRange_power], by rw [State.outOfRange_power]; rfl, State.outOfRange_outbox mv false hin⟩

/-- The input comes back above 42 V after the dip has lasted its 100 µs. -/
theorem exec_supplyOutOfRange_late {s : State} {mv : Nat} (h : outsideRated mv) (hd : s.dipOver) :
    ∃ t, exec (.supplyOutOfRange mv) s = .next t ∧ t.power.below42 = false ∧ ∀ k, t.launch? k = none := by
  refine ⟨_, exec_supplyOutOfRange_of s h, by rw [State.outOfRange_power], fun k => ?_⟩
  rw [State.outOfRange_launch?, State.powerLost_launch? hd]

theorem exec_supplyInRange_returns {s : State} {mv : Nat} (hin : s.power.inRange = false) (h1 : 44000 ≤ mv) (h2 : mv ≤ 56000) :
    ∃ t, exec (.supplyInRange mv) s = .next t ∧ t.power.inRange = true ∧ t.power.below42 = false ∧
      t.power.limit = s.power.plimit.toNat ∧ (s.dipOver → ∀ k, t.launch? k = none) :=
  ⟨_, if_pos ⟨h1, h2, by simp [hin]⟩, rfl, rfl, congrArg BitVec.toNat s.powerLost_plimit,
    fun hd k => State.powerLost_launch? hd k⟩

theorem exec_supplyDip_begins {s : State} {mv : Nat} (h : mv < 42000) (hb : s.power.below42 = false) :
    ∃ t, exec (.supplyDip mv) s = .next t ∧ t.power.below42 = true ∧ t.power.dipAt = s.now ∧ t.power.told = false ∧
      (0, Instr.powerLoss) ∈ t.agenda := by
  have he : exec (.supplyDip mv) s = .next ((s.outOfRange mv true).post 0 .powerLoss) := by
    simp [execSupplyDip, Nat.not_le.mpr h, hb]
  refine ⟨_, he, ?_, ?_, ?_, by simp⟩ <;> simp [State.outOfRange_power, hb]

theorem exec_powerLoss_over {s : State} (hd : s.dipOver) :
    ∃ t, exec .powerLoss s = .next t ∧ t.power.told = true ∧ ∀ k, t.launch? k = none :=
  ⟨_, if_neg (fun h => Nat.not_lt.mpr hd.2.2 h.2.2), by rw [State.powerLost_power hd], State.powerLost_launch? hd⟩

/-- Without a dip that is still to be told of, the power loss does nothing. -/
theorem exec_powerLoss_idle {s : State} (h : s.power.below42 = false ∨ s.power.told = true) : exec .powerLoss s = .next s := by
  have hd : ¬ s.dipOver := by
    rintro ⟨hb, ht, -⟩
    simp [hb, ht] at h
  have hw : ¬ (s.power.below42 = true ∧ (!s.power.told) = true ∧ s.now < s.power.dipAt + 100000) := by
    rintro ⟨hb, ht, -⟩
    simp_all
  rw [exec_powerLoss, execPowerLoss, if_neg hw, State.powerLost_of_not hd]

/-! ### R18 and R20 -/

@[simp] theorem State.stretchMore_die (s : State) (e : Fin 4) :
    s.stretchMore.die e = { s.die e with stretch := (s.die e).stretch + 1 } := by
  unfold State.stretchMore
  dsimp only
  split <;> simp [State.die, State.post]

theorem State.stretchMore_power (s : State) : s.stretchMore.power = { s.power with relaxAt := s.now } := by
  unfold State.stretchMore
  dsimp only
  split <;> rfl

/-- The mean of the samples of the last millisecond is above the limit, or has been and has not fallen below it. -/
def Power.isHigh (p : Power) (l : List Nat) : Prop :=
  p.limit * l.length < l.sum ∨ p.exceeded = true ∧ l.sum = p.limit * l.length

theorem Power.isHigh_iff (p : Power) {l : List Nat} (h : l ≠ []) :
    (({ p with samples := l } : Power).above || p.exceeded && !({ p with samples := l } : Power).below) = true ↔ p.isHigh l := by
  have hl : ({ p with samples := l } : Power).limit = p.limit := rfl
  have he : l.isEmpty = false := by simpa using h
  simp only [Power.above, Power.below, Power.isHigh, hl, he, Bool.or_false, Bool.or_eq_true, Bool.and_eq_true, Bool.not_eq_true',
    decide_eq_true_eq, decide_eq_false_iff_not]
  constructor
  · rintro (h | ⟨he, h⟩)
    · exact .inl h
    · by_cases h' : l.sum = p.limit * l.length
      · exact .inr ⟨he, h'⟩
      · exact .inl (by omega)
  · rintro (h | ⟨he, h⟩)
    · exact .inl h
    · exact .inr ⟨he, by omega⟩

/-- What a power sample leaves (R18). -/
theorem exec_powerSample_spec (s : State) (w : Nat) : ∃ t, exec (.powerSample w) s = .next t ∧
    t.power.samples = (w :: s.power.samples).take 10 ∧
    (t.power.exceeded = true ↔ s.power.isHigh ((w :: s.power.samples).take 10)) ∧
    (s.power.isHigh ((w :: s.power.samples).take 10) → ∀ e, (t.die e).stretch = (s.die e).stretch + 1) ∧
    (¬ s.power.isHigh ((w :: s.power.samples).take 10) → ∀ e, t.die e = s.die e) := by
  have hne : (w :: s.power.samples).take 10 ≠ [] := by simp
  have hiff := s.power.isHigh_iff hne
  rw [exec_powerSample]
  unfold execPowerSample
  dsimp only
  generalize (w :: s.power.samples).take 10 = l at hiff
  generalize (Power.above _ || _) = b at hiff
  cases b with
  | true =>
    have hh : s.power.isHigh l := hiff.mp rfl
    refine ⟨_, rfl, ?_, ?_, fun _ e => ?_, fun h => absurd hh h⟩
    · simp [State.stretchMore_power]
    · simp [State.stretchMore_power, hh]
    · simp only [if_true, State.stretchMore_die]; rfl
  | false =>
    have hh : ¬ s.power.isHigh l := fun h => by simpa using hiff.mpr h
    exact ⟨_, rfl, rfl, by simp [hh], fun h => absurd h hh, fun _ e => rfl⟩

theorem exec_stretchRelax_of {s : State} (h : ∃ e, (s.die e).stretch ≠ 0) (hn : s.power.relaxAt + 1000000 ≤ s.now)
    (he : s.power.exceeded = false) (hh : s.power.hot = false) :
    ∃ t, exec .stretchRelax s = .next t ∧ ∀ e, (t.die e).stretch = (s.die e).stretch - 1 := by
  obtain ⟨e, hs⟩ := h
  have hall : s.dies.toList.all (fun (d : Die) => d.stretch == 0) = false := by
    rw [List.all_eq_false]
    exact ⟨s.die e, by simp [State.die], by simpa using hs⟩
  have hwait : ¬ (s.now < s.power.relaxAt + 1000000 ∨ s.power.exceeded = true ∨ s.power.hot = true) := by
    simp [he, hh, hn]
  refine ⟨_, by simp only [exec_stretchRelax, execStretchRelax, hall, hwait, if_false, Bool.false_eq_true]; rfl, fun e => ?_⟩
  simp [State.die, State.post]

/-! ### R19 -/

theorem getLsbD_or_one_shiftLeft (x : BitVec 64) {i : Nat} (h : i < 64) : (x ||| (1 <<< i : BitVec 64)).getLsbD i = true := by
  rw [BitVec.getLsbD_or, BitVec.natCast_eq_ofNat, BitVec.getLsbD_ofNat, Nat.one_shiftLeft, Nat.testBit_two_pow_self]
  simp [h]

theorem exec_droopDetect_low {s : State} {mv : Nat} {d : Fin 4} (hd : d.val = s.cur / 64) (h : mv < s.power.droopth.toNat) :
    ∃ t, exec (.droopDetect mv) s = .next t ∧ (t.die d).droop = true ∧ (t.die d).droopEnd = 0 ∧
      (t.die d).low.getLsbD (s.cur % 64) = true := by
  have hf : Fin.ofNat 4 (s.cur / 64) = d := Fin.ext (by simp [Fin.ofNat, ← hd])
  refine ⟨_, by simp only [exec_droopDetect, execDroopDetect, h, if_true, hf]; rfl, ?_, ?_, ?_⟩
  · simp [State.die_modDie]
  · simp [State.die_modDie]
  · rw [State.die_modDie, if_pos rfl]
    exact getLsbD_or_one_shiftLeft _ (Nat.mod_lt _ (by decide))

theorem exec_droopDetect_recovered {s : State} {mv : Nat} {d : Fin 4} (hd : d.val = s.cur / 64)
    (h : s.power.droopth.toNat ≤ mv) (hx : (s.die d).droop = true) (he : (s.die d).droopEnd = 0) :
    let left := (s.die d).low &&& ~~~(1 <<< (s.cur % 64) : BitVec 64)
    ∃ t, exec (.droopDetect mv) s = .next t ∧ (t.die d).droop = true ∧ (t.die d).low = left ∧
      (left ≠ 0 → (t.die d).droopEnd = 0) ∧
      (left = 0 → (t.die d).droopEnd = (s.die d).cycle + 256 ∧ (d.val, Instr.droopRelease) ∈ t.agenda) := by
  intro left
  have hf : Fin.ofNat 4 (s.cur / 64) = d := Fin.ext (by simp [Fin.ofNat, ← hd])
  have hn : ¬ mv < s.power.droopth.toNat := Nat.not_lt.mpr h
  rw [exec_droopDetect]
  unfold execDroopDetect
  dsimp only
  rw [if_neg hn, hf]
  by_cases hl : left = 0
  · rw [if_pos ⟨hx, hl, he⟩]
    refine ⟨_, rfl, ?_⟩
    simpa [State.die_modDie, hx, left] using hl
  · rw [if_neg (fun h => hl h.2.1)]
    refine ⟨_, rfl, ?_⟩
    simpa [State.die_modDie, hx, he, left] using hl

theorem exec_droopRelease_due {s : State} {d : Fin 4} (hd : d.val = s.cur % 4) (hx : (s.die d).droop = true)
    (he : (s.die d).droopEnd ≠ 0) (hc : (s.die d).droopEnd ≤ (s.die d).cycle) :
    ∃ t, exec .droopRelease s = .next t ∧ (t.die d).droop = false ∧ (t.die d).droopEnd = 0 := by
  have hf : Fin.ofNat 4 s.cur = d := Fin.ext (by simp [Fin.ofNat, hd])
  have h1 : ¬ ((!(s.die d).droop) = true ∨ (s.die d).droopEnd = 0) := by simp [hx, he]
  refine ⟨_, by simp only [exec_droopRelease, execDroopRelease, hf, h1, if_false, Nat.not_lt.mpr hc]; rfl, ?_, ?_⟩ <;>
    simp [State.die_modDie]

/-! ### R20 -/

theorem exec_thermalTrip_spec (s : State) : ∃ t, exec .thermalTrip s = .next t ∧ (∀ e, (t.die e).power = false) ∧
    ∀ k, t.launch? k = none :=
  ⟨_, rfl, fun e => by simp [State.die], fun k => s.launch?_endAll_true 5 k⟩

/-- Settles O49: each step of the supply, of a power sample, of a detector and of the junction by its branch of the model;
that every launch ends is `State.launch?_endAll_true`. -/
theorem supplyAndTemperature : Obligations.SupplyAndTemperature := by
  intro s mv w c d p hot
  refine ⟨fun hin hd hmv => exec_supplyOutOfRange_leaves hmv hin ?_, fun hb ht hn hmv => exec_supplyOutOfRange_late hmv ⟨hb, ht, hn⟩,
    fun hin h1 h2 => ?_, fun hmv hb => exec_supplyDip_begins hmv hb,
    fun hb ht hn => exec_powerLoss_over ⟨hb, ht, hn⟩, exec_powerLoss_idle, rfl, ?_,
    fun h hn he hh => exec_stretchRelax_of h hn he hh,
    fun hd => ⟨fun h => exec_droopDetect_low hd h, fun h hx he => exec_droopDetect_recovered hd h hx he⟩,
    fun hd hx he hc => exec_droopRelease_due hd hx he hc, fun hc => ⟨if_pos hc, fun e => ?_⟩,
    fun hc => if_neg (Nat.not_le.mpr hc), exec_thermalTrip_spec s⟩
  · rintro ⟨hb, ht, hn⟩
    rcases hd with h | h | h
    · exact absurd (hb.symm.trans h) (by decide)
    · exact absurd (ht.symm.trans h) (by decide)
    · exact absurd h (Nat.not_lt.mpr hn)
  · obtain ⟨t, he, hr, hb, hl, hk⟩ := exec_supplyInRange_returns (s := s) hin h1 h2
    exact ⟨t, he, hr, hb, hl, fun hb ht hn => hk ⟨hb, ht, hn⟩⟩
  · intro l high
    obtain ⟨t, he, hs, hx, hyes, hno⟩ := exec_powerSample_spec s w
    refine ⟨t, he, hs, hx, fun e => ?_⟩
    by_cases hh : high
    · rw [if_pos hh]; exact hyes hh e
    · rw [if_neg hh, hno hh]; rfl
  · rw [State.stretchMore_die]; rfl

end Sys2Proof.Machine
end

section
/-! PROOF. PTP time, ticks and the exchange ports (R8, R9, R14 to R16, R23, R48, R157). -/
namespace Sys2Proof.Machine

/-! ### PTP (R9, R16) -/

theorem exec_ptpMessage_slew {s : State} {n : Nat} {c : Int} (h : n < 10) (hc : c.natAbs ≤ 100) :
    exec (.ptpMessage n c) s = .next { s with time := { s.time with slew := s.time.slew + c } } := by
  rw [exec_ptpMessage, execPtpMessage, if_neg (Nat.not_le.mpr h), if_pos hc]

theorem exec_ptpMessage_step {s : State} {n : Nat} {c : Int} (h : n < 10) (hc : 100 < c.natAbs) :
    ∃ t, exec (.ptpMessage n c) s = .next t ∧ t.time.hold = true ∧ t.time.stepAt = some s.time.tick.toNat ∧
      t.time.ptp = ((s.time.ptp : Int) + c).toNat ∧ t.supEvents = s.supEvents ++ [SupEvent.tickStep c.natAbs] :=
  ⟨_, (if_neg (Nat.not_le.mpr h)).trans (if_neg (Nat.not_le.mpr hc)), rfl, rfl, rfl, rfl⟩

/-- The correction that PTP time takes over as `n` ns pass, in ns. -/
def Time.slewStep (t : Time) (n : Nat) : Nat := min t.slew.natAbs ((t.slewAcc + n) / 10000)

/-- As PTP time moves on by `n` ns it takes over at most 1 ns of the correction for each 10,000 ns (R16). -/
theorem Time.advancePtp_spec (t : Time) (n : Nat) :
    10000 * t.slewStep n ≤ t.slewAcc + n ∧ (t.advancePtp n).slew.natAbs + t.slewStep n = t.slew.natAbs ∧
    ((t.advancePtp n).slew = 0 → (t.advancePtp n).slewAcc = 0) ∧
    (0 ≤ t.slew → (t.advancePtp n).ptp = t.ptp + n + t.slewStep n) ∧
    (t.slew < 0 → (t.advancePtp n).ptp = t.ptp + n - t.slewStep n) := by
  have hk : t.slewStep n ≤ t.slew.natAbs ∧ 10000 * t.slewStep n ≤ t.slewAcc + n := by
    unfold Time.slewStep
    omega
  obtain ⟨hk, hacc⟩ := hk
  unfold Time.advancePtp
  dsimp only
  rw [show Nat.min t.slew.natAbs ((t.slewAcc + n) / 10000) = t.slewStep n from rfl]
  generalize t.slewStep n = k at hk hacc
  refine ⟨hacc, ?_, fun h => if_pos (by omega), fun h => ?_, fun h => ?_⟩
  · split <;> omega
  · rw [if_neg (not_lt.mpr h)]; omega
  · rw [if_pos h]; omega

/-! ### Ticks (R14 to R16) -/

/-- What leaves on the ports is not what has come in. -/
theorem State.sendOut_xin (s : State) (limited : Bool) : (s.sendOut limited).time.xin = s.time.xin := rfl

theorem State.endTicks_xin (s : State) (n : Nat) : (s.endTicks n).time.xin = s.time.xin := by
  refine foldl_keeps (fun s : State => s.time.xin) (fun s p => ?_) _ s
  dsimp only
  split <;> rfl

/-- With nothing received there is nothing to deliver. -/
theorem State.deliverAt_nil {s : State} (n : Nat) (h : s.time.xin = []) : (s.deliverAt n).time.tick = s.time.tick ∧
    (s.deliverAt n).time.started = s.time.started := by
  unfold State.deliverAt
  simp [h, sortItems]

theorem exec_tickBoundary_stopped {s : State} (h : s.time.stepAt ≠ none) : exec .tickBoundary s = .next s :=
  if_pos (Option.isSome_iff_ne_none.mpr h)

theorem exec_tickBoundary_early {s : State} (h : s.time.stepAt = none)
    (hp : s.time.ptp < s.time.tstart.toNat + s.time.next * s.time.tickp.toNat) :
    ∃ t, exec .tickBoundary s = .next t ∧ t.time.tick = s.time.tick ∧ t.time.started = s.time.started ∧
      (0, Instr.tickBoundary) ∈ t.agenda := by
  refine ⟨_, (if_neg (by simp [h])).trans (if_pos hp), ?_, ?_, by simp⟩ <;> split <;> rfl

/-- The end of a boundary at which nothing has been received. -/
theorem State.boundaryEnd {v : State} (n : Nat) (h : v.time.xin = []) :
    let t := (if v.time.hold then v else v.deliverAt n).post 0 .tickBoundary
    t.time.tick = v.time.tick ∧ t.time.started = v.time.started ∧ (0, Instr.tickBoundary) ∈ t.agenda := by
  refine ⟨?_, ?_, by simp⟩ <;> split
  · rfl
  · exact (State.deliverAt_nil n h).1
  · rfl
  · exact (State.deliverAt_nil n h).2

theorem exec_tickBoundary_due {s : State} (h : s.time.stepAt = none)
    (hp : s.time.tstart.toNat + s.time.next * s.time.tickp.toNat ≤ s.time.ptp) (hx : s.time.xin = []) :
    ∃ t, exec .tickBoundary s = .next t ∧ t.time.tick = BitVec.ofNat 64 s.time.next ∧ t.time.started = true ∧
      (0, Instr.tickBoundary) ∈ t.agenda := by
  have hxu : (if s.time.started then (s.sendOut true).endTicks s.time.next else s.sendOut false).time.xin = [] := by
    rw [← hx]
    split
    · rw [State.endTicks_xin, State.sendOut_xin]
    · rw [State.sendOut_xin]
  exact ⟨_, (if_neg (by simp [h])).trans (if_neg (Nat.not_lt.mpr hp)), State.boundaryEnd _ hxu⟩

/-! ### Exchange ports (R8, R48) -/

theorem exec_exchangeFrameRx_items (s : State) (p : Fin 8) (l : List XcItem) :
    exec (.exchangeFrameRx p (.items s.time.xetype.toNat l)) s =
      .next { s with time := { s.time with xin := s.time.xin ++ l } } := if_pos rfl

theorem exec_exchangeFrameRx_endOfTick (s : State) (p : Fin 8) (n : Nat) :
    exec (.exchangeFrameRx p (.endOfTick s.time.xetype.toNat n)) s =
      .next { s with time := { s.time with ended := s.time.ended.set p (max s.time.ended[p] (n + 1)) } } := if_pos rfl

theorem exec_exchangeFrameRx_discards {s : State} {e : Nat} (p : Fin 8) (l : List XcItem) (h : e ≠ s.time.xetype.toNat)
    (hp : e ≠ 0x88F7) : exec (.exchangeFrameRx p (.items e l)) s =
      .next { s with time := { s.time with discards := s.time.discards + 1 } } := (if_neg h).trans (if_neg hp)

/-- The launches that have other chips end, and the port's bit clears unless bring-up still runs (R23, R48). -/
def State.linkDown (s : State) (p : Fin 8) : State :=
  let t := s.endAll (fun _ _ l => decide (1 < l.nchip)) 6
  if s.bringDone then t.setReady true (34 + p.val) 0 else t

theorem exec_exchangeLinkLoss_of {s : State} {p : Fin 8} (hp : p.val = s.cur % 8) (h : s.portUp p = true) :
    exec .exchangeLinkLoss s =
      .next { s.linkDown p with time := { (s.linkDown p).time with hold := true } }.tellLost := by
  have hf : Fin.ofNat 8 s.cur = p := Fin.ext (by simp [Fin.ofNat, hp])
  rw [exec_exchangeLinkLoss, execExchangeLinkLoss, hf, if_neg (by simp [h])]
  rfl

theorem State.linkDown_ready1 {s : State} {p : Fin 8} (h : s.portUp p = true) :
    (s.linkDown p).boot.ready1.getLsbD (34 + p.val) = !s.bringDone := by
  have hb : (s.endAll (fun _ _ l => decide (1 < l.nchip)) 6).boot = s.boot := s.endAll_boot _ _
  unfold State.linkDown
  split
  · next hd =>
    refine (State.setReady_ready _ true (34 + p.val) 0 (34 + p.val) (by omega)).trans ?_
    simp [hd]
  · next hd =>
    rw [hb]
    simpa [State.portUp, hd] using h

theorem State.linkDown_launch? {s : State} {p : Fin 8} {k : Nat} {x : Launch} (h : (s.linkDown p).launch? k = some x) :
    x.nchip ≤ 1 := by
  have hx : (s.endAll (fun _ _ l => decide (1 < l.nchip)) 6).launch? k = some x := by
    unfold State.linkDown at h
    split at h
    · rwa [State.setReady_launch?] at h
    · exact h
  have hs : s.launch? k = some x := by
    rcases s.launch?_endAll (fun _ _ l => decide (1 < l.nchip)) 6 k with h' | h'
    · simp [h'] at hx
    · rw [← h', hx]
  obtain ⟨c, hc, hl⟩ := State.launch?_eq_some.mp hs
  by_contra hn
  have hend := State.launch?_endAll_of (p := fun _ _ l => decide (1 < l.nchip)) 6 hc hl (by simpa using hn)
  rw [hend] at hx
  simp at hx

theorem exec_exchangeLinkLoss_up {s : State} {p : Fin 8} (hp : p.val = s.cur % 8)
    (hup : s.boot.ready1.getLsbD (34 + p.val) = true) : ∃ t, exec .exchangeLinkLoss s = .next t ∧ t.time.hold = true ∧
      t.boot.ready1.getLsbD (34 + p.val) = !s.bringDone ∧ ∀ k x, t.launch? k = some x → x.nchip ≤ 1 :=
  ⟨_, exec_exchangeLinkLoss_of hp hup, rfl, State.linkDown_ready1 hup, fun _ _ h => State.linkDown_launch? (s := s) (p := p) h⟩

/-- Settles O50: the slew is `Time.advancePtp_spec`, and the loss of a link ends launches by `State.launch?_endAll_of`. -/
theorem timeAndExchange : Obligations.TimeAndExchange := by
  intro s n c p l e t0
  exact ⟨exec_ptpMessage_slew, fun h => if_pos h, fun m => ⟨_, t0.advancePtp_spec m⟩, exec_ptpMessage_step,
    fun h => ⟨exec_tickBoundary_due h, exec_tickBoundary_early h⟩, exec_tickBoundary_stopped,
    exec_exchangeFrameRx_items s p l, exec_exchangeFrameRx_endOfTick s p n, exec_exchangeFrameRx_discards p l,
    exec_exchangeLinkLoss_up⟩

end Sys2Proof.Machine
end

section
/-! PROOF. Package reset and READYMAP (R13, R21 to R25). -/
namespace Sys2Proof.Machine

/-! ### Boot (R24, R25) -/

/-- A part of the state that no step of the boot changes: the boot writes the measurements, the failing step, the clock
roles and the counter of free values. -/
def State.bootFrame {α : Type} (p : State → α) : Prop :=
  ∀ (s : State) m n f r, p { s with
    boot := { s.boot with meas := m, failed := n }, free := f, time := { s.time with roles := r } } = p s

section
variable {α : Type} {p : State → α}

theorem State.extend_keeps (hp : State.bootFrame p) (s : State) (i : Nat) (d : List Byte) : p (s.extend i d) = p s :=
  hp s _ s.boot.failed s.free s.time.roles

theorem State.measure_keeps (hp : State.bootFrame p) (s : State) (cls : Nat) : p (s.measure cls) = p s :=
  foldl_keeps p (fun s _ => State.extend_keeps hp s _ _) _ s

theorem State.failed_keeps (hp : State.bootFrame p) (s : State) (n : Nat) :
    p { s with boot := { s.boot with failed := n } } = p s := hp s s.boot.meas n s.free s.time.roles

theorem State.selectRoles_keeps (hp : State.bootFrame p) (s : State) : p s.selectRoles = p s :=
  hp s s.boot.meas s.boot.failed _ _

theorem State.bootUp_keeps (hp : State.bootFrame p) (s : State) : p s.bootUp = p s := by
  unfold State.bootUp
  split
  · dsimp only
    split
    · rw [State.selectRoles_keeps hp]
      simp only [State.extend_keeps hp, State.measure_keeps hp]
    · rw [State.failed_keeps hp]
      simp only [State.extend_keeps hp, State.measure_keeps hp]
  · exact State.failed_keeps hp s _

end

/-- Without a first-stage image the boot stops at step 1. -/
theorem State.bootUp_failed {s : State} (h : s.boot.flash.filter (fun (f : FwImage) => f.cls == 0) = []) :
    s.bootUp.boot.failed = 1 := by
  have hc : s.stageCheck 0 = 1 := by simp [State.stageCheck, State.images, h]
  unfold State.bootUp
  rw [hc]
  rfl

/-! ### Package reset (R13, R24) -/

theorem State.reset_die (d : Fin 4) : State.reset.die d = resetDie := Vector.getElem_replicate d.isLt

theorem State.reset_memWf : State.reset.memWf = true := by
  rw [State.memWf_iff]
  exact ⟨fun d => by rw [State.reset_die]; rfl, rfl, rfl, rfl⟩

/-- What package reset brings to its reset value and the boot leaves there. -/
def State.resetView (s : State) : Word × Table Ctx × Table Conn × Word × Word × Table Strand × Table Core × List Host.Cell ×
    List Host.Cell × List Host.Cell × Vector Die 4 :=
  (s.time.dtime, s.ctxs, s.conns, s.boot.ready0, s.boot.ready1, s.strands, s.cores, s.ws, s.lds, s.opmem, s.dies)

theorem exec_packageReset_boots (s : State) : ∃ u : State, exec .packageReset s = .next u.bootUp ∧
    u.resetView = State.reset.resetView ∧ u.boot.flash = s.boot.flash := by
  refine ⟨_, rfl, ?_, ?_⟩ <;> split <;> rfl

theorem exec_packageReset_spec (s : State) : ∃ t, exec .packageReset s = .next t ∧ t.time.dtime = 0 ∧ t.ctxs = [] ∧
    t.conns = [] ∧ t.boot.ready0 = 0 ∧ t.boot.ready1 = 0 ∧ t.strands = [] ∧ t.cores = [] ∧ t.ws = [] ∧ t.lds = [] ∧
    t.opmem = [] ∧ (∀ d, (t.die d).view.cells = []) ∧ t.boot.flash = s.boot.flash ∧
    (s.boot.flash.filter (fun (f : FwImage) => f.cls == 0) = [] → t.boot.failed = 1) := by
  obtain ⟨u, he, hu, hf⟩ := exec_packageReset_boots s
  have hview : u.bootUp.resetView = State.reset.resetView :=
    (State.bootUp_keeps (p := State.resetView) (fun _ _ _ _ _ => rfl) u).trans hu
  have hflash : u.bootUp.boot.flash = s.boot.flash :=
    (State.bootUp_keeps (p := fun u => u.boot.flash) (fun _ _ _ _ _ => rfl) u).trans hf
  simp only [State.resetView, Prod.mk.injEq] at hview
  obtain ⟨htime, hctxs, hconns, h0, h1, hstrands, hcores, hws, hlds, hop, hdies⟩ := hview
  refine ⟨_, he, htime, hctxs, hconns, h0, h1, hstrands, hcores, hws, hlds, hop, fun d => ?_, hflash, fun h =>
    State.bootUp_failed (by rw [hf, h])⟩
  rw [State.die, hdies]
  exact congrArg (fun x : Die => x.view.cells) (State.reset_die d)

/-! ### READYMAP (R21 to R23) -/

theorem exec_functionReady_up {s : State} {r : Bool} {b : Fin 64} (h : s.mayReady r b.val = true) :
    ∃ t, exec (.functionReady r b) s = .next t ∧ (t.boot.ready r).getLsbD b.val = true ∧
      ∀ i, i ≠ b.val → (t.boot.ready r).getLsbD i = (s.boot.ready r).getLsbD i := by
  refine ⟨_, if_pos h, ?_, fun i hi => ?_⟩
  · rw [State.setReady_ready s r b.val 1 b.val b.isLt, if_pos rfl]; rfl
  · rw [State.setReady_ready s r b.val 1 i b.isLt, if_neg hi]

theorem exec_funcLost_spec {s : State} {r : Bool} {b : Fin 64} (hon : (s.boot.ready r).getLsbD b.val = true)
    (hb : r = false ∨ b.val < 43) (hd : s.bringDone = true) : ∃ t, exec (.funcLost r b) s = .next t ∧
      (t.boot.ready r).getLsbD b.val = false ∧
      (∀ i, i ≠ b.val → (t.boot.ready r).getLsbD i = (s.boot.ready r).getLsbD i) ∧
      ∀ k x l, s.ctx? k = some x → x.launch = some l → s.uses k x l r b.val = true → t.launch? k = none := by
  have hloss : lossBit r b.val = true := by rcases hb with h | h <;> simp [lossBit, h]
  have hgo : ¬ ((!(s.boot.ready r).getLsbD b.val) = true ∨ (!lossBit r b.val) = true ∨ (!s.bringDone) = true) := by
    simp [hon, hloss, hd]
  have hboot : ∀ u : State, (u.dropNle r b.val).tellLost.boot = u.boot := fun u => by
    unfold State.dropNle; split <;> rfl
  have hlaunch : ∀ (u : State) k, (u.dropNle r b.val).tellLost.launch? k = u.launch? k := fun u k => by
    unfold State.dropNle; split <;> rfl
  refine ⟨_, if_neg hgo, ?_, fun i hi => ?_, fun k x l hx hl hu => ?_⟩
  · rw [hboot, State.setReady_ready _ r b.val 0 b.val b.isLt, if_pos rfl]; rfl
  · rw [hboot, State.setReady_ready _ r b.val 0 i b.isLt, if_neg hi, State.endAll_boot]
  · rw [hlaunch, State.setReady_launch?]
    exact State.launch?_endAll_of (p := fun ctx c l => s.uses ctx c l r b.val) 6 hx hl hu

/-- Settles O51: the boot keeps what the reset has brought (`State.bootUp_keeps`), and a bit of READYMAP is written alone
(`State.setReady_ready`). -/
theorem resetAndFunctions : Obligations.ResetAndFunctions := by
  intro s r b reg
  exact ⟨⟨State.reset_memWf, rfl, rfl, rfl, rfl, rfl, rfl, rfl, rfl, rfl, rfl⟩, exec_packageReset_spec s, exec_functionReady_up,
    fun h => if_neg (by simp [h]), exec_funcLost_spec⟩

end Sys2Proof.Machine
end

section
/-! PROOF. A launch from its record to its completion (R22, R43 to R46, R49 to R51, R57, R87, R94). -/
namespace Sys2Proof.Machine

/-! ### A launch that has nothing left (R46) -/

theorem exec_launchEnd_done {s : State} {x : Ctx} {l : Launch} (hx : s.ctx? s.cur = some x) (hl : x.launch = some l)
    (hd : s.launchDone s.cur l = true) : ∃ t, exec .launchEnd s = .next t ∧ t.launch? s.cur = none ∧
      t.outbox = s.outbox ++ HostMsg.write l.cplva l.cplrkey (cplBytes l.ltag x.number 0 l.flags.toNat l.start s.now l.tasks
        l.traps l.lastTrap x.trapHead) :: (if l.csend && s.connLive l.conn then [HostMsg.sendImm l.conn l.imm] else []) := by
  have he : exec .launchEnd s = .next (s.endLaunch s.cur 0) := by
    simp only [exec_launchEnd, execLaunchEnd, State.launch?_eq_some.mpr ⟨x, hx, hl⟩, hd, if_true]
  exact ⟨_, he, by rw [State.launch?_endLaunch, if_pos rfl], State.endLaunch_outbox 0 hx hl⟩

/-! ### The wake message (R49, R57) -/

/-- A record enters a deque that has room. -/
theorem State.mustPush_room {s : State} {k : Nat} (i : DqItem) (h : (s.lc k).hw.length < 64) :
    s.mustPush k i = s.modLc k (fun l => { l with hw := i :: l.hw }) := by
  simp [State.mustPush, State.push?, State.hwRoom?, h]

/-- The root record of a launch at a logical core. -/
def State.rootRec (s : State) (c : Nat) (l : Launch) : TaskRec :=
  s.mkRec c l.root l.entrypc .rule (decide (0 < l.d)) 0 (BitVec.ofNat 32 (leAt l.wake 4 4)) (Vector.replicate 4 0) false

/-- The wake message goes on to the next column. -/
def State.wakeOn (s : State) (c : Nat) : List (Nat × Instr) :=
  if colOf s.cur < 15 then [(s.cur + 1, Instr.wakeMessage c)] else []

/-- A core on which the launch has one new logical core. -/
theorem exec_wakeMessage_eq {s : State} {c k : Nat} {l : Launch} (hl : s.launch? c = some l)
    (hk : (s.hostedBy s.cur).filter (fun j => lcCtx j == c && !(s.lc j).awake) = [k]) (hh : s.hdrHit c l.entrypc = false) :
    exec (.wakeMessage c) s = .next ((((s.posts (s.wakeOn c)).modLc k (fun x => { x with awake := true })).mustPush k
        ⟨s.rootRec c l, none⟩).wakeCore s.cur) := by
  have hpost : (if colOf s.cur < 15 then s.post (s.cur + 1) (.wakeMessage c) else s) = s.posts (s.wakeOn c) := by
    unfold State.wakeOn
    split
    · rfl
    · simp [State.posts]
  rw [exec_wakeMessage]
  unfold execWakeMessage
  dsimp only
  rw [hpost, show (s.posts (s.wakeOn c)).launch? c = some l from hl]
  dsimp only
  rw [show ((s.posts (s.wakeOn c)).hostedBy s.cur).filter (fun j => lcCtx j == c && !((s.posts (s.wakeOn c)).lc j).awake) = [k]
    from hk, if_neg (fun h => absurd h.2 (by rw [show (s.posts (s.wakeOn c)).hdrHit c l.entrypc = false from hh]; decide))]
  rfl

theorem exec_wakeMessage_starts {s : State} {c k : Nat} {l : Launch} (hl : s.launch? c = some l)
    (hk : (s.hostedBy s.cur).filter (fun j => lcCtx j == c && !(s.lc j).awake) = [k]) (hw : (s.lc k).hw = [])
    (hh : s.hdrHit c l.entrypc = false) :
    ∃ t r, exec (.wakeMessage c) s = .next t ∧ (t.lc k).awake = true ∧ (t.lc k).hw = [⟨r, none⟩] ∧
      r.box = l.root ∧ r.pc = l.entrypc ∧ r.kind = .rule ∧ r.jref = 0 ∧ r.fitSd = decide (0 < l.d) ∧
      (colOf s.cur < 15 → (s.cur + 1, Instr.wakeMessage c) ∈ t.agenda) := by
  refine ⟨_, s.rootRec c l, exec_wakeMessage_eq hl hk hh, ?_⟩
  rw [State.mustPush_room _ (by simp [hw])]
  obtain ⟨a, ha⟩ := State.wakeCore_eq (State.modLc _ k (fun x => { x with hw := ⟨s.rootRec c l, none⟩ :: x.hw })) s.cur
  rw [ha, State.lc_posts, State.lc_modLc_self, State.lc_modLc_self, State.lc_posts, hw]
  refine ⟨rfl, rfl, rfl, rfl, rfl, rfl, rfl, fun hc => ?_⟩
  simp [State.wakeOn, hc]

/-! ### What the start of a launch leaves of the queue (R43, R49) -/

theorem State.releaseBacklog_nil {s : State} (h : s.backlog = []) : s.releaseBacklog = s := by
  cases s
  subst h
  rfl

/-- Without an EVICT to answer nothing is answered, and no command comes again. -/
theorem State.answerEvict_idle {s : State} {ctx : Nat} {x : Ctx} (hx : s.ctx? ctx = some x) (he : x.evicts = [])
    (hr : x.evReply = none) (hb : s.backlog = []) : s.answerEvict ctx = s := by
  simp [State.answerEvict, hx, he, hr, State.releaseBacklog_nil hb]

/-- What the start of a launch must find as it was: the context's launch number and HEAD, and the lines with an uncorrectable
error. -/
def State.queueView (ctx : Nat) (s : State) : Option (Nat × Nat) × List Nat :=
  ((s.ctx? ctx).map (fun c => (c.number, c.head)), s.ecc)

section
variable (ctx : Nat)

theorem State.queueView_ctxWrite (s : State) (j : Nat) (tag : Option Bool) (va : Nat) (l : List Byte) :
    (s.ctxWrite j tag va l).queueView ctx = s.queueView ctx := by
  obtain ⟨d, n, h⟩ := State.ctxWrite_rest j tag l s va
  rw [h]
  rfl

theorem State.queueView_modCtx (s : State) (j : Nat) {f : Ctx → Ctx} (hn : ∀ c, (f c).number = c.number)
    (hh : ∀ c, (f c).head = c.head) : (s.modCtx j f).queueView ctx = s.queueView ctx := by
  have hecc : (s.modCtx j f).ecc = s.ecc := State.modCtx_keeps State.ecc (fun _ _ => rfl) s j f
  have hmap : (fun c : Ctx => (c.number, c.head)) ∘ f = fun c => (c.number, c.head) := funext fun c => by simp [hn, hh]
  simp only [State.queueView, hecc, State.ctx?_modCtx, Prod.mk.injEq, and_true]
  split
  · next h => rw [h, Option.map_map, hmap]
  · rfl

theorem State.queueView_clearPub (s : State) (j lo hi : Nat) : (s.clearPub j lo hi).queueView ctx = s.queueView ctx := by
  unfold State.clearPub
  split
  · rfl
  · refine foldl_keeps (State.queueView ctx) (fun s i => ?_) _ s
    dsimp only
    split
    · rfl
    · refine foldl_keeps (State.queueView ctx) ?_ _ s
      exact fun _ _ => rfl

theorem State.queueView_clearArena (s : State) (j base n : Nat) : (s.clearArena j base n).queueView ctx = s.queueView ctx := by
  refine foldl_keeps (State.queueView ctx) (fun s i => ?_) _ s
  split
  · rfl
  · exact State.queueView_ctxWrite ctx s _ _ _ _

theorem State.queueView_savePart (s : State) (j row part : Nat) (c : Ctx) :
    (s.savePart j row part c).queueView ctx = s.queueView ctx := by
  unfold State.savePart
  dsimp only
  rw [foldl_keeps (State.queueView ctx) (fun s e => State.queueView_ctxWrite ctx s _ _ _ _), State.queueView_ctxWrite]
  rfl

theorem State.queueView_yieldPart (s : State) (j row part : Nat) : (s.yieldPart j row part).queueView ctx = s.queueView ctx := by
  refine foldl_keeps (State.queueView ctx) (fun s x => ?_) _ s
  split
  · rfl
  · split
    · rfl
    · refine (State.queueView_modCtx ctx _ _ ?_ ?_).trans
        ((State.queueView_ctxWrite ctx _ _ _ _ _).trans (State.queueView_savePart ctx s _ _ _ _)) <;> exact fun _ => rfl

theorem State.queueView_seatRow (s : State) (j row part : Nat) (f : CtxRegs → CtxRegs) :
    (s.seatRow j row part f).queueView ctx = s.queueView ctx := by
  unfold State.seatRow
  split
  · rfl
  · refine (foldl_keeps (State.queueView ctx) ?_ _ _).trans ((State.queueView_modCtx ctx _ _ ?_ ?_).trans
      (State.queueView_yieldPart ctx s _ _ _)) <;> intros <;> rfl

end

/-- A logical core is set up: the contexts and the errors of memory stay. -/
theorem State.newLc_keeps (s : State) (j : Nat) (l : Launch) (i : Nat) :
    ((s.newLc j l i).ctxs, (s.newLc j l i).ecc) = (s.ctxs, s.ecc) := by
  unfold State.newLc State.syncExt
  dsimp only
  split
  · rfl
  · obtain ⟨d, n, h⟩ := State.ctxWrite_rest (lcCtx (lcKey j i)) none _ _ _
    rw [h]

/-- The launch as it becomes active: with its wake message (R49). -/
def Ctx.started (c : Ctx) (ctx : Nat) (l : Launch) (table : Word) : Launch :=
  { l with wake := wakeBytes ctx (c.number + 1) (c.area + c.off[0] + 256 * (c.head % 64)) table }

theorem State.activate_spec {s : State} {ctx : Nat} {c z : Ctx} {l : Launch} (va : Nat) (hz : s.ctx? ctx = some z)
    (hecc : s.ecc = [])
    (hroot : (List.range 6).any (fun a => boxClass l.root a != 0 && boxExt l.root a == 0) = false) :
    ∃ u y, s.activate ctx c l va = (State.posts u ((rowsOf l.remap).map (fun r => (16 * r, Instr.wakeMessage ctx)))).post ctx
        .launchEnd ∧ u.ctx? ctx = some y ∧
      y.launch = some (c.started ctx l (BitVec.ofNat 64 (if va = 0 then c.area + remapOff else va))) ∧
      y.number = z.number + 1 ∧ y.head = z.head := by
  generalize hr : s.activate ctx c l va = t
  unfold State.activate at hr
  extract_lets s1 s2 s3 table s4 s5 wake s6 s7 at hr
  have h1 : s1.queueView ctx = s.queueView ctx := by
    refine foldl_keeps (State.queueView ctx) (fun s t => ?_) _ s
    split
    · exact State.queueView_clearPub ctx s _ _ _
    · rfl
  have h2 : s2.queueView ctx = s.queueView ctx := (State.queueView_clearArena ctx s1 _ _ _).trans h1
  have h3 : s3.queueView ctx = s.queueView ctx := by
    refine Eq.trans ?_ h2
    show (if va = 0 then _ else s2).queueView ctx = _
    split
    · exact State.queueView_ctxWrite ctx s2 _ _ _ _
    · rfl
  have h5 : s5.queueView ctx = s.queueView ctx :=
    (foldl_keeps (State.queueView ctx) (fun s r => State.queueView_seatRow ctx s _ _ _ _) _ s3).trans h3
  simp only [State.queueView, hz, Option.map_some, hecc, Prod.mk.injEq, Option.map_eq_some_iff] at h5
  obtain ⟨⟨w, hw, hnum, hhead⟩, hecc5⟩ := h5
  have h6 : s6.ctx? ctx = some { w with launch := some { l with wake := wake }, number := w.number + 1, evicts := [] } := by
    refine (State.ctx?_modCtx s5 ctx ctx _).trans ?_
    rw [if_pos rfl, hw]
    rfl
  have h7 : (s7.ctxs, s7.ecc) = (s6.ctxs, s6.ecc) :=
    foldl_keeps (fun s => (s.ctxs, s.ecc)) (fun s i => State.newLc_keeps s ctx l i) _ s6
  obtain ⟨hctxs, hecc7⟩ := Prod.mk.inj h7
  have hno : l.desc.keeps.any (fun e => e.2.2 != 0 && s7.dieHit 0 ctx e.2.2 e.2.1) = false := by
    have hecc6 : s6.ecc = [] := (State.modCtx_keeps State.ecc (fun _ _ => rfl) s5 ctx _).trans hecc5
    simp [State.dieHit, hecc7, hecc6]
  rw [hroot, hno] at hr
  refine ⟨s7, _, hr.symm, (congrArg (Table.find · ctx) hctxs).trans h6, rfl, ?_, hhead⟩
  rw [← hnum]

/-! ### The next record of a queue (R43, R44) -/

section
variable {s : State} {x : Ctx} {l : Launch}

/-- The context has a record at the head of its queue whose turn has come: no launch, no eviction, nothing to answer. -/
def State.recordDue (s : State) (x : Ctx) : Prop :=
  s.ctx? s.cur = some x ∧ x.launch = none ∧ x.head ≠ x.tail ∧ x.evicts = [] ∧ x.evReply = none ∧ s.backlog = []

theorem State.takeQueue_ctx? (h : s.ctx? s.cur = some x) : (s.takeQueue s.cur).ctx? s.cur =
    some { x with head := (x.head + 1) % 2 ^ 32, ringConn := x.ringConn.drop 1 } := by
  rw [State.takeQueue, State.ctx?_modCtx, if_pos rfl, h]
  rfl

theorem exec_launchStart_invalid (h : s.recordDue x)
    (hbad : s.hbmReady = false ∨ s.parseLaunch s.cur (s.queueHead s.cur x) (x.ringConn.head?.getD 0) = none) :
    exec .launchStart s = .next (((s.takeQueue s.cur).notRun x (s.queueHead s.cur x) (x.ringConn.head?.getD 0) 3).post s.cur
      .launchStart) := by
  obtain ⟨hx, hl, hne, he, hr, hb⟩ := h
  have hp : (if s.hbmReady then s.parseLaunch s.cur (s.queueHead s.cur x) (x.ringConn.head?.getD 0) else none) = none := by
    rcases hbad with h | h <;> simp [h]
  rw [exec_launchStart]
  unfold execLaunchStart
  dsimp only
  rw [State.answerEvict_idle hx he hr hb, hx]
  dsimp only
  rw [if_neg (by simp [hl, hne]), if_neg (by simp [he]), hp]

theorem exec_launchStart_valid (h : s.recordDue x) (hready : s.hbmReady = true)
    (hp : s.parseLaunch s.cur (s.queueHead s.cur x) (x.ringConn.head?.getD 0) = some l) (hroom : s.startRoom x l = true) :
    exec .launchStart s = .next ((s.takeQueue s.cur).activate s.cur x l (leAt (s.queueHead s.cur x) 0x60 8)) := by
  obtain ⟨hx, hl, hne, he, hr, hb⟩ := h
  rw [exec_launchStart]
  unfold execLaunchStart
  dsimp only
  rw [State.answerEvict_idle hx he hr hb, hx]
  dsimp only
  rw [if_neg (by simp [hl, hne]), if_neg (by simp [he]), if_pos hready, hp]
  dsimp only
  rw [if_pos hroom]

theorem State.notRun_outbox (s : State) (c : Ctx) (b : List Byte) (conn status : Nat) :
    ∃ rest, (s.notRun c b conn status).outbox = s.outbox ++
      HostMsg.write (BitVec.ofNat 64 (leAt b 0x88 8)) (BitVec.ofNat 32 (leAt b 0x90 4))
        (cplBytes (BitVec.ofNat 64 (leAt b 8 8)) 0 status 0 s.now s.now 0 0 0 c.trapHead) :: rest :=
  ⟨_, List.append_assoc _ _ _⟩

/-- An invalid record completes BADREC (R43, R46). -/
theorem exec_launchStart_badrec (h : s.recordDue x)
    (hbad : s.hbmReady = false ∨ s.parseLaunch s.cur (s.queueHead s.cur x) (x.ringConn.head?.getD 0) = none) :
    let b := s.queueHead s.cur x
    ∃ t y, exec .launchStart s = .next t ∧ t.ctx? s.cur = some y ∧ y.launch = none ∧
      y.number = x.number ∧ y.head = (x.head + 1) % 2 ^ 32 ∧ ∃ rest, t.outbox = s.outbox ++
        HostMsg.write (BitVec.ofNat 64 (leAt b 0x88 8)) (BitVec.ofNat 32 (leAt b 0x90 4))
          (cplBytes (BitVec.ofNat 64 (leAt b 8 8)) 0 3 0 s.now s.now 0 0 0 x.trapHead) :: rest := by
  intro b
  have hnow : (s.takeQueue s.cur).now = s.now := State.modCtx_keeps State.now (fun _ _ => rfl) s _ _
  have hout : (s.takeQueue s.cur).outbox = s.outbox := State.modCtx_keeps State.outbox (fun _ _ => rfl) s _ _
  obtain ⟨rest, hrest⟩ := (s.takeQueue s.cur).notRun_outbox x b (x.ringConn.head?.getD 0) 3
  rw [hnow, hout] at hrest
  exact ⟨_, _, exec_launchStart_invalid h hbad, State.takeQueue_ctx? h.1, h.2.1, rfl, rfl, rest, hrest⟩

/-- A valid record becomes the active launch (R43, R44, R49). -/
theorem exec_launchStart_active (h : s.recordDue x) (hready : s.hbmReady = true)
    (hp : s.parseLaunch s.cur (s.queueHead s.cur x) (x.ringConn.head?.getD 0) = some l) (hroom : s.startRoom x l = true)
    (hecc : s.ecc = []) (hroot : (List.range 6).any (fun a => boxClass l.root a != 0 && boxExt l.root a == 0) = false) :
    let lva := leAt (s.queueHead s.cur x) 0x60 8
    ∃ t y, exec .launchStart s = .next t ∧ t.ctx? s.cur = some y ∧
      y.launch = some (x.started s.cur l (BitVec.ofNat 64 (if lva = 0 then x.area + remapOff else lva))) ∧
      y.number = x.number + 1 ∧ y.head = (x.head + 1) % 2 ^ 32 ∧
      ∀ r, r < 64 → l.remap.any (fun c => rowOf c == r) = true → (16 * r, Instr.wakeMessage s.cur) ∈ t.agenda := by
  intro lva
  have hecc' : (s.takeQueue s.cur).ecc = [] := (State.modCtx_keeps State.ecc (fun _ _ => rfl) s _ _).trans hecc
  obtain ⟨u, y, hu, hy, hl, hn, hh⟩ := State.activate_spec (c := x) (l := l) lva (State.takeQueue_ctx? h.1) hecc' hroot
  refine ⟨_, y, (exec_launchStart_valid h hready hp hroom).trans (congrArg _ hu), hy, hl, hn, hh, fun r hr hrow => ?_⟩
  rw [State.post_agenda, State.posts_agenda]
  refine List.mem_append_left _ (List.mem_append_right _ (List.mem_map.mpr ⟨r, ?_, rfl⟩))
  exact List.mem_filter.mpr ⟨List.mem_range.mpr hr, hrow⟩

end

/-! ### A free strand (R51, R85, R87) -/

/-- Stealing changes thieves, counters and the agenda. -/
theorem State.startSteal_strands (s : State) (k : Nat) :
    ((s.startSteal k).cur, (s.startSteal k).strands) = (s.cur, s.strands) := by
  unfold State.startSteal
  dsimp only
  split
  · rfl
  · exact State.count_keeps (p := fun s => (s.cur, s.strands)) (fun _ _ _ => rfl) _ _ _

theorem State.stealIdle_st (s : State) (core : Nat) : (s.stealIdle core).st = s.st := by
  have h : ((s.stealIdle core).cur, (s.stealIdle core).strands) = (s.cur, s.strands) := by
    refine foldl_keeps (fun s : State => (s.cur, s.strands)) (fun s j => ?_) _ s
    split
    · exact State.startSteal_strands s j
    · rfl
  obtain ⟨hcur, hstrands⟩ := Prod.mk.inj h
  simp only [State.st, State.strand, hcur, hstrands]

/-- A core with one logical core and no pending relay serves what that has ready. -/
theorem State.takeTurn_only {s : State} {k lck : Nat} {w : Work} (h : s.hostedBy (coreOf k) = [lck])
    (hr : (s.lc lck).relay = none) (hw : s.workOf lck = some w) : s.takeTurn k = s.takeWork k lck w := by
  have hrelay : ([lck] : List Nat).any (fun j => (s.lc j).relay.isSome) = false := by simp [hr]
  have hturn : (List.filter (fun j => decide ((s.core (coreOf k)).served < j)) [lck] ++
      List.filter (fun j => decide (j ≤ (s.core (coreOf k)).served)) [lck]) = [lck] := by
    by_cases hs : (s.core (coreOf k)).served < lck
    · simp [hs]
    · simp [hs, Nat.not_lt.mp hs]
  unfold State.takeTurn
  dsimp only
  rw [h, hrelay, if_neg (by decide), hturn, List.find?_cons_of_pos (by simp [hw])]
  dsimp only
  rw [hw]

/-- A record that is no relay, at the bottom of the deque, starts as a task. -/
theorem State.takeBottom_single {s : State} {k lck : Nat} {r : TaskRec} {rest : List DqItem} {l : Launch}
    (hd : (s.lc lck).hw = ⟨r, none⟩ :: rest) (hk : r.kind ≠ .cont) (hr : r.relay = 0) (hl : s.launch? (lcCtx lck) = some l) :
    s.takeBottom k lck = (s.modLc lck (fun l => { l with hw := dropNth l.hw 0 })).startTask k (taskOfRec lck r .record) := by
  have hl' : (s.modLc lck (fun l => { l with hw := dropNth l.hw 0 })).launch? (lcCtx lck) = some l := hl
  unfold State.takeBottom
  rw [State.popRec_head hd]
  dsimp only
  rw [State.pinCont_notCont _ _ hk]
  dsimp only
  rw [hl', if_neg (by simp), State.startRec, hl']
  simp only [Option.map_some, Option.getD_some, Launch.legsOf_single l hr, List.isEmpty_nil, if_true]

theorem exec_strandDispatch_begins {s : State} {k : Nat} {r : TaskRec} {l : Launch} (hm : isMgmt (coreOf s.cur) = false)
    (hp : (s.die (dieF (coreOf s.cur))).power = true) (hh : s.st.halted = false) (hph : s.st.phase = .free)
    (hk : s.hostedBy (coreOf s.cur) = [k]) (hrel : (s.lc k).relay = none) (hw : s.workOf k = some .deque)
    (hd : (s.lc k).hw.head? = some ⟨r, none⟩) (hkind : r.kind = .rule) (hok : r.hdrOk = true) (hr : r.relay = 0)
    (hf : r.foot = 0) (hq : r.req = false) (hl : s.launch? (lcCtx k) = some l) :
    ∃ t, exec .strandDispatch s = .next t ∧ t.st.begins k r := by
  obtain ⟨rest, hd⟩ := List.head?_eq_some_iff.mp hd
  have he : exec .strandDispatch s = .next (s.dispatchFree s.cur) := by
    rw [exec_strandDispatch]
    unfold execStrandDispatch
    dsimp only
    rw [if_neg (by simp [hm, hh, hp]), hph]
  refine ⟨_, he, ?_⟩
  have hserved : s.takeWork s.cur k .deque = (State.modCore s (coreOf s.cur) (fun c => { c with served := k })).takeBottom
    s.cur k := rfl
  rw [State.dispatchFree, State.stealIdle_st, State.takeTurn_only hk hrel hw, hserved,
    State.takeBottom_single (s := State.modCore s _ _) (l := l) (rest := rest) hd (by simp [hkind]) hr hl]
  exact State.startTask_begins (l := l) hl hkind hok hf hq

/-! ### Relays (R94) -/

/-- Two places of a list without repetitions that hold the same element are one. -/
theorem nth_inj {l : List Nat} (h : l.Nodup) {i j : Nat} (hi : i < l.length) (hj : j < l.length) (he : nth l i 0 = nth l j 0) :
    i = j := by
  simpa [nth, hi, hj, h.getElem_inj_iff] using he

theorem nth_take {l : List Nat} {n i : Nat} (h : i < n) : nth (l.take n) i 0 = nth l i 0 := by
  simp [nth, h]

theorem State.freeStrands_nodup (s : State) (core : Nat) : (s.freeStrands core).Nodup :=
  List.Nodup.filter _ (by simp)

/-- The task of a leg. -/
def legTask (lck : Nat) (r : TaskRec) (ks : List Nat) (i : Nat) : Task :=
  { taskOfRec lck r .record with leg := i, legs := ks }

/-- A strand that runs leg `j` of a relay on the strands `ks`. -/
def Strand.runsLeg (t : Strand) (pc : BitVec 32) (j : Nat) (ks : List Nat) : Prop :=
  t.phase = .running ∧ t.pc = pc.setWidth 64 ∧ t.task.map (fun (x : Task) => (x.leg, x.legs)) = some (j, ks)

theorem Strand.runsLeg_of_dispatched {t : Strand} {lck j : Nat} {r : TaskRec} {ks : List Nat} {pc : BitVec 32}
    (h : t.dispatched (legTask lck r ks j) pc) : t.runsLeg pc j ks := by
  obtain ⟨hph, hpc, -, ⟨c, tr, htask, -⟩, -⟩ := h
  exact ⟨hph, hpc, by rw [htask]; rfl⟩

/-- The legs take their strands, in order. -/
def State.seatLegs (s : State) (lck : Nat) (r : TaskRec) (legs : List (BitVec 32)) (ks : List Nat) (n : Nat) : State :=
  (List.range n).foldl (fun (s : State) i => s.seat (nth ks i 0) (legTask lck r ks i) (nth legs i 0)) s

theorem State.seatLegs_succ (s : State) (lck : Nat) (r : TaskRec) (legs : List (BitVec 32)) (ks : List Nat) (n : Nat) :
    s.seatLegs lck r legs ks (n + 1) =
      (s.seatLegs lck r legs ks n).seat (nth ks n 0) (legTask lck r ks n) (nth legs n 0) := by
  rw [State.seatLegs, List.range_succ, List.foldl_append]
  rfl

theorem State.seatLegs_runsLeg (s : State) (lck : Nat) (r : TaskRec) (legs : List (BitVec 32)) {ks : List Nat} (hks : ks.Nodup) :
    ∀ n, n ≤ ks.length → ∀ j, j < n →
      ((s.seatLegs lck r legs ks n).strand (nth ks j 0)).runsLeg (nth legs j 0) j ks := by
  intro n
  induction n with
  | zero => exact fun _ j hj => absurd hj (Nat.not_lt_zero j)
  | succ n ih =>
    intro hn j hj
    rw [State.seatLegs_succ]
    by_cases hjn : j = n
    · subst hjn
      exact Strand.runsLeg_of_dispatched (State.seat_dispatched _ _ _ _)
    · have hne : nth ks j 0 ≠ nth ks n 0 := fun h => hjn (nth_inj hks (by omega) (by omega) h)
      rw [State.seat, State.strand_modStrand, if_neg hne]
      exact ih (by omega) j (by omega)

/-- The strand of a leg once the relay's record is fitted; it has no frame. -/
def Strand.fittedLeg (t : Strand) (r : TaskRec) : Strand :=
  { t with br := t.br.set 0 r.box
           task := t.task.map (fun x => { x with tr := { x.tr with box := r.box, jref := r.jref }, frame := 0, frameLen := 0 }) }

theorem Strand.runsLeg_fittedLeg {t : Strand} {pc : BitVec 32} {j : Nat} {ks : List Nat} (h : t.runsLeg pc j ks) (r : TaskRec) :
    (t.fittedLeg r).runsLeg pc j ks := by
  obtain ⟨hph, hpc, htask⟩ := h
  exact ⟨hph, hpc, by rw [← htask, Strand.fittedLeg, Option.map_map]; rfl⟩

/-- A relay whose record is a rule without a footprint: its legs are seated, and the record is fitted on each strand. -/
theorem State.startRelay_rule (s : State) (lck : Nat) (l : Launch) {r : TaskRec} (legs : List (BitVec 32)) (ks : List Nat)
    (pre : Nat × Nat) (hk : r.kind = .rule) (hf : r.foot = 0) : s.startRelay lck l r legs ks pre =
      ks.foldl (fun (s : State) k => s.modStrand k (fun t => t.fittedLeg r))
        ((State.seatLegs (({ s with cur := nth ks 0 0 } : State).drain (dieF (coreOf (nth ks 0 0)))) lck r legs ks
          legs.length).count (coreOf (nth ks 0 0)) 0x07) := by
  have hn : l.frameOf r = 0 := l.frameOf_noFoot hf
  unfold State.startRelay
  dsimp only
  rw [State.fitRecord_notLeaf]
  case h => simp [taskOfRec, hk]
  dsimp only
  rw [show l.frameOf (taskOfRec lck r .record).tr = 0 from hn, if_pos rfl]
  rfl

/-- Every leg runs on its strand. -/
theorem State.startRelay_runsLeg (s : State) (lck : Nat) (l : Launch) {r : TaskRec} {legs : List (BitVec 32)} {ks : List Nat}
    (pre : Nat × Nat) (hk : r.kind = .rule) (hf : r.foot = 0) (hks : ks.Nodup) (hlen : legs.length ≤ ks.length) {j : Nat}
    (hj : j < legs.length) : ((s.startRelay lck l r legs ks pre).strand (nth ks j 0)).runsLeg (nth legs j 0) j ks := by
  rw [State.startRelay_rule s lck l legs ks pre hk hf]
  refine List.foldlRecOn (motive := fun u : State => (u.strand (nth ks j 0)).runsLeg (nth legs j 0) j ks) ks _ ?_ ?_
  · rw [State.strand_count]
    exact State.seatLegs_runsLeg _ lck r legs hks legs.length hlen j hj
  · intro u hu k _
    rw [State.strand_modStrand]
    split
    · next h => rw [← h]; exact Strand.runsLeg_fittedLeg hu r
    · exact hu

theorem State.seat_lcs (s : State) (k : Nat) (tk : Task) (pc : BitVec 32) : (s.seat k tk pc).lcs = s.lcs := rfl

theorem State.startRelay_lcs (s : State) (lck : Nat) (l : Launch) {r : TaskRec} (legs : List (BitVec 32)) (ks : List Nat)
    (pre : Nat × Nat) (hk : r.kind = .rule) (hf : r.foot = 0) : (s.startRelay lck l r legs ks pre).lcs = s.lcs := by
  rw [State.startRelay_rule s lck l legs ks pre hk hf]
  rw [foldl_keeps State.lcs (fun s k => State.modStrand_lcs s k _)]
  refine (State.count_keeps (p := State.lcs) (fun _ _ _ => rfl) _ _ _).trans ?_
  rw [State.seatLegs, foldl_keeps State.lcs (fun s i => s.seat_lcs _ _ _)]
  rfl

theorem LCore.nextRelay_relay (l : LCore) : l.nextRelay.relay = l.relays.head?.map (·.1) := by
  unfold LCore.nextRelay
  split <;> simp_all

theorem exec_relayStart_legs {s : State} {i : DqItem} {l : Launch} {legs : List (BitVec 32)}
    (hr : (s.lc s.cur).relay = some i) (hl : s.launch? (lcCtx s.cur) = some l) (hlegs : legs = l.legsOf i.tr) :
    let core := s.host (lcCtx s.cur) (lcLocal s.cur)
    let free := s.freeStrands core
    legs.length ≤ free.length → (s.die (dieF core)).power = true → i.tr.kind = .rule → i.tr.foot = 0 →
    ∃ t, exec .relayStart s = .next t ∧ (t.lc s.cur).relay = (s.lc s.cur).relays.head?.map (·.1) ∧ ∀ j, j < legs.length →
      (t.strand (nth free j 0)).runsLeg (nth legs j 0) j (free.take legs.length) := by
  intro core free hlen hp hk hf
  subst hlegs
  have he : exec .relayStart s = .next ((State.startRelay
      ((s.modLc s.cur LCore.nextRelay).setRelayBatons s.cur l (i.tr.relay.toNat - 1)) s.cur l i.tr (l.legsOf i.tr)
      (free.take (l.legsOf i.tr).length) (s.lc s.cur).rframe).wakeCore core) := by
    rw [exec_relayStart]
    unfold execRelayStart
    dsimp only
    rw [hr, hl]
    dsimp only
    rw [if_neg (fun h => h.elim (Nat.not_lt.mpr hlen) (by simp [core, hp]))]
  refine ⟨_, he, ?_, fun j hj => ?_⟩
  · have hlc : ∀ u : State, (u.wakeCore core).lc s.cur = u.lc s.cur :=
      fun u => State.wakeCore_keeps (p := fun u => u.lc s.cur) (fun _ _ _ => rfl) u core
    rw [hlc, State.lc, State.startRelay_lcs _ _ _ _ _ _ hk hf]
    refine (congrArg LCore.relay (State.lc_modLc_self _ s.cur _)).trans ?_
    show ((s.modLc s.cur LCore.nextRelay).lc s.cur).relay = _
    rw [State.lc_modLc_self, LCore.nextRelay_relay]
  · have hst : ∀ (u : State) k, (u.wakeCore core).strand k = u.strand k :=
      fun u k => State.wakeCore_keeps (p := fun u => u.strand k) (fun _ _ _ => rfl) u core
    rw [hst, ← nth_take hj]
    refine State.startRelay_runsLeg _ _ _ _ hk hf ?_ ?_ hj
    · exact (s.freeStrands_nodup core).sublist (List.take_sublist _ _)
    · simp [hlen]

/-- Settles O52: the start of a record is `State.activate_spec`, its end `State.endLaunch_outbox`; what a strand holds as it
begins is `State.seat_dispatched`, for a record and for each leg of a relay. -/
theorem launchLife : Obligations.LaunchLife := by
  intro s x l
  refine ⟨fun hx hl hne he hr hb => ⟨fun hready hp hroom hecc hroot => ?_, fun hbad => ?_⟩,
    fun hx hl hd => exec_launchEnd_done hx hl hd,
    fun c k hx hl hk hw hh => exec_wakeMessage_starts (State.launch?_eq_some.mpr ⟨x, hx, hl⟩) hk hw hh,
    fun k r hm hp hh hph hk hrel hw hd hkind hok hr hf hq hl => ?_, fun i legs hr hl hlegs _ => ?_⟩
  · exact exec_launchStart_active ⟨hx, hl, hne, he, hr, hb⟩ hready hp hroom hecc hroot
  · exact exec_launchStart_badrec ⟨hx, hl, hne, he, hr, hb⟩ hbad
  · obtain ⟨t, ht, hph, hpc, ⟨tk, htask, htr, hlc⟩, hregs⟩ :=
      exec_strandDispatch_begins hm hp hh hph hk hrel hw hd hkind hok hr hf hq hl
    exact ⟨t, tk, ht, hph, hpc, htask, htr, hlc, hregs⟩
  · exact exec_relayStart_legs hr hl hlegs

end Sys2Proof.Machine
end

section
/-! PROOF. A RESUME that meets an uncorrectable error in what it restores (R33, R39, R135, R175). -/
namespace Sys2Proof.Machine

/-- A command that nothing holds up and whose header passes runs (R32, R33). -/
theorem State.command_passes {s : State} {m : VcpMsg} {k : Conn} {code len : Nat} (own : Instr) (run : State → State)
    (hboot : s.boot.failed = 0) (hdef : s.deferred m = false) (hconn : s.conns.find m.conn = some k)
    (hcheck : s.vcpCheck m code len = 0) : s.command m own code len run = run s := by
  simp [State.command, hboot, hdef, hconn, hcheck]

/-- A RESUME on connection 5 that names every row of context 1. -/
def resumeAll : VcpMsg := ⟨5, 1, 7, 0, 1, 1, 8, 0, 0, List.replicate 8 0⟩

/-- A context with a launch, whose row 0 is evicted. -/
def savedCtx : Ctx :=
  { blankCtx with ttpa := placeL1, launch := some blankLaunch, evicts := [(0, ⟨6, 0, false, 0⟩)] }

/-- That context in a chip whose every function is ready. The line in which the save area holds the block of its logical
core 0 has an uncorrectable error. -/
def badSave : State :=
  let s := State.reset.place []
  { s with
    boot := { s.boot with ready0 := BitVec.allOnes 64, ready1 := BitVec.allOnes 64 }
    conns := [(5, ⟨false, 0, [1], 0, true⟩)]
    cur := 5
    ctxs := s.ctxs.set 1 savedCtx
    ecc := [placeCode + savedCtx.saveAt 0] }

/-- Nothing holds the RESUME up, and its header passes. -/
theorem badSave_accepts : badSave.boot.failed = 0 ∧ badSave.deferred resumeAll = false ∧
    badSave.conns.find resumeAll.conn = some ⟨false, 0, [1], 0, true⟩ ∧ badSave.vcpCheck resumeAll 7 8 = 0 := by
  decide +kernel

/-- The context is evicted from row 0 alone, which has a free partition and room for its static areas. -/
theorem badSave_canLoad : badSave.hbmReady = true ∧ badSave.ctx? resumeAll.ctxid = some savedCtx ∧
    (maskRows (leAt resumeAll.body 0 8) (List.range 64)).filter
      (fun r => ((savedCtx.evicts.find r).map (fun (e : Evict) => e.step == 6)).getD false) = [0] ∧
    badSave.freePart 0 = some 0 ∧ badSave.loadRoom resumeAll.ctxid 0 = true := by
  decide +kernel

/-- The restore ends the launch (R135): its completion record and the answer go out. -/
theorem badSave_sendsTwo : badSave.outbox = [] ∧ ((runResume resumeAll badSave).launch? 1).isNone = true ∧
    (runResume resumeAll badSave).outbox.length = 2 := by
  decide +kernel

/-- Refutes O47: its clause for RESUME of one row says that the answer is all that is sent, also where the save area has a
line with an uncorrectable error. In `badSave` the restore reads such a line and ends the launch, as R135 has it, so that
a completion record is sent as well; the statement lacks the premise that the restore meets no such line. -/
theorem not_hostCommands : ¬ Obligations.HostCommands := by
  intro h
  obtain ⟨hboot, hdef, hconn, hcheck⟩ := badSave_accepts
  obtain ⟨hready, hctx, hrows, hpart, hroom⟩ := badSave_canLoad
  obtain ⟨hempty, -, hsent⟩ := badSave_sendsTwo
  obtain ⟨-, -, -, -, -, -, -, -, -, -, -, -, -, -, -, -, -, -, -, hresume, -⟩ :=
    h badSave resumeAll _ savedCtx hboot hdef hconn rfl
  obtain ⟨-, hone⟩ := hresume hready
  obtain ⟨t, hexec, hanswer, -⟩ := hone 0 0 hrows hpart hroom hctx hcheck
  have hruns : exec (.resume resumeAll) badSave = .next (runResume resumeAll badSave) :=
    congrArg Host.Outcome.next (State.command_passes (.resume resumeAll) (runResume resumeAll) hboot hdef hconn hcheck)
  obtain rfl : runResume resumeAll badSave = t := Host.Outcome.next.inj (hruns.symm.trans hexec)
  simp [hanswer, hempty] at hsent

end Sys2Proof.Machine
end

section
/-! PROOF. Connections, the doorbell, and the host's reads and writes of memory (R24, R29, R30, R43, R135, R141, R158). -/
namespace Sys2Proof.Machine

/-! ### Connections (R29) -/

theorem exec_connectionAccept_new {s : State} {p : Bool} (hnew : s.conns.find s.cur = none) (hcur : s.cur < dropped)
    (hroom : (s.conns.filter (fun e => e.2.live && e.2.port == p)).length < 64) (hboot : s.boot.failed = 0)
    (hup : s.boot.ready1.getLsbD (if p then 33 else 32) = true) :
    exec (.connectionAccept p) s = .next { s with conns := s.conns.set s.cur ⟨p, 0, [], 0, true⟩ } := by
  refine if_neg ?_
  simp only [hnew, hboot, hup, Option.map_none, Option.getD_none, Bool.not_true, ne_eq, not_true_eq_false,
    Bool.false_eq_true, false_or, or_false]
  omega

/-- What belongs to a connection that drops passes to a number that no new connection takes. -/
theorem exec_connectionDrop_moves {s : State} {k : Conn} (hk : s.conns.find s.cur = some k) (hcur : s.cur < dropped) :
    ∃ n, dropped ≤ n ∧ exec .connectionDrop s = .next (s.moveConn s.cur n k) := by
  refine ⟨dropped + s.conns.countP (fun e => decide (dropped ≤ e.1)), Nat.le_add_right dropped _, ?_⟩
  simp only [exec_connectionDrop, execConnectionDrop, hk]
  exact if_neg (Nat.not_le.mpr hcur)

theorem State.moveConn_find (s : State) (k n j : Nat) (c : Conn) : (s.moveConn k n c).conns.find j =
    if j = n then some { c with live := false } else if j = k then none else s.conns.find j := by
  simp only [State.moveConn, Table.find_set, Table.find_erase]

/-- The completion of a launch goes where its connection went. -/
theorem State.moveConn_launch {s : State} {k n : Nat} (c : Conn) {e : Nat × Ctx} {l : Launch} (he : e ∈ s.ctxs)
    (hl : e.2.launch = some l) (hconn : l.conn = k) :
    ∃ y ∈ (s.moveConn k n c).ctxs, y.1 = e.1 ∧ y.2.launch = some { l with conn := n } := by
  refine ⟨_, List.mem_map_of_mem he, rfl, ?_⟩
  simp [hl, hconn]

/-- A status read is answered in recovery mode alone (R24). -/
theorem exec_recoveryStatusRead_eq (s : State) : exec .recoveryStatusRead s = .next (if s.boot.failed = 0 then s
    else { s with outbox := s.outbox ++ [HostMsg.bootStatus s.cur s.boot.failed] }) := by
  rw [exec_recoveryStatusRead, execRecoveryStatusRead]
  split <;> rfl

/-! ### The doorbell (R43) -/

@[simp] theorem State.emit_ctxs (s : State) (m : HostMsg) : (s.emit m).ctxs = s.ctxs := rfl
@[simp] theorem State.emit_ctx? (s : State) (m : HostMsg) (c : Nat) : (s.emit m).ctx? c = s.ctx? c := rfl
@[simp] theorem State.emit_agenda (s : State) (m : HostMsg) : (s.emit m).agenda = s.agenda := rfl
@[simp] theorem State.emit_outbox (s : State) (m : HostMsg) : (s.emit m).outbox = s.outbox ++ [m] := rfl

theorem bits_low32 (v : Word) : bits v 31 0 = v.toNat % 2 ^ 32 := rfl

theorem State.kick_eq (s : State) (c : Nat) : ∃ l, s.kick c = s.posts l := s.postOnce_eq c .launchStart

/-- The queue of the context is due to be looked at. -/
theorem State.mem_agenda_kick (s : State) (c : Nat) : (c, Instr.launchStart) ∈ (s.kick c).agenda := by
  unfold State.kick
  split
  · next h =>
    obtain ⟨⟨u, i⟩, hmem, he⟩ := List.any_eq_true.mp h
    obtain ⟨rfl, rfl⟩ : u = c ∧ i = .launchStart := by simpa using he
    exact hmem
  · simp

theorem exec_doorbellWrite_up {s : State} {c : Nat} {x : Ctx} (v : Word) (hup : s.connUp s.cur = true)
    (hx : s.ctx? c = some x) :
    exec (.doorbellWrite c v) s = .next ((s.doorbell s.cur c x (v.toNat % 2 ^ 32)).emit (.ack s.cur)) := by
  simp only [exec_doorbellWrite, execDoorbellWrite, hup, hx, bits_low32, Bool.not_true, Bool.false_eq_true, if_false]

theorem State.doorbell_moves {s : State} {c t0 : Nat} {x : Ctx} (k : Nat) (hx : s.ctx? c = some x)
    (hfit : (t0 + 2 ^ 32 - x.head) % 2 ^ 32 ≤ 64) (hahead : (t0 + 2 ^ 32 - x.tail) % 2 ^ 32 < 2 ^ 31) :
    ((s.doorbell k c x t0).ctx? c).map (·.tail) = some t0 ∧ (c, Instr.launchStart) ∈ (s.doorbell k c x t0).agenda ∧
      (s.doorbell k c x t0).outbox = s.outbox := by
  rw [State.doorbell, if_neg (not_or.mpr ⟨Nat.not_lt.mpr hfit, Nat.not_le.mpr hahead⟩)]
  refine ⟨?_, State.mem_agenda_kick _ c, ?_⟩
  all_goals obtain ⟨l, hl⟩ := State.kick_eq (s.modCtx c (fun c =>
    { c with tail := t0, ringConn := c.ringConn ++ List.replicate ((t0 + 2 ^ 32 - x.tail) % 2 ^ 32) k })) c
  · rw [hl]
    show ((State.modCtx _ c _).ctx? c).map _ = _
    rw [State.ctx?_modCtx, if_pos rfl, hx]
    rfl
  · rw [hl]
    exact State.modCtx_keeps State.outbox (fun _ _ => rfl) s c _

/-- A TAIL that passes 64 records or goes back leaves the queue and is told as QERR to each connection that has created a
context. -/
theorem State.doorbell_refused {s : State} {c t0 : Nat} {x : Ctx} (k : Nat) (hc : c ≠ 0)
    (hbad : 64 < (t0 + 2 ^ 32 - x.head) % 2 ^ 32 ∨ 2 ^ 31 ≤ (t0 + 2 ^ 32 - x.tail) % 2 ^ 32) :
    (s.doorbell k c x t0).ctxs = s.ctxs ∧ (s.doorbell k c x t0).outbox =
      s.outbox ++ (s.conns.filter (fun e => e.2.live && !e.2.created.isEmpty)).map (fun e =>
        HostMsg.send e.1 (s.eventBytes 5 c (e.2.events + 1) (bytesOfNat 8 t0 ++ bytesOfNat 8 x.head))) := by
  have h0 : (c == 0) = false := beq_false_of_ne hc
  rw [State.doorbell, if_pos hbad]
  exact ⟨rfl, by simp only [State.event, h0, Bool.false_or]⟩

/-! ### RDMA READ (R30, R135, R158) -/

theorem exec_hostRdmaRead_unreached {s : State} {rkey a n : Nat} (hup : s.connUp s.cur = true)
    (hr : s.reach rkey a n false = .none) : exec (.hostRdmaRead rkey a n) s = .next (s.emit (.remoteError s.cur)) := by
  simp [execHostRdmaRead, hup, hr]

theorem exec_hostRdmaRead_error {s : State} {rkey a n c : Nat} (hup : s.connUp s.cur = true)
    (hr : s.reach rkey a n false = .mem c) (hhit : s.hostHit c a n = true) :
    exec (.hostRdmaRead rkey a n) s = .next ((s.endLaunch c 1).emit (.remoteError s.cur)) := by
  simp [execHostRdmaRead, hup, hr, hhit]

theorem exec_hostRdmaRead_mem {s : State} {rkey a n c : Nat} (hup : s.connUp s.cur = true)
    (hr : s.reach rkey a n false = .mem c) (hhit : s.hostHit c a n = false) : exec (.hostRdmaRead rkey a n) s =
      .next (((s.hostRead c a n).ringRead c a n).emit (.data s.cur (s.hostBytes c a n))) := by
  simp [execHostRdmaRead, hup, hr, hhit]

/-- Trap records that a READ takes are noted in the table of contexts alone (R41). -/
theorem State.ringRead_keeps {α : Type} (p : State → α) (hp : ∀ s l, p { s with ctxs := l } = p s) (s : State)
    (c a n : Nat) : p (s.ringRead c a n) = p s := by
  unfold State.ringRead
  split
  · rfl
  · exact State.modCtx_keeps p hp s c _

/-- The parts of the state that hold the bytes of memory. -/
def State.stores (s : State) : Vector Die 4 × List Host.Cell × List Host.Cell × List Host.Cell :=
  (s.dies, s.ws, s.lds, s.opmem)

theorem State.sameMemory_of_stores {s t : State} (h : t.stores = s.stores) : s.sameMemory t := by
  simp only [State.stores, Prod.mk.injEq] at h
  obtain ⟨hdies, hws, hlds, hop⟩ := h
  simp [State.sameMemory, State.die, hdies, hws, hlds, hop]

theorem State.length_hostWords (s : State) (c a : Nat) {n : Nat} (hn : n ≠ 0) :
    (s.hostWords c a n).length = (a + n - 1) / 8 + 1 - a / 8 := by
  simp [State.hostWords, hn]

/-- Each word of a READ gives eight bytes, and those of the range are taken. -/
theorem State.length_hostBytes (s : State) (c a n : Nat) : (s.hostBytes c a n).length = n := by
  rw [State.hostBytes, List.length_take, List.length_drop, List.length_flatMap, List.sum_eq_card_nsmul _ 8]
  · rw [List.length_map, smul_eq_mul]
    by_cases hn : n = 0
    · simp [hn]
    · rw [s.length_hostWords c a hn]
      omega
  · intro i hi
    obtain ⟨⟨va, w⟩, -, rfl⟩ := List.mem_map.mp hi
    cases w with
    | none => rfl
    | some w => exact Mem.length_read _ 8 w.1

/-- A READ without an error answers with the bytes of its range and changes no memory (R158). -/
theorem exec_hostRdmaRead_answered {s : State} {rkey a n c : Nat} (hup : s.connUp s.cur = true)
    (hr : s.reach rkey a n false = .mem c) (hhit : s.hostHit c a n = false) :
    ∃ t d, exec (.hostRdmaRead rkey a n) s = .next t ∧ s.sameMemory t ∧ d.length = n ∧
      t.outbox = s.outbox ++ [HostMsg.data s.cur d] := by
  refine ⟨_, _, exec_hostRdmaRead_mem hup hr hhit, ?_, s.length_hostBytes c a n, ?_⟩
  · exact State.sameMemory_of_stores (State.ringRead_keeps State.stores (fun _ _ => rfl) (s.hostRead c a n) c a n)
  · exact congrArg (· ++ _) (State.ringRead_keeps State.outbox (fun _ _ => rfl) (s.hostRead c a n) c a n)

/-! ### RDMA WRITE (R22, R30, R141, R158) -/

theorem exec_hostRdmaWrite_unreached {s : State} {rkey a : Nat} {b : Byte} (hup : s.connUp s.cur = true)
    (hr : s.reach rkey a 1 true = .none) : exec (.hostRdmaWrite rkey a [b]) s = .next (s.emit (.remoteError s.cur)) := by
  simp [execHostRdmaWrite, hup, hr]

theorem exec_hostRdmaWrite_notReady {s : State} {rkey a c : Nat} {b : Byte} (hup : s.connUp s.cur = true)
    (hr : s.reach rkey a 1 true = .mem c) (hnot : s.hbmReady = false) :
    exec (.hostRdmaWrite rkey a [b]) s = .next (s.emit (.remoteError s.cur)) := by
  simp [execHostRdmaWrite, hup, hr, hnot]

theorem exec_hostRdmaWrite_mem {s : State} {rkey a c : Nat} {b : Byte} (hup : s.connUp s.cur = true)
    (hr : s.reach rkey a 1 true = .mem c) (hready : s.hbmReady = true) : exec (.hostRdmaWrite rkey a [b]) s =
      .next (((s.ctxWrite c none a [b]).retestRange c a 1).emit (.ack s.cur)) := by
  simp [execHostRdmaWrite, hup, hr, hready]

theorem State.retestPool_eq (s : State) (c : Nat) (ea : Word) : ∃ l, s.retestPool c ea = s.posts l := ⟨_, rfl⟩

/-- The waits on a range are tested again by posts alone. -/
theorem State.retestRange_eq (s : State) (c a n : Nat) : ∃ l, s.retestRange c a n = s.posts l := by
  unfold State.retestRange
  refine List.foldlRecOn (motive := fun t : State => ∃ l, t = s.posts l) _ _ ⟨[], by simp [State.posts]⟩ ?_
  rintro t ⟨l, rfl⟩ i -
  obtain ⟨l', h⟩ := State.retestPool_eq (s.posts l) c (BitVec.ofNat 64 ((a / 8 + i) * 8))
  exact ⟨l ++ l', by rw [h]; simp [State.posts]⟩

theorem State.ctxWrite_byte {s : State} {c a : Nat} {y : Xl} (tag : Option Bool) (b : Byte) (hy : s.ctxWalk c a = some y)
    (hone : y.replica = false) : s.ctxWrite c tag a [b] = s.gwriteAll (y.pa 0) [b] tag := by
  simp [State.ctxWrite, hy, hone]

theorem splitPend_quiet {ws : List Nat} {l : List PWrite} (h : ∀ w ∈ l, w.meets ws = false) : splitPend ws l = ([], l) := by
  induction l with
  | nil => rfl
  | cons w l ih =>
    obtain ⟨hw, hl⟩ := List.forall_mem_cons.mp h
    simp [splitPend, ih hl, hw]

/-- A view to which no write to some words is on its way has nothing to catch up on. -/
theorem View.catchUp_quiet {v : View} {ws : List Nat} (h : ∀ w ∈ v.pend, w.meets ws = false) : v.catchUp ws = v := by
  simp [View.catchUp, splitPend_quiet h]

/-- A byte performed on all four dies (R158). -/
theorem State.gwriteAll_byte {s : State} {pa : Nat} {d : Fin 4} (b : Byte) (tag : Option Bool) (hq : s.quietAt d pa 1)
    (z : Nat) : Mem.get ((s.gwriteAll pa [b] tag).die d).view.cells z =
      if z = pa then b else Mem.get (s.die d).view.cells z := by
  have hv : ((s.gwriteAll pa [b] tag).die d).view = (s.die d).view.apply (s.stamp + 1) pa [b] tag := by
    have h := View.catchUp_quiet (v := (s.die d).view) hq
    simp only [State.die, Fin.getElem_fin] at h ⊢
    simp [State.gwriteAll, h]
  rw [hv]
  exact Mem.get_set _ pa b z

/-- A byte that the host writes to a page without copies is acknowledged, and every die then has it (R141, R158). -/
theorem exec_hostRdmaWrite_performed {s : State} {rkey a c : Nat} {b : Byte} {y : Xl} (hup : s.connUp s.cur = true)
    (hr : s.reach rkey a 1 true = .mem c) (hready : s.hbmReady = true) (hy : s.ctxWalk c a = some y)
    (hone : y.replica = false) (hq : ∀ d, s.quietAt d (y.pa 0) 1) :
    ∃ t, exec (.hostRdmaWrite rkey a [b]) s = .next t ∧ t.outbox = s.outbox ++ [HostMsg.ack s.cur] ∧
      ∀ d z, Mem.get (t.die d).view.cells z = if z = y.pa 0 then b else Mem.get (s.die d).view.cells z := by
  refine ⟨_, exec_hostRdmaWrite_mem hup hr hready, ?_⟩
  rw [State.ctxWrite_byte none b hy hone]
  obtain ⟨l, hl⟩ := State.retestRange_eq (s.gwriteAll (y.pa 0) [b] none) c a 1
  rw [hl]
  exact ⟨rfl, fun d z => State.gwriteAll_byte b none (hq d) z⟩

/-- Settles O48: a dropped connection passes to a number of its own (`exec_connectionDrop_moves`), the doorbell is decided
by its two checks, an RDMA READ by what its range reaches and meets, and an RDMA WRITE is `State.gwriteAll_byte` on each
die. -/
theorem hostAccess : Obligations.HostAccess := by
  intro s p k x c rkey a n v b
  refine ⟨fun hnew hcur hroom hboot hup => exec_connectionAccept_new hnew hcur hroom hboot hup, fun hk hcur => ?_,
    exec_recoveryStatusRead_eq s, fun hup => ⟨fun hx => ⟨fun hfit hahead => ?_, fun hbad hc => ?_⟩,
      exec_hostRdmaRead_unreached hup, fun hr hhit => ?_, exec_hostRdmaRead_answered hup,
      exec_hostRdmaWrite_unreached hup, exec_hostRdmaWrite_notReady hup,
      fun y hr hready hy hone hq => exec_hostRdmaWrite_performed hup hr hready hy hone hq⟩⟩
  · obtain ⟨n, hn, hexec⟩ := exec_connectionDrop_moves hk hcur
    have hne : s.cur ≠ n := Nat.ne_of_lt (Nat.lt_of_lt_of_le hcur hn)
    refine ⟨_, n, hexec, ?_, hn, ?_, fun e he l hl hconn => State.moveConn_launch k he hl hconn, rfl, rfl⟩
    · rw [State.moveConn_find, if_neg hne, if_pos rfl]
    · rw [State.moveConn_find, if_pos rfl]
  · obtain ⟨htail, hagenda, hout⟩ := State.doorbell_moves s.cur hx hfit hahead
    refine ⟨_, exec_doorbellWrite_up v hup hx, ?_⟩
    rw [State.emit_ctx?, State.emit_agenda, State.emit_outbox, hout]
    exact ⟨htail, hagenda, rfl⟩
  · obtain ⟨hctxs, hout⟩ := State.doorbell_refused (s := s) s.cur hc hbad
    refine ⟨_, exec_doorbellWrite_up v hup hx, ?_⟩
    rw [State.emit_ctxs, State.emit_outbox, hout]
    exact ⟨hctxs, rfl⟩
  · refine ⟨_, exec_hostRdmaRead_error hup hr hhit, ?_⟩
    exact (State.launch?_endLaunch s c 1 c).trans (if_pos rfl)

end Sys2Proof.Machine
end

section
/-! SUPPORT. How a blocking instruction ends (R95, R166 to R171): what it writes, and what the tests of its wait answer. -/
namespace Sys2Proof.Machine

/-! ### The strand that completes -/

@[simp] theorem Strand.dlResult_pc (t : Strand) (code : Nat) : (t.dlResult code).pc = t.pc := by
  unfold Strand.dlResult; split_ifs <;> rfl
@[simp] theorem Strand.dlResult_wait (t : Strand) (code : Nat) : (t.dlResult code).wait = t.wait := by
  unfold Strand.dlResult; split_ifs <;> rfl
@[simp] theorem Strand.dlResult_task (t : Strand) (code : Nat) : (t.dlResult code).task = t.task := by
  unfold Strand.dlResult; split_ifs <;> rfl
@[simp] theorem Strand.dlResult_rS (t : Strand) (code : Nat) (r : SReg) : (t.dlResult code).rS r = t.rS r := by
  unfold Strand.dlResult; split_ifs <;> rfl
@[simp] theorem Strand.wS_wait (t : Strand) (d : SReg) (v : Word) : (t.wS d v).wait = t.wait := by
  unfold Strand.wS; split <;> rfl
@[simp] theorem Strand.wS_task (t : Strand) (d : SReg) (v : Word) : (t.wS d v).task = t.task := by
  unfold Strand.wS; split <;> rfl

@[simp] theorem State.st_count (s : State) (core code : Nat) : (s.count core code).st = s.st :=
  State.count_keeps (p := State.st) (fun _ _ _ => rfl) s core code

/-- Ending a wait changes the wait, when the strand may issue again, and the cycles that its task has waited. -/
theorem State.st_unblock (s : State) : ∃ r task, s.unblock.st = { s.st with wait := none, readyAt := r, task := task } ∧
    task.map (·.effects) = s.st.task.map (·.effects) := by
  unfold State.unblock
  rw [State.st_mod]
  split
  · next h => exact ⟨s.st.readyAt, s.st.task, by rw [← h], rfl⟩
  · exact ⟨_, _, rfl, by simp [Function.comp_def]⟩

/-- `t` is a state in which the instruction of the current strand of `s` has completed with `v` in D. -/
def State.completed (s t : State) (d : SReg) (v : Word) : Prop :=
  t.st.pc = s.st.pc + 8 ∧ (d ≠ 0 → t.rS d = v) ∧ t.st.wait = none

theorem State.completed_count {s t : State} {d : SReg} {v : Word} (core code : Nat) (h : s.completed t d v) :
    s.completed (t.count core code) d v := by
  simpa [State.completed, State.rS] using h

/-- The strand at the end of a blocking instruction. -/
theorem State.st_blockEnd (s : State) (d : SReg) (code detail : Nat) :
    ((s.unblock.statusB d code detail).adv 8).st =
      { (s.unblock.st.wS d (statusWord code detail)).dlResult code with pc := s.unblock.st.pc + 8 } := by
  simp [State.statusB]

theorem State.completed_blockEnd {s t : State} (d : SReg) (code detail : Nat) (h : t.st.pc = s.st.pc) :
    s.completed ((t.unblock.statusB d code detail).adv 8) d (statusWord code detail) := by
  obtain ⟨r, task, hst, -⟩ := t.st_unblock
  unfold State.completed State.rS
  rw [State.st_blockEnd, hst]
  refine ⟨by simp [h], fun hd => ?_, by simp⟩
  show Strand.rS (Strand.dlResult _ code) d = _
  simp [Strand.rS_wS, hd]

theorem State.effects_blockEnd (s : State) (d : SReg) (code detail : Nat) :
    ((s.unblock.statusB d code detail).adv 8).st.task.map (·.effects) = s.st.task.map (·.effects) := by
  obtain ⟨r, task, hst, heffects⟩ := s.st_unblock
  rw [State.st_blockEnd, hst]
  simpa using heffects

/-! ### The tests of a wait -/

section
variable {s u t : State} {i : Instr} {d : SReg} {dl : Nat} {cond : State → Option (Nat × Nat × State)}
  {late : State → Nat × Nat × State} {code detail : Nat}

/-- A test that finds the condition completes the instruction. -/
theorem State.blocking_completes (p : Poll) (h : cond u = some (code, detail, t)) (hpc : t.st.pc = s.st.pc) :
    s.completed (u.blocking p i d dl cond late) d (statusWord code detail) := by
  rw [State.blocking_some h]
  exact State.completed_blockEnd d code detail hpc

/-- The deadline completes it with the status that it leaves. -/
theorem State.blocking_expires (h : cond u = none) (hl : late u = (code, detail, t)) (hpc : t.st.pc = s.st.pc) :
    s.completed (u.blocking .expire i d dl cond late) d (statusWord code detail) := by
  have done := State.completed_blockEnd d code detail hpc
  by_cases hc : code = sTIMEOUT
  · simpa [State.blocking, h, hl, hc] using State.completed_count (coreOf u.cur) 0x11 (hc ▸ done)
  · simpa [State.blocking, h, hl, hc] using done

/-- The detail of an EVICT (R171; log 42). -/
def evictDetail (i : Instr) (detail : Nat) : Nat := if ownEvict i ∨ detail % 2 = 1 then detail else detail + 1

theorem evictDetail_own {i : Instr} (h : ownEvict i = true) (detail : Nat) : evictDetail i detail = detail := if_pos (.inl h)

/-- The eviction bound completes it with EVICT. -/
theorem State.blocking_evicts (h : cond u = none) (hl : late u = (code, detail, t)) (hpc : t.st.pc = s.st.pc) :
    s.completed (u.blocking .bound i d dl cond late) d (statusWord sEVICT (evictDetail i detail)) := by
  have h1 : (Poll.bound == Poll.expire) = false := rfl
  have h2 : (Poll.bound == Poll.issue) = false := rfl
  simpa [State.blocking, h, hl, h1, h2, evictDetail] using
    State.completed_count (coreOf u.cur) 0x12 (State.completed_blockEnd d sEVICT (evictDetail i detail) hpc)

end

/-! ### The steps that end a wait -/

section
variable {s t : State} {w : Wait}

theorem exec_waitSatisfied_tested (hw : s.st.wait = some w) :
    exec .waitSatisfied s = s.orTrap (s.retest .again w.instr) := by
  simp [execWaitSatisfied, hw]

theorem exec_deadlineExpiry_due (hw : s.st.wait = some w) (hl : w.limit ≤ s.now) :
    exec .deadlineExpiry s = s.orTrap (s.retest .expire w.instr) := by
  simp [execDeadlineExpiry, hw, hl]

theorem exec_deadlineExpiry_early (hw : s.st.wait = some w) (hl : s.now < w.limit) : exec .deadlineExpiry s = .next s := by
  simp [execDeadlineExpiry, hw, Nat.not_le.mpr hl]

theorem exec_evictionBound_due {z : Nat} (hw : s.st.wait = some w) (hb : s.evBound s.cur = some z) (hz : z ≤ s.now) :
    exec .evictionBound s = s.orTrap (s.retest .bound w.instr) := by
  simp [execEvictionBound, hw, hb, hz]

end

/-- The step `i` completes the instruction that the current strand waits in, with `v` in D. -/
def State.endsWith (s : State) (d : SReg) (i : Instr) (v : Word) : Prop := ∃ t, exec i s = .next t ∧ s.completed t d v

/-- The wait ends with OK, also at its deadline (R166). -/
def State.waitMet (s : State) (w : Wait) (d : SReg) (detail : Nat) : Prop :=
  s.endsWith d .waitSatisfied (statusWord sOK detail) ∧
    (w.limit ≤ s.now → s.endsWith d .deadlineExpiry (statusWord sOK detail))

/-- The wait ends with `late` at its deadline, and with EVICT at the eviction bound (R166, R171). -/
def State.waitUnmet (s : State) (w : Wait) (d : SReg) (late detail gone : Nat) : Prop :=
  (w.limit ≤ s.now → s.endsWith d .deadlineExpiry (statusWord late detail)) ∧
    ∀ z, s.evBound s.cur = some z → z ≤ s.now → s.endsWith d .evictionBound (statusWord sEVICT gone)

section
variable {s u t : State} {w : Wait} {i : Instr} {d : SReg} {dl : Nat} {cond : State → Option (Nat × Nat × State)}
  {late : State → Nat × Nat × State} {code detail : Nat}

theorem State.waitMet_of (hw : s.st.wait = some w)
    (hr : ∀ p, p ≠ .issue → s.retest p w.instr = .ok (u.blocking p i d dl cond late))
    (hc : cond u = some (sOK, detail, t)) (hpc : t.st.pc = s.st.pc) : s.waitMet w d detail :=
  ⟨⟨_, by rw [exec_waitSatisfied_tested hw, hr _ (by decide)]; rfl, State.blocking_completes _ hc hpc⟩, fun hl =>
    ⟨_, by rw [exec_deadlineExpiry_due hw hl, hr _ (by decide)]; rfl, State.blocking_completes _ hc hpc⟩⟩

theorem State.waitUnmet_of (hw : s.st.wait = some w)
    (hr : ∀ p, p ≠ .issue → s.retest p w.instr = .ok (u.blocking p i d dl cond late))
    (hc : cond u = none) (hl : late u = (code, detail, t)) (hpc : t.st.pc = s.st.pc) {gone : Nat}
    (hg : evictDetail i detail = gone) : s.waitUnmet w d code detail gone := by
  subst hg
  exact ⟨fun hd => ⟨_, by rw [exec_deadlineExpiry_due hw hd, hr _ (by decide)]; rfl, State.blocking_expires hc hl hpc⟩,
    fun _ hb hz => ⟨_, by rw [exec_evictionBound_due hw hb hz, hr _ (by decide)]; rfl, State.blocking_evicts hc hl hpc⟩⟩

end

end Sys2Proof.Machine
end

section
/-! SUPPORT. Counters of events, posts and strands aside, a state reads its memory as before (R28, R134, R135, R138). -/
namespace Sys2Proof.Machine

/-- `t` is `s` with other counts of events on its dies, other steps posted and other strands, of which the current one
keeps its pc: what the reads of an instruction leave behind before its body goes on. -/
def State.readsAs (s t : State) : Prop :=
  (∃ d a r, t = { s with dies := d, agenda := a, strands := r }) ∧
    (∀ e, (t.die e).view = (s.die e).view ∧ (t.die e).tlb = (s.die e).tlb) ∧ t.st.pc = s.st.pc

theorem State.readsAs_refl (s : State) : s.readsAs s := ⟨⟨_, _, _, rfl⟩, fun _ => ⟨rfl, rfl⟩, rfl⟩

theorem State.readsAs_trans {s t u : State} (h : s.readsAs t) (h' : t.readsAs u) : s.readsAs u := by
  obtain ⟨⟨d, a, r, rfl⟩, hdie, hpc⟩ := h
  obtain ⟨⟨d', a', r', rfl⟩, hdie', hpc'⟩ := h'
  exact ⟨⟨d', a', r', rfl⟩, fun e => ⟨(hdie' e).1.trans (hdie e).1, (hdie' e).2.trans (hdie e).2⟩, hpc'.trans hpc⟩

/-- What every step of a fold leaves readable, the fold does. -/
theorem State.readsAs_foldl {α : Type} {f : State → α → State} (h : ∀ (s : State) x, s.readsAs (f s x)) (l : List α) :
    ∀ s : State, s.readsAs (l.foldl f s) := by
  induction l with
  | nil => exact State.readsAs_refl
  | cons x l ih => exact fun s => State.readsAs_trans (h s x) (ih _)

theorem State.readsAs_posts (s : State) (l : List (Nat × Instr)) : s.readsAs (s.posts l) :=
  ⟨⟨_, _, _, rfl⟩, fun _ => ⟨rfl, rfl⟩, rfl⟩

theorem State.readsAs_mod (s : State) {f : Strand → Strand} (h : ∀ t, (f t).pc = t.pc) : s.readsAs (s.mod f) :=
  ⟨⟨_, _, _, rfl⟩, fun _ => ⟨rfl, rfl⟩, by rw [State.st_mod, h]⟩

theorem State.readsAs_modDie (s : State) (d : Fin 4) {f : Die → Die} (h : ∀ x, (f x).view = x.view ∧ (f x).tlb = x.tlb) :
    s.readsAs (s.modDie d f) := by
  refine ⟨⟨_, _, _, rfl⟩, fun e => ?_, rfl⟩
  rw [State.die_modDie]
  split
  · next he => rw [he]; exact h _
  · exact ⟨rfl, rfl⟩

theorem State.readsAs_countEv (s : State) (d : Fin 4) (code row n : Nat) : s.readsAs (s.countEv d code row n) := by
  unfold State.countEv State.countBy
  refine State.readsAs_trans (State.readsAs_modDie s d ?_) (State.readsAs_posts _ _)
  exact fun _ => ⟨rfl, rfl⟩

theorem State.readsAs_count (s : State) (core code : Nat) : s.readsAs (s.count core code) := by
  unfold State.count
  split
  · exact s.readsAs_refl
  · exact s.readsAs_countEv _ _ _ _

/-- The pages that an access touches are counted, and their walks posted. -/
theorem State.readsAs_touch (s : State) (w : Who) (ea : Word) (n : Nat) : s.readsAs (s.touch w ea n) := by
  unfold State.touch
  split
  · exact s.readsAs_refl
  · refine State.readsAs_foldl (fun s p => ?_) _ s
    dsimp only
    split
    · exact s.readsAs_refl
    · refine State.readsAs_trans ?_ (State.readsAs_posts _ [_])
      split
      · exact s.readsAs_count _ _
      · exact State.readsAs_trans (s.readsAs_count _ _) (State.readsAs_countEv _ _ _ _ _)

/-- A body whose reads of the weight store meet no refreshing bank goes on. -/
theorem State.afterStall_free {s : State} {lines : List Nat} (h : s.stalls lines = none) :
    ∃ u, s.readsAs u ∧ ∀ f, s.afterStall lines f = f u := by
  by_cases hl : lines.isEmpty
  · exact ⟨s, s.readsAs_refl, fun f => by simp [State.afterStall, h, hl]⟩
  · refine ⟨(s.mod (fun t => { t with stall := none })).countEv (dieF (coreOf s.cur)) 0x20 0 lines.length,
      State.readsAs_trans (s.readsAs_mod (f := fun t => { t with stall := none }) fun _ => rfl) (State.readsAs_countEv _ _ _ _ _), fun f => ?_⟩
    simp [State.afterStall, h, hl]

theorem State.unlessEcc_free (s : State) (w : Who) (r : Except TrapInfo State) : s.unlessEcc w false r = r := rfl

section
variable {s t : State} (h : s.readsAs t)
include h

theorem State.readsAs_pc : t.st.pc = s.st.pc := by
  obtain ⟨-, -, hpc⟩ := h
  exact hpc

theorem State.readsAs_view (e : Fin 4) : (t.die e).view = (s.die e).view := by
  obtain ⟨-, hdie, -⟩ := h
  exact (hdie e).1

theorem State.readsAs_tlb (e : Fin 4) : (t.die e).tlb = (s.die e).tlb := by
  obtain ⟨-, hdie, -⟩ := h
  exact (hdie e).2

theorem State.readsAs_baseTlb : t.baseTlb = s.baseTlb := by
  obtain ⟨⟨d, a, r, rfl⟩, -, -⟩ := h
  rfl

theorem State.readsAs_gread : t.gread = s.gread := by
  funext d pa n
  simp only [State.gread, State.readsAs_view h]

theorem State.readsAs_tagged (d : Fin 4) (a : Nat) : t.tagged d a = s.tagged d a := by
  simp only [State.tagged, State.readsAs_view h]

theorem State.readsAs_core (c : Nat) : t.core c = s.core c := by
  obtain ⟨⟨d, a, r, rfl⟩, -, -⟩ := h
  rfl

theorem State.readsAs_ecc : t.ecc = s.ecc := by
  obtain ⟨⟨d, a, r, rfl⟩, -, -⟩ := h
  rfl

theorem State.readsAs_walk (d : Fin 4) (tt va : Nat) : t.walk d tt va = s.walk d tt va := by
  simp only [State.walk, State.readsAs_gread h]

theorem State.readsAs_xlateIn (l : List TlbEnt) (c ctx va : Nat) : t.xlateIn l c ctx va = s.xlateIn l c ctx va := by
  simp only [State.xlateIn, State.regs, State.readsAs_walk h, State.readsAs_core h]

theorem State.readsAs_xl (w : Who) (va : Nat) : t.xl w va = s.xl w va := by
  simp only [State.xl, State.xlateBy, State.xlate, State.readsAs_xlateIn h, State.readsAs_core h, State.readsAs_baseTlb h,
    State.readsAs_tlb h]

theorem State.readsAs_ldByte (w : Who) (ea : Word) : t.ldByte w ea = s.ldByte w ea := by
  have hstore : t.ws = s.ws ∧ t.lds = s.lds ∧ ∀ o, t.ldsPhys w o = s.ldsPhys w o := by
    obtain ⟨⟨d, a, r, rfl⟩, -, -⟩ := h
    exact ⟨rfl, rfl, fun _ => rfl⟩
  obtain ⟨hws, hlds, hphys⟩ := hstore
  simp only [State.ldByte, State.readsAs_xl h, State.readsAs_view h, hws, hlds, hphys]

/-- A load reads the same bytes. -/
theorem State.readsAs_ldNat (w : Who) (ea : Word) (n : Nat) : t.ldNat w ea n = s.ldNat w ea n := by
  have bytes : ∀ (n : Nat) (ea : Word), t.ldBytes w ea n = s.ldBytes w ea n := by
    intro n
    induction n with
    | zero => exact fun _ => rfl
    | succ n ih => intro ea; simp only [State.ldBytes, State.readsAs_ldByte h, ih]
  simp only [State.ldNat, bytes]

theorem State.readsAs_ldwReady (w : Who) (ea : Word) : t.ldwReady w ea = s.ldwReady w ea := by
  simp only [State.ldwReady, State.readsAs_xl h, State.readsAs_tagged h]

theorem State.readsAs_walkBad (d : Fin 4) (tt va : Nat) : t.walkBad d tt va = s.walkBad d tt va := by
  have hbad : t.badLine = s.badLine := funext fun pa => by simp only [State.badLine, State.readsAs_ecc h]
  simp only [State.walkBad, State.walkReads, State.readsAs_gread h, State.readsAs_ecc h, hbad]

theorem State.readsAs_walkHit (m : Mmu) (c ctx va : Nat) : t.walkHit m c ctx va = s.walkHit m c ctx va := by
  simp only [State.walkHit, State.regs, State.readsAs_walkBad h, State.readsAs_core h, State.readsAs_ecc h,
    State.readsAs_baseTlb h, State.readsAs_tlb h]

/-- A read meets the same uncorrectable errors. -/
theorem State.readsAs_eccHit (w : Who) (ea : Word) (n : Nat) : t.eccHit w ea n = s.eccHit w ea n := by
  have hwalk : t.walkHit w.mmu w.core w.ctx = s.walkHit w.mmu w.core w.ctx :=
    funext fun va => State.readsAs_walkHit h _ _ _ va
  simp only [State.eccHit, State.tableHit, State.badLine, State.readsAs_xl h, State.readsAs_ecc h, hwalk]

/-- The unlayer tests a pool entry alike. -/
theorem State.readsAs_poolMet (k : Nat) (tr : TaskRec) : t.poolMet k tr = s.poolMet k tr := by
  have hwho : t.poolWho k tr = s.poolWho k tr := by
    obtain ⟨⟨d, a, r, rfl⟩, -, -⟩ := h
    rfl
  simp only [State.poolMet, hwho, State.readsAs_ldNat h]

end

end Sys2Proof.Machine
end

section
/-! PROOF. The ends of waits, of pool entries and of a BUDGET (R89, R95, R154, R166, R171, R254, R255, R258, R291, R327,
R332). -/
namespace Sys2Proof.Machine

/-! ### MWAIT and EWAIT (R327, R332) -/

/-- The oldest operation of the tensor core of the current strand that is not cancelled. -/
def State.oldestOp (s : State) : Option MxOp := s.ops.find? (fun o => o.of s.cur && !o.cancel)

theorem mwaitCond_idle {s : State} (hrep : s.st.mxRep = []) (ho : s.oldestOp = none) : mwaitCond s = some (sOK, 0, s) := by
  unfold State.oldestOp at ho
  simp only [mwaitCond, hrep, ho]

theorem mwaitCond_running {s : State} {o : MxOp} (hrep : s.st.mxRep = []) (ho : s.oldestOp = some o) (hstop : o.stop = none) :
    mwaitCond s = none := by
  unfold State.oldestOp at ho
  simp only [mwaitCond, hrep, ho, hstop]

/-- What EWAIT finds of a command (R332). -/
def ewaitCond (c : Cmd) (s : State) : Option (Nat × Nat × State) :=
  if c.st = 2 then
    (if c.final = sOK then some (sOK, 0, s.drain (dieF (coreOf s.cur)))
     else some (c.final, c.fva.toNat % 2 ^ 48 + c.reason * 2 ^ 48, s))
  else none

section
variable {s : State} {w : Wait} {g : Guard} {d l : SReg}

theorem retest_mwait (p : Poll) (hi : w.instr = .mwait g d l) :
    s.retest p w.instr = .ok (s.blocking p (.mwait g d l) d (s.deadline l) mwaitCond (fun s => (sTIMEOUT, s.mwDetail 0 0, s))) := by
  rw [hi]; rfl

/-- With nothing unended MWAIT ends OK. -/
theorem mwait_met (hw : s.st.wait = some w) (hi : w.instr = .mwait g d l) (hrep : s.st.mxRep = []) (ho : s.oldestOp = none) :
    s.waitMet w d 0 :=
  State.waitMet_of hw (fun p _ => retest_mwait p hi) (mwaitCond_idle hrep ho) rfl

/-- An op that goes on is waited for; the detail is PEND. -/
theorem mwait_unmet {o : MxOp} (hw : s.st.wait = some w) (hi : w.instr = .mwait g d l) (hrep : s.st.mxRep = [])
    (ho : s.oldestOp = some o) (hstop : o.stop = none) :
    s.waitUnmet w d sTIMEOUT (s.pendOps s.cur % 256 * 2 ^ 40) (s.pendOps s.cur % 256 * 2 ^ 40) := by
  have hdetail : s.mwDetail 0 0 = s.pendOps s.cur % 256 * 2 ^ 40 := by simp [State.mwDetail]
  have hnone := mwaitCond_running hrep ho hstop
  exact hdetail ▸ State.waitUnmet_of hw (fun p _ => retest_mwait p hi) hnone rfl rfl (evictDetail_own rfl _)

/-- A command that has not ended is waited for. -/
theorem ewait_unmet {a : SReg} {c : Cmd} (hw : s.st.wait = some w) (hi : w.instr = .ewait g d a l)
    (hc : s.byTag (s.rS a) = some c) (hst : c.st ≠ 2) : s.waitUnmet w d sTIMEOUT 0 1 := by
  have hr : ∀ p, s.retest p w.instr =
      .ok (s.blocking p (.ewait g d a l) d (s.deadline l) (ewaitCond c) (fun s => (sTIMEOUT, 0, s))) := fun p => by
    rw [hi]
    simp only [State.retest, ewaitPoll, hc]
    rfl
  exact State.waitUnmet_of hw (fun p _ => hr p) (if_neg hst) rfl rfl rfl

end

/-! ### LDW (R291) -/

section
variable {s : State} {w : Wait} {g : Guard} {d a b l : SReg} {n : BitVec 24}

/-- What LDW finds of its word. -/
def ldwCond (x : Who) (ea : Word) (b : SReg) (s : State) : Option (Nat × Nat × State) :=
  if s.ldwReady x ea then some (sOK, 0, s.wS b (BitVec.ofNat 64 (s.ldNat x ea 8))) else none

/-- The address of LDW. -/
def State.ldwEa (s : State) (a : SReg) (n : BitVec 24) : Word := s.rS a + n.signExtend 64

/-- An LDW whose access passes its checks and meets no error and no refreshing bank is tested in a state that reads as
this one. -/
theorem retest_ldw (hi : w.instr = .ldw g d a b l n) (hx : s.access s.who kLdw (s.ldwEa a n) 8 8 = .ok ())
    (he : s.eccHit s.who (s.ldwEa a n) 8 = false) (hs : s.stalls (s.who.lines (s.ldwEa a n) 8) = none) :
    ∃ u dl, s.readsAs u ∧ ∀ p, s.retest p w.instr =
      .ok (u.blocking p (.ldw g d a b l n) d dl (ldwCond s.who (s.ldwEa a n) b) (fun s => (sTIMEOUT, 0, s))) := by
  obtain ⟨u, hu, hf⟩ := State.afterStall_free hs
  refine ⟨u.touch s.who (s.ldwEa a n) 8, u.deadline l, State.readsAs_trans hu (u.readsAs_touch _ _ _), fun p => ?_⟩
  unfold State.ldwEa at *
  rw [hi]
  simp only [State.retest, ldwPoll, hx, he, State.unlessEcc_free, hf]
  rfl

theorem ldw_ends (hw : s.st.wait = some w) (hi : w.instr = .ldw g d a b l n)
    (hx : s.access s.who kLdw (s.ldwEa a n) 8 8 = .ok ()) (he : s.eccHit s.who (s.ldwEa a n) 8 = false)
    (hs : s.stalls (s.who.lines (s.ldwEa a n) 8) = none) :
    (s.ldwReady s.who (s.ldwEa a n) = true → s.waitMet w d 0) ∧
      (s.ldwReady s.who (s.ldwEa a n) = false → s.waitUnmet w d sTIMEOUT 0 0) := by
  obtain ⟨u, dl, hu, hr⟩ := retest_ldw hi hx he hs
  have hready := State.readsAs_ldwReady hu s.who (s.ldwEa a n)
  constructor <;> intro h
  · refine State.waitMet_of hw (fun p _ => hr p) (if_pos (hready.trans h)) ?_
    simpa using State.readsAs_pc hu
  · exact State.waitUnmet_of hw (fun p _ => hr p) (if_neg (by simp [hready, h])) rfl (State.readsAs_pc hu) rfl

end

/-! ### WAITC and VWAITC (R254, R255) -/

/-- The words of a wait for counters that have not reached the target. -/
def State.missing (s : State) (x : Who) (eas : List Word) (tgt : Word) : List Word :=
  eas.filter (fun ea => decide (s.ldNat x ea 8 < tgt.toNat))

/-- What such a wait finds; `detail` is its status detail. -/
def countCond (x : Who) (eas : List Word) (tgt : Word) (detail : State → List Word → Nat) (s : State) :
    Option (Nat × Nat × State) :=
  if (s.missing x eas tgt).isEmpty then some (sOK, detail s (s.missing x eas tgt), s) else none

theorem countCond_met {x : Who} {eas : List Word} {tgt : Word} (detail : State → List Word → Nat) {s : State}
    (h : s.missing x eas tgt = []) : countCond x eas tgt detail s = some (sOK, detail s (s.missing x eas tgt), s) :=
  if_pos (by simp [h])

theorem countCond_unmet {x : Who} {eas : List Word} {tgt : Word} (detail : State → List Word → Nat) {s : State}
    (h : s.missing x eas tgt ≠ []) : countCond x eas tgt detail s = none :=
  if_neg (by simpa using h)

theorem State.missing_eq_nil {s : State} {x : Who} {eas : List Word} {tgt : Word} :
    s.missing x eas tgt = [] ↔ ∀ e ∈ eas, tgt.toNat ≤ s.ldNat x e 8 := by
  simp [State.missing]

theorem State.readsAs_missing {s t : State} (h : s.readsAs t) (x : Who) (eas : List Word) (tgt : Word) :
    t.missing x eas tgt = s.missing x eas tgt := by
  simp only [State.missing, State.readsAs_ldNat h]

theorem State.elemChecks_ok {s : State} {x : Who} {kd : AccKind} {addr : Nat → Word} {n al : Nat} : ∀ {r : List Nat},
    (∀ i ∈ r, s.access x kd (addr i) n al = .ok ()) → s.elemChecks x kd addr n al r = .ok ()
  | [], _ => rfl
  | i :: r, h => by
    obtain ⟨hi, hr⟩ := List.forall_mem_cons.mp h
    simp only [State.elemChecks, hi, State.elemChecks_ok hr]

theorem nth_mem {α : Type} {l : List α} {i : Nat} (d : α) (h : i < l.length) : nth l i d ∈ l := by
  simp [nth, h]

section
variable {s : State} {eas : List Word}

theorem State.readsAs_touches (s : State) (x : Who) (eas : List Word) :
    s.readsAs (eas.foldl (fun (s : State) ea => s.touch x ea 8) s) :=
  State.readsAs_foldl (fun s ea => s.readsAs_touch x ea 8) eas s

/-- The words of a wait for counters can be read now: their checks pass, and they meet no error and no refreshing bank. -/
def State.countsReadable (s : State) (eas : List Word) : Prop :=
  (∀ e ∈ eas, s.access s.who kLoad e 8 8 = .ok () ∧ s.eccHit s.who e 8 = false) ∧
    s.stalls (eas.flatMap (fun e => s.who.lines e 8)) = none

/-- A wait for counters that can be read is tested, other than at issue, in a state that reads as this one. -/
theorem countPoll_tests (i : Instr) (y : Bool) (d l : SReg) (tgt : Word) (detail : State → List Word → Nat)
    (h : s.countsReadable eas) : ∃ u dl, s.readsAs u ∧ ∀ p, p ≠ .issue → countPoll p i y d l eas tgt detail s =
      .ok (u.blocking p i d dl (countCond s.who eas tgt detail)
        (fun u => (sTIMEOUT, detail u (u.missing s.who eas tgt), u))) := by
  obtain ⟨hread, hs⟩ := h
  obtain ⟨v, hv, hf⟩ := State.afterStall_free hs
  obtain ⟨u, hu, htouch⟩ : ∃ u, s.readsAs u ∧ eas.foldl (fun (s' : State) ea => s'.touch s.who ea 8) v = u :=
    ⟨_, State.readsAs_trans hv (v.readsAs_touches s.who eas), rfl⟩
  have hcheck : s.elemChecks s.who kLoad (fun j => nth eas j 0) 8 8 (List.range eas.length) = .ok () :=
    State.elemChecks_ok fun j hj => (hread _ (nth_mem 0 (List.mem_range.mp hj))).1
  have hecc : eas.any (fun ea => s.eccHit s.who ea 8) = false := List.any_eq_false.mpr fun e he => by simp [(hread e he).2]
  refine ⟨u, u.deadline l, hu, fun p hp => ?_⟩
  simp only [countPoll, hcheck, hf, htouch, State.readsAs_eccHit hu, hecc, State.unlessEcc_free]
  split
  · rfl
  · rw [if_pos (.inr hp)]; rfl

/-- Such a wait ends as its words say. -/
theorem countPoll_ends {w : Wait} {i : Instr} {y : Bool} {d l : SReg} {tgt : Word} {detail : State → List Word → Nat} {n : Nat}
    (hw : s.st.wait = some w) (hr : ∀ p, s.retest p w.instr = countPoll p i y d l eas tgt detail s)
    (hi : ownEvict i = true) (h : s.countsReadable eas)
    (hn : ∀ u, s.readsAs u → detail u (s.missing s.who eas tgt) = n) :
    ((∀ e ∈ eas, tgt.toNat ≤ s.ldNat s.who e 8) → s.waitMet w d n) ∧
      ((∃ e ∈ eas, s.ldNat s.who e 8 < tgt.toNat) → s.waitUnmet w d sTIMEOUT n n) := by
  obtain ⟨u, dl, hu, htest⟩ := countPoll_tests i y d l tgt detail h
  have hr' : ∀ p, p ≠ .issue → s.retest p w.instr = _ := fun p hp => (hr p).trans (htest p hp)
  have hmiss := State.readsAs_missing hu s.who eas tgt
  have hdetail : detail u (u.missing s.who eas tgt) = n := by rw [hmiss, hn u hu]
  have hpc := State.readsAs_pc hu
  constructor
  · intro hall
    have hcond := countCond_met detail (hmiss.trans (State.missing_eq_nil.mpr hall))
    exact State.waitMet_of hw hr' (hdetail ▸ hcond) hpc
  · rintro ⟨e, he, hlt⟩
    have hsome : u.missing s.who eas tgt ≠ [] := fun hnil =>
      Nat.not_le.mpr hlt (State.missing_eq_nil.mp (hmiss.symm.trans hnil) e he)
    have hcond := countCond_unmet detail hsome
    exact State.waitUnmet_of hw hr' hcond (by rw [hdetail]) hpc (evictDetail_own hi n)

end

section
variable {s : State} {w : Wait} {g : Guard} {y : Bool} {d a b l : SReg}

theorem waitc_ends (hw : s.st.wait = some w) (hi : w.instr = .waitc g y d a b l) (h : s.countsReadable [s.rS a]) :
    ((∀ e ∈ [s.rS a], (s.rS b).toNat ≤ s.ldNat s.who e 8) → s.waitMet w d (s.ldNat s.who (s.rS a) 8 % 2 ^ 56)) ∧
      ((∃ e ∈ [s.rS a], s.ldNat s.who e 8 < (s.rS b).toNat) →
        s.waitUnmet w d sTIMEOUT (s.ldNat s.who (s.rS a) 8 % 2 ^ 56) (s.ldNat s.who (s.rS a) 8 % 2 ^ 56)) := by
  have hr : ∀ p, s.retest p w.instr = countPoll p (.waitc g y d a b l) y d l [s.rS a] (s.rS b)
      (fun u _ => u.ldNat s.who (s.rS a) 8 % 2 ^ 56) s := fun p => by rw [hi]; rfl
  refine countPoll_ends hw hr rfl h (fun u hu => ?_)
  rw [State.readsAs_ldNat hu]

/-- The addresses of VWAITC. -/
def State.vwaitEas (s : State) (a : SReg) (v : VReg) (e : Nat) : List Word :=
  (List.range e).map (fun j => s.rS a + BitVec.ofNat 64 (velem (s.rV v) 8 j))

theorem vwaitc_ends {v : VReg} {n : BitVec 24} {e : Nat} (hw : s.st.wait = some w) (hi : w.instr = .vwaitc g y d a v l n)
    (he : s.tile 8 = .ok e) (h : s.countsReadable (s.vwaitEas a v e)) {k : Nat}
    (hk : (s.vwaitEas a v e).countP (fun ea => decide (s.ldNat s.who ea 8 < n.toNat)) = k) :
    ((∀ x ∈ s.vwaitEas a v e, (n.setWidth 64).toNat ≤ s.ldNat s.who x 8) → s.waitMet w d k) ∧
      ((∃ x ∈ s.vwaitEas a v e, s.ldNat s.who x 8 < (n.setWidth 64).toNat) → s.waitUnmet w d sTIMEOUT k k) := by
  have hn : (n.setWidth 64).toNat = n.toNat := by
    rw [BitVec.toNat_setWidth]
    exact Nat.mod_eq_of_lt (Nat.lt_trans n.isLt (by decide))
  have hr : ∀ p, s.retest p w.instr =
      countPoll p (.vwaitc g y d a v l n) y d l (s.vwaitEas a v e) (n.setWidth 64) (fun _ m => m.length) s := fun p => by
    rw [hi]
    simp only [State.retest, vwaitcPoll, he]
    rfl
  refine countPoll_ends hw hr rfl h (fun u _ => ?_)
  rw [← hk, List.countP_eq_length_filter, State.missing, hn]

end

/-! ### FENCE and FENCESC (R153, R154, R258) -/

section
variable {s : State} {w : Wait} {g : Guard} {d l : SReg}

theorem fence_ends {m1 m2 : BitVec 8} (hw : s.st.wait = some w) (hi : w.instr = .fence g d l m1 m2) :
    (s.drained s.cur m1.toNat = m1.toNat → s.waitMet w d 0) ∧
      (m1 ≠ 0 → m2 ≠ 0 → s.drained s.cur m1.toNat ≠ m1.toNat →
        s.waitUnmet w d sPARTIAL (s.drained s.cur m1.toNat) (s.drained s.cur m1.toNat)) := by
  have hr : ∀ p, s.retest p w.instr = fencePoll p g d l m1 m2 s := fun p => by rw [hi]; rfl
  exact ⟨fun h => State.waitMet_of hw (fun p _ => hr p) (if_pos (.inr (.inr h))) rfl, fun h1 h2 h =>
    State.waitUnmet_of hw (fun p _ => hr p) (if_neg (not_or.mpr ⟨h1, not_or.mpr ⟨h2, h⟩⟩)) rfl rfl (evictDetail_own rfl _)⟩

theorem fencesc_met (hw : s.st.wait = some w) (hi : w.instr = .fencesc g d l) (h : s.drainedAll s.cur = 255)
    (hs : s.settled (dieF (coreOf s.cur)) = true) : s.waitMet w d 255 :=
  have hr : ∀ p, s.retest p w.instr = fencescPoll p g d l s := fun p => by rw [hi]; rfl
  State.waitMet_of hw (fun p _ => hr p) (if_pos ⟨h, hs⟩) rfl

theorem fencesc_unmet (hw : s.st.wait = some w) (hi : w.instr = .fencesc g d l) (h : s.drainedAll s.cur ≠ 255) :
    s.waitUnmet w d sTIMEOUT (s.drainedAll s.cur) (s.drainedAll s.cur) :=
  have hr : ∀ p, s.retest p w.instr = fencescPoll p g d l s := fun p => by rw [hi]; rfl
  State.waitUnmet_of hw (fun p _ => hr p) (if_neg (fun hh => h hh.1)) rfl rfl (evictDetail_own rfl _)

end

/-! ### The wait pool (R89, R134, R171) -/

theorem setNth_get {α : Type} (y : α) : ∀ {l : List α} {i : Nat} {x : α}, l[i]? = some x → (setNth l i y)[i]? = some y
  | _ :: _, 0, _, _ => rfl
  | _ :: l, _ + 1, _, h => setNth_get y (l := l) h

/-- The saved pool of an evicted logical core is left as it is. -/
theorem exec_pool_evicted {s : State} (h : (s.lc s.cur).evicted = true) (i : Nat) :
    exec (.poolRetest i) s = .next s ∧ exec (.poolExpiry i) s = .next s := by
  cases hp : (s.lc s.cur).pool[i]? <;> simp [execPoolRetest, execPoolExpiry, hp, h]

/-- A fold of steps that only post only posts. -/
theorem State.posts_foldl {α : Type} {f : State → α → State} (h : ∀ s x, ∃ l, f s x = State.posts s l) (r : List α) (s : State) :
    ∃ l, r.foldl f s = s.posts l := by
  refine List.foldlRecOn (motive := fun t : State => ∃ l, t = s.posts l) _ _ ⟨[], by simp [State.posts]⟩ ?_
  rintro t ⟨l, rfl⟩ x -
  obtain ⟨l', h'⟩ := h (s.posts l) x
  exact ⟨l ++ l', by rw [h']; simp [State.posts]⟩

theorem State.poolPosts_eq (s : State) (k : Nat) : ∃ l, s.poolPosts k = s.posts l := by
  refine State.posts_foldl (fun t i => ?_) _ s
  dsimp only
  split
  · exact ⟨[], by simp [State.posts]⟩
  · exact State.posts_foldl (fun s e => s.postOnce_eq k e) [Instr.poolRetest i, Instr.poolExpiry i] t

@[simp] theorem State.lc_wakeCore (s : State) (core k : Nat) : (s.wakeCore core).lc k = s.lc k :=
  State.wakeCore_keeps (p := fun s => s.lc k) (fun _ _ _ => rfl) s core

section
variable {s : State} {i : Nat} {p : PoolItem} (hp : (s.lc s.cur).pool[i]? = some p) (hopen : p.satisfied = false)
  (hexp : p.tr.exp = false) (hstay : (s.lc s.cur).evicted = false)
include hp hopen hexp hstay

/-- A pool entry of which nothing keeps the test is ready when its counter has come, and stays as it is when not. -/
theorem exec_poolRetest_tested (he : s.eccHit (s.poolWho s.cur p.tr) p.tr.wctr 8 = false)
    (hs : s.unitStalls ((s.poolWho s.cur p.tr).lines p.tr.wctr 8) (p.stall, 0) = none) :
    (s.poolMet s.cur p.tr = true → ∃ t, exec (.poolRetest i) s = .next t ∧
        (t.lc s.cur).pool[i]? = some { p with satisfied := true }) ∧
      (s.poolMet s.cur p.tr = false → ∃ t, exec (.poolRetest i) s = .next t ∧ (t.lc s.cur).pool = (s.lc s.cur).pool) := by
  obtain ⟨u, hu, hlc, hexec⟩ : ∃ u : State, s.readsAs u ∧ u.lc s.cur = s.lc s.cur ∧ exec (.poolRetest i) s =
      if u.poolMet s.cur p.tr then
        .next ((u.modLc s.cur (fun l => { l with pool := setNth l.pool i { p with satisfied := true } })).wakeCore
          (u.host (lcCtx s.cur) (lcLocal s.cur)))
      else .next (u.poolPosts s.cur) := by
    simp only [exec_poolRetest, execPoolRetest, hp, hopen, hexp, hstay, he, hs, Bool.false_eq_true, or_self, if_false]
    split
    · exact ⟨s, s.readsAs_refl, rfl, rfl⟩
    · exact ⟨_, s.readsAs_countEv _ _ _ _, rfl, rfl⟩
  rw [State.readsAs_poolMet hu] at hexec
  constructor <;> intro h
  · refine ⟨_, by rw [hexec, if_pos h], ?_⟩
    rw [State.lc_wakeCore, State.lc_modLc_self, hlc]
    exact setNth_get _ hp
  · refine ⟨_, by rw [hexec, if_neg (by simp [h])], ?_⟩
    obtain ⟨l, hl⟩ := u.poolPosts_eq s.cur
    rw [hl, State.lc_posts, hlc]

/-- One whose time has passed is given EXP. -/
theorem exec_poolExpiry_passed (h : p.expiry ≤ s.now) : ∃ t, exec (.poolExpiry i) s = .next t ∧
    (t.lc s.cur).pool[i]? = some { p with tr := { p.tr with exp := true } } := by
  refine ⟨(s.modLc s.cur (fun l => { l with pool := setNth l.pool i { p with tr := { p.tr with exp := true } } })).wakeCore
    (s.host (lcCtx s.cur) (lcLocal s.cur)), by simp [execPoolExpiry, hp, hopen, hexp, hstay, h], ?_⟩
  rw [State.lc_wakeCore, State.lc_modLc_self]
  exact setNth_get _ hp

end

/-! ### The obligation -/

/-- Settles O54: each wait is a test of `State.blocking` whose condition and details are read off its instruction
(`State.waitMet_of`, `State.waitUnmet_of`); the reads before it change nothing that it reads (`State.readsAs`). -/
theorem waitsEnd : Obligations.WaitsEnd := by
  intro s g d a b l v y n24 m1 m2 w o
  refine ⟨fun hw hi hrep => ⟨mwait_met hw hi hrep, mwait_unmet hw hi hrep, exec_deadlineExpiry_early hw⟩,
    fun c hw hi hc hst => ewait_unmet hw hi hc hst, fun hw hi hx he hs => ldw_ends hw hi hx he hs,
    fun hw hi hread hs => waitc_ends hw hi ⟨hread, hs⟩, fun e hw hi he hread hs => vwaitc_ends hw hi he ⟨hread, hs⟩ rfl,
    fun hw hi => fence_ends hw hi, fun hw hi h hs => fencesc_met hw hi h hs, fun hw hi h => fencesc_unmet hw hi h,
    exec_pool_evicted, fun i p hp hopen hexp hstay he hs => ?_, fun hdue hwait => ?_⟩
  · obtain ⟨hmet, hunmet⟩ := exec_poolRetest_tested hp hopen hexp hstay he hs
    exact ⟨hmet, hunmet, exec_poolExpiry_passed hp hopen hexp hstay⟩
  · simp only [exec_watchdog, execWatchdog, hdue, hwait]
    rfl

end Sys2Proof.Machine
end

section
/-! PROOF. SPAWN with its reservation, and the rounds of stealing (R84 to R86, R92, R96, R250). -/
namespace Sys2Proof.Machine

/-! ### SPAWN at its issue (R250) -/

/-- The request of a SPAWN for a strand (R92). -/
def State.spawnRequest (s : State) (kd : Kind) (a : SReg) (b : BReg) (pc : BitVec 24) : SpawnReq :=
  ⟨s.curCtx, (s.rS a).toNat, kd, pc.setWidth 32 * 8, s.rB b, s.run5 a, none⟩

/-- The request is on its way to the core that hosts the target. -/
def State.askSpawn (s : State) (r : SpawnReq) : State :=
  (s.mod (fun t => { t with spawn := some r })).post s.cur .spawnReservationRequest

@[simp] theorem State.st_askSpawn (s : State) (r : SpawnReq) : (s.askSpawn r).st = { s.st with spawn := some r } :=
  s.st_mod (fun t => { t with spawn := some r })

/-- The state in which a SPAWN is tested: at issue its request goes out first. -/
def State.spawnTested (s : State) (p : Poll) (r : SpawnReq) : State := if p = .issue then s.askSpawn r else s

@[simp] theorem State.st_post (s : State) (u : Nat) (i : Instr) : (s.post u i).st = s.st := rfl

theorem State.st_block {s : State} (i : Instr) (dl n : Nat) (h : s.st.wait = none) :
    (s.block i dl n).st = { s.st with wait := some ⟨i, s.now + dl, s.cyc (coreOf s.cur), n⟩ } := by
  simp [State.block, h]

theorem spawnCond_unanswered {s : State} {r : SpawnReq} (hr : s.st.spawn = some r) (ha : r.answer = none) :
    spawnCond s = none := by
  simp [spawnCond, hr, ha]

section
variable {s : State} {g : Guard} {kd : Kind} {d a : SReg} {b : BReg} {w : SReg} {pc : BitVec 24} {k : Task} {l : Launch}

/-- SPAWN of a target that exists traps when its grant would be the 33rd commit effect, and else waits for its answer. -/
theorem spawnPoll_target (p : Poll) (hl : s.curLaunch = some l) (hm : (s.rS a).toNat < l.nlcore)
    (hbox : boxMalformed (s.rB b) = false) : spawnPoll p g kd d a b w pc s =
      if s.spawnGranted ∧ 32 ≤ (s.st.task.map (·.counted)).getD 0 then trapc tCAPACITY 4
      else .ok ((s.spawnTested p (s.spawnRequest kd a b pc)).blocking p (.spawn g kd d a b w pc) d
        ((s.spawnTested p (s.spawnRequest kd a b pc)).deadline w) spawnCond (fun s => (sTIMEOUT, 0, s.dropSpawn s.cur))) := by
  have hthere : ¬ l.nlcore ≤ (s.rS a).toNat := Nat.not_le.mpr hm
  simp only [spawnPoll, hl, hbox, Option.map_some, Option.getD_some, hthere, if_false, Bool.false_eq_true]
  rfl

/-- A target that the launch does not have is a fault. -/
theorem exec_spawn_noTarget (hl : s.curLaunch = some l) (hg : s.guard g = true) (hm : l.nlcore ≤ (s.rS a).toNat) :
    ∃ t, exec (.spawn g kd d a b w pc) s = .next t ∧ t.st.pc = s.st.pc + 8 ∧ (d ≠ 0 → t.rS d = statusWord 3 1) := by
  refine ⟨(s.statusB d sFAULT 1).adv 8, guarded_ok hg (by simp [spawnPoll, hl, hm]), by simp [State.statusB], fun hd => ?_⟩
  rw [State.rS, State.st_adv]
  show Strand.rS (s.statusB d sFAULT 1).st d = _
  simp [State.statusB, Strand.rS_wS, hd, sFAULT]

/-- A SPAWN of a target that exists asks for a strand and waits for the answer. -/
theorem exec_spawn_asks (hl : s.curLaunch = some l) (hg : s.guard g = true) (hm : (s.rS a).toNat < l.nlcore)
    (hbox : boxMalformed (s.rB b) = false) (hwait : s.st.wait = none) (hdl : s.deadline w ≠ 0) :
    exec (.spawn g kd d a b w pc) s =
      .next ((s.askSpawn (s.spawnRequest kd a b pc)).block (.spawn g kd d a b w pc) (s.deadline w) 0) := by
  have hgrant : s.spawnGranted = false := by simp [State.spawnGranted, hwait]
  have hpoll : spawnPoll .issue g kd d a b w pc s = .ok ((s.askSpawn (s.spawnRequest kd a b pc)).blocking .issue
      (.spawn g kd d a b w pc) d ((s.askSpawn (s.spawnRequest kd a b pc)).deadline w) spawnCond
      (fun s => (sTIMEOUT, 0, s.dropSpawn s.cur))) := by
    rw [spawnPoll_target .issue hl hm hbox, if_neg (by simp [hgrant])]
    rfl
  have hdeadline : (s.askSpawn (s.spawnRequest kd a b pc)).deadline w = s.deadline w := by
    simp only [State.deadline, State.rS, State.st_askSpawn]
    rfl
  have hnone : spawnCond (s.askSpawn (s.spawnRequest kd a b pc)) = none :=
    spawnCond_unanswered (r := s.spawnRequest kd a b pc) (by simp) rfl
  refine (guarded_ok hg hpoll).trans (congrArg _ ?_)
  rw [State.blocking_none hnone (hdeadline.symm ▸ hdl), hdeadline]
  simp [hwait]

/-! ### SPAWN when its answer has come (R92, R96) -/

section
variable {u : Wait} {r : SpawnReq} (hk : s.st.task = some k) (hl : s.curLaunch = some l) (hw : s.st.wait = some u)
  (hi : u.instr = .spawn g kd d a b w pc) (hm : (s.rS a).toNat < l.nlcore) (hbox : boxMalformed (s.rB b) = false)
include hk hl hw hi hm hbox

/-- An answer for which there is room is tested as a wait. -/
theorem exec_spawn_tested (hroom : s.spawnGranted = false ∨ k.counted < 32) : exec .waitSatisfied s = .next
    (s.blocking .again (.spawn g kd d a b w pc) d (s.deadline w) spawnCond (fun s => (sTIMEOUT, 0, s.dropSpawn s.cur))) := by
  have hcap : ¬ (s.spawnGranted = true ∧ 32 ≤ k.counted) := by
    rintro ⟨hgrant, hfull⟩
    rcases hroom with h | h
    · simp [h] at hgrant
    · omega
  have hpoll := (spawnPoll_target (g := g) (kd := kd) (d := d) (w := w) (pc := pc) .again hl hm hbox).trans
    (if_neg (by simpa [hk] using hcap))
  rw [exec_waitSatisfied_tested hw, hi]
  exact congrArg s.orTrap hpoll

variable (hstage : u.stage = 1) (hr : s.st.spawn = some r)
include hstage hr

/-- A grant that would be the 33rd commit effect traps CAPACITY. -/
theorem exec_spawn_capacity {j : Nat} (ha : r.answer = some (some j)) (hfull : 32 ≤ k.counted) :
    exec .waitSatisfied s = .next (s.takeTrap ⟨0x1B, 4, 0, 0⟩) := by
  have hgrant : s.spawnGranted = true := by simp [State.spawnGranted, hw, hstage, hr, ha]
  have hpoll : s.retest .again u.instr = trapc tCAPACITY 4 := by
    rw [hi]
    exact (spawnPoll_target .again hl hm hbox).trans (if_pos ⟨hgrant, by simpa [hk] using hfull⟩)
  rw [exec_waitSatisfied_tested hw, hpoll]
  rfl

/-- A grant ends the wait OK and buffers the start of the strand as a commit effect. -/
theorem exec_spawn_granted {j : Nat} (ha : r.answer = some (some j)) (hroom : k.counted < 32) :
    ∃ t k', exec .waitSatisfied s = .next t ∧ t.st.pc = s.st.pc + 8 ∧ (d ≠ 0 → t.rS d = statusWord 0 0) ∧ t.st.wait = none ∧
      t.st.task = some k' ∧ k'.effects = k.effects ++ [Effect.spawn j] := by
  obtain ⟨v, hcond, hpc, htask⟩ : ∃ v, spawnCond s = some (sOK, 0, v) ∧ v.st.pc = s.st.pc ∧
      v.st.task = some { k with effects := k.effects ++ [Effect.spawn j] } := by
    have hcount : ¬ 32 ≤ k.effects.countP (·.counted) := Nat.not_le.mpr hroom
    refine ⟨_, by simp [spawnCond, hr, ha, hw, hstage, State.commit, hk, hcount]; rfl, by simp, by simp [hk]⟩
  obtain ⟨hdone, hD, hend⟩ := State.completed_blockEnd d sOK 0 hpc
  have heffects : ((v.unblock.statusB d sOK 0).adv 8).st.task.map (·.effects) = some (k.effects ++ [Effect.spawn j]) := by
    rw [State.effects_blockEnd, htask]
    rfl
  obtain ⟨k', hk', he⟩ := Option.map_eq_some_iff.mp heffects
  refine ⟨_, k', ?_, hdone, hD, hend, hk', he⟩
  rw [exec_spawn_tested hk hl hw hi hm hbox (.inr hroom), State.blocking_some hcond]

/-- A refusal ends it BUSY. -/
theorem exec_spawn_busy (ha : r.answer = some none) : ∃ t, exec .waitSatisfied s = .next t ∧ t.st.pc = s.st.pc + 8 ∧
    (d ≠ 0 → t.rS d = statusWord 7 0) ∧ t.st.wait = none := by
  have hgrant : s.spawnGranted = false := by simp [State.spawnGranted, hr, ha]
  have hcond : spawnCond s = some (sBUSY, 0, s.mod (fun t => { t with spawn := none })) := by
    simp [spawnCond, hr, ha, hw, hstage]
  exact ⟨_, exec_spawn_tested hk hl hw hi hm hbox (.inl hgrant), State.blocking_completes .again hcond (by simp)⟩

end

end

/-! ### The reservation (R92) -/

/-- The request is answered with what the core may reserve. -/
theorem exec_spawnReservationRequest_answers {s : State} {k : Task} {r : SpawnReq} (hk : s.st.task = some k)
    (hr : s.st.spawn = some r) (ha : r.answer = none) : ∃ t r', exec .spawnReservationRequest s = .next t ∧
      t.st.spawn = some r' ∧ r'.answer = some (s.spawnStrand r) := by
  obtain ⟨v, c, n, hexec⟩ : ∃ (v : State) (c n : Nat), exec .spawnReservationRequest s = .next (((v.mod (fun t =>
      { t with spawn := some { r with answer := some (s.spawnStrand r) } })).count c n).post s.cur .spawnAnswer) := by
    cases hj : s.spawnStrand r with
    | none => exact ⟨s, coreOf s.cur, 0x0B, by simp [execSpawnReservationRequest, hr, hk, ha, hj]⟩
    | some j => exact ⟨_, coreOf j, 0x0A, by simp [execSpawnReservationRequest, hr, hk, ha, hj]; rfl⟩
  refine ⟨_, { r with answer := some (s.spawnStrand r) }, hexec, ?_, rfl⟩
  rw [State.st_post, State.st_count, State.st_mod]

theorem exec_spawnAnswer_arrived {s : State} {r : SpawnReq} {u : Wait} (hr : s.st.spawn = some r)
    (ha : r.answer.isSome = true) (hu : s.st.wait = some u) :
    exec .spawnAnswer s = .next (s.setStrand s.cur { s.st with wait := some { u with stage := 1 } }) := by
  simp [execSpawnAnswer, hr, ha, State.setStage, State.mod_eq, hu]

theorem exec_spawnRelease_frees {s : State} {o : Nat} (h : s.st.phase = .reserved o) :
    ∃ t, exec .spawnRelease s = .next t ∧ (t.strand s.cur).phase = .free := by
  refine ⟨(s.mod (fun t => { t with phase := .free, spawnTask := none })).wakeCore (coreOf s.cur),
    by simp [execSpawnRelease, h], ?_⟩
  rw [State.wakeCore_keeps (p := fun s' => s'.strand s.cur) (fun _ _ _ => rfl)]
  exact congrArg Strand.phase (s.st_mod _)

/-! ### What the state of a thief leaves (R51, R87, R125) -/

/-- A value that is listed again changes no answer to a question that it answers as the value before. -/
theorem exists_mem_set {α : Type} {q : Nat × α → Prop} {k : Nat} {v w : α} (hq : q (k, v) ↔ q (k, w)) : ∀ {t : Table α},
    Table.find t k = some w → ((∃ e ∈ Table.set t k v, q e) ↔ ∃ e ∈ t, q e)
  | [], h => by simp [Table.find] at h
  | (i, u) :: t, h => by
    by_cases hi : i = k
    · subst hi
      obtain rfl : u = w := by simpa [Table.find] using h
      simp [Table.set, hq]
    · have ht : Table.find t k = some w := by simpa [Table.find, hi] using h
      by_cases hlt : k < i
      · have hw : q (k, w) → ∃ e ∈ t, q e := fun hw => ⟨_, Table.mem_of_find ht, hw⟩
        simp only [Table.set, hlt, if_true, List.exists_mem_cons_iff, hq]
        exact or_iff_right_of_imp fun hw' => .inr (hw hw')
      · have ih := exists_mem_set hq ht
        simp [Table.set, hlt, Ne.symm hi, ih]

theorem le_foldl_min {α : Type} (g : α → Nat) (m : Nat) : ∀ (l : List α) (b : Nat),
    m ≤ l.foldl (fun n k => Nat.min n (g k)) b ↔ m ≤ b ∧ ∀ x ∈ l, m ≤ g x
  | [], b => by simp
  | x :: l, b => by
    rw [List.foldl_cons, le_foldl_min g m l, List.forall_mem_cons, ← and_assoc]
    exact and_congr_left' Nat.le_min

section
variable (s : State) (k : Nat) (f : Thief → Thief)

@[simp] theorem State.thief_modThief : ((s.modThief k f).lc k).thief = f (s.lc k).thief := by
  simp [State.modThief]

/-- The state of a thief is seen in nothing else of its logical core. -/
theorem State.lc_modThief {α : Type} (p : LCore → α) (hp : ∀ l t, p { l with thief := t } = p l) (j : Nat) :
    p ((s.modThief k f).lc j) = p (s.lc j) := by
  rw [State.modThief, State.lc_modLc]
  split
  · next h => rw [h]; exact hp _ _
  · rfl

section
variable {s k} {l : LCore} (h : s.lcs.find k = some l)
include h

theorem State.mem_hostedBy_modThief (core j : Nat) : j ∈ (s.modThief k f).hostedBy core ↔ j ∈ s.hostedBy core := by
  have hl : s.lc k = l := by simp [State.lc, Table.get, h]
  simp only [State.hostedBy, List.mem_map, List.mem_filter, and_assoc]
  exact exists_mem_set (by rw [hl]) h

theorem State.frameArea_modThief (core : Nat) : (s.modThief k f).frameArea core = s.frameArea core := by
  have hbase : ∀ j, ((s.modThief k f).lc j).sbase = (s.lc j).sbase := s.lc_modThief k f LCore.sbase fun _ _ => rfl
  refine eq_of_forall_le_iff fun m => ?_
  simp only [State.frameArea, le_foldl_min, State.mem_hostedBy_modThief f h, hbase]

theorem State.frames_modThief (core : Nat) : (s.modThief k f).frames core = s.frames core := by
  have hrelay : ∀ j, ((s.modThief k f).lc j).relay = (s.lc j).relay := s.lc_modThief k f LCore.relay fun _ _ => rfl
  have hframe : ∀ j, ((s.modThief k f).lc j).rframe = (s.lc j).rframe := s.lc_modThief k f LCore.rframe fun _ _ => rfl
  have hrelays : ∀ j, ((s.modThief k f).lc j).relays = (s.lc j).relays := s.lc_modThief k f LCore.relays fun _ _ => rfl
  have hholds : ∀ b n, (s.modThief k f).relayHolds core b n = s.relayHolds core b n := fun b n => by
    rw [Bool.eq_iff_iff]
    simp only [State.relayHolds, List.any_eq_true, State.mem_hostedBy_modThief f h, hrelay, hframe, hrelays]
  simp only [State.frames, hholds]
  rfl

/-- What is ready does not depend on the thief. -/
theorem State.workOf_modThief (j : Nat) : (s.modThief k f).workOf j = s.workOf j := by
  have hroom : ∀ core, (s.modThief k f).svcRoom core = s.svcRoom core := fun core => by
    simp only [State.svcRoom, State.frames_modThief f h, State.frameArea_modThief f h]
  have hpool : (s.modThief k f).readyPool j = s.readyPool j := by
    have hp : ((s.modThief k f).lc j).pool = (s.lc j).pool := s.lc_modThief k f LCore.pool (fun _ _ => rfl) j
    simp only [State.readyPool, hp]
    rfl
  have hawake : ((s.modThief k f).lc j).awake = (s.lc j).awake := s.lc_modThief k f LCore.awake (fun _ _ => rfl) j
  have hsvc : ((s.modThief k f).lc j).svc = (s.lc j).svc := s.lc_modThief k f LCore.svc (fun _ _ => rfl) j
  have hbottom : ((s.modThief k f).lc j).bottom = (s.lc j).bottom := s.lc_modThief k f LCore.bottom (fun _ _ => rfl) j
  simp only [State.workOf, hroom, hpool, hawake, hsvc, hbottom]
  rfl

theorem State.idle_modThief (j : Nat) : (s.modThief k f).idle j = s.idle j := by
  have hrelay : ((s.modThief k f).lc j).relay = (s.lc j).relay := s.lc_modThief k f LCore.relay (fun _ _ => rfl) j
  simp only [State.idle, State.workOf_modThief f h, hrelay]

end

end

/-! ### Stealing (R84 to R86) -/

/-- The core that a thief asks at a place of its round. -/
def State.stealFrom (s : State) (i : Nat) : Nat := nth (stealRound (s.host (lcCtx s.cur) (lcLocal s.cur))) i 0

theorem exec_stealRequest_denied {s : State} {i n : Nat} (hp : (s.lc s.cur).thief.pos = some i)
    (h : s.answerSteal (lcCtx s.cur) (s.stealFrom i) = .error n) : ∃ t, exec .stealRequest s = .next t ∧
      (t.lc s.cur).thief = { (s.lc s.cur).thief with deny := some n } ∧ t.agenda = s.agenda ++ [(s.cur, .stealDeny)] := by
  unfold State.stealFrom at h
  refine ⟨(s.modThief s.cur (fun t => { t with deny := some n })).post s.cur .stealDeny,
    by simp [execStealRequest, hp, h], ?_, rfl⟩
  exact s.thief_modThief s.cur (fun t => { t with deny := some n })

theorem exec_stealRequest_granted {s u : State} {i : Nat} {r : TaskRec} (hp : (s.lc s.cur).thief.pos = some i)
    (h : s.answerSteal (lcCtx s.cur) (s.stealFrom i) = .ok (r, u)) : ∃ t, exec .stealRequest s = .next t ∧
      (t.lc s.cur).thief.grant = some r ∧ (t.lc s.cur).thief.pos = none := by
  unfold State.stealFrom at h
  have hthief := u.thief_modThief s.cur (fun t => { t with grant := some r, pos := none })
  exact ⟨(u.modThief s.cur (fun t => { t with grant := some r, pos := none })).post s.cur .stealGrant,
    by simp [execStealRequest, hp, h], congrArg Thief.grant hthief, congrArg Thief.pos hthief⟩

/-- A record that arrives where there is room is pushed at the bottom. -/
theorem State.arriveRec_room {s : State} {k : Nat} (r : TaskRec) (he : s.evicting (lcCtx k) (s.hostOf k) = false)
    (hroom : (s.lc k).hw.length < 64) : s.arriveRec k r =
      some ((s.modLc k (fun l => { l with hw := ⟨r, none⟩ :: l.hw })).wakeCore (s.hostOf k)) := by
  simp only [State.arriveRec, he, State.push?, State.hwRoom?, hroom]
  rfl

theorem exec_stealGrant_arrives {s : State} {r : TaskRec} (hg : (s.lc s.cur).thief.grant = some r)
    (he : s.evicting (lcCtx s.cur) (s.hostOf s.cur) = false) (hroom : (s.lc s.cur).hw.length < 64) :
    ∃ t, exec .stealGrant s = .next t ∧ (t.lc s.cur).hw = ⟨r, none⟩ :: (s.lc s.cur).hw ∧ (t.lc s.cur).thief.fails = 0 ∧
      (t.lc s.cur).thief.grant = none := by
  obtain ⟨u, hu⟩ : ∃ u, s.modThief s.cur (fun t => { t with grant := none, fails := 0, notBefore := 0 }) = u := ⟨_, rfl⟩
  have hthief : (u.lc s.cur).thief = { (s.lc s.cur).thief with grant := none, fails := 0, notBefore := 0 } := by
    rw [← hu, State.thief_modThief]
  have hhw : (u.lc s.cur).hw = (s.lc s.cur).hw := by
    rw [← hu]; exact s.lc_modThief s.cur _ LCore.hw (fun _ _ => rfl) s.cur
  have he' : u.evicting (lcCtx s.cur) (u.hostOf s.cur) = false := by rw [← hu]; exact he
  have harrive := State.arriveRec_room r he' (hhw ▸ hroom)
  refine ⟨_, by simp [execStealGrant, hg, hu, harrive]; rfl, ?_⟩
  rw [State.lc_wakeCore, State.lc_modLc_self]
  exact ⟨congrArg _ hhw, congrArg Thief.fails hthief, congrArg Thief.grant hthief⟩

theorem State.lc_xcSend (s : State) (lck chip : Nat) (body : XcBody) (j : Nat) : (s.xcSend lck chip body).lc j = s.lc j :=
  State.modCtx_keeps (fun s => s.lc j) (fun _ _ => rfl) s _ _

/-- A thief whose round has failed: it backs off (R86). -/
def Thief.failed (t : Thief) (cyc : Nat) : Thief :=
  { t with deny := none, pos := none, fails := t.fails + 1, notBefore := cyc + backoff (t.fails + 1) }

/-- The state in which the round of the current unit has failed. -/
def State.roundFailed (s : State) : State :=
  ((s.modThief s.cur (fun t => { t with deny := none, pos := none })).modThief s.cur (fun t =>
    { t with
      fails := t.fails + 1
      notBefore := s.cyc (s.host (lcCtx s.cur) (lcLocal s.cur)) + backoff (t.fails + 1) })).post s.cur .stealBackoffExpiry

theorem State.thief_roundFailed (s : State) : (s.roundFailed.lc s.cur).thief =
    (s.lc s.cur).thief.failed (s.cyc (s.host (lcCtx s.cur) (lcLocal s.cur))) := by
  have hpost : ∀ (t : State) u i, (t.post u i).lc s.cur = t.lc s.cur := fun _ _ _ => rfl
  rw [State.roundFailed, hpost, State.thief_modThief, State.thief_modThief]
  rfl

/-- A round without a grant ends with its last DENY; a cross-chip request may follow (R86). -/
theorem exec_stealDeny_last {s : State} {n : Nat} (hp : (s.lc s.cur).thief.pos = some 32)
    (hd : (s.lc s.cur).thief.deny = some n) (hidle : s.idle s.cur = true)
    (he : s.evicting (lcCtx s.cur) (s.host (lcCtx s.cur) (lcLocal s.cur)) = false) : ∃ t x, exec .stealDeny s = .next t ∧
      (t.lc s.cur).thief = { (s.roundFailed.lc s.cur).thief with xreq := x } := by
  obtain ⟨l, hl⟩ : ∃ l, s.lcs.find s.cur = some l := by
    cases h : s.lcs.find s.cur with
    | some l => exact ⟨l, rfl⟩
    | none => simp [State.lc, Table.get, h, idleLc, idleThief] at hp
  have hui := (State.idle_modThief (fun t => { t with deny := none, pos := none }) hl s.cur).trans hidle
  have hue : (s.modThief s.cur (fun t => { t with deny := none, pos := none })).evicting (lcCtx s.cur)
      (s.host (lcCtx s.cur) (lcLocal s.cur)) = false := he
  have hlast : ¬ 32 + 1 < (stealRound (s.host (lcCtx s.cur) (lcLocal s.cur))).length := by simp [stealRound]
  simp only [exec_stealDeny, execStealDeny, hd, hp, hui, hue, hlast, Bool.not_true, Bool.false_eq_true, or_self, if_false]
  split
  · split
    · refine ⟨_, true, rfl, ?_⟩
      rw [State.lc_xcSend, State.count_keeps (p := fun t => t.lc s.cur) (fun _ _ _ => rfl), State.thief_modThief]
      rfl
    · exact ⟨s.roundFailed, _, rfl, rfl⟩
  · exact ⟨s.roundFailed, _, rfl, rfl⟩

theorem exec_stealDeny_backsOff {s : State} {n : Nat} (hp : (s.lc s.cur).thief.pos = some 32)
    (hd : (s.lc s.cur).thief.deny = some n) (hidle : s.idle s.cur = true)
    (he : s.evicting (lcCtx s.cur) (s.host (lcCtx s.cur) (lcLocal s.cur)) = false) : ∃ t, exec .stealDeny s = .next t ∧
      (t.lc s.cur).thief.fails = (s.lc s.cur).thief.fails + 1 ∧ (t.lc s.cur).thief.pos = none ∧
      (t.lc s.cur).thief.notBefore =
        s.cyc (s.host (lcCtx s.cur) (lcLocal s.cur)) + min 65536 (1024 * 2 ^ (s.lc s.cur).thief.fails) := by
  obtain ⟨t, x, hexec, ht⟩ := exec_stealDeny_last hp hd hidle he
  rw [State.thief_roundFailed] at ht
  exact ⟨t, hexec, congrArg Thief.fails ht, congrArg Thief.pos ht, congrArg Thief.notBefore ht⟩

/-- The back-off ends in a new round. -/
theorem exec_stealBackoffExpiry_starts {s : State} (hb : (s.lc s.cur).thief.notBefore ≠ 0)
    (hp : (s.lc s.cur).thief.pos = none) (hg : (s.lc s.cur).thief.grant = none) (hx : (s.lc s.cur).thief.xreq = false)
    (hawake : (s.lc s.cur).awake = true) (hl : (s.launch? (lcCtx s.cur)).isSome = true)
    (hdue : (s.lc s.cur).thief.notBefore ≤ s.cyc (s.host (lcCtx s.cur) (lcLocal s.cur))) (hidle : s.idle s.cur = true)
    (he : s.evicting (lcCtx s.cur) (s.host (lcCtx s.cur) (lcLocal s.cur)) = false) : ∃ t, exec .stealBackoffExpiry s = .next t ∧
      (t.lc s.cur).thief.pos = some 0 ∧ (s.cur, Instr.stealRequest) ∈ t.agenda := by
  have hstart : s.startSteal s.cur = s.sendSteal s.cur 0 := by
    simp [State.startSteal, hp, hg, hx, hawake, he, Nat.not_lt.mpr hdue]
  refine ⟨s.sendSteal s.cur 0, ?_, ?_, ?_⟩
  · have hl' : (s.launch? (lcCtx s.cur)).isNone = false := by simpa using hl
    simp [execStealBackoffExpiry, hb, hp, hl', hx, hidle, Nat.not_lt.mpr hdue, hstart]
  · show ((State.count _ _ _).lc s.cur).thief.pos = _
    rw [State.count_keeps (p := fun t => t.lc s.cur) (fun _ _ _ => rfl), State.thief_modThief]
  · simp [State.sendSteal, State.post]

/-! ### The obligation -/

/-- Settles O38: SPAWN at its issue is `exec_spawn_asks`, its answer a test of `State.blocking`; of stealing each step is one
equation, for which what a logical core has ready does not depend on its thief (`State.idle_modThief`). -/
theorem spawnAndStealing : Obligations.SpawnAndStealing := by
  intro s g kd d a b w pc k l hk hl
  refine ⟨fun hg hm hbox hwait hdl => ?_, fun hg hm => exec_spawn_noTarget hl hg hm, fun u r hu hi hstage hr hm hbox =>
    ⟨fun j ha hfull => exec_spawn_capacity hk hl hu hi hm hbox hstage hr ha hfull,
      fun j ha hroom => exec_spawn_granted hk hl hu hi hm hbox hstage hr ha hroom,
      fun ha => exec_spawn_busy hk hl hu hi hm hbox hstage hr ha⟩,
    fun r hr ha => exec_spawnReservationRequest_answers hk hr ha, fun r u hr ha hu => exec_spawnAnswer_arrived hr ha hu,
    fun o h => exec_spawnRelease_frees h, fun i n hp h => exec_stealRequest_denied hp h,
    fun i r u hp h => exec_stealRequest_granted hp h, fun r hg he hroom => exec_stealGrant_arrives hg he hroom,
    fun n hp hd hidle he => exec_stealDeny_backsOff hp hd hidle he,
    fun hb hp hg hx hawake hl hdue hidle he => exec_stealBackoffExpiry_starts hb hp hg hx hawake hl hdue hidle he⟩
  have hst := State.st_block (s := s.askSpawn (s.spawnRequest kd a b pc)) (.spawn g kd d a b w pc) (s.deadline w) 0 (by simp [hwait])
  refine ⟨_, s.spawnRequest kd a b pc, _, exec_spawn_asks hl hg hm hbox hwait hdl, ?_, rfl, rfl, rfl, rfl, rfl,
    congrArg Strand.wait hst, rfl, rfl, ?_⟩
  · rw [hst]; simp
  · rw [hst]; simp

end Sys2Proof.Machine
end

section
/-! PROOF. Messages: the send engine, the router, and the drain of a mailbox (R79 to R81, R119, R157, R170, R174, R175). -/
namespace Sys2Proof.Machine

/-! ### What the send engine offers (R79, R81, R119) -/

/-- The send engine of a core may offer `e`: a strand of the core, and the message that leaves its buffer next. -/
def State.mayLeave (s : State) (core : Nat) (e : Nat × SendItem) : Prop :=
  ∃ v i, i < 4 ∧ e.1 = 4 * core + i ∧ (s.strand e.1).headMsg v = some e.2 ∧ s.mayOffer e.1 e.2 = true

/-- What a buffer of a strand offers. -/
def State.offerOf (s : State) (k : Nat) (vn : Bool) : Option (Nat × SendItem) :=
  match (s.strand k).headMsg vn with
  | none => none
  | some m => if s.mayOffer k m then some (k, m) else none

theorem State.offerOf_eq_some {s : State} {k : Nat} {vn : Bool} {e : Nat × SendItem} : s.offerOf k vn = some e ↔
    e.1 = k ∧ (s.strand e.1).headMsg vn = some e.2 ∧ s.mayOffer e.1 e.2 = true := by
  obtain ⟨j, m⟩ := e
  cases h : (s.strand k).headMsg vn with
  | none => simpa [State.offerOf, h] using fun hj => by simp [hj, h]
  | some x =>
    by_cases ho : s.mayOffer k x = true
    · simp only [State.offerOf, h, ho, if_true, Option.some.injEq, Prod.mk.injEq]
      constructor
      · rintro ⟨rfl, rfl⟩
        exact ⟨rfl, h, ho⟩
      · rintro ⟨rfl, hx, -⟩
        exact ⟨rfl, Option.some.inj (h.symm.trans hx)⟩
    · simp only [State.offerOf, h, ho, if_false, reduceCtorEq, false_iff, Bool.false_eq_true]
      rintro ⟨rfl, hx, hm⟩
      obtain rfl := Option.some.inj (h.symm.trans hx)
      exact ho hm

/-- The messages among which a send engine chooses. -/
def State.offers (s : State) (core : Nat) : List (Nat × SendItem) :=
  [false, true].flatMap (fun vn => (List.range 4).filterMap (fun i => s.offerOf (4 * core + i) vn))

/-- Of two offers the one that was released first. -/
def firstOffer (b : Option (Nat × SendItem)) (e : Nat × SendItem) : Option (Nat × SendItem) :=
  match b with
  | none => some e
  | some x => if e.2.ord < x.2.ord then some e else some x

theorem State.nextOffer_eq (s : State) (core : Nat) : s.nextOffer core = (s.offers core).foldl firstOffer none := rfl

theorem State.mem_offers (s : State) (core : Nat) (e : Nat × SendItem) : e ∈ s.offers core ↔ s.mayLeave core e := by
  simp only [State.offers, List.mem_flatMap, List.mem_filterMap, List.mem_range, State.offerOf_eq_some]
  constructor
  · rintro ⟨v, -, i, hi, hk, hmsg, hoffer⟩
    exact ⟨v, i, hi, hk, hmsg, hoffer⟩
  · rintro ⟨v, i, hi, hk, hmsg, hoffer⟩
    exact ⟨v, by cases v <;> simp, i, hi, hk, hmsg, hoffer⟩

theorem State.nextOffer_none {s : State} {core : Nat} (h : ∀ e, ¬ s.mayLeave core e) : s.nextOffer core = none := by
  have hnil : s.offers core = [] := List.eq_nil_iff_forall_not_mem.mpr fun e he => h e ((s.mem_offers core e).mp he)
  rw [State.nextOffer_eq, hnil]
  rfl

theorem State.nextOffer_only {s : State} {core : Nat} {e : Nat × SendItem} (he : s.mayLeave core e)
    (h : ∀ x, s.mayLeave core x → x = e) : s.nextOffer core = some e := by
  have stays : ∀ l : List (Nat × SendItem), (∀ x ∈ l, x = e) → l.foldl firstOffer (some e) = some e := by
    intro l hl
    induction l with
    | nil => rfl
    | cons x l ih =>
      obtain ⟨rfl, hl⟩ := List.forall_mem_cons.mp hl
      rw [List.foldl_cons, show firstOffer (some x) x = some x from if_neg (Nat.lt_irrefl _)]
      exact ih hl
  have hall : ∀ x ∈ s.offers core, x = e := fun x hx => h x ((s.mem_offers core x).mp hx)
  rw [State.nextOffer_eq]
  cases ho : s.offers core with
  | nil => exact absurd ((s.mem_offers core e).mpr he) (by simp [ho])
  | cons x l =>
    rw [ho] at hall
    obtain ⟨rfl, hl⟩ := List.forall_mem_cons.mp hall
    exact stays l hl

theorem State.pump_of_none {s : State} {core : Nat} (f : Nat) (h : s.nextOffer core = none) : State.pump core f s = s := by
  cases f <;> simp [State.pump, h]

theorem State.pump_once {s : State} {core k : Nat} {m : SendItem} (f : Nat) (h : s.nextOffer core = some (k, m))
    (hn : (s.injectMsg k m.msg.vn).nextOffer core = none) : State.pump core (f + 1) s = s.injectMsg k m.msg.vn := by
  simp only [State.pump, h, State.pump_of_none f hn]

/-! ### A core with one released message -/

/-- No message but those of buffer `vn` of the current strand is released on its core. -/
def State.othersHeld (s : State) (vn : Bool) : Prop :=
  ∀ j v, j < 4 → (4 * coreOf s.cur + j ≠ s.cur ∨ v ≠ vn) → (s.strand (4 * coreOf s.cur + j)).headMsg v = none

/-- `m` is the message of buffer `vn` of the current strand, it is released, and no other message of the core is. -/
def State.onlyMsg (s : State) (vn : Bool) (m : SendItem) : Prop :=
  s.st.send[vnFin vn] = [m] ∧ m.released = true ∧ m.msg.vn = vn ∧ s.othersHeld vn

/-- A send buffer of a strand replaced. -/
def State.setBuffer (s : State) (k : Nat) (vn : Bool) (q : List SendItem) : State :=
  s.modStrand k (fun t => { t with send := t.send.set (vnFin vn) q })

@[simp] theorem State.core_setBuffer (s : State) (k : Nat) (vn : Bool) (q : List SendItem) (c : Nat) :
    (s.setBuffer k vn q).core c = s.core c := rfl
@[simp] theorem State.core_post (s : State) (u : Nat) (i : Instr) (c : Nat) : (s.post u i).core c = s.core c := rfl
@[simp] theorem State.strand_post (s : State) (u : Nat) (i : Instr) (k : Nat) : (s.post u i).strand k = s.strand k := rfl

theorem State.strand_setBuffer (s : State) (k : Nat) (vn : Bool) (q : List SendItem) :
    (s.setBuffer k vn q).strand k = { s.strand k with send := (s.strand k).send.set (vnFin vn) q } := by
  rw [State.setBuffer, State.strand_modStrand, if_pos rfl]

/-- What the exchange takes of a message for another chip (R157). -/
def State.itemOf (s : State) (vn : Bool) (m : SendItem) : XcItem :=
  ⟨m.tick, s.globalLc (lcKey m.msg.ctx.toNat (m.msg.src.toNat % 1024)), m.xseq, m.msg.ctx.toNat,
    ((s.ctx? m.msg.ctx.toNat).map (·.number)).getD 0, m.msg.dest.toNat / 1024,
    .msg m.msg.dest.toNat (b2n vn) m.msg.hpc.toNat m.msg.src.toNat m.msg.seq m.msg.vals m.msg.key⟩

theorem Strand.mem_send {t : Strand} {q : List SendItem} (h : q ∈ t.send.toList) : ∃ v, q = t.send[vnFin v] := by
  obtain ⟨i, hi, rfl⟩ := List.getElem_of_mem h
  have h2 : i < 2 := by simpa using hi
  obtain rfl | rfl : i = 0 ∨ i = 1 := by omega
  · exact ⟨false, by simp [vnFin]⟩
  · exact ⟨true, by simp [vnFin]⟩

theorem findIdx_single {α : Type} {p : α → Bool} {x : α} (h : p x = true) : findIdx (fun y => p y) [x] 0 = some 0 := by
  simp [findIdx, h]

theorem Strand.headMsg_single {t : Strand} {v : Bool} {m : SendItem} (h : t.send[vnFin v] = [m]) (hr : m.released = true) :
    t.headMsg v = some m := by
  simp [Strand.headMsg, h, hr]

theorem strand_place (k : Nat) : ∃ j, j < 4 ∧ 4 * coreOf k + j = k := ⟨k % 4, Nat.mod_lt _ (by decide), Nat.div_add_mod k 4⟩

section
variable {s : State} {vn : Bool} {m : SendItem} (h : s.onlyMsg vn m)
include h

/-- It is the only one that may leave, if it may. -/
theorem State.onlyMsg_mayLeave (e : Nat × SendItem) :
    s.mayLeave (coreOf s.cur) e ↔ e = (s.cur, m) ∧ s.mayOffer s.cur m = true := by
  obtain ⟨hbuf, hrel, -, hothers⟩ := h
  have hhead : s.st.headMsg vn = some m := Strand.headMsg_single hbuf hrel
  constructor
  · rintro ⟨v, i, hi, hk, hmsg, hoffer⟩
    by_cases hmine : 4 * coreOf s.cur + i = s.cur ∧ v = vn
    · obtain ⟨hcur, rfl⟩ := hmine
      have hk' : e.1 = s.cur := hk.trans hcur
      rw [hk'] at hmsg hoffer
      obtain rfl : m = e.2 := Option.some.inj (hhead.symm.trans hmsg)
      exact ⟨Prod.ext hk' rfl, hoffer⟩
    · have hnone := hothers i v hi (not_and_or.mp hmine)
      rw [← hk, hmsg] at hnone
      cases hnone
  · rintro ⟨rfl, hoffer⟩
    obtain ⟨j, hj, hcur⟩ := strand_place s.cur
    exact ⟨vn, j, hj, hcur.symm, hhead, hoffer⟩

/-- The send engine offers it once its time has come. -/
theorem State.onlyMsg_mayOffer (hf : m.flight = false) (ht : m.notBefore ≤ s.cyc (coreOf s.cur)) :
    s.mayOffer s.cur m = true := by
  obtain ⟨hbuf, -, -, hothers⟩ := h
  have hfirst : ∀ i < 4, ∀ q ∈ (s.strand (4 * coreOf s.cur + i)).send.toList, ∀ x ∈ q, x.released = true → x = m := by
    intro i hi q hq x hx hr
    obtain ⟨v, rfl⟩ := Strand.mem_send hq
    by_cases hmine : 4 * coreOf s.cur + i = s.cur ∧ v = vn
    · obtain ⟨hcur, rfl⟩ := hmine
      rw [hcur] at hx
      simpa [show (s.strand s.cur).send[vnFin v] = [m] from hbuf] using hx
    · have hnone := List.find?_eq_none.mp (hothers i v hi (not_and_or.mp hmine)) x hx
      exact absurd hr hnone
  simp only [State.mayOffer, hf, ht, Bool.and_eq_true, List.all_eq_true, List.mem_range]
  refine ⟨⟨rfl, decide_eq_true trivial⟩, fun i hi q hq x hx => ?_⟩
  cases hr : x.released with
  | false => rfl
  | true => simp [hfirst i hi q hq x hx hr]

/-- What the send engine offers next. -/
theorem State.onlyMsg_nextOffer (hf : m.flight = false) (ht : m.notBefore ≤ s.cyc (coreOf s.cur)) :
    s.nextOffer (coreOf s.cur) = some (s.cur, m) := by
  have hmay : s.mayOffer s.cur m = true := State.onlyMsg_mayOffer h hf ht
  exact State.nextOffer_only ((State.onlyMsg_mayLeave h _).mpr ⟨rfl, hmay⟩) fun x hx => ((State.onlyMsg_mayLeave h x).mp hx).1

/-- It offers nothing while the message is on its way, or is not to be offered yet. -/
theorem State.onlyMsg_noOffer (hno : m.flight = true ∨ s.cyc (coreOf s.cur) < m.notBefore) :
    s.nextOffer (coreOf s.cur) = none := by
  have hmay : s.mayOffer s.cur m = false := by
    rcases hno with hf | ht
    · simp [State.mayOffer, hf]
    · simp [State.mayOffer, Nat.not_le.mpr ht]
  refine State.nextOffer_none fun e he => ?_
  obtain ⟨-, hoffer⟩ := (State.onlyMsg_mayLeave h e).mp he
  exact absurd hoffer (by simp [hmay])

/-- A message for this chip is offered to the core of its target, and stays in its buffer (R79). -/
theorem State.injectMsg_mesh (hxc : m.xc = false) : s.injectMsg s.cur vn =
    (((s.setBuffer s.cur vn [{ m with flight := true }]).modCore
      (s.host m.msg.ctx.toNat (m.msg.dest.toNat % 1024)) (fun c => { c with inbound := c.inbound ++ [(s.cur, m.msg)] })).count
      (coreOf s.cur) 0x19).post (s.host m.msg.ctx.toNat (m.msg.dest.toNat % 1024)) .messageArrival := by
  obtain ⟨hbuf, hrel, -, -⟩ := h
  have hbuf' : (s.strand s.cur).send[vnFin vn] = [m] := hbuf
  simp only [State.injectMsg, hbuf', findIdx_single (p := SendItem.released) hrel, List.getElem?_cons_zero, hxc]
  rfl

/-- A message for another chip leaves when the exchange takes it (R157). -/
theorem State.injectMsg_xc (hxc : m.xc = true) : s.injectMsg s.cur vn =
    (({ s.setBuffer s.cur vn [] with
      time := { s.time with xout := s.time.xout ++ [s.itemOf vn m] } } : State).count (coreOf s.cur) 0x19).wakeCore
        (coreOf s.cur) := by
  obtain ⟨hbuf, hrel, -, -⟩ := h
  have hbuf' : (s.strand s.cur).send[vnFin vn] = [m] := hbuf
  simp only [State.injectMsg, hbuf', findIdx_single (p := SendItem.released) hrel, List.getElem?_cons_zero, hxc]
  rfl

end

/-! ### A message leaves (R79, R81, R157) -/

theorem vnFin_ne {v w : Bool} (h : v ≠ w) : (vnFin w).val ≠ (vnFin v).val := by
  cases v <;> cases w <;> simp_all [vnFin]

section
variable {s t : State} {vn : Bool} {q : List SendItem} (hcur : t.cur = s.cur)
  (hstrand : ∀ k, t.strand k = (s.setBuffer s.cur vn q).strand k)
include hcur hstrand

theorem State.send_of_setBuffer : t.st.send[vnFin vn] = q := by
  rw [State.st, hcur, hstrand, State.strand_setBuffer]
  simp

theorem State.othersHeld_of_setBuffer (h : s.othersHeld vn) : t.othersHeld vn := by
  intro j v hj hne
  rw [hcur] at hne ⊢
  have hheld := h j v hj hne
  rw [hstrand]
  by_cases hmine : 4 * coreOf s.cur + j = s.cur
  · have hv : v ≠ vn := hne.resolve_left (not_not_intro hmine)
    rw [hmine] at hheld ⊢
    have hst : (s.setBuffer s.cur vn q).strand s.cur = { s.st with send := s.st.send.set (vnFin vn) q } := s.st_mod _
    have hsend : (s.st.send.set (vnFin vn) q)[vnFin v] = s.st.send[vnFin v] :=
      Vector.getElem_set_ne _ _ (vnFin_ne hv)
    rw [hst]
    simp only [Strand.headMsg, hsend]
    exact hheld
  · rw [State.setBuffer, State.strand_modStrand, if_neg hmine]
    exact hheld

end

/-- With its buffer empty and the others held, a core offers nothing. -/
theorem State.nextOffer_empty {s : State} {vn : Bool} (hbuf : s.st.send[vnFin vn] = []) (h : s.othersHeld vn) :
    s.nextOffer (coreOf s.cur) = none := by
  refine State.nextOffer_none ?_
  rintro e ⟨v, i, hi, hk, hmsg, -⟩
  have hnone : (s.strand (4 * coreOf s.cur + i)).headMsg v = none := by
    by_cases hmine : 4 * coreOf s.cur + i = s.cur ∧ v = vn
    · obtain ⟨hcur, rfl⟩ := hmine
      rw [hcur, Strand.headMsg, show (s.strand s.cur).send[vnFin v] = [] from hbuf]
      rfl
    · exact h i v hi (not_and_or.mp hmine)
  rw [hk, hnone] at hmsg
  cases hmsg

@[simp] theorem State.core_wakeCore (s : State) (core c : Nat) : (s.wakeCore core).core c = s.core c :=
  State.wakeCore_keeps (p := fun s => s.core c) (fun _ _ _ => rfl) s core
@[simp] theorem State.strand_wakeCore (s : State) (core k : Nat) : (s.wakeCore core).strand k = s.strand k :=
  State.wakeCore_keeps (p := fun s => s.strand k) (fun _ _ _ => rfl) s core
@[simp] theorem State.core_count (s : State) (core code c : Nat) : (s.count core code).core c = s.core c :=
  State.count_keeps (p := fun s => s.core c) (fun _ _ _ => rfl) s core code
@[simp] theorem State.strand_modCore (s : State) (c k : Nat) (f : Core → Core) : (s.modCore c f).strand k = s.strand k := rfl
@[simp] theorem State.lc_modCore (s : State) (c k : Nat) (f : Core → Core) : (s.modCore c f).lc k = s.lc k := rfl

theorem State.core_modCore (s : State) (c j : Nat) (f : Core → Core) :
    (s.modCore c f).core j = if j = c then f (s.core c) else s.core j := by
  by_cases h : j = c <;> simp [State.core, State.modCore, Table.get, Table.find_set, h]

/-- The queue that the pump leaves is offered again only while its head waits. -/
theorem State.sendMsgs_settled {s t : State} {vn : Bool} (hp : State.pump (coreOf s.cur) 128 s = t)
    (h : ∀ m, t.st.headMsg vn = some m → m.flight = true) : s.sendMsgs vn = t := by
  simp only [State.sendMsgs, hp]
  split
  · next m hm => simp [h m hm]
  · rfl

section
variable {s : State} {vn : Bool} {m : SendItem} (h : s.onlyMsg vn m) (hf : m.flight = false)
include h hf

/-- Its time come, the only message is the only one that the send engine deals with. -/
theorem State.pump_onlyMsg (ht : m.notBefore ≤ s.cyc (coreOf s.cur))
    (hn : (s.injectMsg s.cur vn).nextOffer (coreOf s.cur) = none) :
    State.pump (coreOf s.cur) 128 s = s.injectMsg s.cur vn := by
  have ⟨_, _, hvn, _⟩ := h
  rw [← hvn] at hn ⊢
  exact State.pump_once 127 (State.onlyMsg_nextOffer h hf ht) hn

/-- A message for this chip is offered to the core of its target, and keeps its buffer entry. -/
theorem State.sendMsgs_offers (hxc : m.xc = false) (ht : m.notBefore ≤ s.cyc (coreOf s.cur)) :
    (s.sendMsgs vn).st.send[vnFin vn] = [{ m with flight := true }] ∧
      ((s.sendMsgs vn).core (s.host m.msg.ctx.toNat (m.msg.dest.toNat % 1024))).inbound =
        (s.core (s.host m.msg.ctx.toNat (m.msg.dest.toNat % 1024))).inbound ++ [(s.cur, m.msg)] ∧
      (s.host m.msg.ctx.toNat (m.msg.dest.toNat % 1024), Instr.messageArrival) ∈ (s.sendMsgs vn).agenda := by
  have ⟨hbuf, hrel, hvn, hheld⟩ := h
  obtain ⟨t, ht'⟩ : ∃ t, s.injectMsg s.cur vn = t := ⟨_, rfl⟩
  have hmesh := ht'.symm.trans (State.injectMsg_mesh h hxc)
  have hcur : t.cur = s.cur := by
    rw [hmesh]
    exact State.cur_count _ _ _
  have hstrand : ∀ k, t.strand k = (s.setBuffer s.cur vn [{ m with flight := true }]).strand k := fun k => by
    rw [hmesh, State.strand_post, State.strand_count, State.strand_modCore]
  have hbuf' := State.send_of_setBuffer hcur hstrand
  have honly : t.onlyMsg vn { m with flight := true } :=
    ⟨hbuf', hrel, hvn, State.othersHeld_of_setBuffer hcur hstrand hheld⟩
  have hsent : s.sendMsgs vn = t := by
    refine State.sendMsgs_settled ((State.pump_onlyMsg h hf ht ?_).trans ht') fun x hx => ?_
    · rw [ht', ← hcur]
      exact State.onlyMsg_noOffer honly (.inl rfl)
    · obtain rfl := Option.some.inj ((Strand.headMsg_single hbuf' hrel).symm.trans hx)
      rfl
  rw [hsent]
  refine ⟨hbuf', ?_, ?_⟩
  · rw [hmesh]
    rw [State.core_post, State.core_count, State.core_modCore, if_pos rfl, State.core_setBuffer]
  · rw [hmesh]
    simp [State.post]

/-- A message for another chip leaves for the exchange. -/
theorem State.sendMsgs_leaves (hxc : m.xc = true) (ht : m.notBefore ≤ s.cyc (coreOf s.cur)) :
    (s.sendMsgs vn).st.send[vnFin vn] = [] ∧ (s.sendMsgs vn).time.xout = s.time.xout ++ [s.itemOf vn m] := by
  have ⟨hbuf, hrel, hvn, hheld⟩ := h
  obtain ⟨t, ht'⟩ : ∃ t, s.injectMsg s.cur vn = t := ⟨_, rfl⟩
  have hexch := ht'.symm.trans (State.injectMsg_xc h hxc)
  have hkeep : ∀ {α : Type} (p : State → α), State.offDies p → p t = p { s.setBuffer s.cur vn [] with
      time := { s.time with xout := s.time.xout ++ [s.itemOf vn m] } } := fun p hp => by
    rw [hexch, State.wakeCore_keeps hp, State.count_keeps hp]
  have hcur : t.cur = s.cur := hkeep State.cur fun _ _ _ => rfl
  have hstrand : ∀ k, t.strand k = (s.setBuffer s.cur vn []).strand k := fun k => hkeep (State.strand · k) fun _ _ _ => rfl
  have hbuf' := State.send_of_setBuffer hcur hstrand
  have hsent : s.sendMsgs vn = t := by
    refine State.sendMsgs_settled ((State.pump_onlyMsg h hf ht ?_).trans ht') fun x hx => ?_
    · rw [ht', ← hcur]
      exact State.nextOffer_empty hbuf' (State.othersHeld_of_setBuffer hcur hstrand hheld)
    · simp [Strand.headMsg, hbuf'] at hx
  rw [hsent]
  exact ⟨hbuf', hkeep (fun t => t.time.xout) fun _ _ _ => rfl⟩

/-- One that has been refused is offered again no sooner than its time. -/
theorem State.sendMsgs_waits (ht : s.cyc (coreOf s.cur) < m.notBefore)
    (ha : s.agenda.any (fun e => e.1 == s.cur && e.2 == .messageReoffer vn) = false) :
    s.sendMsgs vn = s.post s.cur (.messageReoffer vn) := by
  have ⟨hbuf, hrel, _, _⟩ := h
  have hpump : State.pump (coreOf s.cur) 128 s = s := State.pump_of_none 128 (State.onlyMsg_noOffer h (.inr ht))
  simp [State.sendMsgs, hpump, Strand.headMsg_single hbuf hrel, hf, ht, ha]

end

/-! ### A message reaches its router (R79) -/

/-- What a router answers does not depend on what is on its way to it. -/
theorem State.route_modCore (s : State) (core : Nat) {f : Core → Core} (hq : ∀ c, (f c).q = c.q) (m : Msg) :
    (s.modCore core f).route m = s.route m := by
  have hqueue : ∀ j, ((s.modCore core f).core j).q = (s.core j).q := fun j => by
    rw [State.core_modCore]
    split
    · next h => rw [h]; exact hq _
    · rfl
  simp only [State.route, hqueue]
  rfl

/-- The current core once it has taken up the message of a strand. -/
def State.takenUp (s : State) (k : Nat) (m : Msg) : State :=
  s.modCore s.cur (fun c => { c with inbound := c.inbound.erase (k, m) })

/-- Accepted, a message frees its buffer entry, and the strand offers the next. -/
def State.entryFreed (s : State) (k : Nat) (m : Msg) : State :=
  (((s.takenUp k m).setBuffer k m.vn []).post k (.messageInject m.vn)).wakeCore (coreOf k)

theorem State.route_takenUp (s : State) (k : Nat) (m : Msg) : (s.takenUp k m).route m = s.route m :=
  s.route_modCore s.cur (f := fun c => { c with inbound := c.inbound.erase (k, m) }) (fun _ => rfl) m

section
variable {s : State} {vn : Bool} {m : SendItem} {k : Nat} (hin : (s.core s.cur).inbound = [(k, m.msg)]) (hk : k ≠ farSender)
  (hvn : m.msg.vn = vn) (hf : m.flight = true) (hbuf : (s.strand k).send[vnFin vn] = [m])
include hin

theorem State.takenUp_core : (s.takenUp k m.msg).core s.cur = { s.core s.cur with inbound := [] } := by
  rw [State.takenUp, State.core_modCore, if_pos rfl, hin]
  simp

include hk in
/-- The one message at a router is dealt with. -/
theorem exec_messageArrival_only : exec .messageArrival s = .next (s.enterMsg s.cur k m.msg) := by
  simp [execMessageArrival, hin, State.nextInbound, hk]

include hk hvn hf hbuf

/-- An accepted message enters its queue, and its buffer entry is freed. -/
theorem exec_messageArrival_queued (hroute : s.route m.msg = .queue) : ∃ t, exec .messageArrival s = .next t ∧
    (t.core s.cur).inbound = [] ∧ (t.core s.cur).q[vnFin vn] = (s.core s.cur).q[vnFin vn] ++ [QMsg.mk m.msg none] ∧
      (t.strand k).send[vnFin vn] = [] := by
  subst hvn
  have hmine : findIdx (fun i : SendItem => i.flight && i.msg == m.msg) [m] 0 = some 0 := findIdx_single (by simp [hf])
  have henter : s.enterMsg s.cur k m.msg = ((s.entryFreed k m.msg).modCore s.cur (fun c =>
      { c with q := c.q.set (vnFin m.msg.vn) (c.q[vnFin m.msg.vn] ++ [⟨m.msg, none⟩]) })).wakeCore s.cur := by
    have hbuf' : ((s.takenUp k m.msg).strand k).send[vnFin m.msg.vn] = [m] := hbuf
    have hroute' := (s.route_takenUp k m.msg).trans hroute
    unfold State.takenUp at hbuf' hroute'
    simp only [State.enterMsg, hbuf', hmine, hroute']
    rfl
  have hcore : (s.entryFreed k m.msg).core s.cur = { s.core s.cur with inbound := [] } := by
    rw [State.entryFreed, State.core_wakeCore, State.core_post, State.core_setBuffer, State.takenUp_core hin]
  have hsend : ((s.entryFreed k m.msg).strand k).send[vnFin m.msg.vn] = [] := by
    rw [State.entryFreed, State.strand_wakeCore, State.strand_post, State.strand_setBuffer]
    simp
  refine ⟨_, exec_messageArrival_only hin hk, ?_⟩
  rw [henter, State.core_wakeCore, State.strand_wakeCore, State.strand_modCore, State.core_modCore, if_pos rfl, hcore]
  exact ⟨rfl, by simp, hsend⟩

/-- A refused one is offered again no sooner than the refusal says. -/
theorem exec_messageArrival_refused {n : Nat} (hroute : s.route m.msg = .refuse n) : ∃ t, exec .messageArrival s = .next t ∧
    (t.core s.cur).inbound = [] ∧ (t.core s.cur).q[vnFin vn] = (s.core s.cur).q[vnFin vn] ∧
      (t.strand k).send[vnFin vn] = [{ m with flight := false, notBefore := s.cyc (coreOf k) + n }] ∧
      (k, Instr.messageReoffer vn) ∈ t.agenda := by
  subst hvn
  have hmine : findIdx (fun i : SendItem => i.flight && i.msg == m.msg) [m] 0 = some 0 := findIdx_single (by simp [hf])
  have henter : s.enterMsg s.cur k m.msg = ((s.takenUp k m.msg).setBuffer k m.msg.vn
      [{ m with flight := false, notBefore := s.cyc (coreOf k) + n }]).post k (.messageReoffer m.msg.vn) := by
    have hbuf' : ((s.takenUp k m.msg).strand k).send[vnFin m.msg.vn] = [m] := hbuf
    have hroute' := (s.route_takenUp k m.msg).trans hroute
    unfold State.takenUp at hbuf' hroute'
    simp only [State.enterMsg, hbuf', hmine, hroute', List.getElem?_cons_zero, setNth]
    rfl
  refine ⟨_, exec_messageArrival_only hin hk, ?_⟩
  rw [henter, State.core_post, State.core_setBuffer, State.takenUp_core hin, State.strand_post, State.strand_setBuffer]
  exact ⟨rfl, rfl, by simp, by simp [State.post]⟩

end

/-! ### A mailbox drains (R175) -/

/-- The image of a mailbox is written to memory, and nothing else changes (R174). -/
theorem State.syncMailbox_rest (s : State) (k : Nat) : s.viewsOnly (s.syncMailbox k) := by
  unfold State.syncMailbox
  split
  · exact s.viewsOnly_refl
  · exact s.ctxWrite_rest _ _ _ _

section
variable {s : State} {q : QMsg} {r : List QMsg} (hmail : (s.lc s.cur).mailbox = q :: r) (hheld : ∀ y ∈ q :: r, y.held = none)
include hmail hheld

/-- Of a mailbox that holds nothing its first entry is next. -/
theorem State.nextMail_first (hroom : (s.core (s.hostOf s.cur)).q[vnFin q.msg.vn].length < 32) :
    s.nextMail s.cur = some 0 := by
  obtain ⟨hq, hr⟩ := List.forall_mem_cons.mp hheld
  have hnoneHeld : ∀ i : Nat, (((q :: r)[i]?).map (fun (m : QMsg) => m.held.isSome)).getD false = false := fun i => by
    cases h : (q :: r)[i]? with
    | none => rfl
    | some y => simp [hheld y (List.mem_of_getElem? h)]
  simp only [State.nextMail, hmail, hnoneHeld, Bool.and_false]
  rw [List.find?_eq_none.mpr (by simp)]
  simp only [List.length_cons, List.range_succ_eq_map]
  rw [List.find?_cons_of_pos]
  simpa [hq] using ⟨hroom, fun y hy => Or.inr (hr y hy)⟩

/-- It enters its queue. -/
theorem State.enterMail_first : ((s.enterMail s.cur 0).lc s.cur).mailbox = r ∧
    ((s.enterMail s.cur 0).core (s.hostOf s.cur)).q[vnFin q.msg.vn] =
      (s.core (s.hostOf s.cur)).q[vnFin q.msg.vn] ++ [q] := by
  obtain ⟨hq, -⟩ := List.forall_mem_cons.mp hheld
  obtain ⟨u, hu, hviews⟩ : ∃ u : State, u = (s.modLc s.cur (fun l => { l with mailbox := dropNth l.mailbox 0 })).modCore
      (s.hostOf s.cur) (fun c => { c with q := c.q.set (vnFin q.msg.vn) (c.q[vnFin q.msg.vn] ++ [q]) }) ∧
      u.viewsOnly (s.enterMail s.cur 0) := by
    refine ⟨_, rfl, ?_⟩
    simp only [State.enterMail, hmail, List.getElem?_cons_zero, hq, Option.isSome_none, Bool.false_eq_true, if_false]
    split
    · exact State.syncMailbox_rest _ _
    · exact State.viewsOnly_refl _
  obtain ⟨d, n, h⟩ := hviews
  rw [h]
  show (u.lc s.cur).mailbox = r ∧ (u.core (s.hostOf s.cur)).q[vnFin q.msg.vn] = _
  rw [hu]
  constructor
  · rw [State.lc_modCore, State.lc_modLc_self, hmail]
    rfl
  · rw [State.core_modCore, if_pos rfl]
    exact Vector.getElem_set_self _

theorem exec_mailboxDrain_first (hstay : (s.lc s.cur).evicted = false)
    (hroom : (s.core (s.hostOf s.cur)).q[vnFin q.msg.vn].length < 32) : ∃ t, exec .mailboxDrain s = .next t ∧
      (t.lc s.cur).mailbox = r ∧
      (t.core (s.hostOf s.cur)).q[vnFin q.msg.vn] = (s.core (s.hostOf s.cur)).q[vnFin q.msg.vn] ++ [q] := by
  obtain ⟨hlc, hcore⟩ := State.enterMail_first hmail hheld
  have hsome : ¬ ((s.lc s.cur).evicted = true ∨ (s.lc s.cur).mailbox.isEmpty = true) := by simp [hstay, hmail]
  obtain ⟨t, l, hexec, ht⟩ : ∃ (t : State) (l : List (Nat × Instr)), exec .mailboxDrain s = .next (t.posts l) ∧
      t = (s.enterMail s.cur 0).wakeCore (s.hostOf s.cur) := by
    simp only [exec_mailboxDrain, execMailboxDrain, hsome, if_false, State.nextMail_first hmail hheld hroom]
    split
    · exact ⟨_, [], by simp [State.posts], rfl⟩
    · exact ⟨_, [(s.cur, .mailboxDrain)], rfl, rfl⟩
  refine ⟨_, hexec, ?_, ?_⟩
  · rw [State.lc_posts, ht, State.lc_wakeCore, hlc]
  · show (t.core _).q[_] = _
    rw [ht, State.core_wakeCore, hcore]

end

/-! ### The obligation -/

/-- Settles O53: the send engine of a core with one released message offers that (`State.onlyMsg_nextOffer`), so that
`State.sendMsgs` is one injection; a router and a mailbox with one message to deal with are one equation each. -/
theorem messages : Obligations.Messages := by
  intro s vn m k q r
  refine ⟨?_, ?_, ?_, ?_, ?_⟩
  · rintro ⟨hbuf, hrel, hf, hvn, hheld⟩ hxc ht
    obtain ⟨hsend, hin, hpost⟩ := State.sendMsgs_offers ⟨hbuf, hrel, hvn, hheld⟩ hf hxc ht
    exact ⟨⟨_, rfl, hsend, hin, hpost⟩, ⟨_, rfl, hsend, hin, hpost⟩⟩
  · rintro ⟨hbuf, hrel, hf, hvn, hheld⟩ hxc ht
    obtain ⟨hsend, hout⟩ := State.sendMsgs_leaves ⟨hbuf, hrel, hvn, hheld⟩ hf hxc ht
    exact ⟨_, _, rfl, hsend, hout, rfl, rfl, rfl, rfl⟩
  · rintro ⟨hbuf, hrel, hf, hvn, hheld⟩ ht ha
    exact congrArg _ (State.sendMsgs_waits ⟨hbuf, hrel, hvn, hheld⟩ hf ht ha)
  · exact fun hin hk _ hvn hf hbuf => ⟨exec_messageArrival_queued hin hk hvn hf hbuf,
      exec_messageArrival_refused hin hk hvn hf hbuf⟩
  · intro hstay hmail hheld hvn core hroom
    subst hvn
    exact exec_mailboxDrain_first hmail hheld hstay hroom

end Sys2Proof.Machine
end

section
/-! PROOF. Control registers: the mode that may name them, what MOVC and MOVCW and the register writes of the table do, and the
event counters (R14, R16, R18, R27, R93, R103 to R105, R169, R219, R270, R274). -/
namespace Sys2Proof.Machine

/-! ### The mode that may (R103, R219, R274) -/

/-- In user mode a supervisor opcode takes PRIV (R219). -/
theorem privileged_user {s : State} (h : s.st.sup = false) (detail : Nat) (r : Host.Outcome State Fault Refusal) :
    privileged s detail r = .next (s.takeTrap ⟨0x02, detail, 0, 0⟩) := by
  simp [privileged, h, tPRIV]

/-- So do MOVC and MOVCW of a register of 0x800 and above (R103, R219). -/
theorem crChecked_user {s : State} {n : BitVec 12} (h : s.st.sup = false) (hn : 0x800 ≤ n.toNat)
    (r : Host.Outcome State Fault Refusal) : crChecked n s r = .next (s.takeTrap ⟨0x02, n.toNat, 0, 0⟩) := by
  simp [crChecked, h, hn, tPRIV]

/-- A register that the mode and the core allow passes the word checks (R103, R274). -/
theorem crChecked_allowed {s : State} {n : BitVec 12} (hsup : n.toNat < 0x800 ∨ s.st.sup = true)
    (hmgmt : n.toNat < 0xA00 ∨ isMgmt (coreOf s.cur) = true) (r : Host.Outcome State Fault Refusal) : crChecked n s r = r := by
  have h1 : ¬ (0x800 ≤ n.toNat ∧ (!s.st.sup) = true) := by
    rintro ⟨hn, hs⟩
    rcases hsup with h | h
    · omega
    · simp [h] at hs
  have h2 : ¬ (0xA00 ≤ n.toNat ∧ (!isMgmt (coreOf s.cur)) = true) := by
    rintro ⟨hn, hm⟩
    rcases hmgmt with h | h
    · omega
    · simp [h] at hm
  rw [crChecked, if_neg h1, if_neg h2]

/-! ### Fields of a register (R1, R105) -/

theorem bits_eq_extractLsb' {n : Nat} (x : BitVec n) (hi lo : Nat) : bits x hi lo = (x.extractLsb' lo (hi + 1 - lo)).toNat :=
  (BitVec.extractLsb'_toNat ..).symm

theorem bits_lt {n : Nat} (x : BitVec n) (hi lo : Nat) : bits x hi lo < 2 ^ (hi + 1 - lo) := Nat.mod_lt _ (Nat.two_pow_pos _)

/-- FPCR.RM as a write leaves it (R105). -/
def fpcrRm (old v : Word) : Nat := if bits v 2 0 ≤ 4 then bits v 2 0 else bits old 2 0

theorem fpcrRm_lt (old v : Word) : fpcrRm old v < 8 := by
  unfold fpcrRm
  split <;> exact bits_lt _ 2 0

theorem fpcrNew_toNat (old v : Word) : (fpcrNew old v).toNat = bits v 12 8 * 256 + fpcrRm old v := by
  have h1 := bits_lt v 12 8
  have h2 := fpcrRm_lt old v
  exact (BitVec.toNat_ofNat ..).trans (Nat.mod_eq_of_lt (show bits v 12 8 * 256 + fpcrRm old v < 2 ^ 64 by omega))

theorem fpcrNew_te (old v : Word) : (fpcrNew old v).extractLsb' 8 5 = v.extractLsb' 8 5 := by
  have h1 := bits_lt v 12 8
  have h2 := fpcrRm_lt old v
  refine BitVec.eq_of_toNat_eq ?_
  rw [BitVec.extractLsb'_toNat, fpcrNew_toNat, Nat.shiftRight_eq_div_pow, ← bits_eq_extractLsb' v 12 8]
  omega

theorem fpcrNew_rm (old v : Word) : (fpcrNew old v).extractLsb' 0 3 =
    if (v.extractLsb' 0 3).toNat ≤ 4 then v.extractLsb' 0 3 else old.extractLsb' 0 3 := by
  have h2 := fpcrRm_lt old v
  refine BitVec.eq_of_toNat_eq ?_
  rw [BitVec.extractLsb'_toNat, fpcrNew_toNat, Nat.shiftRight_zero, show (bits v 12 8 * 256 + fpcrRm old v) % 2 ^ 3 = fpcrRm old v by omega,
    fpcrRm, bits_eq_extractLsb' v 2 0, bits_eq_extractLsb' old 2 0]
  split <;> rfl

/-- What the registers with a value of their own read. -/
theorem State.crRead_named (s : State) : s.crRead s.cur 0x020 = s.time.dtime ∧ s.crRead s.cur 0x021 = s.time.tick ∧
    s.crRead s.cur 0x022 = BitVec.ofNat 64 (s.die (dieF (coreOf s.cur))).cycle ∧
    s.crRead s.cur 0x880 = s.boot.ready0 ∧ s.crRead s.cur 0x881 = s.boot.ready1 ∧ s.crRead s.cur 0xA20 = 0 :=
  ⟨rfl, rfl, rfl, rfl, rfl, rfl⟩

section
variable (s : State) (v : Word)

theorem State.crWrite_vshape (p : Bool) : s.crWrite s.cur 0x000 p v = s.mod (fun t => { t with vshape := v &&& 0xFFFF }) := rfl
theorem State.crWrite_fpcr (p : Bool) : s.crWrite s.cur 0x001 p v = s.mod (fun t => { t with fpcr := fpcrNew t.fpcr v }) := rfl
theorem State.crWrite_fpsr (p : Bool) : s.crWrite s.cur 0x002 p v = s.mod (fun t => { t with fpsr := v &&& 0x1F }) := rfl

theorem State.crWrite_readOnly {n : Nat} (h : n = 0x010 ∨ n = 0x020 ∨ n = 0x880) (p : Bool) : s.crWrite s.cur n p v = s := by
  rcases h with rfl | rfl | rfl <;> cases p <;> rfl
theorem State.crWrite_dlmax_user : s.crWrite s.cur 0x028 false v = s := rfl
theorem State.crWrite_dlmax : s.crWrite s.cur 0x028 true v = s.mod (fun t => { t with dlmax := v }) := rfl
end

/-! ### TSTART (R14, R16) -/

section
variable {s : State} {v : Word}

/-- A TSTART in the future restarts the generator, and its first tick is due. -/
theorem State.writeTstart_future (h : s.time.ptp < v.toNat) :
    (s.writeTstart v).time =
        { ({ s.time with tstart := v } : Time).renumber with tick := 0, hold := false, stepAt := none, started := false } ∧
      ∃ u, (u, Instr.tickBoundary) ∈ (s.writeTstart v).agenda := by
  simp only [State.writeTstart, h, if_true, Bool.false_or]
  split
  · next hdue =>
    obtain ⟨e, hmem, he⟩ := List.any_eq_true.mp hdue
    refine ⟨rfl, e.1, ?_⟩
    rwa [← (beq_iff_eq.mp he : e.2 = _)]
  · exact ⟨rfl, 0, List.mem_append_right _ (List.mem_singleton.mpr rfl)⟩

/-- One that is not leaves a held generator as it is. -/
theorem State.writeTstart_held (h : v.toNat ≤ s.time.ptp) (hh : s.time.hold = true) :
    (s.writeTstart v).time = { s.time with tstart := v } := by
  simp [State.writeTstart, Nat.not_lt.mpr h, hh]

/-- A running one reads at once the tick of the new numbering. -/
theorem State.writeTstart_running (h : v.toNat ≤ s.time.ptp) (hh : s.time.hold = false) :
    (s.writeTstart v).time = { ({ s.time with tstart := v } : Time).renumber with
      tick := BitVec.ofNat 64 ((s.time.ptp - v.toNat) / s.time.tickp.toNat), started := true } := by
  simp only [State.writeTstart, Nat.not_lt.mpr h, hh, if_false, Bool.false_eq_true]
  split <;> rfl

theorem exec_tstartWrite_past (h : v.toNat ≤ s.time.ptp) : ∃ t, exec (.tstartWrite v) s = .next t ∧ t.time.tstart = v ∧
    t.time.hold = s.time.hold ∧ t.time.stepAt = s.time.stepAt ∧ (s.time.hold = true → t.time.tick = s.time.tick) ∧
    (s.time.hold = false → t.time.tick = BitVec.ofNat 64 ((s.time.ptp - v.toNat) / s.time.tickp.toNat)) := by
  refine ⟨_, rfl, ?_⟩
  cases hh : s.time.hold
  · rw [State.writeTstart_running h hh]
    exact ⟨rfl, hh, rfl, fun hf => absurd hf (by decide), fun _ => rfl⟩
  · rw [State.writeTstart_held h hh]
    exact ⟨rfl, hh, rfl, fun _ => rfl, fun hf => absurd hf (by decide)⟩

end

/-! ### Registers with a range (R18, R93) -/

theorem plimitNew_eq (v : Word) : plimitNew v = if v.toNat ≤ 2400 then v else 2400 := by
  unfold plimitNew
  split
  · next h => rw [show Nat.min 2400 v.toNat = v.toNat from Nat.min_eq_right h, BitVec.ofNat_toNat, BitVec.setWidth_eq]
  · next h => rw [show Nat.min 2400 v.toNat = 2400 from Nat.min_eq_left (by omega)]; rfl

theorem agemaxNew_toNat (v : Word) : (agemaxNew v).toNat = max 16 (min 65535 v.toNat) :=
  (BitVec.toNat_ofNat ..).trans (Nat.mod_eq_of_lt (show max 16 (min 65535 v.toNat) < 2 ^ 64 by omega))

theorem State.regs_modRegs (s : State) (core ctx : Nat) (f : CtxRegs → CtxRegs) :
    (s.modRegs core ctx f).regs core ctx = f (s.regs core ctx) := by
  simp [State.regs, State.modRegs, State.modCore, State.core]

/-! ### Event counters (R27) -/

theorem setAt_getElem {k : Nat} (r : Vector Word k) (n : Fin k) (x : Word) : (setAt r n.val x)[n] = x := by
  simp [setAt]

theorem getElem?_toList {α : Type} {k : Nat} (r : Vector α k) (n : Fin k) (d : α) : (r.toList)[n.val]?.getD d = r[n] := by
  simp

theorem bits_bit {k : Nat} (x : BitVec k) (i : Nat) : bits x i i = (x.getLsbD i).toNat := by
  rw [bits, Nat.add_sub_cancel_left, Nat.shiftRight_eq_div_pow, Nat.pow_one, ← Nat.toNat_testBit]
  rfl

/-- A write of EVCNT sets COUNT. -/
theorem evcntNew_count (old v : Word) : (evcntNew old v).extractLsb' 0 48 = v.extractLsb' 0 48 := by
  refine BitVec.eq_of_getLsbD_eq fun i hi => ?_
  have hne : 0 + i ≠ 63 := by omega
  have hi64 : i < 64 := by omega
  simp only [BitVec.getLsbD_extractLsb', hi, decide_true, Bool.true_and]
  rw [evcntNew, getLsbD_putBits_one _ _ _ (by decide), if_neg hne, BitVec.getLsbD_ofNat, bits, Nat.shiftRight_zero,
    Nat.testBit_mod_two_pow]
  simp [hi64, hi, BitVec.getLsbD]

/-- It clears OVF where its bit is 1. -/
theorem evcntNew_ovf (old v : Word) : (evcntNew old v).getLsbD 63 = (old.getLsbD 63 && !v.getLsbD 63) := by
  rw [evcntNew, getLsbD_putBits_one _ _ _ (by decide), if_pos rfl, bits_bit, bits_bit]
  cases v.getLsbD 63 <;> cases old.getLsbD 63 <;> rfl

section
variable {sel cnt : Word} {code w : Nat}

/-- A counter of all rows that counts the rest of its range wraps: COUNT is 0 and OVF set. -/
theorem bumpCnt_wraps {n : Nat → Nat} (hen : sel.getLsbD 31 = true) (hcode : sel.toNat % 256 = code) (h0 : code ≠ 0)
    (hrow : sel.extractLsb' 16 5 = 0x10) (hw : 0 < w) (hw' : w < 2 ^ 48) (hcnt : cnt.toNat = 2 ^ 48 - w) (hn : n 0x10 = w) :
    bumpCnt sel cnt code n = 0x8000000000000000 := by
  have hcount : bits cnt 47 0 = 2 ^ 48 - w := by rw [bits, Nat.shiftRight_zero, hcnt]; omega
  have hsel : bits sel 31 31 = 1 ∧ bits sel 7 0 = code ∧ code ≠ 0 := ⟨by rw [bits_bit, hen]; rfl, hcode, h0⟩
  have hr : bits sel 20 16 = 0x10 := by rw [bits_eq_extractLsb' sel 20 16]; exact congrArg BitVec.toNat hrow
  have hclear : putBits cnt 0 48 (2 ^ 48) = 0 := by
    rw [putBits, Nat.shiftRight_zero, hcnt, Nat.mod_eq_of_lt (by omega : 2 ^ 48 - w < 2 ^ 48)]
    simp
  rw [bumpCnt, if_pos hsel, hr, hn, hcount, Nat.sub_add_cancel hw'.le, if_pos le_rfl, hclear]
  rfl

end

/-- The counters of a die after events of a code, and what those that set OVF while OVI is 1 raise (R27). -/
theorem State.countBy_die (s : State) (d : Fin 4) (code : Nat) (f : Nat → Nat) (n : Fin 16) :
    ((s.countBy d code f).die d).evcnt[n] = bumpCnt (s.die d).evsel[n] (s.die d).evcnt[n] code f := by
  show (((s.modDie d _).posts _).die d).evcnt[n] = _
  rw [show ∀ (u : State) l, (u.posts l).die d = u.die d from fun _ _ => rfl, State.die_modDie, if_pos rfl]
  simp

/-- A counter sets OVF while OVI is 1. -/
def raisesOvf (sel old new : Word) : Bool := bits old 63 63 == 0 && bits new 63 63 == 1 && bits sel 30 30 == 1

theorem State.countBy_raises (s : State) (d : Fin 4) (code : Nat) (f : Nat → Nat) (n : Fin 16) :
    let raises := raisesOvf (s.die d).evsel[n] (s.die d).evcnt[n] (bumpCnt (s.die d).evsel[n] (s.die d).evcnt[n] code f)
    ((s.countBy d code f).die d).ovi[n] = (s.die d).ovi[n] + (if raises then 1 else 0) ∧
      (raises = true → (d.val, Instr.evOvf n) ∈ (s.countBy d code f).agenda) := by
  intro raises
  constructor
  · show (((s.modDie d _).posts _).die d).ovi[n] = _
    rw [show ∀ (u : State) l, (u.posts l).die d = u.die d from fun _ _ => rfl, State.die_modDie, if_pos rfl]
    simp only [Fin.getElem_fin, Vector.getElem_ofFn, raises, raisesOvf]
    split <;> rfl
  · intro hr
    refine List.mem_append_right _ (List.mem_map.mpr ⟨n, List.mem_filter.mpr ⟨List.mem_finRange n, ?_⟩, rfl⟩)
    simpa [raises, raisesOvf] using hr

/-- Whether one that wraps raises EV_OVF is its OVI. -/
theorem raisesOvf_wrapped {sel old : Word} (h : old.toNat < 2 ^ 63) : raisesOvf sel old 0x8000000000000000 = sel.getLsbD 30 := by
  have hold : old.getLsbD 63 = false := Nat.testBit_lt_two_pow h
  simp only [raisesOvf, bits_bit, hold]
  cases sel.getLsbD 30 <;> rfl

theorem exec_evOvf_raises (s : State) (n : Fin 16) : ∃ t, exec (.evOvf n) s = .next t ∧ t.supEvents = s.supEvents ++
    (if (s.die (Fin.ofNat 4 s.cur)).ovi[n] = 0 then [] else [SupEvent.evOvf (s.cur % 4) n.val]) := by
  rw [exec_evOvf, execEvOvf]
  dsimp only
  split
  · exact ⟨s, rfl, (List.append_nil _).symm⟩
  · exact ⟨_, rfl, rfl⟩

/-! ### The obligations -/

/-- Settles O23: the checks of the word come before the guard (`privileged_user`, `crChecked_user`). -/
theorem privilege : Obligations.Privilege := by
  intro s g sc q d a b l n h
  exact ⟨privileged_user h 0 _, privileged_user h 0 _, privileged_user h 0 _, fun hn => crChecked_user h hn _,
    fun hn => crChecked_user h hn _⟩

/-- Settles O22: the word checks pass (`crChecked_allowed`); of each register the map says what is read and written. -/
theorem controlRegisters : Obligations.ControlRegisters := by
  intro s g d a n hg hsup hmgmt
  refine ⟨?_, ?_, s.crRead_named, fun v => ⟨?_, ?_, ?_, ?_, s.crWrite_readOnly v (.inl rfl) _,
    s.crWrite_readOnly v (.inr (.inl rfl)) _, s.crWrite_readOnly v (.inr (.inr rfl)) _, fun h => ?_, fun h => ?_⟩⟩
  · rw [exec_movc, execMovc, crChecked_allowed hsup hmgmt, plain_wS hg]
  · rw [exec_movcw, execMovcw, crChecked_allowed hsup hmgmt, plain_true hg]
  · rw [State.crWrite_vshape, State.st_mod]
  · rw [State.crWrite_fpsr, State.st_mod]
  · rw [State.crWrite_fpcr, State.st_mod]; exact fpcrNew_te _ v
  · rw [State.crWrite_fpcr, State.st_mod]; exact fpcrNew_rm _ v
  · rw [h, State.crWrite_dlmax_user]
  · rw [h, State.crWrite_dlmax, State.st_mod]

/-- Settles O27, a write at a time; a counter wraps as `bumpCnt_wraps` says, and raises EV_OVF where its OVI is 1. -/
theorem registerWriteSteps : Obligations.RegisterWriteSteps := by
  intro s v n c x
  refine ⟨fun h => ?_, exec_tstartWrite_past, rfl, ?_, ⟨_, rfl, ?_⟩, rfl, ⟨_, rfl, ?_⟩, rfl, ⟨_, rfl, ?_⟩, ⟨_, rfl, ?_, ?_⟩, rfl,
    exec_evOvf_raises s n, fun d w hcode h0 _ hen hrow hw hw' hcnt => ?_⟩
  · obtain ⟨htime, hdue⟩ := State.writeTstart_future h
    exact ⟨_, rfl, congrArg Time.tstart htime, congrArg Time.tick htime, congrArg Time.hold htime, congrArg Time.started htime,
      congrArg Time.stepAt htime, hdue⟩
  · rw [exec_plimitWrite, execPlimitWrite, plimitNew_eq]
  · rw [State.st_mod]; exact fpcrNew_te _ v
  · rw [State.regs_modRegs]; exact agemaxNew_toNat v
  · rw [State.die_modDie, if_pos rfl]; exact setAt_getElem _ n _
  · rw [State.die_modDie, if_pos rfl, getElem?_toList]
    exact (congrArg (fun y : Word => y.extractLsb' 0 48) (setAt_getElem _ n _)).trans (evcntNew_count _ v)
  · rw [State.die_modDie, if_pos rfl, getElem?_toList]
    exact (congrArg (fun y : Word => y.getLsbD 63) (setAt_getElem _ n _)).trans (evcntNew_ovf _ v)
  · intro t
    have hwraps := bumpCnt_wraps (n := fun r => if r = 0x10 then w else 0) hen hcode h0 hrow hw hw' hcnt rfl
    obtain ⟨hovi, hpost⟩ := s.countBy_raises d (v.toNat % 256) (fun r => if r = 0x10 then w else 0) n
    rw [hwraps, raisesOvf_wrapped (by omega)] at hovi hpost
    exact ⟨(s.countBy_die d _ _ n).trans hwraps, hovi, hpost⟩

end Sys2Proof.Machine
end

section
/-! SUPPORT. What a read of memory depends on, and the changes that leave it: wider than `State.readsAs`, since caches of
instructions, slots, rows and matrix ops may change as well. -/
namespace Sys2Proof.Machine

/-- `t` has the views, the translations and the local memories of `s`: a read of `t` gives what one of `s` does. -/
structure State.SameReads (s t : State) : Prop where
  view : ∀ e, (t.die e).view = (s.die e).view
  dieTlb : ∀ e, (t.die e).tlb = (s.die e).tlb
  coreTlb : ∀ c, (t.core c).tlb = (s.core c).tlb
  coreRegs : ∀ c, (t.core c).regs = (s.core c).regs
  baseTlb : t.baseTlb = s.baseTlb
  ecc : t.ecc = s.ecc
  ws : t.ws = s.ws
  lds : t.lds = s.lds
  opmem : t.opmem = s.opmem
  lcs : t.lcs = s.lcs
  ctxs : t.ctxs = s.ctxs
  time : t.time = s.time

namespace State.SameReads

theorem refl (s : State) : s.SameReads s :=
  ⟨fun _ => rfl, fun _ => rfl, fun _ => rfl, fun _ => rfl, rfl, rfl, rfl, rfl, rfl, rfl, rfl, rfl⟩

theorem trans {s t u : State} (h : s.SameReads t) (h' : t.SameReads u) : s.SameReads u :=
  ⟨fun e => (h'.view e).trans (h.view e), fun e => (h'.dieTlb e).trans (h.dieTlb e),
    fun c => (h'.coreTlb c).trans (h.coreTlb c), fun c => (h'.coreRegs c).trans (h.coreRegs c), h'.baseTlb.trans h.baseTlb,
    h'.ecc.trans h.ecc, h'.ws.trans h.ws, h'.lds.trans h.lds, h'.opmem.trans h.opmem, h'.lcs.trans h.lcs,
    h'.ctxs.trans h.ctxs, h'.time.trans h.time⟩

theorem symm {s t : State} (h : s.SameReads t) : t.SameReads s :=
  ⟨fun e => (h.view e).symm, fun e => (h.dieTlb e).symm, fun c => (h.coreTlb c).symm, fun c => (h.coreRegs c).symm,
    h.baseTlb.symm, h.ecc.symm, h.ws.symm, h.lds.symm, h.opmem.symm, h.lcs.symm, h.ctxs.symm, h.time.symm⟩

theorem of_readsAs {s t : State} (h : s.readsAs t) : s.SameReads t := by
  obtain ⟨⟨d, a, r, rfl⟩, hdie, -⟩ := h
  exact ⟨fun e => (hdie e).1, fun e => (hdie e).2, fun _ => rfl, fun _ => rfl, rfl, rfl, rfl, rfl, rfl, rfl, rfl, rfl⟩

/-! ### Changes that leave it -/

theorem count (s : State) (core code : Nat) : s.SameReads (s.count core code) := of_readsAs (s.readsAs_count core code)
theorem countEv (s : State) (d : Fin 4) (code row n : Nat) : s.SameReads (s.countEv d code row n) :=
  of_readsAs (s.readsAs_countEv d code row n)
theorem touch (s : State) (w : Who) (ea : Word) (n : Nat) : s.SameReads (s.touch w ea n) := of_readsAs (s.readsAs_touch w ea n)
theorem posts (s : State) (l : List (Nat × Instr)) : s.SameReads (s.posts l) := of_readsAs (s.readsAs_posts l)
theorem post (s : State) (u : Nat) (i : Instr) : s.SameReads (s.post u i) := posts s [(u, i)]

theorem postOnce (s : State) (u : Nat) (i : Instr) : s.SameReads (s.postOnce u i) := by
  obtain ⟨l, h⟩ := s.postOnce_eq u i
  exact h ▸ posts s l

theorem setStrand (s : State) (k : Nat) (t : Strand) : s.SameReads (s.setStrand k t) :=
  ⟨fun _ => rfl, fun _ => rfl, fun _ => rfl, fun _ => rfl, rfl, rfl, rfl, rfl, rfl, rfl, rfl, rfl⟩

theorem modRow (s : State) (r : Nat) (f : Row → Row) : s.SameReads (s.modRow r f) :=
  ⟨fun _ => rfl, fun _ => rfl, fun _ => rfl, fun _ => rfl, rfl, rfl, rfl, rfl, rfl, rfl, rfl, rfl⟩

theorem setOps (s : State) (l : List MxOp) (n : Nat) : s.SameReads { s with ops := l, nextOp := n } :=
  ⟨fun _ => rfl, fun _ => rfl, fun _ => rfl, fun _ => rfl, rfl, rfl, rfl, rfl, rfl, rfl, rfl, rfl⟩

/-- A change of a core that leaves its translations and its registers. -/
theorem modCore (s : State) (core : Nat) {f : Core → Core} (ht : ∀ c, (f c).tlb = c.tlb) (hr : ∀ c, (f c).regs = c.regs) :
    s.SameReads (s.modCore core f) := by
  refine ⟨fun _ => rfl, fun _ => rfl, fun c => ?_, fun c => ?_, rfl, rfl, rfl, rfl, rfl, rfl, rfl, rfl⟩ <;>
    rw [State.core_modCore] <;> split
  · next h => rw [ht, h]
  · rfl
  · next h => rw [hr, h]
  · rfl

theorem modSlot (s : State) (core i : Nat) (f : Slot → Slot) : s.SameReads (s.modSlot core i f) :=
  modCore s core (fun _ => rfl) (fun _ => rfl)

theorem settleSlots (s : State) (core : Nat) : s.SameReads (s.settleSlots core) := modCore s core (fun _ => rfl) (fun _ => rfl)

theorem foldl {α : Type} {f : State → α → State} (h : ∀ (s : State) x, s.SameReads (f s x)) (l : List α) :
    ∀ s : State, s.SameReads (l.foldl f s) := by
  induction l with
  | nil => exact refl
  | cons x l ih => exact fun s => trans (h s x) (ih _)

/-! ### What reads the same -/

section
variable {s t : State} (h : s.SameReads t)
include h

theorem sameMemory : s.sameMemory t := by
  refine ⟨fun d a => ?_, fun a => ?_, fun a => ?_, fun a => ?_⟩
  · rw [h.view]
  · rw [h.ws]
  · rw [h.lds]
  · rw [h.opmem]

theorem regs (c ctx : Nat) : t.regs c ctx = s.regs c ctx := by rw [State.regs, h.coreRegs]; rfl

theorem lc (k : Nat) : t.lc k = s.lc k := by rw [State.lc, h.lcs]; rfl

theorem now : t.now = s.now := by rw [State.now, h.time]; rfl

theorem unitStalls (lines : List Nat) (c : Nat × Nat) : t.unitStalls lines c = s.unitStalls lines c := by
  simp only [State.unitStalls, h.now]

theorem whoFor (k core ctx : Nat) (sup : Bool) (task : Option Task) (mark : Nat) :
    t.whoFor k core ctx sup task mark = s.whoFor k core ctx sup task mark := by
  simp only [State.whoFor, State.ctx?, h.ctxs]

theorem gread : t.gread = s.gread := by
  funext d pa n
  simp only [State.gread, h.view]

theorem tagged (d : Fin 4) (a : Nat) : t.tagged d a = s.tagged d a := by simp only [State.tagged, h.view]

theorem walk (d : Fin 4) (tt va : Nat) : t.walk d tt va = s.walk d tt va := by simp only [State.walk, h.gread]

theorem xl (w : Who) (va : Nat) : t.xl w va = s.xl w va := by
  simp only [State.xl, State.xlateBy, State.xlate, State.xlateIn, h.walk, h.regs, h.coreTlb, h.dieTlb, h.baseTlb]

theorem ldsPhys (w : Who) (o : Nat) : t.ldsPhys w o = s.ldsPhys w o := by simp only [State.ldsPhys, h.lc]

theorem ldByte (w : Who) (ea : Word) : t.ldByte w ea = s.ldByte w ea := by
  simp only [State.ldByte, h.xl, h.view, h.ws, h.lds, h.ldsPhys]

theorem ldBytes (w : Who) (ea : Word) (n : Nat) : t.ldBytes w ea n = s.ldBytes w ea n := by
  induction n generalizing ea with
  | zero => rfl
  | succ n ih => simp only [State.ldBytes, h.ldByte, ih]

theorem ldNat (w : Who) (ea : Word) (n : Nat) : t.ldNat w ea n = s.ldNat w ea n := by simp only [State.ldNat, h.ldBytes]

theorem badLine (pa : Nat) : t.badLine pa = s.badLine pa := by simp only [State.badLine, h.ecc]

theorem walkHit (m : Mmu) (c ctx va : Nat) : t.walkHit m c ctx va = s.walkHit m c ctx va := by
  have hbad : t.badLine = s.badLine := funext h.badLine
  simp only [State.walkHit, State.walkBad, State.walkReads, h.gread, hbad, h.ecc, h.regs, h.coreTlb, h.dieTlb, h.baseTlb]

theorem eccHit (w : Who) (ea : Word) (n : Nat) : t.eccHit w ea n = s.eccHit w ea n := by
  have hwalk : t.walkHit w.mmu w.core w.ctx = s.walkHit w.mmu w.core w.ctx := funext fun va => h.walkHit _ _ _ va
  simp only [State.eccHit, State.tableHit, h.badLine, h.xl, h.ecc, hwalk]

theorem permCheck (w : Who) (kd : AccKind) (ea : Word) (n : Nat) : t.permCheck w kd ea n = s.permCheck w kd ea n := by
  simp only [State.permCheck, State.publishCheck, h.xl, h.tagged]

/-- An access passes the same checks. -/
theorem access (w : Who) (kd : AccKind) (ea : Word) (n al : Nat) : t.access w kd ea n al = s.access w kd ea n al := by
  simp only [State.access, h.permCheck]

end

end State.SameReads

end Sys2Proof.Machine
end

section
/-! PROOF. A step of the chip: the turn of the device, and the turn of a core that issues an instruction (R93, R98, R200,
R218). -/
namespace Sys2Proof.Machine

/-! ### Parts of a load -/

section
variable (s : State) (w : Who)

theorem State.ldBytes_take (n : Nat) : ∀ (k : Nat) (ea : Word), k ≤ n → (s.ldBytes w ea n).take k = s.ldBytes w ea k := by
  induction n with
  | zero => intro k ea hk; rw [Nat.le_zero.mp hk]; rfl
  | succ n ih =>
    intro k ea hk
    cases k with
    | zero => rfl
    | succ k => simp only [State.ldBytes, List.take_succ_cons, ih k _ (Nat.le_of_succ_le_succ hk)]

theorem State.ldBytes_drop (n : Nat) : ∀ (k : Nat) (ea : Word),
    (s.ldBytes w ea n).drop k = s.ldBytes w (ea + BitVec.ofNat 64 k) (n - k) := by
  induction n with
  | zero => intro k ea; simp [State.ldBytes]
  | succ n ih =>
    intro k ea
    cases k with
    | zero => simp
    | succ k =>
      have hea : ea + 1 + BitVec.ofNat 64 k = ea + BitVec.ofNat 64 (k + 1) := by
        rw [BitVec.add_assoc, BitVec.ofNat_add, BitVec.add_comm (BitVec.ofNat 64 k)]; rfl
      rw [State.ldBytes, List.drop_succ_cons, ih, hea, Nat.succ_sub_succ]

/-- An aligned word lies whole in its code line. -/
theorem State.ldBytes_line {ea : Word} (h : ea.toNat % 8 = 0) :
    ((s.ldBytes w (BitVec.ofNat 64 (ea.toNat / lineBytes * lineBytes)) lineBytes).drop (ea.toNat % lineBytes)).take 8 =
      s.ldBytes w ea 8 := by
  have hea : BitVec.ofNat 64 (ea.toNat / lineBytes * lineBytes) + BitVec.ofNat 64 (ea.toNat % lineBytes) = ea := by
    rw [← BitVec.ofNat_add, Nat.mul_comm, Nat.div_add_mod, BitVec.ofNat_toNat, BitVec.setWidth_eq]
  rw [State.ldBytes_drop, hea]
  exact State.ldBytes_take s w _ 8 ea (by simp only [lineBytes]; omega)

end

/-! ### The instruction cache (R98) -/

/-- The cached code lines of a context are those of memory. -/
def State.cacheCurrent (s : State) (w : Who) : Prop :=
  ∀ e ∈ (s.core w.core).icache, e.1 = w.ctx → e.2.2 = s.ldBytes w (BitVec.ofNat 64 e.2.1) lineBytes

/-- What a fetch leaves as it was: the strands, the unit of the step, and what memory reads. -/
def State.fetched (s t : State) : Prop := t.cur = s.cur ∧ t.strands = s.strands ∧ s.SameReads t

theorem State.fetched_trans {s t u : State} (h : s.fetched t) (h' : t.fetched u) : s.fetched u := by
  obtain ⟨hcur, hstr, hr⟩ := h
  obtain ⟨hcur', hstr', hr'⟩ := h'
  exact ⟨hcur'.trans hcur, hstr'.trans hstr, hr.trans hr'⟩

theorem State.fetched_countEv (s : State) (d : Fin 4) (code row n : Nat) : s.fetched (s.countEv d code row n) :=
  ⟨rfl, rfl, .countEv s d code row n⟩

theorem State.fetched_count (s : State) (core code : Nat) : s.fetched (s.count core code) :=
  ⟨s.cur_count core code, State.count_keeps (p := State.strands) (fun _ _ _ => rfl) s core code, .count s core code⟩

theorem State.fetched_touch (s : State) (w : Who) (ea : Word) (n : Nat) : s.fetched (s.touch w ea n) := by
  have hkeeps : (s.touch w ea n).cur = s.cur ∧ (s.touch w ea n).strands = s.strands := by
    unfold State.touch
    split
    · exact ⟨rfl, rfl⟩
    · refine List.foldlRecOn (motive := fun t : State => t.cur = s.cur ∧ t.strands = s.strands) _ _ ⟨rfl, rfl⟩ ?_
      rintro t ⟨hcur, hstr⟩ p -
      dsimp only
      obtain ⟨hc, hs, -⟩ := t.fetched_count w.core 0x1B
      split
      · exact ⟨hcur, hstr⟩
      · split
        · exact ⟨hc.trans hcur, hs.trans hstr⟩
        · exact ⟨hc.trans hcur, hs.trans hstr⟩
  exact ⟨hkeeps.1, hkeeps.2, .touch s w ea n⟩

theorem State.core_touch (s : State) (w : Who) (ea : Word) (n c : Nat) : (s.touch w ea n).core c = s.core c :=
  State.readsAs_core (s.readsAs_touch w ea n) c

/-- The state once a code line that is not cached has been read. -/
def State.lineCached (s : State) (w : Who) (line : Nat) : State :=
  (s.touch w (BitVec.ofNat 64 line) lineBytes).modCore w.core (fun c =>
    { c with icache := ((w.ctx, line, s.ldBytes w (BitVec.ofNat 64 line) lineBytes) :: c.icache).take 512 })

theorem State.fetched_lineCached (s : State) (w : Who) (line : Nat) : s.fetched (s.lineCached w line) :=
  State.fetched_trans (s.fetched_touch w _ _) ⟨rfl, rfl, .modCore _ _ (fun _ => rfl) (fun _ => rfl)⟩

section
variable {s t : State} {w : Who}

theorem State.cacheCurrent_lineCached (h : s.cacheCurrent w) (line : Nat) : (s.lineCached w line).cacheCurrent w := by
  obtain ⟨-, -, hr⟩ := s.fetched_lineCached w line
  intro e he hctx
  rw [hr.ldBytes]
  rw [State.lineCached, State.core_modCore, if_pos rfl, State.core_touch] at he
  rcases List.mem_cons.mp (List.mem_of_mem_take he) with rfl | he
  · rfl
  · exact h e he hctx

/-- A code line is read as memory has it, and the cache stays current. -/
theorem State.codeLine_current (h : s.cacheCurrent w) (line : Nat) :
    ∃ t, s.codeLine w line = (s.ldBytes w (BitVec.ofNat 64 line) lineBytes, t) ∧ s.fetched t ∧ t.cacheCurrent w := by
  unfold State.codeLine
  dsimp only
  split
  · exact ⟨s.lineCached w line, rfl, s.fetched_lineCached w line, State.cacheCurrent_lineCached h line⟩
  · next e1 e2 old hfind =>
    have hmem := List.mem_of_find?_eq_some hfind
    have hkey := List.find?_some hfind
    simp only [Bool.and_eq_true, beq_iff_eq] at hkey
    obtain ⟨hctx, hln⟩ := hkey
    have hold : old = s.ldBytes w (BitVec.ofNat 64 line) lineBytes := by
      rw [← hln]; exact h _ hmem hctx
    rw [if_pos hold]
    exact ⟨s, rfl, ⟨rfl, rfl, .refl s⟩, h⟩

end

/-! ### A fetch (R200, R218) -/

theorem State.access_misaligned (s : State) (w : Who) (kd : AccKind) {ea : Word} {n al : Nat} (h : ea.toNat % al ≠ 0) :
    s.access w kd ea n al = .error ⟨tALIGN, n, ea, 0⟩ := by
  rw [State.access, alignCheck, if_neg h]
  rfl

theorem State.fetchCheck_aligned {s : State} {w : Who} {ea : Word} (h : s.fetchCheck w ea = .ok ()) : ea.toNat % 8 = 0 := by
  by_contra hne
  simp [State.fetchCheck, s.access_misaligned w kLoad hne, tALIGN, tXLATE] at h

theorem State.SameReads.fetchCheck {s t : State} (h : s.SameReads t) (w : Who) (ea : Word) :
    t.fetchCheck w ea = s.fetchCheck w ea := by simp only [State.fetchCheck, h.access]

/-- A fetch whose checks pass, below 2^32, gives the word of memory at the PC. -/
theorem State.fetchWord_current {s : State} {pc : Word} (hpc : pc.toNat < 2 ^ 32) (hc : s.fetchCheck s.who (s.who.code pc) = .ok ())
    (h : s.cacheCurrent s.who) : ∃ t, s.fetchWord pc = .ok (wordOfBytes (s.ldBytes s.who (s.who.code pc) 8), t) ∧
      s.fetched t ∧ t.cacheCurrent s.who := by
  obtain ⟨t, hline, ht, hcur⟩ := State.codeLine_current h ((s.who.code pc).toNat / lineBytes * lineBytes)
  refine ⟨t, ?_, ht, hcur⟩
  have hnot : ¬ 2 ^ 32 ≤ pc.toNat := Nat.not_le.mpr hpc
  simp only [State.fetchWord, if_neg hnot, hc, hline, State.ldBytes_line s _ (State.fetchCheck_aligned hc)]

/-- The word that a fetch has read, for the record of a trap (R161). -/
def State.fetchedWord (s : State) (w : Word) : State := s.mod (fun x => { x with iword := w })

theorem State.who_eq {s t : State} (hcur : t.cur = s.cur) (hser : (t.strand s.cur).serial = (s.strand s.cur).serial)
    (htask : (t.strand s.cur).task = (s.strand s.cur).task) (hsup : (t.strand s.cur).sup = (s.strand s.cur).sup)
    (hr : s.SameReads t) : t.who = s.who := by
  rw [State.who, State.who, State.whoOf, State.whoOf, hcur, State.mark, State.mark, hser, htask, hsup, hr.whoFor]

theorem State.who_fetchedWord {s t : State} (w : Word) (h : s.fetched t) : (t.fetchedWord w).who = s.who := by
  obtain ⟨hcur, hstr, hr⟩ := h
  have hst : (t.fetchedWord w).strand s.cur = { s.st with iword := w } := by
    rw [← hcur]
    exact (State.st_mod t _).trans (by rw [State.st, State.strand, hcur, hstr]; rfl)
  exact State.who_eq hcur (by rw [hst]; rfl) (by rw [hst]; rfl) (by rw [hst]; rfl) (hr.trans (.setStrand t _ _))

theorem State.st_fetched {s t : State} (h : s.fetched t) : t.st = s.st := by
  obtain ⟨hcur, hstr, -⟩ := h
  rw [State.st, State.strand, hcur, hstr]
  rfl

theorem State.st_fetchedWord {s t : State} (w : Word) (h : s.fetched t) : (t.fetchedWord w).st = { s.st with iword := w } := by
  rw [State.fetchedWord, State.st_mod, State.st_fetched h]

theorem State.fetched_fetchedWord {s t : State} (w : Word) (h : s.fetched t) : (s.fetchedWord w).fetched (t.fetchedWord w) := by
  have hst := State.st_fetched h
  obtain ⟨hcur, hstr, hr⟩ := h
  refine ⟨hcur, ?_, (SameReads.setStrand s _ _).symm.trans (hr.trans (.setStrand t _ _))⟩
  show t.strands.set t.cur { t.st with iword := w } = s.strands.set s.cur { s.st with iword := w }
  rw [hst, hstr, hcur]

theorem State.sameReads_fetchedWord {s t : State} (w : Word) (h : s.fetched t) : s.SameReads (t.fetchedWord w) :=
  h.2.2.trans (.setStrand t _ _)

theorem State.fetchHit_fetchedWord {s t : State} (w : Word) (h : s.fetched t) (pc : Word) :
    (t.fetchedWord w).fetchHit pc = s.fetchHit pc := by
  rw [State.fetchHit, State.fetchHit, State.who_fetchedWord w h]
  rw [(State.sameReads_fetchedWord w h).eccHit]

/-- The instruction that the fetched words stand for is planned, in a state in which nothing has changed but counts, caches
and the word for a trap record. -/
def State.plans (s : State) (w : Word) (i : Instr) (p : Plan) : Prop :=
  ∃ t, p = .run i t ∧ (s.fetchedWord w).fetched t

/-- The instruction is counted once, when it issues (R28). -/
theorem State.plans_counted {s t : State} {w : Word} (h : (s.fetchedWord w).fetched t) (b : Bool) (core : Nat) (i : Instr) :
    s.plans w i (.run i (if b then t else t.count core 0x03)) := by
  refine ⟨_, rfl, ?_⟩
  split
  · exact h
  · exact State.fetched_trans h (t.fetched_count _ _)

/-- The word of memory at an address, as the current strand reads it. -/
def State.wordAt (s : State) (ea : Word) : Word := wordOfBytes (s.ldBytes s.who ea 8)

/-- What is planned once the first word has been fetched: the second word where there is one, and the decoder. -/
def State.planDecoded (s : State) (w : Word) : Plan :=
  if hasSecond w && s.fetchHit (s.st.pc + 8) then .done (s.endLaunch s.curCtx 1) else
  match (if hasSecond w then s.fetchWord (s.st.pc + 8) else .ok (0, s)) with
  | .error t => .done (s.takeTrap t)
  | .ok (w2, s) =>
    match decodeWord w w2 with
    | .ok i => .run i (if s.st.stall.isSome || s.st.held then s else s.count (coreOf s.cur) 0x03)
    | .error e =>
      if e ≠ .unassigned ∧ privWord w ∧ !s.st.sup then .done (s.takeTrap ⟨tPRIV, privDetail w, 0, 0⟩)
      else .done (s.takeTrap ⟨tILLOP, 0, 0, 0⟩)

theorem State.planFetch_fetched {s t : State} {w : Word} (hhit : s.fetchHit s.st.pc = false)
    (hw : s.fetchWord s.st.pc = .ok (w, t)) : s.planFetch = (t.fetchedWord w).planDecoded w := by
  rw [State.planFetch, hhit, hw]
  rfl

section
variable {s : State} {i : Instr} (hpc : s.st.pc.toNat + 8 < 2 ^ 32) (hhit : s.fetchHit s.st.pc = false)
  (hc : s.fetchCheck s.who (s.who.code s.st.pc) = .ok ()) (hcache : s.cacheCurrent s.who)
include hpc hhit hc hcache

/-- An instruction of one word. -/
theorem State.planFetch_one (h1 : hasSecond (s.wordAt (s.who.code s.st.pc)) = false)
    (hd : decodeWord (s.wordAt (s.who.code s.st.pc)) 0 = .ok i) : s.plans (s.wordAt (s.who.code s.st.pc)) i s.planFetch := by
  obtain ⟨t, hw, ht, -⟩ := State.fetchWord_current (by omega) hc hcache
  rw [State.planFetch_fetched hhit hw]
  change hasSecond (wordOfBytes _) = false at h1
  change decodeWord (wordOfBytes _) 0 = .ok i at hd
  simp only [State.planDecoded, h1, hd, Bool.false_and, Bool.false_eq_true, if_false]
  exact State.plans_counted (State.fetched_fetchedWord _ ht) _ _ i

/-- An instruction of two. -/
theorem State.planFetch_two (h1 : hasSecond (s.wordAt (s.who.code s.st.pc)) = true) (hhit' : s.fetchHit (s.st.pc + 8) = false)
    (hc' : s.fetchCheck s.who (s.who.code s.st.pc + 8) = .ok ())
    (hd : decodeWord (s.wordAt (s.who.code s.st.pc)) (s.wordAt (s.who.code s.st.pc + 8)) = .ok i) :
    s.plans (s.wordAt (s.who.code s.st.pc)) i s.planFetch := by
  obtain ⟨t, hw, ht, hcur⟩ := State.fetchWord_current (by omega) hc hcache
  change s.fetchWord s.st.pc = .ok (s.wordAt (s.who.code s.st.pc), t) at hw
  rw [State.planFetch_fetched hhit hw]
  generalize s.wordAt (s.who.code s.st.pc) = w at h1 hd ⊢
  have hr := State.sameReads_fetchedWord w ht
  have hwho := State.who_fetchedWord w ht
  have hpc1 : (t.fetchedWord w).st.pc = s.st.pc := by rw [State.st_fetchedWord w ht]
  have hcode : s.who.code (s.st.pc + 8) = s.who.code s.st.pc + 8 := (BitVec.add_assoc _ _ _).symm
  have hpc' : (s.st.pc + 8).toNat < 2 ^ 32 := by
    rw [BitVec.toNat_add]
    exact Nat.lt_of_le_of_lt (Nat.mod_le _ _) hpc
  have hcur' : (t.fetchedWord w).cacheCurrent (t.fetchedWord w).who := fun e he hctx => by
    rw [hwho] at he hctx ⊢
    rw [hr.ldBytes, ← ht.2.2.ldBytes]
    exact hcur e he hctx
  have hcheck : (t.fetchedWord w).fetchCheck (t.fetchedWord w).who ((t.fetchedWord w).who.code (s.st.pc + 8)) = .ok () := by
    rw [hwho, hr.fetchCheck, hcode, hc']
  obtain ⟨u, hw', hu, -⟩ := State.fetchWord_current hpc' hcheck hcur'
  rw [hwho, hcode, hr.ldBytes] at hw'
  change _ = Except.ok (s.wordAt (s.who.code s.st.pc + 8), u) at hw'
  simp only [State.planDecoded, h1, hpc1, State.fetchHit_fetchedWord w ht, hhit', hw', hd, Bool.and_false, Bool.false_eq_true, if_false, if_true]
  exact State.plans_counted (State.fetched_trans (State.fetched_fetchedWord w ht) hu) _ _ i

end

/-! ### The turns (R93; log 11) -/

/-- Strand `k` at its turn: its readiness and its issue are noted (R93). -/
def State.issuing (s : State) (k : Nat) : State :=
  let s : State := { s with cur := k }
  s.mod (fun t => { t with readyAt := s.cyc (coreOf k), issuedAt := s.steps })

/-- Nothing is pending at the instruction boundary of strand `k`, or its instruction goes on after a stall. -/
def State.goesOn (s : State) (k : Nat) : Prop :=
  s.st.stall.isSome = true ∨ (s.st.phase ≠ .stopping ∧ s.st.haltReq = false ∧ (s.st.dlePend = false ∨ s.st.task = none) ∧
    s.watchdogDue k = false ∧ s.st.breakAt = none)

/-- What is planned at the instruction boundary of strand `k`. -/
def State.planBoundary (s : State) (k : Nat) : Plan :=
  if s.st.stall.isSome then s.planFetch
  else if s.st.phase = .stopping then .done (s.legStopped k)
  else if s.st.haltReq then .run .haltStop s
  else if s.st.dlePend ∧ s.st.task.isSome then
    let s := s.mod (fun t => { t with dlePend := false, iword := s.nextWord })
    .done (s.takeTrap ⟨tDLESC, s.st.dlcount.toNat, 0, 0⟩)
  else if s.watchdogDue k then .run .watchdog (s.mod (fun t => { t with iword := s.nextWord }))
  else
    match s.st.breakAt with
    | some n => .done ((s.mod (fun t => { t with iword := s.nextWord })).takeTrap ⟨tBRK, n, 0, 0⟩)
    | none => s.planFetch

theorem State.planStrand_eq (s : State) (k : Nat) : s.planStrand k = (s.issuing k).planBoundary k := rfl

/-- With nothing pending the instruction at the PC is planned. -/
theorem State.planBoundary_goesOn {s : State} {k : Nat} (h : s.goesOn k) : s.planBoundary k = s.planFetch := by
  rcases h with h | ⟨hph, hhalt, hdle, hwd, hbr⟩
  · rw [State.planBoundary, if_pos h]
  · have hdle' : ¬ (s.st.dlePend = true ∧ s.st.task.isSome = true) := by
      rintro ⟨h1, h2⟩
      rcases hdle with h | h <;> simp [h] at h1 h2
    simp only [State.planBoundary, if_neg hph, hhalt, Bool.false_eq_true, if_false, if_neg hdle', hwd, hbr, ite_self]

/-- The core issues from the strand that it picks. -/
theorem State.planCore_picked {s p : State} {c k : Nat}
    (hp : p = [4 * c, 4 * c + 1, 4 * c + 2, 4 * c + 3].foldl (fun (s : State) k => s.pollStrand k) s)
    (hk : p.pickStrand c = some k) : s.planCore c = p.planStrand k := by
  have hplan : s.planCore c = match p.pickStrand c with
      | none => .done p
      | some k => p.planStrand k := by
    rw [hp]
    rfl
  rw [hplan, hk]

/-- The planned instruction runs on a state that differs from `s` as a fetch leaves it. -/
theorem State.plans_runs {s : State} {w : Word} {i : Instr} {p : Plan} (h : s.plans w i p) :
    ∃ t, runPlan p = ticked (exec i t) ∧ t.cur = s.cur ∧ t.st = { s.st with iword := w } ∧ t.ctxs = s.ctxs ∧ s.sameMemory t := by
  obtain ⟨t, rfl, ht⟩ := h
  have hr : s.SameReads t := (State.SameReads.setStrand s _ _).trans ht.2.2
  exact ⟨t, rfl, ht.1, (State.st_fetched ht).trans (State.st_mod s _), hr.ctxs, hr.sameMemory⟩

/-! ### The obligation -/

/-- Settles O59: a fetch gives the bytes of memory (`State.fetchWord_current`), and the turn of the core plans the instruction that
they decode to (`State.planBoundary_goesOn`, `State.planFetch_one`, `State.planFetch_two`). -/
theorem stepRunsDecoded : Obligations.StepRunsDecoded := by
  intro s c k o i p q u ea w w2 runs
  have hstep : s.power.off = false → step s = runPlan s.plan := fun h => by simp [step, h]
  refine ⟨fun h => by simp [step, h], fun hon => ⟨fun j rest ho ha => ?_, fun ho hk hb hpc hc hhit hcache => ?_⟩⟩
  · rw [hstep hon]
    simp [State.plan, State.planEvent, ho, ha, runPlan]
  · have hplan : s.plan = u.planFetch := by
      have hcore : s.plan = p.planStrand k := by
        rw [State.plan, ho]
        exact State.planCore_picked rfl hk
      rw [hcore, State.planStrand_eq]
      exact State.planBoundary_goesOn hb
    have hcurrent : u.cacheCurrent u.who := by
      intro e he
      rw [show (u.core u.who.core).icache = [] from hcache] at he
      exact absurd he List.not_mem_nil
    have hruns : u.plans w i u.planFetch → runs := fun h => by
      rw [show runs = ∃ t, step s = ticked (exec i t) ∧ t.cur = k ∧ t.st = { u.st with iword := w } ∧ t.ctxs = u.ctxs ∧
        u.sameMemory t from rfl, hstep hon, hplan]
      exact State.plans_runs h
    exact ⟨fun h1 hd => hruns (State.planFetch_one hpc hhit hc hcurrent h1 hd), fun h1 hhit' hc' hd =>
      hruns (State.planFetch_two hpc hhit hc hcurrent h1 hhit' hc' hd)⟩

end Sys2Proof.Machine
end

section
/-! PROOF. Operand slots: SCLAIM, SREL, SFILL, SSTAT and the fills of the slots (R107, R108, R134, R318 to R320). -/
namespace Sys2Proof.Machine

/-! ### Slots that are read after they are written -/

theorem State.slot_beyond (s : State) (c : Nat) {i : Nat} (h : 32 ≤ i) : s.slot c i = freeSlot := by
  simp [State.slot, h]

theorem State.slot_eq (s : State) (c : Nat) {i : Nat} (h : i < 32) : s.slot c i = (s.core c).slots[i] := by
  simp [State.slot, h]

theorem State.slot_lt_of_st {s : State} {c i : Nat} (h : (s.slot c i).st ≠ 0) : i < 32 := by
  by_contra hi
  rw [State.slot_beyond s c (by omega)] at h
  exact h rfl

/-- What a slot reads when its core is the same. -/
theorem State.slot_of_core {s t : State} {c : Nat} (h : t.core c = s.core c) (i : Nat) : t.slot c i = s.slot c i := by
  rw [State.slot, h]; rfl

@[simp] theorem State.slot_posts (s : State) (l : List (Nat × Instr)) (c i : Nat) : (s.posts l).slot c i = s.slot c i := rfl
@[simp] theorem State.slot_post (s : State) (u : Nat) (e : Instr) (c i : Nat) : (s.post u e).slot c i = s.slot c i := rfl
@[simp] theorem State.slot_setStrand (s : State) (k : Nat) (t : Strand) (c i : Nat) :
    (s.setStrand k t).slot c i = s.slot c i := rfl
@[simp] theorem State.slot_mod (s : State) (f : Strand → Strand) (c i : Nat) : (s.mod f).slot c i = s.slot c i := rfl
@[simp] theorem State.slot_wS (s : State) (d : SReg) (v : Word) (c i : Nat) : (s.wS d v).slot c i = s.slot c i := rfl
@[simp] theorem State.slot_adv (s : State) (n c i : Nat) : (s.adv n).slot c i = s.slot c i := rfl
@[simp] theorem State.slot_setRing (s : State) (r : Option (Nat × Nat)) (c i : Nat) : (s.setRing r).slot c i = s.slot c i := rfl
@[simp] theorem State.slot_count (s : State) (core code c i : Nat) : (s.count core code).slot c i = s.slot c i :=
  State.slot_of_core (s.core_count core code c) i
@[simp] theorem State.slot_countEv (s : State) (d : Fin 4) (code row n c i : Nat) :
    (s.countEv d code row n).slot c i = s.slot c i := rfl
@[simp] theorem State.slot_touch (s : State) (w : Who) (ea : Word) (n c i : Nat) : (s.touch w ea n).slot c i = s.slot c i :=
  State.slot_of_core (s.core_touch w ea n c) i

theorem State.slot_modSlot (s : State) (core i : Nat) (f : Slot → Slot) (j : Nat) :
    (s.modSlot core i f).slot core j = if j = i ∧ i < 32 then f (s.slot core i) else s.slot core j := by
  by_cases hj : j < 32
  · rw [State.slot_eq _ _ hj, State.modSlot, State.core_modCore, if_pos rfl]
    by_cases hij : j = i
    · subst hij
      simp [hj, State.slot]
    · simp [hij, Ne.symm hij, State.slot_eq _ _ hj]
  · rw [State.slot_beyond _ _ (by omega), State.slot_beyond s core (i := j) (by omega), if_neg (by omega)]

/-- A slot whose release is pending, once nothing uses it. -/
def Slot.settled (x : Slot) (named : Bool) : Slot := if x.rel && x.st != 2 && x.pend.isNone && !named then freeSlot else x

theorem State.slot_settleSlots (s : State) (core : Nat) {i : Nat} (h : i < 32) :
    (s.settleSlots core).slot core i = (s.slot core i).settled (s.slotNamed core i none) := by
  rw [State.slot_eq _ _ h, State.settleSlots, State.core_modCore, if_pos rfl, State.slot_eq _ _ h]
  simp [Slot.settled]

/-- A slot that is released. -/
def Slot.released (x : Slot) (named : Bool) : Slot :=
  if x.st = 0 then x else if x.st = 2 ∨ x.pend.isSome ∨ (x.st = 3 ∧ named) then { x with rel := true } else freeSlot

theorem State.slot_relSlot (s : State) (core i : Nat) {j : Nat} (h : j < 32) :
    (s.relSlot core i).slot core j = if j = i then (s.slot core i).released (s.slotNamed core i none) else s.slot core j := by
  rw [State.slot_eq _ _ h, State.relSlot, State.core_modCore, if_pos rfl, State.slot_eq _ _ h]
  by_cases hj : j = i
  · subst hj
    by_cases h0 : (s.core core).slots[j].st = 0 <;> simp [Slot.released, State.slot_eq _ _ h, h0]
  · simp [hj]

/-! ### SCLAIM (R318) -/

/-- The lowest run is found. -/
theorem freeRun_lowest {free : Nat → Bool} {f x : Nat} (h : f + x ≤ 32) (hrun : ∀ j, j < x → free (f + j) = true)
    (hlow : ∀ e, e < f → ∃ j, j < x ∧ free (e + j) = false) : freeRun free x = some f := by
  rw [freeRun, List.find?_range_eq_some]
  refine ⟨List.all_eq_true.mpr fun j hj => hrun j (List.mem_range.mp hj), List.mem_range.mpr (by omega), fun e he => ?_⟩
  obtain ⟨j, hj, hfree⟩ := hlow e he
  rw [Bool.not_eq_true', List.all_eq_false]
  exact ⟨j, List.mem_range.mpr hj, by simp [hfree]⟩

/-- `n` slots from `f` on are claimed for the task of the current strand. -/
def State.claim (s : State) (core f n : Nat) : State :=
  (List.range n).foldl (fun (s : State) i =>
    s.modSlot core (f + i) (fun _ => { freeSlot with st := 1, owner := s.mark s.cur })) s

theorem State.claim_succ (s : State) (core f n : Nat) : s.claim core f (n + 1) =
    (s.claim core f n).modSlot core (f + n) (fun _ => { freeSlot with st := 1, owner := (s.claim core f n).mark (s.claim core f n).cur }) := by
  simp only [State.claim, List.range_succ, List.foldl_append]
  rfl

theorem State.claim_rest (s : State) (core f n : Nat) : (s.claim core f n).cur = s.cur ∧ (s.claim core f n).strands = s.strands := by
  induction n with
  | zero => exact ⟨rfl, rfl⟩
  | succ n ih => rw [State.claim_succ]; exact ih

theorem State.st_claim (s : State) (core f n : Nat) : (s.claim core f n).st = s.st := by
  obtain ⟨hcur, hstr⟩ := s.claim_rest core f n
  rw [State.st, State.strand, hcur, hstr]; rfl

theorem State.mark_claim (s : State) (core f n : Nat) : (s.claim core f n).mark (s.claim core f n).cur = s.mark s.cur := by
  obtain ⟨hcur, hstr⟩ := s.claim_rest core f n
  rw [State.mark, State.strand, hcur, hstr]; rfl

theorem State.slot_claim (s : State) (core f j : Nat) : ∀ {n : Nat}, f + n ≤ 32 → (s.claim core f n).slot core j =
    if f ≤ j ∧ j < f + n then { freeSlot with st := 1, owner := s.mark s.cur } else s.slot core j := by
  intro n
  induction n with
  | zero => intro _; rw [if_neg (by omega)]; rfl
  | succ n ih =>
    intro h
    rw [State.claim_succ, State.slot_modSlot, State.mark_claim, ih (by omega)]
    by_cases hj : j = f + n
    · rw [if_pos ⟨hj, by omega⟩, if_pos (by omega)]
    · rw [if_neg (fun hh => hj hh.1)]
      exact if_congr (by omega) rfl rfl

section
variable {s : State} {g : Guard} {d a b c : SReg} {x : BitVec 6} {k : Task} (hg : s.guard g = true) (hk : s.st.task = some k)

theorem State.ring_none (hk : s.st.task = some k) (h : k.ring = none) : s.ring = trapc tSLOT 0xFF := by simp [State.ring, hk, h]
theorem State.ring_some {r : Nat × Nat} (hk : s.st.task = some k) (h : k.ring = some r) : s.ring = .ok r := by
  simp [State.ring, hk, h]

/-- The strand whose task has a ring given or taken. -/
theorem State.st_setRing (s : State) (r : Option (Nat × Nat)) :
    (s.setRing r).st = { s.st with task := s.st.task.map (fun k => { k with ring := r }) } := State.st_mod s _

include hg hk

theorem exec_sclaim_claims {f : Nat} (hr : k.ring = none) (hcap : x.toNat ≤ s.capslot (coreOf s.cur) s.curCtx) (hf : f + x.toNat ≤ 32)
    (hrun : ∀ j, j < x.toNat → ((s.slot (coreOf s.cur) (f + j)).st == 0) = true)
    (hlow : ∀ e, e < f → ∃ j, j < x.toNat ∧ ((s.slot (coreOf s.cur) (e + j)).st == 0) = false) :
    ∃ t k', exec (.sclaim g d x) s = .next t ∧ t.st.pc = s.st.pc + 8 ∧ (d ≠ 0 → t.rS d = statusWord 0 f) ∧
      t.st.task = some k' ∧ k'.ring = some (f, x.toNat) ∧ (∀ j, j < 32 → t.slot (coreOf s.cur) j =
        if f ≤ j ∧ j < f + x.toNat then { freeSlot with st := 1, owner := s.mark s.cur } else s.slot (coreOf s.cur) j) := by
  have hfind := freeRun_lowest (free := fun i => (s.slot (coreOf s.cur) i).st == 0) hf hrun hlow
  have hstep : exec (.sclaim g d x) s =
      .next ((((s.claim (coreOf s.cur) f x.toNat).setRing (some (f, x.toNat))).status d sOK f).adv 8) := by
    rw [exec_sclaim, execSclaim]
    refine guarded_ok hg ?_
    simp only [State.ring_none hk hr, trapc, if_neg (Nat.not_lt.mpr hcap), hfind]
    rfl
  rw [State.status, State.wS_adv] at hstep
  refine ⟨_, { k with ring := some (f, x.toNat) }, hstep, ?_, fun hd => ?_, ?_, rfl, fun j _ => State.slot_claim s _ f j hf⟩
  · rw [State.goes_st, Strand.wS_pc, State.st_setRing, State.st_claim]; rfl
  · rw [State.rS, State.goes_st, Strand.rS_wS, if_pos ⟨rfl, hd⟩]; rfl
  · rw [State.goes_st, Strand.wS_task, State.st_setRing, State.st_claim, hk]; rfl

/-- Without a run as long as X, SCLAIM gives BUSY with the longest. -/
theorem exec_sclaim_busy (hr : k.ring = none) (hcap : s.capslot (coreOf s.cur) s.curCtx < x.toNat) :
    exec (.sclaim g d x) s = s.givesS d (statusWord 7 (longestRun (fun j => (s.slot (coreOf s.cur) j).st == 0))) := by
  rw [exec_sclaim, execSclaim]
  refine (guarded_ok hg ?_).trans (congrArg Host.Outcome.next (State.wS_adv s d _ 8))
  simp only [State.ring_none hk hr, trapc, if_pos hcap]
  rfl

/-- A task with a ring claims no other. -/
theorem exec_sclaim_owned {f n : Nat} (hr : k.ring = some (f, n)) :
    exec (.sclaim g d x) s = .next (s.takeTrap ⟨0x16, f, 0, 0⟩) := by
  rw [exec_sclaim, execSclaim]
  refine guarded_trap hg ?_
  simp only [State.ring_some hk hr]
  rfl

end

/-! ### SREL (R107, R318) -/

/-- `n` slots of the current strand's core, from `f` on, are released. -/
def State.relSlots (s : State) (f n : Nat) : State :=
  (List.range n).foldl (fun (s : State) i => s.relSlot (coreOf s.cur) (f + i)) s

theorem State.relSlots_succ (s : State) (f n : Nat) :
    s.relSlots f (n + 1) = (s.relSlots f n).relSlot (coreOf (s.relSlots f n).cur) (f + n) := by
  simp only [State.relSlots, List.range_succ, List.foldl_append]
  rfl

theorem State.relSlots_rest (s : State) (f n : Nat) : (s.relSlots f n).cur = s.cur ∧ (s.relSlots f n).st = s.st := by
  induction n with
  | zero => exact ⟨rfl, rfl⟩
  | succ n ih => rw [State.relSlots_succ]; exact ih

/-- A slot that nothing uses is FREE at once; the release of another slot leaves it. -/
theorem State.slot_relSlots (s : State) (f : Nat) {i : Nat} (h1 : (s.slot (coreOf s.cur) i).st = 1)
    (hp : (s.slot (coreOf s.cur) i).pend = none) : ∀ n, (s.relSlots f n).slot (coreOf s.cur) i =
      if f ≤ i ∧ i < f + n then freeSlot else s.slot (coreOf s.cur) i := by
  have hi : i < 32 := State.slot_lt_of_st (s := s) (c := coreOf s.cur) (by omega)
  intro n
  induction n with
  | zero => rw [if_neg (by omega)]; rfl
  | succ n ih =>
    rw [State.relSlots_succ, (s.relSlots_rest f n).1, State.slot_relSlot _ _ _ hi]
    by_cases hin : i = f + n
    · rw [if_pos hin, ← hin, ih, if_neg (by omega), if_pos (by omega)]
      simp [Slot.released, h1, hp]
    · rw [if_neg hin, ih]
      exact if_congr (by omega) rfl rfl

section
variable {s : State} {g : Guard} {d a b c : SReg} {x : BitVec 6} {k : Task} {f n : Nat} (hg : s.guard g = true)
  (hk : s.st.task = some k) (hr : k.ring = some (f, n))
include hg hk hr

theorem exec_srel_releases (ha : (s.rS a).toNat = f) (hx : x.toNat = n) (i : Nat) :
    ∃ t k', exec (.srel g a x) s = .next t ∧ t.st.pc = s.st.pc + 8 ∧ t.st.task = some k' ∧ k'.ring = none ∧
      (f ≤ i → i < f + n → (s.slot (coreOf s.cur) i).st = 1 → (s.slot (coreOf s.cur) i).pend = none →
        t.slot (coreOf s.cur) i = freeSlot) := by
  have hstep : exec (.srel g a x) s = .next (((s.relSlots f n).setRing none).adv 8) := by
    rw [exec_srel, execSrel]
    refine guarded_ok hg ?_
    simp only [State.ring_some hk hr, ha, hx, ne_eq, not_true_eq_false, or_self, if_false]
    rfl
  refine ⟨_, { k with ring := none }, hstep, ?_, ?_, rfl, fun h1 h2 hst hp => ?_⟩
  · rw [State.st_adv, State.st_setRing, (s.relSlots_rest f n).2]; rfl
  · rw [State.st_adv, State.st_setRing, (s.relSlots_rest f n).2]; simp only [hk]; rfl
  · rw [State.slot_adv, State.slot_setRing, State.slot_relSlots s f hst hp, if_pos ⟨h1, h2⟩]

/-! ### SFILL (R108, R319) -/

section
variable {len : BitVec 8} {i : Nat}

/-- The bytes of a fill. -/
def fillBytes (len : BitVec 8) : Nat := if len = 0 then 8192 else 64 * len.toNat

/-- The fill that SFILL asks for. -/
def State.fillOf (s : State) (a : SReg) (len : BitVec 8) (k : Task) : Fill := ⟨s.rS a, fillBytes len, some k⟩

variable (hb : (s.rS b).toNat = f + ((s.rS c).setWidth 32 : BitVec 32).toNat % n) (hi : i = (s.rS b).toNat)
  (hacc : s.access s.who kFill (s.rS a) (fillBytes len) 64 = .ok ())
include hb hi hacc

/-- What SFILL does once its checks have passed. -/
theorem exec_sfill_checked {t : State}
    (h : (if (s.slot (coreOf s.cur) i).st = 1 ∨ (s.slot (coreOf s.cur) i).st = 4 then
        .ok ((s.startFill (coreOf s.cur) i ((s.rS c).setWidth 32) (s.fillOf a len k)).adv 8)
      else if (s.slot (coreOf s.cur) i).st = 3 ∧ (s.slot (coreOf s.cur) i).pend.isNone then
        .ok (((s.modSlot (coreOf s.cur) i (fun x =>
          { x with pend := some ((s.rS c).setWidth 32, s.fillOf a len k), lim := s.nextOp })).post (coreOf s.cur)
            (.slotFillStart (Fin.ofNat 32 i))).adv 8)
      else trapc tSLOT (i % 32)) = (.ok t : Except TrapInfo State)) : exec (.sfill g a b c len) s = .next t := by
  have hacc' : s.access s.who kFill (s.rS a) (if len = 0 then 8192 else 64 * len.toNat) 64 = .ok () := hacc
  rw [exec_sfill, execSfill]
  refine guarded_ok hg ?_
  subst hi
  simp only [State.ring_some hk hr, ne_eq, hb, not_true_eq_false, if_false, hacc', hk] at h ⊢
  exact h

theorem exec_sfill_starts (hst : (s.slot (coreOf s.cur) i).st = 1 ∨ (s.slot (coreOf s.cur) i).st = 4) :
    ∃ t, exec (.sfill g a b c len) s = .next t ∧ t.st.pc = s.st.pc + 8 ∧ (t.slot (coreOf s.cur) i).st = 2 ∧
      (t.slot (coreOf s.cur) i).tag = (s.rS c).setWidth 32 ∧
      (t.slot (coreOf s.cur) i).fill = some (s.fillOf a len k) ∧
      t.agenda = s.agenda ++ [(coreOf s.cur, .slotFillEnd (Fin.ofNat 32 i))] := by
  have h32 : i < 32 := State.slot_lt_of_st (s := s) (c := coreOf s.cur) (by omega)
  refine ⟨_, exec_sfill_checked hg hk hr hb hi hacc (if_pos hst), ?_, ?_, ?_, ?_, rfl⟩
  · rw [State.st_adv]; rfl
  all_goals rw [State.slot_adv, State.startFill, State.slot_post, State.slot_modSlot, if_pos ⟨rfl, h32⟩]

theorem exec_sfill_waits (hst : (s.slot (coreOf s.cur) i).st = 3) (hp : (s.slot (coreOf s.cur) i).pend = none) :
    ∃ t, exec (.sfill g a b c len) s = .next t ∧ t.st.pc = s.st.pc + 8 ∧ (t.slot (coreOf s.cur) i).st = 3 ∧
      (t.slot (coreOf s.cur) i).pend = some ((s.rS c).setWidth 32, s.fillOf a len k) ∧
      t.agenda = s.agenda ++ [(coreOf s.cur, .slotFillStart (Fin.ofNat 32 i))] := by
  have h32 : i < 32 := State.slot_lt_of_st (s := s) (c := coreOf s.cur) (by omega)
  refine ⟨_, exec_sfill_checked hg hk hr hb hi hacc ((if_neg (by omega)).trans (if_pos ⟨hst, by rw [hp]; rfl⟩)), ?_, ?_, ?_, rfl⟩
  · rw [State.st_adv]; rfl
  all_goals rw [State.slot_adv, State.slot_post, State.slot_modSlot, if_pos ⟨rfl, h32⟩]
  exact hst

end

end

/-! ### SSTAT (R320) -/

section
variable {s : State} {g : Guard} {d a : SReg} (hg : s.guard g = true)
include hg

theorem exec_sstat_reads (ha : (s.rS a).toNat < 32) (h4 : (s.slot (coreOf s.cur) (s.rS a).toNat).st ≠ 4)
    (hp : (s.slot (coreOf s.cur) (s.rS a).toNat).pend = none) : exec (.sstat g d a) s = s.givesS d
      (BitVec.ofNat 64 ((s.slot (coreOf s.cur) (s.rS a).toNat).tag.toNat * 2 ^ 32 + (s.slot (coreOf s.cur) (s.rS a).toNat).st +
        if (s.slot (coreOf s.cur) (s.rS a).toNat).st ≠ 0 ∧ (s.slot (coreOf s.cur) (s.rS a).toNat).owner = s.mark s.cur
        then 8 else 0)) := by
  rw [exec_sstat, execSstat, plain_true hg, if_neg (Nat.not_le.mpr ha), State.wS_adv]
  generalize s.slot (coreOf s.cur) (s.rS a).toNat = y at h4 hp ⊢
  have hword : ∀ b, y.word b = BitVec.ofNat 64 (y.tag.toNat * 2 ^ 32 + y.st + if b then 8 else 0) := fun b => by
    have hlow : 8 * b2n b + y.st = y.st + if b then 8 else 0 := by cases b <;> simp [b2n, Nat.add_comm]
    simp only [Slot.word, hp, Option.isSome_none, Bool.false_eq_true, if_false, if_neg h4, hlow, Nat.add_assoc]
  rw [hword]
  simp [State.givesS]

theorem exec_sstat_beyond (ha : 32 ≤ (s.rS a).toNat) : exec (.sstat g d a) s = s.givesS d (BitVec.allOnes 64) := by
  rw [exec_sstat, execSstat, plain_true hg, if_pos ha, State.wS_adv]
  rfl

end

/-! ### The fill of a slot (R108, R134, R319) -/

section
variable {s : State} {core : Nat} {lines : List Nat} {c : Nat × Nat} {keep : State → Nat × Nat → State} {go : State → State}

theorem State.unitLines_free (h : s.unitStalls lines c = none) : ∃ u, s.readsAs u ∧ s.unitLines core lines c keep go = go u := by
  simp only [State.unitLines, h]
  split
  · exact ⟨s, s.readsAs_refl, rfl⟩
  · exact ⟨_, s.readsAs_countEv _ _ _ _, rfl⟩

theorem State.unitLines_stalls {e : Nat × Nat} (h : s.unitStalls lines c = some e) : s.unitLines core lines c keep go = keep s e := by
  simp only [State.unitLines, h]

end

section
variable {s : State} {j : Fin 32} {fl : Fill}

/-- A pending fill starts when no op accepted before it names the old tag. -/
theorem exec_slotFillStart_starts {q : BitVec 32} (hp : (s.slot s.cur j.val).pend = some (q, fl))
    (hops : s.ops.any (fun o => o.core == s.cur && decide (o.id < (s.slot s.cur j.val).lim) &&
      o.names o.kind.steps j.val (some (s.slot s.cur j.val).tag)) = false) :
    ∃ t, exec (.slotFillStart j) s = .next t ∧ (t.slot s.cur j.val).st = 2 ∧ (t.slot s.cur j.val).tag = q ∧
      (t.slot s.cur j.val).fill = some fl ∧ (t.slot s.cur j.val).pend = none := by
  refine ⟨s.startFill s.cur j.val q fl, ?_, ?_⟩
  · simp only [exec_slotFillStart, execSlotFillStart, hp, hops, Bool.false_eq_true, if_false]
  · rw [State.startFill, State.slot_post, State.slot_modSlot, if_pos ⟨rfl, j.isLt⟩]
    exact ⟨rfl, rfl, rfl, rfl⟩

/-- Who reads the source of the fill of a slot of the current core. -/
def State.slotWho (s : State) (j : Fin 32) (fl : Fill) : Who := s.fillWho s.cur (s.slot s.cur j.val).owner fl

/-- How far the fill of a slot has come in the banks of the weight store. -/
def State.slotStall (s : State) (j : Fin 32) (fl : Fill) : Option (Nat × Nat) :=
  s.unitStalls ((s.slotWho j fl).lines fl.src fl.len) (s.slot s.cur j.val).stall

/-- The fill of a slot stays where it has come to. -/
def State.fillHeld (s : State) (core : Nat) (j : Fin 32) (e : Nat × Nat) : State :=
  (s.modSlot core j.val (fun x => { x with stall := e })).post core (.slotFillEnd j)

/-- The fill of a slot is over: its bytes are those of the source. -/
def State.fillDone (s : State) (core : Nat) (j : Fin 32) (w : Who) (fl : Fill) : State :=
  (({ s with opmem := Mem.write s.opmem (slotAt core j.val) (s.ldBytes w fl.src fl.len) }.modSlot core j.val
    (fun x => { x with st := 3, fill := none })).settleSlots core).count core 0x17

theorem Slot.settled_of_not_rel {x : Slot} (h : x.rel = false) (named : Bool) : x.settled named = x := by
  simp [Slot.settled, h]

theorem State.slot_fillDone {s : State} {core : Nat} {j : Fin 32} (w : Who) (fl : Fill) (h : (s.slot core j.val).rel = false) :
    (s.fillDone core j w fl).slot core j.val = { s.slot core j.val with st := 3, fill := none } := by
  rw [State.fillDone, State.slot_count, State.slot_settleSlots _ _ j.isLt, State.slot_modSlot, if_pos ⟨rfl, j.isLt⟩]
  exact Slot.settled_of_not_rel (x := { s.slot core j.val with st := 3, fill := none }) h _

theorem State.opmem_fillDone (s : State) (core : Nat) (j : Fin 32) (w : Who) (fl : Fill) :
    (s.fillDone core j w fl).opmem = Mem.write s.opmem (slotAt core j.val) (s.ldBytes w fl.src fl.len) :=
  State.count_keeps (p := State.opmem) (fun _ _ _ => rfl) _ core 0x17

variable (hf : (s.slot s.cur j.val).fill = some fl) (hac : (s.slotWho j fl).addrCheck fl.src fl.len false = .ok ())
  (hx : s.xfail (s.slotWho j fl) fl.src fl.len = none) (hpub : window fl.src ≠ 0 ∨ (s.slotWho j fl).exact = false)
  (hecc : s.eccHit (s.slotWho j fl) fl.src fl.len = false)
include hf hac hx hpub hecc

/-- The fill of a source that passes its checks depends on the refresh of its banks alone. -/
theorem exec_slotFillEnd_checked : exec (.slotFillEnd j) s = .next
    ((s.touch (s.slotWho j fl) fl.src fl.len).unitLines s.cur ((s.slotWho j fl).lines fl.src fl.len) (s.slot s.cur j.val).stall
      (fun s' e => s'.fillHeld s.cur j e) (fun s' => s'.fillDone s.cur j (s.slotWho j fl) fl)) := by
  have hno : ¬ (window fl.src = 0 ∧ (s.slotWho j fl).exact = true) := by
    rintro ⟨h0, he⟩
    rcases hpub with h | h
    · exact h h0
    · simp [h] at he
  unfold State.slotWho at *
  simp only [exec_slotFillEnd, execSlotFillEnd, hf, hac, hx, if_neg hno, (State.SameReads.touch s _ _ _).eccHit, hecc]
  rfl

/-- The slot is FULL with the bytes of the source. -/
theorem exec_slotFillEnd_full (hs : s.slotStall j fl = none) (hrel : (s.slot s.cur j.val).rel = false) :
    ∃ t, exec (.slotFillEnd j) s = .next t ∧ (t.slot s.cur j.val).st = 3 ∧ (t.slot s.cur j.val).tag = (s.slot s.cur j.val).tag ∧
      t.opmem = Mem.write s.opmem ((s.cur * 32 + j.val) * 8192) (s.ldBytes (s.slotWho j fl) fl.src fl.len) := by
  have ht := State.SameReads.touch s (s.slotWho j fl) fl.src fl.len
  obtain ⟨u, hu, hgo⟩ := State.unitLines_free (core := s.cur) (keep := fun s' e => s'.fillHeld s.cur j e)
    (go := fun s' => s'.fillDone s.cur j (s.slotWho j fl) fl) ((ht.unitStalls _ _).trans hs)
  have hr := ht.trans (.of_readsAs hu)
  have hslot : u.slot s.cur j.val = s.slot s.cur j.val :=
    (State.slot_of_core (State.readsAs_core hu s.cur) _).trans (s.slot_touch _ _ _ _ _)
  refine ⟨_, (exec_slotFillEnd_checked hf hac hx hpub hecc).trans (congrArg Host.Outcome.next hgo), ?_, ?_, ?_⟩
  · rw [State.slot_fillDone _ _ (by rw [hslot, hrel])]
  · rw [State.slot_fillDone _ _ (by rw [hslot, hrel]), hslot]
  · rw [State.opmem_fillDone, hr.opmem, hr.ldBytes]
    rfl

/-- A refreshing bank holds the fill. -/
theorem exec_slotFillEnd_stalls {e : Nat × Nat} (hs : s.slotStall j fl = some e) :
    ∃ t, exec (.slotFillEnd j) s = .next t ∧ t.slot s.cur j.val = { s.slot s.cur j.val with stall := e } ∧ t.opmem = s.opmem ∧
      (s.cur, Instr.slotFillEnd j) ∈ t.agenda := by
  have ht := State.SameReads.touch s (s.slotWho j fl) fl.src fl.len
  have hkeep := State.unitLines_stalls (core := s.cur) (keep := fun s' e => s'.fillHeld s.cur j e)
    (go := fun s' => s'.fillDone s.cur j (s.slotWho j fl) fl) ((ht.unitStalls _ _).trans hs)
  refine ⟨_, (exec_slotFillEnd_checked hf hac hx hpub hecc).trans (congrArg Host.Outcome.next hkeep), ?_, ht.opmem, ?_⟩
  · rw [State.fillHeld, State.slot_post, State.slot_modSlot, if_pos ⟨rfl, j.isLt⟩, State.slot_touch]
  · exact List.mem_append_right _ (List.mem_singleton.mpr rfl)

end

/-! ### The obligation -/

/-- Settles O42: each slot instruction is its checks and then a change of a ring or of a slot, and the end of a fill is what the
refresh of the source's banks lets through. -/
theorem operandSlots : Obligations.OperandSlots := by
  intro s g d a b c x len k f n i hk core q bytes isFree
  refine ⟨fun hg hr => ⟨fun hcap hf hrun hlow => exec_sclaim_claims hg hk hr hcap hf hrun hlow, exec_sclaim_busy hg hk hr⟩,
    fun hg hr => ⟨exec_sclaim_owned hg hk hr, fun ha hx => exec_srel_releases hg hk hr ha hx i, fun hb hi hacc =>
      ⟨exec_sfill_starts hg hk hr hb hi hacc, exec_sfill_waits hg hk hr hb hi hacc⟩⟩,
    fun hg => exec_sstat_reads hg, fun hg => exec_sstat_beyond hg, fun j fl => ⟨exec_slotFillStart_starts,
      fun hf hac hx hpub hecc => ⟨exec_slotFillEnd_full hf hac hx hpub hecc, fun e => exec_slotFillEnd_stalls hf hac hx hpub hecc⟩⟩⟩

end Sys2Proof.Machine
end

section
/-! PROOF. The row's sequencer accepts its instructions: MZERO, MOUT, MLDW and the products, of one strand or of a gang
(R113, R114, R317, R321 to R325, R329). -/
namespace Sys2Proof.Machine

/-! ### What the acceptance of an op reads -/

/-- `t` is `s` but for what an instruction does before its op enters the queue. -/
structure State.Prepares (s t : State) : Prop where
  cur : t.cur = s.cur
  ops : t.ops = s.ops
  nextOp : t.nextOp = s.nextOp
  pc : t.st.pc = s.st.pc
  reads : s.SameReads t

theorem State.Prepares.refl (s : State) : s.Prepares s := ⟨rfl, rfl, rfl, rfl, .refl s⟩

theorem State.Prepares.touch (s : State) (w : Who) (ea : Word) (n : Nat) : s.Prepares (s.touch w ea n) := by
  have h := s.readsAs_touch w ea n
  refine ⟨(s.fetched_touch w ea n).1, ?_, ?_, State.readsAs_pc h, .of_readsAs h⟩ <;> obtain ⟨⟨d, a, r, h⟩, -, -⟩ := h <;> rw [h]

theorem State.Prepares.nameSrc (s : State) (core part : Nat) (x : WSrc) : s.Prepares (s.nameSrc core part x) :=
  ⟨rfl, rfl, rfl, rfl, .modCore s core (fun _ => rfl) (fun _ => rfl)⟩

theorem State.Prepares.spareUnits {s t : State} (h : s.Prepares t) (core ctx : Nat) :
    t.spareUnits core ctx = s.spareUnits core ctx := by
  simp only [State.spareUnits, State.stackTop, h.ops, h.reads.regs]

/-- The op as it stands in the queue of `s`, with `n` stack units. -/
def State.entry (s : State) (o : MxOp) (n : Nat) : MxOp :=
  { o with id := s.nextOp, spare := (s.spareUnits o.core o.ctx).take n }

/-- The op stands behind the ops before it. -/
def State.enqueue (s : State) (o : MxOp) : State := { s with ops := s.ops ++ [o], nextOp := s.nextOp + 1 }

theorem MxOp.strands_single {o : MxOp} (h : o.gang = []) : o.strands = [o.strand] := by simp [MxOp.strands, h]

/-- An op of one strand enters the queue, and its core looks for a step. -/
theorem State.accept_single (s : State) {o : MxOp} (h : o.gang = []) (n : Nat) :
    s.accept o n = (s.enqueue (s.entry o n)).postOnce (coreOf o.strand) .sequencerStep := by
  have hstr : (s.entry o n).strands = [o.strand] := MxOp.strands_single (o := s.entry o n) h
  show (s.entry o n).strands.foldl _ (s.enqueue (s.entry o n)) = _
  rw [hstr]
  rfl

/-- The instruction is accepted as an op of a kind, with `n` stack units reserved, and completes. -/
def State.takesOp (s : State) (i : Instr) (kd : MxKind) (n : Nat) : Prop :=
  ∃ u p, exec i s = .next u ∧ u.st.pc = s.st.pc + 8 ∧ u.ops = s.ops ++ [p] ∧ p.kind = kd ∧ p.strand = s.cur ∧
    p.id = s.nextOp ∧ p.part = s.part (coreOf s.cur) s.curCtx ∧ p.stop = none ∧
    p.spare = (s.spareUnits (coreOf s.cur) s.curCtx).take n ∧ u.nextOp = s.nextOp + 1 ∧ s.sameMemory u

theorem State.issueOp_free {s : State} (hq : s.queueFree (coreOf s.cur) (s.part (coreOf s.cur) s.curCtx) = true) (kd : MxKind)
    (dl n : Nat) (f : State → State) :
    s.issueOp kd dl n f = (((f s).accept (s.newOp kd dl) n).release).adv 8 := if_pos hq

theorem State.issueOp_full {s : State} (hq : s.queueFree (coreOf s.cur) (s.part (coreOf s.cur) s.curCtx) = false) (kd : MxKind)
    (dl n : Nat) (f : State → State) : s.issueOp kd dl n f = s.hold := if_neg (ne_true_of_eq_false hq)

theorem State.takesOp_of_accept {s t : State} {i : Instr} {kd : MxKind} {dl n : Nat} (ht : s.Prepares t)
    (h : exec i s = .next (((t.accept (s.newOp kd dl) n).release).adv 8)) : s.takesOp i kd n := by
  obtain ⟨l, hl⟩ := (t.enqueue (t.entry (s.newOp kd dl) n)).postOnce_eq (coreOf s.cur) .sequencerStep
  rw [t.accept_single (o := s.newOp kd dl) rfl n, show coreOf (s.newOp kd dl).strand = coreOf s.cur from rfl, hl] at h
  refine ⟨_, _, h, ?_, congrArg (· ++ _) ht.ops, rfl, rfl, ht.nextOp, rfl, rfl, congrArg (List.take n) (ht.spareUnits _ _),
    congrArg (· + 1) ht.nextOp, ?_⟩
  · rw [State.st_adv, State.release, State.st_mod]
    exact congrArg (· + 8) ht.pc
  · exact (((((ht.reads.trans (.setOps t _ _)).trans (.posts _ l)).trans (.setStrand _ _ _)).trans (.setStrand _ _ _))).sameMemory

theorem State.takesOp_of_issue {s : State} {i : Instr} {kd : MxKind} {dl n : Nat} {f : State → State}
    (hq : s.queueFree (coreOf s.cur) (s.part (coreOf s.cur) s.curCtx) = true) (hf : s.Prepares (f s))
    (h : exec i s = .next (s.issueOp kd dl n f)) : s.takesOp i kd n :=
  State.takesOp_of_accept hf (h.trans (congrArg Host.Outcome.next (State.issueOp_free hq kd dl n f)))

/-! ### MZERO, MOUT, MLDW (R321, R329) -/

section
variable {s : State} {g : Guard} (hg : s.guard g = true)
include hg

theorem exec_mzero_issues {tile : Fin 64} (h : tile.val < s.stackTop (coreOf s.cur) s.curCtx) :
    exec (.mzero g tile) s = .next (s.issueOp (.mzero tile.val) 0 0 (fun s => s)) := by
  rw [exec_mzero, execMzero]
  exact guarded_ok hg (if_neg (by omega))

theorem exec_mzero_beyond {tile : Fin 64} (h : s.stackTop (coreOf s.cur) s.curCtx ≤ tile.val) :
    exec (.mzero g tile) s = .next (s.takeTrap ⟨0x18, 0x0503, 0, 0⟩) := by
  rw [exec_mzero, execMzero]
  exact guarded_trap hg (if_pos (by omega))

section
variable {t : Fmt} {m : Rm} {sc : Bool} {tile : Fin 64} {a b : SReg} (hacc : s.access s.who kMstore (s.rS a) (moutLen t) 64 = .ok ())
include hacc

theorem exec_mout_issues (hpub : s.who.pubRun (s.rS a) (moutLen t) = none)
    (hq : s.queueFree (coreOf s.cur) (s.part (coreOf s.cur) s.curCtx) = true) (h : tile.val < s.stackTop (coreOf s.cur) s.curCtx) :
    exec (.mout g t m sc tile a b) s = .next (s.issueOp
      (.mout tile.val t (s.rm m) (if sc then some ((s.rS b).setWidth 32) else none) (s.rS a)) 0 0
      (fun s' => s'.touch s.who (s.rS a) (moutLen t))) := by
  rw [exec_mout, execMout]
  refine guarded_ok hg ?_
  have hlog : s.logRun s.who (s.rS a) (moutLen t) = .ok s := by rw [State.logRun, hpub]
  simp only [hacc, if_neg (show ¬ s.stackTop (coreOf s.cur) s.curCtx < tile.val + 1 by omega), hq, hlog]
  rfl

theorem exec_mout_beyond (h : s.stackTop (coreOf s.cur) s.curCtx ≤ tile.val) :
    exec (.mout g t m sc tile a b) s = .next (s.takeTrap ⟨0x18, 0x0503, 0, 0⟩) := by
  rw [exec_mout, execMout]
  refine guarded_trap hg ?_
  simp only [hacc, if_pos (show s.stackTop (coreOf s.cur) s.curCtx < tile.val + 1 by omega)]
  rfl

end

section
variable {t : Fmt} {a l : SReg}

theorem exec_mldw_slot {k : Task} (hk : s.st.task = some k) (hr : k.ring ≠ none) : exec (.mldw g t false a l) s =
    .next (s.issueOp (.mldw t .none (some ((s.rS a).setWidth 32))) (s.deadline l) 0
      (fun s' => s'.nameSrc (coreOf s.cur) (s.part (coreOf s.cur) s.curCtx) (.slot t []))) := by
  obtain ⟨r, hr⟩ := Option.ne_none_iff_exists'.mp hr
  rw [exec_mldw, execMldw]
  refine guarded_ok hg ?_
  simp only [Bool.false_eq_true, if_false, State.ring_some hk hr]

variable (hal : (s.rS a).toNat % 64 = 0)
include hal

theorem exec_mldw_ws (hw : window (s.rS a) = 1) (hacc : s.access s.who kLoad (s.rS a) (tileBytes t) 64 = .ok ()) :
    exec (.mldw g t true a l) s = .next (s.issueOp (.mldw t (.ws t (s.rS a) 0 []) none) (s.deadline l) 0
      (fun s' => s'.nameSrc (coreOf s.cur) (s.part (coreOf s.cur) s.curCtx) (.ws t (s.rS a) 0 []))) := by
  rw [exec_mldw, execMldw]
  refine guarded_ok hg ?_
  simp only [if_true, alignCheck, hal, hw, hacc, ne_eq, not_true_eq_false, if_false]

theorem exec_mldw_window (hw : window (s.rS a) ≠ 1) :
    exec (.mldw g t true a l) s = .next (s.takeTrap ⟨0x18, 0x0501, 0, 0⟩) := by
  rw [exec_mldw, execMldw]
  refine guarded_trap hg ?_
  simp only [if_true, alignCheck, hal, if_pos hw]
  rfl

end
end

/-! ### What a product reads at issue (R134, R135) -/

/-- `t` is `s` once an instruction has read at its issue: the current strand is the same but for its place in a stalled read. -/
structure State.IssuesAs (s t : State) : Prop where
  reads : s.readsAs t
  st : ∃ x, t.st = { s.st with stall := x }

namespace State.IssuesAs

theorem refl (s : State) : s.IssuesAs s := ⟨s.readsAs_refl, s.st.stall, rfl⟩

theorem trans {s t u : State} (h : s.IssuesAs t) (h' : t.IssuesAs u) : s.IssuesAs u := by
  obtain ⟨hr, x, hx⟩ := h
  obtain ⟨hr', y, hy⟩ := h'
  exact ⟨State.readsAs_trans hr hr', y, by rw [hy, hx]⟩

theorem touch (s : State) (w : Who) (ea : Word) (n : Nat) : s.IssuesAs (s.touch w ea n) :=
  ⟨s.readsAs_touch w ea n, s.st.stall, State.st_fetched (s.fetched_touch w ea n)⟩

theorem touches (w : Who) (l : List (Word × Nat)) : ∀ s : State, s.IssuesAs (l.foldl (fun (s : State) e => s.touch w e.1 e.2) s) := by
  induction l with
  | nil => exact refl
  | cons e l ih => exact fun s => (touch s w e.1 e.2).trans (ih _)

section
variable {s t : State} (h : s.IssuesAs t)
include h

theorem same : s.SameReads t := .of_readsAs h.reads

theorem rest : t.cur = s.cur ∧ t.ops = s.ops ∧ t.nextOp = s.nextOp := by
  obtain ⟨⟨⟨d, a, r, ht⟩, -, -⟩, -⟩ := h
  rw [ht]
  exact ⟨rfl, rfl, rfl⟩

theorem cur : t.cur = s.cur := h.rest.1
theorem ops : t.ops = s.ops := h.rest.2.1

theorem prepares : s.Prepares t := ⟨h.cur, h.ops, h.rest.2.2, State.readsAs_pc h.reads, h.same⟩

theorem task : t.st.task = s.st.task := by
  obtain ⟨-, x, hx⟩ := h
  rw [hx]

theorem sr : t.st.sr = s.st.sr := by
  obtain ⟨-, x, hx⟩ := h
  rw [hx]

theorem who : t.who = s.who := by
  obtain ⟨x, hx⟩ := h.st
  have hst : t.strand s.cur = { s.st with stall := x } := by rw [← hx, State.st, h.cur]
  exact State.who_eq h.cur (by rw [hst]; rfl) (by rw [hst]; rfl) (by rw [hst]; rfl) h.same

theorem rS (a : SReg) : t.rS a = s.rS a := by
  obtain ⟨-, x, hx⟩ := h
  rw [State.rS, hx]; rfl

theorem curCtx : t.curCtx = s.curCtx := by rw [State.curCtx, h.task]; rfl

theorem ring : t.ring = s.ring := by rw [State.ring, h.task]; rfl

theorem stackTop (core ctx : Nat) : t.stackTop core ctx = s.stackTop core ctx := by rw [State.stackTop, h.same.regs]; rfl

theorem captree (core ctx : Nat) : t.captree core ctx = s.captree core ctx := by
  simp only [State.captree, State.liveTree, h.same.regs, h.ops]

theorem namedSrc : t.namedSrc = s.namedSrc := by
  simp only [State.namedSrc, State.part, h.cur, h.curCtx, h.same.regs, State.readsAs_core h.reads]

theorem srcCheck (tiles e : Nat) : t.srcCheck tiles e = s.srcCheck tiles e := by rw [State.srcCheck, h.namedSrc, h.who]; rfl

theorem queueFree (core part : Nat) : t.queueFree core part = s.queueFree core part := by rw [State.queueFree, h.ops]; rfl

theorem newOp (kd : MxKind) (dl : Nat) : t.newOp kd dl = s.newOp kd dl := by
  simp only [State.newOp, State.part, h.cur, h.curCtx, h.same.regs, h.task]

/-- The checks of a product give what they gave before the reads. -/
theorem mmagOp (o : MxOpt) (tile : Fin 64) (a b c : SReg) : mmagOp o tile a b c t = mmagOp o tile a b c s := by
  simp only [Machine.mmagOp, h.cur, h.curCtx, h.who, h.rS, h.sr, h.same.access, h.same.ldNat, h.stackTop, h.srcCheck, h.captree,
    h.ring]

theorem mmaOp (o : MxOpt) (tile : Fin 64) (a b c : SReg) : mmaOp o tile a b c t = mmaOp o tile a b c s := by
  simp only [Machine.mmaOp, h.cur, h.curCtx, h.rS, h.stackTop, h.srcCheck, h.captree, h.ring]

theorem mmasOp (o : MxOpt) (tile : Fin 64) (a b c : SReg) : mmasOp o tile a b c t = mmasOp o tile a b c s := by
  simp only [Machine.mmasOp, h.cur, h.curCtx, h.who, h.rS, h.same.access, h.same.ldBytes, h.stackTop, h.srcCheck, h.captree,
    h.ring, h.namedSrc]

end

end State.IssuesAs

/-- No uncorrectable error lies in the ranges that the current strand reads, and no bank of them refreshes. -/
def State.quietReads (s : State) (l : List (Word × Nat)) : Prop :=
  (∀ x ∈ l, s.eccHit s.who x.1 x.2 = false) ∧ s.stalls (l.flatMap (fun x => s.who.lines x.1 x.2)) = none

theorem State.quietReads_nil (s : State) : s.quietReads [] := ⟨nofun, s.stalls_nil⟩

theorem State.afterStall_issues {s : State} {lines : List Nat} (h : s.stalls lines = none) :
    ∃ u, s.IssuesAs u ∧ ∀ f, s.afterStall lines f = f u := by
  by_cases hl : lines.isEmpty
  · exact ⟨s, .refl s, fun f => by simp [State.afterStall, h, hl]⟩
  · exact ⟨(s.mod (fun t => { t with stall := none })).countEv (dieF (coreOf s.cur)) 0x20 0 lines.length,
      ⟨State.readsAs_trans (s.readsAs_mod (f := fun t => { t with stall := none }) fun _ => rfl) (State.readsAs_countEv _ _ _ _ _),
        none, State.st_mod s (fun t => { t with stall := none })⟩, fun f => by simp [State.afterStall, h, hl]⟩

theorem State.withReads_issues {s : State} {l : List (Word × Nat)} (h : s.quietReads l) :
    ∃ u, s.IssuesAs u ∧ ∀ f, s.withReads s.who l f = f u := by
  obtain ⟨hecc, hstall⟩ := h
  cases l with
  | nil => exact ⟨s, .refl s, fun f => rfl⟩
  | cons e l =>
    obtain ⟨u, hu, hgo⟩ := State.afterStall_issues hstall
    have hhit : (e :: l).any (fun x => s.eccHit s.who x.1 x.2) = false := by
      simpa only [List.any_eq_false, Bool.not_eq_true] using hecc
    refine ⟨_, hu.trans (.touches s.who (e :: l) u), fun f => ?_⟩
    rw [State.withReads, hhit, State.unlessEcc_free, hgo]
    exact List.cons_ne_nil e l

/-! ### The issue of a product (R113, R114) -/

section
variable {s : State} {i : Instr} {code : BitVec 8} {l : SReg} {op : State → Except TrapInfo (MxKind × Nat)} {kd : MxKind} {n : Nat}

/-- Without reads, a product whose checks trap takes that trap. -/
theorem productPoll_unread_trap {gang : Option (BitVec 16)} {e : TrapInfo} (h : op s = .error e) :
    productPoll .issue i code gang l (fun _ => []) op s = .error e := by
  by_cases hh : s.st.held <;> simp [productPoll, State.withReads, hh, h]

/-- A member of a gang arrives at the wired barrier. -/
theorem productPoll_unread_arrives {x : BitVec 16} (hx : x.getLsbD (colOf (coreOf s.cur)) = true) (h : op s = .ok (kd, n)) :
    productPoll .issue i code (some x) l (fun _ => []) op s =
      .ok (s.gangArrive x (s.newOp kd (s.deadline l)) code i (s.deadline l)) := by
  by_cases hh : s.st.held <;> simp [productPoll, State.withReads, hh, h, hx]

/-- A product of one strand whose reads are quiet is issued from the state that the reads leave. -/
theorem productPoll_issues {reads : State → List (Word × Nat)} (hr : s.quietReads (reads s)) (h : op s = .ok (kd, n))
    (hop : ∀ u, s.IssuesAs u → op u = op s) : ∃ u, s.IssuesAs u ∧
      productPoll .issue i code none l reads op s = .ok (u.issueOp kd (u.deadline l) n (fun s => s)) := by
  by_cases hh : s.st.held
  · exact ⟨s, .refl s, by simp [productPoll, hh, h]⟩
  · obtain ⟨u, hu, hgo⟩ := State.withReads_issues hr
    exact ⟨u, hu, by simp [productPoll, hh, hgo, hop u hu, h]⟩

theorem State.takesOp_of_product {g : Guard} {reads : State → List (Word × Nat)} (hg : s.guard g = true)
    (hexec : exec i s = guarded g 8 s (productPoll .issue i code none l reads op))
    (hq : s.queueFree (coreOf s.cur) (s.part (coreOf s.cur) s.curCtx) = true) (hr : s.quietReads (reads s)) (h : op s = .ok (kd, n))
    (hop : ∀ u, s.IssuesAs u → op u = op s) : s.takesOp i kd n := by
  obtain ⟨u, hu, hgo⟩ := productPoll_issues (i := i) (code := code) (l := l) hr h hop
  refine State.takesOp_of_accept (dl := u.deadline l) hu.prepares ?_
  rw [hexec, guarded_ok hg hgo, State.issueOp, hu.newOp, hu.queueFree]
  exact congrArg Host.Outcome.next (if_pos hq)

end

/-! ### The checks of MMA (R322) -/

section
variable {s : State} {o : MxOpt} {tile : Fin 64} {a b c : SReg}

/-- C is from 1 to 4,096, and B is a multiple of C slots that is not 0. -/
def State.mmaSized (s : State) (o : MxOpt) (b c : SReg) : Prop :=
  ¬((s.rS c).toNat = 0 ∨ 4096 < (s.rS c).toNat ∨ (s.rS b).toNat = 0 ∨
    (s.rS b).toNat % ((s.rS c).toNat * fmtSlots o.t) ≠ 0)

/-- The passes of an MMA. -/
def State.mmaPasses (s : State) (o : MxOpt) (b c : SReg) : Nat := (s.rS b).toNat / ((s.rS c).toNat * fmtSlots o.t)

theorem mmaOp_unsized (h : ¬ s.mmaSized o b c) : mmaOp o tile a b c s = .error ⟨0x18, 0x0502, 0, 0⟩ := by
  simp only [State.mmaSized, Decidable.not_not] at h
  simp only [mmaOp, oneIf, h, decide_true, if_true]
  rfl

theorem mmaOp_beyond (h : s.mmaSized o b c)
    (htop : s.stackTop (coreOf s.cur) s.curCtx < tile.val + s.mmaPasses o b c * gangSize o.gang) :
    mmaOp o tile a b c s = .error ⟨0x18, 0x0503, 0, 0⟩ := by
  simp only [State.mmaSized, State.mmaPasses] at h htop
  simp only [mmaOp, oneIf, h, htop, decide_true, decide_false, if_true, Bool.false_eq_true, if_false]
  rfl

theorem mmaOp_single {k : Task} (hgang : o.gang = none) (h : s.mmaSized o b c)
    (htop : tile.val + s.mmaPasses o b c ≤ s.stackTop (coreOf s.cur) s.curCtx) (hsrc : s.srcCheck (s.rS c).toNat 0x0505 = .ok ())
    (hcap : stackTiles (s.rS c).toNat ≤ s.captree (coreOf s.cur) s.curCtx) (hk : s.st.task = some k) (hr : k.ring ≠ none) :
    mmaOp o tile a b c s = .ok (.mma tile.val o.t o.z ((s.rS a).setWidth 32) (s.mmaPasses o b c) (s.rS c).toNat,
      stackTiles (s.rS c).toNat) := by
  obtain ⟨r, hr⟩ := Option.ne_none_iff_exists'.mp hr
  simp only [State.mmaSized] at h
  rw [← Nat.not_lt] at htop hcap
  simp only [State.mmaPasses] at htop ⊢
  simp only [mmaOp, oneIf, hgang, gangSize, Nat.mul_one, h, htop, hcap, hsrc, State.ring_some hk hr, decide_false,
    Bool.false_eq_true, if_false]
  rfl

theorem exec_mma_traps {g : Guard} {l : SReg} {e : TrapInfo} (hg : s.guard g = true) (h : mmaOp o tile a b c s = .error e) :
    exec (.mma g o tile a b c l) s = .next (s.takeTrap e) := by
  rw [exec_mma, execMma]
  exact guarded_trap hg (productPoll_unread_trap h)

theorem mmasOp_readable {r : MxKind × Nat} (h : mmasOp o tile a b c s = .ok r) :
    s.readable s.who (s.rS a) 32 8 = [(s.rS a, 32)] := by
  cases hacc : s.access s.who kLoad (s.rS a) 32 8 with
  | ok _ => simp only [State.readable, hacc]
  | error e =>
    simp only [mmasOp, hacc] at h
    exact nomatch h

end

/-! ### The wired barrier (R113) -/

section
variable {s : State} {g : Guard} {o : MxOpt} {tile : Fin 64} {a b c l : SReg}

theorem State.row_modRow (s : State) (r j : Nat) (f : Row → Row) :
    (s.modRow r f).row j = if j = r then f (s.row r) else s.row j := by
  by_cases h : j = r
  · subst h; simp [State.row, State.modRow]
  · simp [State.row, State.modRow, h, Table.get_set_ne _ _ _ h]

theorem State.st_gangArrive {m : BitVec 16} {op : MxOp} {code : BitVec 8} {i : Instr} {dl : Nat} (h : s.st.wait = none) :
    ∃ v, v.instr = i ∧ (s.gangArrive m op code i dl).st = { s.st with wait := some v } :=
  ⟨_, rfl, State.st_block (s := s.modRow _ _) i dl 0 h⟩

theorem State.barr_gangArrive (s : State) (m : BitVec 16) (op : MxOp) (code : BitVec 8) (i : Instr) (dl : Nat) :
    ((s.gangArrive m op code i dl).row (rowOf op.core)).barr[Fin.ofNat 4 op.part] =
      (s.row (rowOf op.core)).barr[Fin.ofNat 4 op.part] ++ [⟨s.cur, m, some (op, code), gangSlot⟩] := by
  show ((s.modRow (rowOf op.core) (fun r => { r with
      barr := r.barr.set (Fin.ofNat 4 op.part) (r.barr[Fin.ofNat 4 op.part] ++ [⟨s.cur, m, some (op, code), gangSlot⟩])
    })).row (rowOf op.core)).barr[Fin.ofNat 4 op.part] = _
  rw [State.row_modRow, if_pos rfl]
  exact Vector.getElem_set_self _

theorem exec_mma_arrives {x : BitVec 16} {kd : MxKind} {n : Nat} (hg : s.guard g = true) (hgang : o.gang = some x)
    (hx : x.getLsbD (colOf (coreOf s.cur)) = true) (hop : mmaOp o tile a b c s = .ok (kd, n)) (hw : s.st.wait = none) :
    ∃ u v e, exec (.mma g o tile a b c l) s = .next u ∧ u.st.wait = some v ∧ v.instr = .mma g o tile a b c l ∧
      (u.row (rowOf (coreOf s.cur))).barr[Fin.ofNat 4 (s.part (coreOf s.cur) s.curCtx)] =
        (s.row (rowOf (coreOf s.cur))).barr[Fin.ofNat 4 (s.part (coreOf s.cur) s.curCtx)] ++ [e] ∧
      e.strand = s.cur ∧ e.mask = x ∧ u.st.pc = s.st.pc := by
  have hexec : exec (.mma g o tile a b c l) s = .next (s.gangArrive x (s.newOp kd (s.deadline l)) 0xD5 (.mma g o tile a b c l)
      (s.deadline l)) := by
    rw [exec_mma, execMma]
    refine guarded_ok hg ?_
    rw [mmaPoll, hgang]
    exact productPoll_unread_arrives hx hop
  obtain ⟨v, hv, hst⟩ := State.st_gangArrive (m := x) (op := s.newOp kd (s.deadline l)) (code := 0xD5)
    (i := .mma g o tile a b c l) (dl := s.deadline l) hw
  exact ⟨_, v, _, hexec, by rw [hst], hv, State.barr_gangArrive s x (s.newOp kd (s.deadline l)) _ _ _, rfl, rfl, by rw [hst]⟩

/-- The wait of a member whose barrier has completed ends. -/
theorem exec_waitSatisfied_gang {v : Wait} (hv : s.st.wait = some v) (hi : v.instr = .mma g o tile a b c l) (hs : v.stage = 1) :
    ∃ u, exec .waitSatisfied s = .next u ∧ u.st.pc = s.st.pc + 8 ∧ u.st.wait = none := by
  obtain ⟨r, task, hst, -⟩ := s.st_unblock
  have htest : s.retest .again v.instr = .ok (((s.unblock).mod (fun t => t.dlResult sOK)).adv 8) := by
    rw [hi]
    simp only [State.retest, mmaPoll, productPoll, State.gangTest, hv, hs, ne_eq, reduceCtorEq, not_false_eq_true, if_true,
      Option.map_some, Option.getD_some]
  refine ⟨_, by rw [exec_waitSatisfied_tested hv, htest]; rfl, ?_, ?_⟩ <;> rw [State.st_adv, State.st_mod, hst] <;> rfl

end

/-! ### Products without gang -/

section
variable {s : State} {g : Guard} {o : MxOpt} {tile : Fin 64} {a b c l : SReg} (hgang : o.gang = none)
include hgang

theorem exec_mma_single : exec (.mma g o tile a b c l) s = guarded g 8 s
    (productPoll .issue (.mma g o tile a b c l) 0xD5 none l (fun _ => []) (mmaOp o tile a b c)) := by rw [← hgang]; rfl

theorem exec_mmag_single : exec (.mmag g o tile a b c l) s = guarded g 8 s
    (productPoll .issue (.mmag g o tile a b c l) 0xD6 none l (mmagReads a) (mmagOp o tile a b c)) := by rw [← hgang]; rfl

theorem exec_mmas_single : exec (.mmas g o tile a b c l) s = guarded g 8 s (productPoll .issue (.mmas g o tile a b c l) 0xD7 none l
    (fun s => s.readable s.who (s.rS a) 32 8) (mmasOp o tile a b c)) := by rw [← hgang]; rfl

end

/-! ### The obligation -/

/-- Settles O43: an instruction of the sequencer is its checks, the reads of its issue and then one acceptance
(`State.takesOp_of_accept`), which those reads leave as it was (`State.IssuesAs`). -/
theorem matrixIssue : Obligations.MatrixIssue := by
  intro s g t m o tile sc a b c l k hg hk core part top w trap accepts
  have sized : 1 ≤ (s.rS c).toNat → (s.rS c).toNat ≤ 4096 → 1 ≤ (s.rS b).toNat →
      (s.rS b).toNat % ((s.rS c).toNat * fmtSlots o.t) = 0 → s.mmaSized o b c := by
    unfold State.mmaSized
    omega
  refine ⟨fun h hq => State.takesOp_of_issue hq (.refl s) (exec_mzero_issues hg h),
    fun h hq => (exec_mzero_issues hg h).trans (congrArg Host.Outcome.next (State.issueOp_full hq _ _ _ _)), exec_mzero_beyond hg,
    fun hacc hpub hq h => State.takesOp_of_issue hq (.touch s _ _ _) (exec_mout_issues hg hacc hpub hq h),
    fun hacc h => exec_mout_beyond hg hacc h,
    fun hq => ⟨fun hr => State.takesOp_of_issue hq (.nameSrc s _ _ _) (exec_mldw_slot hg hk hr),
      fun hal hw hacc => State.takesOp_of_issue hq (.nameSrc s _ _ _) (exec_mldw_ws hg hal hw hacc)⟩,
    fun hal hw => exec_mldw_window hg hal hw, ⟨fun h => exec_mma_traps hg (mmaOp_unsized (not_not.mpr h)),
      fun h1 h2 h3 h4 htop => exec_mma_traps hg (mmaOp_beyond (sized h1 h2 h3 h4) htop),
      fun hgang hq h1 h2 h3 h4 htop hsrc hcap hr => State.takesOp_of_product hg (exec_mma_single hgang) hq s.quietReads_nil
        (mmaOp_single hgang (sized h1 h2 h3 h4) htop hsrc hcap hk hr) (fun u hu => hu.mmaOp o tile a b c)⟩,
    fun kd n hgang hq =>
      ⟨fun hop hr => State.takesOp_of_product hg (exec_mmag_single hgang) hq hr hop (fun u hu => hu.mmagOp o tile a b c),
      fun hop hr => State.takesOp_of_product hg (exec_mmas_single hgang) hq (by rw [mmasOp_readable hop]; exact hr) hop
        (fun u hu => hu.mmasOp o tile a b c)⟩,
    fun kd n x hgang hx hop hw => exec_mma_arrives hg hgang hx hop hw, fun v hv hi hs => exec_waitSatisfied_gang hv hi hs⟩

end Sys2Proof.Machine
end

section
/-! PROOF. Waiting for, resuming and reading the ops of a strand, and the row's wired barrier (R113, R114, R117, R256, R323,
R327, R328, R330). -/
namespace Sys2Proof.Machine

/-! ### Steps that are posted once -/

theorem State.mem_postOnce (s : State) (u : Nat) (i : Instr) : (u, i) ∈ (s.postOnce u i).agenda := by
  unfold State.postOnce
  split
  · next h =>
    obtain ⟨⟨v, j⟩, hmem, hkey⟩ := List.any_eq_true.mp h
    simp only [Bool.and_eq_true, beq_iff_eq] at hkey
    obtain ⟨rfl, rfl⟩ := hkey
    exact hmem
  · exact List.mem_append_right _ (List.mem_singleton.mpr rfl)

/-- A step posted once on several units stands in the agenda of each, behind what stood there. -/
theorem State.postOnces_eq {α : Type} (g : α → Nat) (i : Instr) (l : List α) : ∀ s : State, ∃ r,
    l.foldl (fun (s : State) x => s.postOnce (g x) i) s = s.posts r ∧ ∀ x ∈ l, (g x, i) ∈ (s.posts r).agenda := by
  induction l with
  | nil => exact fun s => ⟨[], by simp [State.posts], nofun⟩
  | cons x l ih =>
    intro s
    obtain ⟨r, hr⟩ := s.postOnce_eq (g x) i
    obtain ⟨r', hr', hmem⟩ := ih (s.postOnce (g x) i)
    have hposts : (s.postOnce (g x) i).posts r' = s.posts (r ++ r') := by
      rw [hr]
      simp [State.posts, List.append_assoc]
    rw [hposts] at hr' hmem
    refine ⟨r ++ r', hr', fun y hy => ?_⟩
    rcases List.mem_cons.mp hy with rfl | hy
    · rw [← hposts]
      exact List.mem_append_left _ (s.mem_postOnce _ _)
    · exact hmem y hy

theorem State.wakeSlices_eq (s : State) (row : Nat) : ∃ l, s.wakeSlices row = s.posts l ∧
    ∀ o ∈ s.ops, rowOf o.core = row → ∀ k ∈ o.strands, (coreOf k, Instr.sequencerStep) ∈ (s.posts l).agenda := by
  obtain ⟨l, hl, hmem⟩ := State.postOnces_eq id .sequencerStep
    ((s.ops.filter (fun o => rowOf o.core == row)).flatMap (fun o => o.strands.map coreOf)) s
  refine ⟨l, hl, fun o ho hrow k hk => hmem _ ?_⟩
  rw [List.mem_flatMap]
  exact ⟨o, by simp [ho, hrow], List.mem_map_of_mem hk⟩

/-- An op enters the queue behind the ops before it, and the slices of its strands look for a step. -/
theorem State.accept_eq (s : State) (o : MxOp) (n : Nat) : ∃ l, s.accept o n = (s.enqueue (s.entry o n)).posts l := by
  obtain ⟨l, hl, -⟩ := State.postOnces_eq coreOf .sequencerStep (s.entry o n).strands (s.enqueue (s.entry o n))
  exact ⟨l, hl⟩

/-! ### MWAIT and MSTAT (R327, R330) -/

@[simp] theorem Strand.wS_mxRep (t : Strand) (d : SReg) (v : Word) : (t.wS d v).mxRep = t.mxRep := by
  unfold Strand.wS; split <;> rfl
@[simp] theorem Strand.dlResult_mxRep (t : Strand) (code : Nat) : (t.dlResult code).mxRep = t.mxRep := by
  unfold Strand.dlResult; split_ifs <;> rfl

section
variable {s : State} {g : Guard} {d l : SReg}

theorem exec_mwait_blocks (hg : s.guard g = true) : exec (.mwait g d l) s =
    .next (s.blocking .issue (.mwait g d l) d (s.deadline l) mwaitCond (fun s => (sTIMEOUT, s.mwDetail 0 0, s))) := guarded_ok hg rfl

/-- MWAIT completes with what it finds. -/
theorem exec_mwait_found {code detail : Nat} {t : State} (hg : s.guard g = true) (h : mwaitCond s = some (code, detail, t))
    (hpc : t.st.pc = s.st.pc) : s.endsWith d (.mwait g d l) (statusWord code detail) :=
  ⟨_, exec_mwait_blocks hg, State.blocking_completes .issue h hpc⟩

theorem mwaitCond_stopped {o : MxOp} {fc x : Nat} {va : Word} (hrep : s.st.mxRep = []) (ho : s.oldestOp = some o)
    (hstop : o.stop = some (fc, x, va)) (hfc : fc ≠ 5) : mwaitCond s = some (3, s.mwDetail fc o.step, s) := by
  unfold State.oldestOp at ho
  simp only [mwaitCond, hrep, ho, hstop, hfc, if_false]
  rfl

/-- An end at a step is reported once. -/
theorem exec_mwait_reports {fc n : Nat} {r : List (Nat × Nat)} (hg : s.guard g = true) (h : s.st.mxRep = (fc, n) :: r) :
    ∃ t, exec (.mwait g d l) s = .next t ∧ t.st.pc = s.st.pc + 8 ∧ t.st.mxRep = r ∧
      (d ≠ 0 → t.rS d = statusWord 3 (s.mwDetail fc n)) := by
  have hc : mwaitCond s = some (3, s.mwDetail fc n, s.mod (fun t => { t with mxRep := r })) := by
    simp only [mwaitCond, h]
    rfl
  have hst : (s.mod (fun t => { t with mxRep := r })).st = { s.st with mxRep := r } := State.st_mod s _
  have hpc : (s.mod (fun t => { t with mxRep := r })).st.pc = s.st.pc := by rw [hst]
  obtain ⟨hdone, hd, -⟩ := State.completed_blockEnd d 3 (s.mwDetail fc n) hpc
  obtain ⟨x, task, hun, -⟩ := (s.mod (fun t => { t with mxRep := r })).st_unblock
  refine ⟨_, (exec_mwait_blocks hg).trans (congrArg Host.Outcome.next (State.blocking_some hc)), hdone, ?_, hd⟩
  rw [State.st_blockEnd, hun, hst]
  simp

end

/-! ### MRESUME (R328) -/

/-- The op goes on from its step under a new deadline. -/
def MxOp.resumed (o : MxOp) (dl : Nat) : MxOp :=
  { o with stop := none, check := true, since := none, ents := [], dl := dl, stall := (0, 0), ahead := (0, 0) }

theorem State.mem_putOp {s : State} {o p : MxOp} (ho : o ∈ s.ops) (hid : p.id = o.id) : p ∈ (s.putOp p).ops :=
  List.mem_map.mpr ⟨o, ho, if_pos hid.symm⟩

section
variable {s : State} {g : Guard} {l : SReg}

theorem exec_mresume_idle (hg : s.guard g = true) (h : s.oldestOp = none) : exec (.mresume g l) s = .next (s.adv 8) := by
  unfold State.oldestOp at h
  exact guarded_ok hg (by simp [mresumePoll, h])

/-- The named source of a resumed MLDW (R321). -/
def State.resumeName (s : State) (o : MxOp) : State :=
  match o.kind with
  | .mldw t src seq => s.nameSrc o.core o.part (if seq.isSome then .slot t [] else src)
  | _ => s

theorem State.resumeName_rest (s : State) (o : MxOp) :
    (s.resumeName o).cur = s.cur ∧ (s.resumeName o).ops = s.ops ∧ (s.resumeName o).st = s.st := by
  unfold State.resumeName
  split <;> exact ⟨rfl, rfl, rfl⟩

theorem exec_mresume_stopped {o : MxOp} (hg : s.guard g = true) (h : s.oldestOp = some o) (hstop : o.stop ≠ none) (hgang : o.gang = []) :
    exec (.mresume g l) s =
      .next ((((s.resumeName (o.resumed (s.deadline l))).putOp (o.resumed (s.deadline l))).wakeSlices (rowOf o.core)).adv 8) := by
  unfold State.oldestOp at h
  have hsome : o.stop.isNone = false := by rw [Option.isNone_eq_false_iff, Option.isSome_iff_ne_none]; exact hstop
  have hsingle : (!o.gang.isEmpty) = false := by simp [hgang]
  refine guarded_ok hg ?_
  simp only [mresumePoll, h, hsome, hsingle, ne_eq, not_true_eq_false, if_false, Bool.false_eq_true]
  rfl

theorem exec_mresume_resumes {o : MxOp} (hg : s.guard g = true) (h : s.oldestOp = some o) (hstop : o.stop ≠ none) (hgang : o.gang = []) :
    ∃ t p, exec (.mresume g l) s = .next t ∧ t.st.pc = s.st.pc + 8 ∧ p ∈ t.ops ∧ p.id = o.id ∧ p.kind = o.kind ∧ p.stop = none ∧
      p.step = o.step ∧ p.check = true ∧ p.dl = s.deadline l ∧ (coreOf s.cur, Instr.sequencerStep) ∈ t.agenda := by
  obtain ⟨hcur, hops, hst⟩ := s.resumeName_rest (o.resumed (s.deadline l))
  have ho : o ∈ s.ops := List.mem_of_find?_eq_some h
  have hmine : o.strand = s.cur := by
    have := List.find?_some h
    simp [MxOp.of, hgang, has] at this
    exact this.1
  have hmem := State.mem_putOp (s := s.resumeName (o.resumed (s.deadline l))) (o := o) (p := o.resumed (s.deadline l)) (hops ▸ ho) rfl
  obtain ⟨r, hr, hwake⟩ := State.wakeSlices_eq
    ((s.resumeName (o.resumed (s.deadline l))).putOp (o.resumed (s.deadline l))) (rowOf o.core)
  refine ⟨_, o.resumed (s.deadline l), exec_mresume_stopped hg h hstop hgang, ?_, ?_, rfl, rfl, rfl, rfl, rfl, rfl, ?_⟩
  · rw [State.st_adv, hr]
    exact congrArg (fun t : Strand => t.pc + 8) hst
  · rw [hr]
    exact hmem
  · rw [hr]
    have hstr : (o.resumed (s.deadline l)).strands = [o.strand] := MxOp.strands_single (o := o.resumed (s.deadline l)) hgang
    exact hwake _ hmem rfl s.cur (by rw [hstr, hmine]; exact List.mem_singleton.mpr rfl)

end

/-! ### The wired barrier of a row (R113, R114, R256) -/

section
variable {s : State} {p : Fin 4}

/-- A product that the queue of a partition takes from the barrier. -/
def State.toldReady (s : State) (a : RowArr) : Option (RowArr × MxOp) :=
  match a.op with
  | some (o, _) => if o.bad ∧ s.queueFree o.core o.part then some (a, o) else none
  | none => none

theorem State.toldReady_told {a : RowArr} (h : a.told = false) : s.toldReady a = none := by
  unfold State.toldReady
  cases hop : a.op with
  | none => rfl
  | some x =>
    simp only [RowArr.told, hop, Option.map_some, Option.getD_some] at h
    simp [h]

/-- The arrivals at the wired barrier of a partition of the row replaced. -/
def State.setBarr (s : State) (p : Fin 4) (l : List RowArr) : State := s.modRow s.cur (fun r => { r with barr := r.barr.set p l })

/-- A step of the barrier, by the product that may leave it and by the group that is complete. -/
theorem exec_gangBarrier_eq (s : State) (p : Fin 4) : exec (.gangBarrier p) s =
    match (s.row s.cur).barr[p].findSome? s.toldReady, gangGroup (s.row s.cur).barr[p] with
    | some (a, o), _ =>
      .next ((((s.setBarr p ((s.row s.cur).barr[p].erase a)).accept o 0).gangGo a.strand).post s.cur (.gangBarrier p))
    | none, none => if (s.row s.cur).barr[p].any (·.told) then .next (s.post s.cur (.gangBarrier p)) else .next s
    | none, some g =>
      if !(g.head?.map (fun a => gangAgree a g)).getD false then
        .next ((g.foldl (fun (s : State) b => s.gangBad b) (s.setBarr p (gangLeft (s.row s.cur).barr[p] g))).post s.cur (.gangBarrier p))
      else if !s.gangRoom g then .next (s.post s.cur (.gangBarrier p))
      else .next (((s.setBarr p ((s.row s.cur).barr[p].filter (fun a => !has g a))).gangDone s.cur g).post s.cur (.gangBarrier p)) := rfl

theorem State.row_setBarr (s : State) (p : Fin 4) (l : List RowArr) : ((s.setBarr p l).row s.cur).barr[p] = l := by
  rw [State.setBarr, State.row_modRow, if_pos rfl]
  exact Vector.getElem_set_self _

theorem State.toldReady_none {l : List RowArr} (h : ∀ x ∈ l, x.told = false) : l.findSome? s.toldReady = none :=
  List.findSome?_eq_none_iff.mpr fun x hx => State.toldReady_told (h x hx)

theorem exec_gangBarrier_quiet (hgroup : gangGroup (s.row s.cur).barr[p] = none)
    (h : ∀ x ∈ (s.row s.cur).barr[p], x.told = false) : exec (.gangBarrier p) s = .next s := by
  have htold : (s.row s.cur).barr[p].any (·.told) = false := by
    simpa only [List.any_eq_false, Bool.not_eq_true] using h
  rw [exec_gangBarrier_eq, State.toldReady_none h, hgroup]
  exact if_neg (ne_true_of_eq_false htold)

section
variable {x : RowArr} {o : MxOp} {c : BitVec 8} (hl : (s.row s.cur).barr[p] = [x]) (hx : x.op = some (o, c)) (hbad : o.bad = true)
include hl hx hbad

/-- A product of a gang that disagreed enters the queue, and its strand goes on. -/
theorem exec_gangBarrier_enters (hq : s.queueFree o.core o.part = true) : ∃ t q, exec (.gangBarrier p) s = .next t ∧
    (t.row s.cur).barr[p] = [] ∧ t.ops = s.ops ++ [q] ∧ q.kind = o.kind ∧ q.bad = true ∧
    (t.strand x.strand).wait = (s.strand x.strand).wait.map (fun w => { w with stage := 1 }) := by
  have hready : (s.row s.cur).barr[p].findSome? s.toldReady = some (x, o) := by
    simp [hl, State.toldReady, hx, hbad, hq]
  have hexec : exec (.gangBarrier p) s =
      .next ((((s.setBarr p []).accept o 0).gangGo x.strand).post s.cur (.gangBarrier p)) := by
    rw [exec_gangBarrier_eq, hready, hl]
    simp only [List.erase_cons_head]
  obtain ⟨r, hr⟩ := (s.setBarr p []).accept_eq o 0
  rw [hr] at hexec
  refine ⟨_, (s.setBarr p []).entry o 0, hexec, s.row_setBarr p [], rfl, rfl, hbad, ?_⟩
  rw [State.strand_post, State.gangGo, State.strand_modStrand, if_pos rfl]
  rfl

theorem exec_gangBarrier_full (hq : s.queueFree o.core o.part = false) :
    exec (.gangBarrier p) s = .next (s.post s.cur (.gangBarrier p)) := by
  have htold : x.told = true := by simp [RowArr.told, hx, hbad]
  have hready : [x].findSome? s.toldReady = none := by
    simp [State.toldReady, hx, hq]
  have hgroup : gangGroup [x] = none := by simp [gangGroup, htold]
  rw [exec_gangBarrier_eq, hl, hready, hgroup]
  exact if_pos (by simp [htold])

end

theorem gangOf_alone {e : RowArr} (hm : e.mask = BitVec.ofNat 16 (2 ^ colOf (coreOf e.strand))) : gangOf [e] e = some [e] := by
  have hcol : colOf (coreOf e.strand) < 16 := Nat.mod_lt _ (by decide)
  have hcols : (List.range 16).filter (fun c => e.mask.getLsbD c) = [colOf (coreOf e.strand)] := by
    rw [hm]
    generalize colOf (coreOf e.strand) = n at hcol
    interval_cases n <;> decide
  simp [gangOf, hcols]

theorem State.arrAt_modArr (s : State) (k slot : Nat) (f : Arrival → Arrival) :
    ((s.modArr k slot f).strand k).arrAt slot = ((s.strand k).arrAt slot).map f := by
  rw [State.modArr, State.strand_modStrand, if_pos rfl]
  by_cases h : slot < 4 <;> simp [Strand.arrAt, h]

/-- A strand that arrives for itself alone completes the barrier. -/
theorem exec_gangBarrier_alone {e : RowArr} (hl : (s.row s.cur).barr[p] = [e]) (hop : e.op = none)
    (hm : e.mask = BitVec.ofNat 16 (2 ^ colOf (coreOf e.strand))) : ∃ t, exec (.gangBarrier p) s = .next t ∧
      (t.row s.cur).barr[p] = [] ∧
      (t.strand e.strand).arrAt e.slot = ((s.strand e.strand).arrAt e.slot).map (fun a => { a with done := true }) := by
  have htold : e.told = false := by simp [RowArr.told, hop]
  have hready : [e].findSome? s.toldReady = none := State.toldReady_none (by simp [htold])
  have hgroup : gangGroup [e] = some [e] := by simp [gangGroup, htold, gangOf_alone hm]
  have hagree : gangAgree e [e] = true := by simp [gangAgree, hop]
  have hroom : s.gangRoom [e] = true := by simp [State.gangRoom, hop]
  have hexec : exec (.gangBarrier p) s = .next ((((s.setBarr p []).modArr e.strand e.slot (fun a => { a with done := true })).drain
      (Fin.ofNat 4 (s.cur / 16))).post s.cur (.gangBarrier p)) := by
    rw [exec_gangBarrier_eq, hl, hready, hgroup]
    simp [hagree, hroom, has, State.gangDone, hop]
  exact ⟨_, hexec, s.row_setBarr p [], (s.setBarr p []).arrAt_modArr _ _ _⟩

end

end Sys2Proof.Machine
end

section
/-! SUPPORT. What the elements of accumulator units read after a write, sums of tiles, and bytes of local memory (R115, R317). -/
namespace Sys2Proof.Machine

/-! ### Tables and lists -/

section
variable {α β : Type}

theorem Table.find_append (s t : Table α) (k : Nat) : Table.find (s ++ t) k = (s.find k).or (t.find k) := by
  induction s with
  | nil => rfl
  | cons e s ih =>
    obtain ⟨j, v⟩ := e
    by_cases h : j = k
    · simp [Table.find, h]
    · simpa [Table.find, h] using ih

/-- The entries whose keys meet a condition. -/
theorem Table.find_filter (t : Table α) (p : Nat → Bool) (k : Nat) :
    Table.find (t.filter (fun e => p e.1)) k = if p k then t.find k else none := by
  induction t with
  | nil => simp [Table.find]
  | cons e t ih =>
    obtain ⟨j, v⟩ := e
    by_cases hp : p j <;> by_cases h : j = k <;> simp_all [Table.find]

theorem Table.find_of_lt {t : Table α} {k : Nat} (h : ∀ e ∈ t, k < e.1) : t.find k = none := by
  induction t with
  | nil => rfl
  | cons e t ih =>
    obtain ⟨j, v⟩ := e
    have hj : k < j := h (j, v) (List.mem_cons_self ..)
    rw [Table.find, if_neg (by omega)]
    exact ih fun e he => h e (List.mem_cons_of_mem _ he)

/-- Successive keys from `key` on, listed where a value stands. -/
def Table.run (key : Nat) (f : Nat → Option α) (n : Nat) : Table α :=
  (List.range n).filterMap (fun i => (f i).map (fun v => (key + i, v)))

theorem Table.run_succ (key : Nat) (f : Nat → Option α) (n : Nat) :
    Table.run key f (n + 1) = Table.run key f n ++ ((f n).map (fun v => (key + n, v))).toList := by
  rw [Table.run, List.range_succ, List.filterMap_append]
  cases h : f n <;> simp [Table.run, h]

theorem Table.find_run (key : Nat) (f : Nat → Option α) (n k : Nat) :
    (Table.run key f n).find k = if key ≤ k ∧ k < key + n then f (k - key) else none := by
  induction n with
  | zero => rw [if_neg (by omega)]; rfl
  | succ n ih =>
    rw [Table.run_succ, Table.find_append, ih]
    by_cases hk : k = key + n
    · subst hk
      rw [if_neg (by omega), if_pos (by omega), Nat.add_sub_cancel_left]
      cases f n <;> simp [Table.find]
    · have hlast : Table.find ((f n).map (fun v => (key + n, v))).toList k = none := by
        cases f n <;> simp [Table.find, Ne.symm hk]
      rw [hlast, Option.or_none]
      exact if_congr (by omega) rfl rfl

theorem Table.mem_run {key : Nat} {f : Nat → Option α} {n : Nat} {e : Nat × α} (h : e ∈ Table.run key f n) :
    key ≤ e.1 ∧ e.1 < key + n := by
  obtain ⟨i, hi, he⟩ := List.mem_filterMap.mp h
  obtain ⟨v, -, rfl⟩ := Option.map_eq_some_iff.mp he
  have := List.mem_range.mp hi
  exact ⟨Nat.le_add_right _ _, by simpa using this⟩

theorem Table.run_sorted (key : Nat) (f : Nat → Option α) (n : Nat) : ((Table.run key f n).map Prod.fst).Pairwise (· < ·) := by
  induction n with
  | zero => exact .nil
  | succ n ih =>
    rw [Table.run_succ, List.map_append, List.pairwise_append]
    refine ⟨ih, by cases f n <;> simp, fun a ha b hb => ?_⟩
    obtain ⟨e, he, rfl⟩ := List.mem_map.mp ha
    have hlt := (Table.mem_run he).2
    have hb' : b = key + n := by
      cases hf : f n <;> simp [hf] at hb
      exact hb
    omega

theorem length_flatMap_pieces {f : α → List β} {n : Nat} (h : ∀ a, (f a).length = n) (l : List α) :
    (l.flatMap f).length = l.length * n := by
  rw [List.length_flatMap, List.map_congr_left fun a _ => h a]
  simp

/-- A piece of a list that is made of pieces of one size. -/
theorem piece_flatMap {f : α → List β} {n : Nat} (h : ∀ a, (f a).length = n) : ∀ (l : List α) (i : Nat) (hi : i < l.length),
    ((l.flatMap f).drop (n * i)).take n = f l[i] := by
  intro l
  induction l with
  | nil => exact fun i hi => absurd hi (Nat.not_lt_zero i)
  | cons a l ih =>
    intro i hi
    cases i with
    | zero => rw [List.flatMap_cons, Nat.mul_zero, List.drop_zero, List.take_left' (h a)]; rfl
    | succ i =>
      rw [List.flatMap_cons, Nat.mul_succ, Nat.add_comm, ← List.drop_drop, List.drop_left' (h a)]
      exact ih i (Nat.lt_of_succ_lt_succ hi)

end

/-! ### Accumulator units (R317) -/

theorem accKey_add (row part u e : Nat) : accKey row part u e = accKey row part u 0 + e := by
  simp only [accKey, Nat.add_zero]

/-- The values at successive keys of a table in the order of its keys. -/
theorem spread_eq : ∀ (n : Nat) {k : Nat} {t : Table (BitVec 32)}, (t.map Prod.fst).Pairwise (· < ·) → (∀ e ∈ t, k ≤ e.1) →
    spread n k t = (List.range n).map (fun i => (t.find (k + i)).map BitVec.toNat) := by
  intro n
  induction n with
  | zero => intros; rw [spread]; rfl
  | succ n ih =>
    intro k t hs hk
    rw [List.range_succ_eq_map, List.map_cons, List.map_map]
    cases t with
    | nil =>
      rw [spread, ih .nil fun e he => absurd he List.not_mem_nil]
      simp [Table.find, Function.comp_def]
    | cons e t =>
      obtain ⟨j, v⟩ := e
      obtain ⟨hlt, hs'⟩ := List.pairwise_cons.mp hs
      have hj : k ≤ j := hk (j, v) (List.mem_cons_self ..)
      have hrest : ∀ e ∈ t, j < e.1 := fun e he => hlt e.1 (List.mem_map_of_mem he)
      rw [spread]
      by_cases h : j = k
      · subst h
        rw [if_pos rfl, ih hs' fun e he => hrest e he]
        refine congrArg₂ List.cons (by simp [Table.find]) (List.map_congr_left fun i _ => ?_)
        rw [Function.comp_apply, Table.find, if_neg (by omega), Nat.succ_add_eq_add_succ]
      · have hnext : ∀ e ∈ (j, v) :: t, k + 1 ≤ e.1 := by
          intro e he
          rcases List.mem_cons.mp he with rfl | he
          · show k + 1 ≤ j
            omega
          · have := hrest e he
            omega
        rw [if_neg h, ih hs hnext]
        refine congrArg₂ List.cons ?_ (List.map_congr_left fun i _ => ?_)
        · rw [Nat.add_zero, Table.find_of_lt fun e he => Nat.lt_of_succ_le (hnext e he)]
          rfl
        · rw [Function.comp_apply, Nat.add_right_comm]
          rfl

/-- The elements that lie in ascending order of their keys, as R317 keeps them. -/
def State.accSorted (s : State) : Prop := (s.acc.map Prod.fst).Pairwise (· < ·)

theorem sorted_filter {α : Type} {t : Table α} (h : (t.map Prod.fst).Pairwise (· < ·)) (p : Nat × α → Bool) :
    ((t.filter p).map Prod.fst).Pairwise (· < ·) := h.sublist (List.filter_sublist.map Prod.fst)

theorem State.accRead_eq {s : State} (h : s.accSorted) (key n : Nat) :
    s.accRead key n = (List.range n).map (fun i => (s.acc.find (key + i)).map BitVec.toNat) := by
  rw [State.accRead, spread_eq n (sorted_filter h _) fun e he => of_decide_eq_true (List.mem_filter.mp he).2]
  refine List.map_congr_left fun i _ => ?_
  rw [Table.find_filter s.acc (fun j => decide (key ≤ j)), if_pos (by simp)]

section
variable (s : State) (key : Nat) (l : List (Option Nat))

/-- The elements that are written. -/
def writtenAcc : Table (BitVec 32) := Table.run key (fun i => (nth l i none).map (BitVec.ofNat 32)) l.length

theorem State.acc_accWrite : (s.accWrite key l).acc = s.acc.filter (fun e => decide (e.1 < key)) ++ writtenAcc key l ++
    s.acc.filter (fun e => decide (key + l.length ≤ e.1)) := by
  have hrun : (List.range l.length).filterMap (fun i => (nth l i none).map (fun v => (key + i, BitVec.ofNat 32 v))) =
      writtenAcc key l := by simp [writtenAcc, Table.run, Function.comp_def]
  rw [← hrun]
  rfl

/-- An element in the range reads what was written, another what it read before. -/
theorem State.find_accWrite (k : Nat) : (s.accWrite key l).acc.find k =
    if key ≤ k ∧ k < key + l.length then (nth l (k - key) none).map (BitVec.ofNat 32) else s.acc.find k := by
  rw [State.acc_accWrite, Table.find_append, Table.find_append, Table.find_filter s.acc (fun j => decide (j < key)),
    Table.find_filter s.acc (fun j => decide (key + l.length ≤ j)), writtenAcc, Table.find_run]
  by_cases h1 : k < key
  · simp [h1, show ¬ (key ≤ k ∧ k < key + l.length) by omega, show ¬ key + l.length ≤ k by omega]
  · by_cases h2 : k < key + l.length
    · simp [h1, show key ≤ k ∧ k < key + l.length by omega, show ¬ key + l.length ≤ k by omega]
    · simp [h1, show ¬ (key ≤ k ∧ k < key + l.length) by omega, show key + l.length ≤ k by omega]

theorem State.accSorted_accWrite {s : State} (h : s.accSorted) : (s.accWrite key l).accSorted := by
  unfold State.accSorted
  rw [State.acc_accWrite, List.map_append, List.map_append, List.pairwise_append, List.pairwise_append]
  refine ⟨⟨sorted_filter h _, Table.run_sorted _ _ _, ?_⟩, sorted_filter h _, ?_⟩
  · intro a ha b hb
    obtain ⟨e, he, rfl⟩ := List.mem_map.mp ha
    obtain ⟨e', he', rfl⟩ := List.mem_map.mp hb
    have := of_decide_eq_true (List.mem_filter.mp he).2
    have := (Table.mem_run he').1
    omega
  · intro a ha b hb
    obtain ⟨e', he', rfl⟩ := List.mem_map.mp hb
    have hb' := of_decide_eq_true (List.mem_filter.mp he').2
    rcases List.mem_append.mp ha with ha | ha <;> obtain ⟨e, he, rfl⟩ := List.mem_map.mp ha
    · have := of_decide_eq_true (List.mem_filter.mp he).2
      omega
    · have := (Table.mem_run he).2
      omega

end

/-- A tile of sums, element by element. -/
theorem addTiles_eq : ∀ xs ys : List (Option Nat), (addTiles xs ys).1 = List.zipWith (fun x y => (canonAdd .f32 .rne x y).1) xs ys := by
  intro xs
  induction xs with
  | nil => intro ys; cases ys <;> rfl
  | cons x xs ih =>
    intro ys
    cases ys with
    | nil => rfl
    | cons y ys => exact congrArg (List.cons _) (ih ys)

/-! ### Bytes read after they are written -/

theorem Mem.getElem_read (m : List Host.Cell) : ∀ (n a i : Nat) (h : i < (Mem.read m a n).length),
    (Mem.read m a n)[i] = Mem.get m (a + i) := by
  intro n
  induction n with
  | zero => exact fun a i h => absurd h (Nat.not_lt_zero i)
  | succ n ih =>
    intro a i h
    cases i with
    | zero => rfl
    | succ i =>
      rw [show a + (i + 1) = a + 1 + i by omega]
      exact ih (a + 1) i (Nat.lt_of_succ_lt_succ h)

theorem length_bytesOfNat : ∀ n v : Nat, (bytesOfNat n v).length = n := by
  intro n
  induction n with
  | zero => exact fun _ => rfl
  | succ n ih => exact fun v => congrArg (· + 1) (ih (v / 256))

/-- A part of the bytes that were written. -/
theorem Mem.read_write_part (m : List Host.Cell) (a off n : Nat) (l : List Byte) (h : off + n ≤ l.length) :
    Mem.read (Mem.write m a l) (a + off) n = (l.drop off).take n := by
  refine List.ext_getElem (by rw [Mem.length_read, List.length_take, List.length_drop]; omega) fun i h1 h2 => ?_
  rw [Mem.length_read] at h1
  rw [Mem.getElem_read, List.getElem_take, List.getElem_drop, Nat.add_assoc, Mem.get_write_inside l m a (off + i) (by omega)]

end Sys2Proof.Machine
end

section
/-! PROOF. A step of the sequencer: MZERO, MLDW from the weight store, MMA of one column block, and MOUT (R110, R111, R113 to
R115, R134, R176, R321, R322, R329). -/
namespace Sys2Proof.Machine

/-! ### The op whose step is next -/

/-- `o` is the only op of the sequencer, of the current slice, before its first step, and nothing holds it. -/
structure State.alone (s : State) (o : MxOp) : Prop where
  ops : s.ops = [o]
  core : o.core = s.cur
  strand : coreOf o.strand = s.cur
  gang : o.gang = []
  part : o.part < 4
  step : o.step = 0
  stop : o.stop = none
  cancel : o.cancel = false
  bad : o.bad = false

/-- The round-robin order of a slice holds every partition. -/
theorem State.mem_partOrder (s : State) (core : Nat) {p : Nat} (h : p < 4) : p ∈ s.partOrder core := by
  simp only [State.partOrder, List.mem_map, List.mem_range]
  generalize ((s.row (rowOf core)).rr.toList)[colOf core]?.getD 0 = last
  exact ⟨(p + 3 * (last + 1)) % 4, Nat.mod_lt _ (by decide), by omega⟩

section
variable {s : State} {o : MxOp} (h : s.alone o)
include h

theorem State.alone.strands : o.strands = [o.strand] := MxOp.strands_single h.gang

theorem State.alone.nextOn (p : Nat) : nextOn s.cur p s.ops [] = if p = o.part then some o else none := by
  rw [h.ops]
  by_cases hp : p = o.part
  · simp [Machine.nextOn, h.stop, h.strands, h.strand, has, hp]
  · simp [Machine.nextOn, h.stop, h.strands, has, hp, Ne.symm hp]

theorem State.alone.current (p : Nat) : s.current s.cur p = if p = o.part then some o else none := by
  rw [State.current, h.nextOn]
  by_cases hp : p = o.part
  · simp [hp, h.strands, h.strand, h.nextOn]
  · simp [hp]

theorem State.alone.tryParts_acted {u : State} (hu : s.tryStep o = .acted u) : ∀ ps : List Nat, o.part ∈ ps →
    State.tryParts s.cur ps s = u := by
  intro ps
  induction ps with
  | nil => exact fun hm => absurd hm List.not_mem_nil
  | cons p ps ih =>
    intro hm
    rw [State.tryParts, h.current]
    by_cases hp : p = o.part
    · simp only [if_pos hp, hu]
    · simp only [if_neg hp]
      exact ih ((List.mem_cons.mp hm).resolve_left (Ne.symm hp))

theorem State.alone.tryParts_waits (hs : s.tryStep o = .waits s) : ∀ ps : List Nat, State.tryParts s.cur ps s = s := by
  intro ps
  induction ps with
  | nil => rfl
  | cons p ps ih =>
    rw [State.tryParts, h.current]
    by_cases hp : p = o.part
    · simp only [if_pos hp, hs, ih]
    · simp only [if_neg hp, ih]

theorem State.alone.dropCancelled : s.dropCancelled s.cur = s := by
  simp [State.dropCancelled, h.ops, h.cancel]

end

/-- What a step boundary posts once its step is over. -/
def State.boundary (s : State) (core : Nat) : State :=
  let s := if (s.prefetching core).isSome then s.postOnce core .mmasPrefetch else s
  if (List.range 4).any (fun p => (nextOn core p s.ops []).isSome) then s.postOnce core .sequencerStep else s

theorem State.boundary_eq (s : State) (core : Nat) : ∃ l, s.boundary core = s.posts l := by
  have hp : ∃ l, (if (s.prefetching core).isSome then s.postOnce core .mmasPrefetch else s) = s.posts l := by
    split
    · exact s.postOnce_eq core .mmasPrefetch
    · exact ⟨[], by simp [State.posts]⟩
  obtain ⟨l, hl⟩ := hp
  unfold State.boundary
  rw [hl]
  dsimp only
  split
  · obtain ⟨l', hl'⟩ := (s.posts l).postOnce_eq core .sequencerStep
    exact ⟨l ++ l', by rw [hl']; simp [State.posts, List.append_assoc]⟩
  · exact ⟨l, rfl⟩

theorem State.mem_boundary {s : State} {core p : Nat} (hp : p < 4) (h : (nextOn core p s.ops []).isSome) :
    (core, Instr.sequencerStep) ∈ (s.boundary core).agenda := by
  have hops : (if (s.prefetching core).isSome then s.postOnce core .mmasPrefetch else s).ops = s.ops := by
    split
    · obtain ⟨l, hl⟩ := s.postOnce_eq core .mmasPrefetch
      rw [hl]; rfl
    · rfl
  have hany : (List.range 4).any (fun p => (Machine.nextOn core p s.ops []).isSome) = true :=
    List.any_eq_true.mpr ⟨p, List.mem_range.mpr hp, h⟩
  simp only [State.boundary, hops, hany, if_true]
  exact State.mem_postOnce _ _ _

section
variable {s : State} {o : MxOp} (h : s.alone o)
include h

theorem exec_sequencerStep_acts {u : State} (hu : s.tryStep o = .acted u) : ∃ l, exec .sequencerStep s = .next (u.posts l) := by
  obtain ⟨l, hl⟩ := u.boundary_eq s.cur
  refine ⟨l, ?_⟩
  have hexec : exec .sequencerStep s =
    .next ((State.tryParts s.cur ((s.dropCancelled s.cur).partOrder s.cur) (s.dropCancelled s.cur)).boundary s.cur) := rfl
  rw [hexec, h.dropCancelled, h.tryParts_acted hu _ (s.mem_partOrder s.cur h.part), hl]

theorem exec_sequencerStep_waits (hs : s.tryStep o = .waits s) :
    ∃ t, exec .sequencerStep s = .next t ∧ t.ops = [o] ∧ t.lds = s.lds ∧ (s.cur, Instr.sequencerStep) ∈ t.agenda := by
  have hexec : exec .sequencerStep s =
    .next ((State.tryParts s.cur ((s.dropCancelled s.cur).partOrder s.cur) (s.dropCancelled s.cur)).boundary s.cur) := rfl
  rw [h.dropCancelled, h.tryParts_waits hs] at hexec
  obtain ⟨l, hl⟩ := s.boundary_eq s.cur
  refine ⟨_, hexec, by rw [hl]; exact h.ops, by rw [hl]; rfl, State.mem_boundary h.part ?_⟩
  rw [h.nextOn, if_pos rfl]
  rfl

end

/-! ### The end of a step (R114, R116) -/

/-- The row's record of the partition that was served last, and the count of the step. -/
def State.served (s : State) (o : MxOp) : State :=
  (s.count o.core 0x13).modRow (rowOf o.core) (fun r =>
    { r with rr := Vector.ofFn (fun i : Fin 16 => if o.strands.any (fun k => colOf (coreOf k) == i.val) then o.part else r.rr[i]) })

/-- An op other than MMAS. -/
def MxKind.plain : MxKind → Bool
  | .mmas .. => false
  | _ => true

theorem State.stepped_plain {s : State} {o : MxOp} (h : o.kind.plain = true) : s.stepped o =
    if o.step + 1 = o.kind.steps then (s.served o).finish o
    else o.strands.foldl (fun (s : State) k => s.settleSlots (coreOf k))
      ((s.served o).putOp { o with step := o.step + 1, since := none, check := false, stall := (0, 0) }) := by
  unfold State.stepped
  cases hk : o.kind with
  | mmas => rw [hk] at h; exact absurd h Bool.false_ne_true
  | _ => rfl

/-- The ops, the accumulators, the local store and the latched sources of the banks are as they were. -/
structure State.SameUnits (s t : State) : Prop where
  ops : t.ops = s.ops
  acc : t.acc = s.acc
  lds : t.lds = s.lds
  latched : ∀ c p, t.latchedSrc c p = s.latchedSrc c p

namespace State.SameUnits

theorem refl (s : State) : s.SameUnits s := ⟨rfl, rfl, rfl, fun _ _ => rfl⟩
theorem trans {s t u : State} (h : s.SameUnits t) (h' : t.SameUnits u) : s.SameUnits u :=
  ⟨h'.ops.trans h.ops, h'.acc.trans h.acc, h'.lds.trans h.lds, fun c p => (h'.latched c p).trans (h.latched c p)⟩
theorem posts (s : State) (l : List (Nat × Instr)) : s.SameUnits (s.posts l) := ⟨rfl, rfl, rfl, fun _ _ => rfl⟩
theorem modStrand (s : State) (k : Nat) (f : Strand → Strand) : s.SameUnits (s.modStrand k f) := ⟨rfl, rfl, rfl, fun _ _ => rfl⟩

theorem settleSlots (s : State) (core : Nat) : s.SameUnits (s.settleSlots core) := by
  refine ⟨rfl, rfl, rfl, fun c p => ?_⟩
  rw [State.latchedSrc, State.settleSlots, State.core_modCore]
  split
  · next hc => subst hc; rfl
  · rfl

theorem wakeCore (s : State) (core : Nat) : s.SameUnits (s.wakeCore core) := by
  obtain ⟨l, hl⟩ := s.wakeCore_eq core
  exact hl ▸ posts s l

theorem wakeSlices (s : State) (row : Nat) : s.SameUnits (s.wakeSlices row) := by
  obtain ⟨l, hl, -⟩ := s.wakeSlices_eq row
  exact hl ▸ posts s l

theorem count (s : State) (core code : Nat) : s.SameUnits (s.count core code) :=
  ⟨State.count_keeps (p := State.ops) (fun _ _ _ => rfl) s core code, State.count_keeps (p := State.acc) (fun _ _ _ => rfl) s core code,
    State.count_keeps (p := State.lds) (fun _ _ _ => rfl) s core code,
    fun c p => by rw [State.latchedSrc, s.core_count]; rfl⟩

theorem served (s : State) (o : MxOp) : s.SameUnits (s.served o) :=
  (count s o.core 0x13).trans ⟨rfl, rfl, rfl, fun _ _ => rfl⟩

end State.SameUnits

/-- The state without an op. -/
def State.without (s : State) (o : MxOp) : State := { s with ops := s.ops.filter (fun x => x.id != o.id) }

/-- The end of an op of one strand takes it from the sequencer. -/
theorem State.finish_single {s : State} {o : MxOp} (h : o.gang = []) : (s.without o).SameUnits (s.finish o) := by
  have hleave : s.leave o = (((s.without o).settleSlots (coreOf o.strand)).wakeCore (coreOf o.strand)).wakeSlices (rowOf o.core) := by
    rw [State.leave, MxOp.strands_single h]
    rfl
  rw [State.finish, State.report, MxOp.strands_single h, hleave, List.foldl_cons, List.foldl_nil]
  refine (SameUnits.settleSlots (s.without o) (coreOf o.strand)).trans ?_
  refine (SameUnits.wakeCore _ (coreOf o.strand)).trans ?_
  refine (SameUnits.wakeSlices _ (rowOf o.core)).trans ?_
  exact SameUnits.modStrand _ o.strand _

/-- The last step of an op of one strand ends it. -/
theorem State.stepped_last {s : State} {o : MxOp} (hk : o.kind.plain = true) (hlast : o.step + 1 = o.kind.steps) (h : o.gang = []) :
    (s.without o).SameUnits (s.stepped o) := by
  obtain ⟨hops, hacc, hlds, hlatched⟩ := SameUnits.served s o
  rw [State.stepped_plain hk, if_pos hlast]
  have hserved : (s.without o).SameUnits ((s.served o).without o) := ⟨congrArg (List.filter _) hops, hacc, hlds, hlatched⟩
  exact hserved.trans (State.finish_single h)

/-- A step leaves the accumulators as its sums have left them. -/
theorem State.acc_stepped {s : State} {o : MxOp} (hk : o.kind.plain = true) (h : o.gang = []) : (s.stepped o).acc = s.acc := by
  rw [State.stepped_plain hk]
  split
  · exact (State.finish_single h).acc.trans (SameUnits.served s o).acc
  · rw [MxOp.strands_single h]
    exact (SameUnits.served s o).acc

/-! ### MZERO and MLDW (R321, R329) -/

theorem State.latchedSrc_latchSrc (s : State) (c : Nat) {p : Nat} (hp : p < 4) (x : WSrc) :
    (s.latchSrc c p x).latchedSrc c p = x := by
  rw [State.latchedSrc, State.latchSrc, State.core_modCore, if_pos rfl]
  simp [hp]

theorem nth_replicate {α : Type} (n i : Nat) (d : α) : nth (List.replicate n d) i d = d := by
  rw [nth, List.getElem?_replicate]
  split <;> rfl

/-- A step whose lines lie in no refreshing bank goes on. -/
theorem State.afterLines_free {s : State} {o : MxOp} {lines : List Nat} (h : s.unitStalls lines o.stall = none) :
    ∃ u, s.readsAs u ∧ ∀ go, s.afterLines o lines go = go u := by
  unfold State.afterLines
  rw [h]
  dsimp only
  split
  · exact ⟨s, s.readsAs_refl, fun _ => rfl⟩
  · exact ⟨_, s.readsAs_countEv _ _ _ _, fun _ => rfl⟩

section
variable {s : State} {o : MxOp} (h : s.alone o)
include h

theorem State.alone.without_ops {t : State} {p : MxOp} (hops : t.ops = s.ops) (hid : p.id = o.id) : (t.without p).ops = [] := by
  simp [State.without, hops, h.ops, hid]

theorem State.alone.row : rowOf o.core = rowOf s.cur := by rw [h.core]

/-- A step of MZERO leaves every element of its unit absent, and ends. -/
theorem exec_sequencerStep_mzero {tile : Nat} (hk : o.kind = .mzero tile) : ∃ t, exec .sequencerStep s = .next t ∧ t.ops = [] ∧
    ∀ e, e < 4096 → t.acc.find (accKey (rowOf s.cur) o.part tile e) = none := by
  have htry : s.tryStep o =
      .acted ((s.accWrite (accKey (rowOf s.cur) o.part tile 0) (List.replicate 4096 none)).stepped o) := by
    simp only [State.tryStep, h.bad, h.step, hk, MxKind.steps, h.row, Bool.false_eq_true, if_false, show ¬ 1 ≤ 0 by decide]
  obtain ⟨l, hl⟩ := exec_sequencerStep_acts h htry
  have hend := State.stepped_last (s := s.accWrite (accKey (rowOf s.cur) o.part tile 0) (List.replicate 4096 none)) (o := o)
    (by rw [hk]; rfl) (by rw [hk, h.step]; rfl) h.gang
  refine ⟨_, hl, hend.ops.trans (h.without_ops rfl rfl), fun e he => ?_⟩
  have hacc : ((s.accWrite (accKey (rowOf s.cur) o.part tile 0) (List.replicate 4096 none)).stepped o).acc =
    (s.accWrite (accKey (rowOf s.cur) o.part tile 0) (List.replicate 4096 none)).acc := hend.acc
  rw [show (State.posts _ l).acc = _ from hacc, State.find_accWrite, accKey_add _ _ _ e, List.length_replicate, if_pos (by omega),
    nth_replicate]
  rfl

/-- A step of MLDW latches the tile that it reads in the weight store, and ends. -/
theorem exec_sequencerStep_mldw {f tt : Fmt} {p : Word} {j : Nat} {b : List Byte} (hk : o.kind = .mldw f (.ws tt p j b) none)
    (hs : s.unitStalls ((s.whoOf o.strand).lines p (tileBytes tt)) o.stall = none) :
    ∃ t, exec .sequencerStep s = .next t ∧ t.ops = [] ∧
      t.latchedSrc s.cur o.part = .ws tt p 0 (s.ldBytes (s.whoOf o.strand) p (tileBytes tt)) := by
  obtain ⟨u, hu, hgo⟩ := State.afterLines_free (o := o) hs
  have htry : s.tryStep o =
      .acted ((u.latchSrc s.cur o.part (.ws tt p 0 (u.ldBytes (s.whoOf o.strand) p (tileBytes tt)))).stepped o) := by
    simp only [State.tryStep, h.bad, h.step, hk, MxKind.steps, h.core, hgo, Bool.false_eq_true, if_false, show ¬ 1 ≤ 0 by decide]
  have hops : u.ops = s.ops := by
    obtain ⟨⟨d, a, r, rfl⟩, -, -⟩ := hu
    rfl
  obtain ⟨l, hl⟩ := exec_sequencerStep_acts h htry
  have hend := State.stepped_last (s := u.latchSrc s.cur o.part (.ws tt p 0 (u.ldBytes (s.whoOf o.strand) p (tileBytes tt)))) (o := o)
    (by rw [hk]; rfl) (by rw [hk, h.step]; rfl) h.gang
  refine ⟨_, hl, hend.ops.trans (h.without_ops hops rfl), (hend.latched s.cur o.part).trans ?_⟩
  rw [(State.SameReads.of_readsAs hu).ldBytes]
  exact State.latchedSrc_latchSrc u s.cur h.part _

end

/-! ### MOUT (R176, R329) -/

/-- The bits that MOUT writes for an element. -/
def moutElem (t : Fmt) (m : Rm) (sc : Option (BitVec 32)) (x : Option Nat) : Nat :=
  match x with
  | none => 0
  | some b => (toIeee t m (scaled (fval .f32 b) (sc.map (fun b => fval .f32 b.toNat))).1).1

theorem moutBytes_ieee {t : Fmt} (h : t.isFb = false) (m : Rm) (sc : Option (BitVec 32)) (unit : List (Option Nat)) :
    (moutBytes t m sc unit).1 = unit.flatMap (fun x => bytesOfNat (fmtSize t) (moutElem t m sc x)) := by
  simp only [moutBytes, h, Bool.false_eq_true, if_false, List.map_map, List.flatMap_map]
  refine congrArg (fun f => List.flatMap f unit) (funext fun x => ?_)
  cases x <;> rfl

theorem isFb_of_isIeee {t : Fmt} (h : t.isIeee = true) : t.isFb = false := by
  revert h
  cases t <;> decide

/-- The elements of a unit, in order. -/
def State.unitElems (s : State) (row part tile : Nat) : List (Option Nat) :=
  (List.range 4096).map (fun e => (s.acc.find (accKey row part tile e)).map BitVec.toNat)

theorem State.accRead_unit {s : State} (h : s.accSorted) (row part tile : Nat) :
    s.accRead (accKey row part tile 0) 4096 = s.unitElems row part tile := by
  rw [State.accRead_eq h, State.unitElems]
  exact List.map_congr_left fun e _ => by rw [accKey_add _ _ _ e]

/-- Bytes stored in the local store. -/
def State.ldsStored (s : State) (w : Who) (off : Nat) (l : List Byte) : State := { s with lds := Mem.write s.lds (s.ldsPhys w off) l }

theorem State.ops_ldsStored (s : State) (w : Who) (off : Nat) (l : List Byte) : (s.ldsStored w off l).ops = s.ops := rfl

theorem State.lds_stored_without (s : State) (w : Who) (off : Nat) (l : List Byte) (o : MxOp) :
    ((s.ldsStored w off l).without o).lds = Mem.write s.lds (s.ldsPhys w off) l := rfl

theorem State.lds_posts (s : State) (l : List (Nat × Instr)) : (s.posts l).lds = s.lds := rfl

/-- The op with the flags of a step. -/
def MxOp.flagged (o : MxOp) (fl : FFlags) : MxOp := { o with flags := o.flags ||| fl }

theorem MxOp.id_flagged (o : MxOp) (fl : FFlags) : (o.flagged fl).id = o.id := rfl

theorem State.tryStep_mout {s : State} {o : MxOp} {tile : Nat} {f : Fmt} {m : Rm} {sc : Option (BitVec 32)} {dst : Word}
    (hbad : o.bad = false) (hstep : o.step = 0) (hk : o.kind = .mout tile f m sc dst) : s.tryStep o =
      if window dst = 2 ∧ (s.core o.core).refuse then .waits s
      else .acted ((s.unitWrite { s.whoOf o.strand with path := 3 } dst
        (moutBytes f m sc (s.accRead (accKey (rowOf o.core) o.part tile 0) 4096)).1).stepped
          (o.flagged (moutBytes f m sc (s.accRead (accKey (rowOf o.core) o.part tile 0) 4096)).2)) := by
  cases o
  subst hbad hstep hk
  rfl

section
variable {s : State} {o : MxOp} {tile : Nat} {f : Fmt} {m : Rm} {sc : Option (BitVec 32)} {dst : Word} (h : s.alone o)
  (hk : o.kind = .mout tile f m sc dst) (hw : window dst = 2)
include h hk hw

/-- While the core's store is quiet, a step of MOUT into it waits. -/
theorem exec_sequencerStep_mout_quiet (hq : (s.core s.cur).refuse = true) :
    ∃ t, exec .sequencerStep s = .next t ∧ t.ops = [o] ∧ t.lds = s.lds ∧ (s.cur, Instr.sequencerStep) ∈ t.agenda := by
  refine exec_sequencerStep_waits h ?_
  rw [State.tryStep_mout h.bad h.step hk, h.core]
  exact if_pos ⟨hw, hq⟩

/-- A step of MOUT into the local store, as a write there and the end of the op. -/
theorem State.alone.tryStep_mout (hq : (s.core s.cur).refuse = false) : ∃ fl, s.tryStep o = .acted ((s.ldsStored (s.whoOf o.strand)
    (inWindowOff dst) (moutBytes f m sc (s.accRead (accKey (rowOf s.cur) o.part tile 0) 4096)).1).stepped (o.flagged fl)) := by
  refine ⟨(moutBytes f m sc (s.accRead (accKey (rowOf s.cur) o.part tile 0) 4096)).2, ?_⟩
  rw [State.tryStep_mout h.bad h.step hk, h.core, hw, hq, if_neg (by simp), State.unitWrite, if_pos hw]
  rfl

/-- A step of MOUT writes the elements of its unit, and ends. -/
theorem exec_sequencerStep_mout (hacc : s.accSorted) (hf : f.isIeee = true) (hq : (s.core s.cur).refuse = false) :
    ∃ t, exec .sequencerStep s = .next t ∧ t.ops = [] ∧ ∀ e, e < 4096 →
      Mem.read t.lds (s.ldsPhys (s.whoOf o.strand) (inWindowOff dst) + e * fmtSize f) (fmtSize f) =
        bytesOfNat (fmtSize f) (moutElem f m sc ((s.acc.find (accKey (rowOf s.cur) o.part tile e)).map BitVec.toNat)) := by
  obtain ⟨fl, htry⟩ := h.tryStep_mout hk hw hq
  rw [moutBytes_ieee (isFb_of_isIeee hf), State.accRead_unit hacc] at htry
  obtain ⟨l, hl⟩ := exec_sequencerStep_acts h htry
  have hend := State.stepped_last (s := s.ldsStored (s.whoOf o.strand) (inWindowOff dst)
    ((s.unitElems (rowOf s.cur) o.part tile).flatMap (fun x => bytesOfNat (fmtSize f) (moutElem f m sc x)))) (o := o.flagged fl)
    (by rw [MxOp.flagged, hk]; rfl) (by rw [MxOp.flagged, hk, h.step]; rfl) h.gang
  refine ⟨_, hl, hend.ops.trans (h.without_ops (State.ops_ldsStored ..) (o.id_flagged fl)), fun e he => ?_⟩
  have hlen : ∀ x, (bytesOfNat (fmtSize f) (moutElem f m sc x)).length = fmtSize f := fun x => length_bytesOfNat _ _
  have hunit : (s.unitElems (rowOf s.cur) o.part tile).length = 4096 := by rw [State.unitElems, List.length_map, List.length_range]
  have hpiece := piece_flatMap hlen (s.unitElems (rowOf s.cur) o.part tile) e (by rw [hunit]; exact he)
  have hin : e * fmtSize f + fmtSize f ≤ ((s.unitElems (rowOf s.cur) o.part tile).flatMap
      (fun x => bytesOfNat (fmtSize f) (moutElem f m sc x))).length := by
    rw [length_flatMap_pieces hlen, hunit, ← Nat.succ_mul]
    exact Nat.mul_le_mul_right _ he
  have hlds := hend.lds.trans (State.lds_stored_without ..)
  rw [State.lds_posts, hlds, Mem.read_write_part _ _ _ _ _ hin, Nat.mul_comm e, hpiece]
  simp only [State.unitElems, List.getElem_map, List.getElem_range]

end

end Sys2Proof.Machine
end

section
/-! PROOF. A step of an MMA of one column block: the canonical column sums, added to or put in the place of the elements of its
unit (R110, R111, R113, R115, R322). -/
namespace Sys2Proof.Machine

/-! ### Rows of a result (R115, R317) -/

theorem nth_eq_of_lt {α : Type} {l : List α} {i : Nat} (h : i < l.length) (d : α) : nth l i d = l[i] := by
  rw [nth, List.getElem?_eq_getElem h, Option.getD_some]

theorem nth_drop_take {α : Type} (l : List α) (d : α) {a n i : Nat} (hi : i < n) : nth ((l.drop a).take n) i d = nth l (a + i) d := by
  rw [nth, nth, List.getElem?_take_of_lt hi, List.getElem?_drop]

/-- One row of a result stored, in the place of the elements from a key on or added to them. -/
def State.addRow (s : State) (key : Nat) (z : Bool) (new : List (Option Nat)) : State :=
  s.accWrite key (if z then new else (addTiles (s.accRead key 64) new).1)

/-- The value that element `i` of a row gets. -/
def State.rowValue (s : State) (key : Nat) (z : Bool) (x : Option Nat) : Option Nat :=
  if z then x else (canonAdd .f32 .rne ((s.acc.find key).map BitVec.toNat) x).1

section
variable {s : State} {z : Bool} {new : List (Option Nat)} {key : Nat} (hs : s.accSorted) (hnew : new.length = 64)
include hs hnew

theorem State.find_addRow (k : Nat) : (s.addRow key z new).acc.find k =
    if key ≤ k ∧ k < key + 64 then (s.rowValue k z (nth new (k - key) none)).map (BitVec.ofNat 32) else s.acc.find k := by
  have hlen : (if z then new else (addTiles (s.accRead key 64) new).1).length = 64 := by
    cases z <;> simp [hnew, addTiles_eq, State.accRead_eq hs]
  rw [State.addRow, State.find_accWrite, hlen]
  by_cases hk : key ≤ k ∧ k < key + 64
  · rw [if_pos hk, if_pos hk]
    have hi : k - key < 64 := by omega
    cases z with
    | true => rfl
    | false =>
      have hkey : key + (k - key) = k := by omega
      rw [nth_eq_of_lt (by rw [hlen]; exact hi)]
      simp only [Bool.false_eq_true, if_false, addTiles_eq, State.accRead_eq hs, List.getElem_zipWith, List.getElem_map,
        List.getElem_range, hkey, State.rowValue]
      rw [nth_eq_of_lt (by rw [hnew]; exact hi)]
  · rw [if_neg hk, if_neg hk]

end

theorem State.accSorted_addRow {s : State} (hs : s.accSorted) (key : Nat) (z : Bool) (new : List (Option Nat)) :
    (s.addRow key z new).accSorted := State.accSorted_accWrite _ _ hs

/-- The first `n` rows of a tile stored from a key on. -/
def State.addRows (s : State) (key : Nat) (z : Bool) (l : List (Option Nat)) (n : Nat) : State :=
  (List.range n).foldl (fun s m => s.addRow (key + 64 * m) z ((l.drop (64 * m)).take 64)) s

theorem State.addRows_find {s : State} (hs : s.accSorted) (key : Nat) (z : Bool) {l : List (Option Nat)} (hl : l.length = 4096) :
    ∀ n : Nat, n ≤ 64 → (s.addRows key z l n).accSorted ∧ ∀ k, (s.addRows key z l n).acc.find k =
      if key ≤ k ∧ k < key + 64 * n then (s.rowValue k z (nth l (k - key) none)).map (BitVec.ofNat 32) else s.acc.find k := by
  intro n
  induction n with
  | zero => exact fun _ => ⟨hs, fun k => by rw [if_neg (by omega)]; rfl⟩
  | succ n ih =>
    intro hn
    obtain ⟨hsorted, hfind⟩ := ih (by omega)
    have hrow : ((l.drop (64 * n)).take 64).length = 64 := by
      rw [List.length_take, List.length_drop, hl]
      omega
    have hsucc : s.addRows key z l (n + 1) = (s.addRows key z l n).addRow (key + 64 * n) z ((l.drop (64 * n)).take 64) := by
      simp only [State.addRows, List.range_succ, List.foldl_append, List.foldl_cons, List.foldl_nil]
    rw [hsucc]
    refine ⟨State.accSorted_addRow hsorted _ _ _, fun k => ?_⟩
    rw [State.find_addRow hsorted hrow]
    by_cases hk : key + 64 * n ≤ k ∧ k < key + 64 * n + 64
    · have hbefore : (s.addRows key z l n).acc.find k = s.acc.find k := by rw [hfind, if_neg (by omega)]
      have hnth : nth ((l.drop (64 * n)).take 64) (k - (key + 64 * n)) none = nth l (k - key) none := by
        rw [nth_drop_take l none (by omega)]
        congr 1
        omega
      rw [if_pos hk, if_pos (by omega), hnth, State.rowValue, State.rowValue, hbefore]
    · rw [if_neg hk, hfind]
      exact if_congr (by omega) rfl rfl

/-- The rows of the result of one strand are stored one after the other in its unit. -/
theorem State.storeRows_single (s : State) {o : MxOp} (h : o.gang = []) (tile : Nat) (z : Bool) (l : List (Option Nat)) :
    (s.storeRows o tile z 0 64 [l]).1 = s.addRows (accKey (rowOf o.core) o.part tile 0) z l 64 := by
  simp only [State.storeRows, MxOp.strands_single h, List.length_cons, List.length_nil, List.range_one, List.foldl_cons, List.foldl_nil,
    Nat.zero_add, Nat.mul_one, Nat.add_zero]
  refine (List.foldl_hom (f := Prod.fst) fun acc m => ?_).symm
  obtain ⟨u, fl⟩ := acc
  have hkey : accKey (rowOf o.core) o.part tile 0 + 64 * m = accKey (rowOf o.core) o.part (tile + m / 64) (m % 64 * 64) := by
    simp only [accKey]
    omega
  rw [hkey]
  cases z <;> rfl

/-! ### Column sums (R110, R111) -/

/-- The level-5 node of half `i` of the weights and half `j` of the activations. -/
def nodeOf (tw ta : Fmt) (w a : List Byte) (i j : Nat) : Option Nat × FFlags :=
  halfNode tw ta (nth (halves tw w) i ⟨1, []⟩) (nth (halves ta a) j ⟨1, []⟩)

/-- The sum of activation row `m` and weight column `n`. -/
def columnSum (tw ta : Fmt) (w a : List Byte) (m n : Nat) : Option Nat :=
  (canonAdd .f32 .rne (nodeOf tw ta w a (2 * n) (2 * m)).1 (nodeOf tw ta w a (2 * n + 1) (2 * m + 1)).1).1

theorem columnSums_eq (tw : Fmt) (w : List Byte) (ta : Fmt) (a : List Byte) (rows : Nat) :
    (columnSums tw w ta a rows).1 = (List.range rows).flatMap (fun m => (List.range 64).map (columnSum tw ta w a m)) := by
  simp only [columnSums, List.map_flatMap, List.map_map]
  refine congrArg (fun f => List.flatMap f _) (funext fun m => List.map_congr_left fun n _ => ?_)
  simp only [Function.comp_apply, columnSum, nodeOf, nth, List.getElem?_toArray]

theorem length_columnSums (tw : Fmt) (w : List Byte) (ta : Fmt) (a : List Byte) (rows : Nat) :
    (columnSums tw w ta a rows).1.length = rows * 64 := by
  rw [columnSums_eq, length_flatMap_pieces (n := 64) (by simp), List.length_range]

theorem nth_columnSums (tw : Fmt) (w : List Byte) (ta : Fmt) (a : List Byte) {rows m n : Nat} (hm : m < rows) (hn : n < 64) :
    nth (columnSums tw w ta a rows).1 (64 * m + n) none = columnSum tw ta w a m n := by
  have hpiece := piece_flatMap (f := fun m => (List.range 64).map (columnSum tw ta w a m)) (n := 64) (by simp) (List.range rows) m
    (by rw [List.length_range]; exact hm)
  rw [← nth_drop_take _ none hn, columnSums_eq, hpiece, nth_eq_of_lt (by simpa using hn)]
  simp

/-! ### The step -/

theorem State.acc_posts (s : State) (l : List (Nat × Instr)) : (s.posts l).acc = s.acc := rfl

/-- The op once its slots have been checked. -/
def MxOp.checked (o : MxOp) : MxOp := { o with check := false }

theorem State.tryStep_mma {s : State} {o : MxOp} {tile p : Nat} {f : Fmt} {z : Bool} {q : BitVec 32} (hbad : o.bad = false)
    (hstep : o.step = 0) (hk : o.kind = .mma tile f z q p 1) (hp : 1 ≤ p) (hcheck : o.check = true → s.slotCheck o = none)
    (hlatched : o.strands.any (fun k => s.latchedSrc (coreOf k) o.part == .none) = false) (hfault : s.slotFault o = none)
    (hwait : s.slotWait o = none) : s.tryStep o = (s.putOp o.checked).withTile o.checked (o.kind.tileOf o.step) (fun u =>
      match u.productStep o.checked tile f z 1 with
      | none => .acted (u.endAt o.checked 6 0)
      | some (u, x) => .acted (u.stepped x)) := by
  have hlive : ¬ o.kind.steps ≤ o.step := by
    rw [hk, hstep]
    simp only [MxKind.steps]
    omega
  have hslots : (if o.check then s.slotCheck o else none) = none := by
    split
    · next h => exact hcheck h
    · rfl
  rw [State.tryStep, if_neg (ne_true_of_eq_false hbad), if_neg hlive]
  split <;> rename_i hk' <;> rw [hk] at hk' <;> cases hk'
  rw [hslots]
  dsimp only
  rw [hlatched, if_neg Bool.false_ne_true]
  have hfault' : (s.putOp o.checked).slotFault o.checked = none := hfault
  have hwait' : (s.putOp o.checked).slotWait o.checked = none := hwait
  unfold MxOp.checked at hfault' hwait'
  rw [hfault', hwait']
  rfl

section
variable {s : State} {o : MxOp} {y : Fmt × List Byte} {j : Nat}

theorem State.latchedSrc_of_weightTile {k part : Nat} (h : s.weightTile k part j = some y) : s.latchedSrc (coreOf k) part ≠ .none := by
  intro hn
  rw [State.weightTile, hn] at h
  exact nomatch h

/-- A bank that holds the tile is not loaded again. -/
theorem State.loadTile_held {k part : Nat} (h : s.weightTile k part j = some y) : State.loadTile part j s k = s := by
  unfold State.loadTile
  split
  · next t p i l hl =>
    refine if_pos ?_
    by_contra hij
    simp [State.weightTile, hl, hij] at h
  · rfl

theorem State.withTile_held (hgang : o.gang = []) (hl : s.tileLines o.part j o.strand = []) (h : s.weightTile o.strand o.part j = some y)
    (go : State → Tried) : s.withTile o j go = go s := by
  simp only [State.withTile, MxOp.strands_single hgang, List.flatMap_cons, List.flatMap_nil, hl, List.append_nil, State.afterLines,
    State.unitStalls, List.isEmpty_nil, if_true, List.foldl_cons, List.foldl_nil, State.loadTile_held h]

theorem MxKind.nth_passes_mma {tile p c : Nat} {f : Fmt} {z : Bool} {q : BitVec 32} (hp : 1 ≤ p) :
    nth (MxKind.mma tile f z q p c).passes 0 (0, 0, 0) = (0, 64, 0) := by
  rw [MxKind.passes, nth_eq_of_lt (by rw [List.length_map, List.length_range]; exact hp), List.getElem_map, List.getElem_range]

/-- The first step of an MMA of one column block stores the column sums of its tile. -/
theorem State.productStep_single {tile p : Nat} {f : Fmt} {z : Bool} {q : BitVec 32} (hgang : o.gang = []) (hstep : o.step = 0)
    (hk : o.kind = .mma tile f z q p 1) (hp : 1 ≤ p) (h : s.weightTile o.strand o.part 0 = some y) :
    ∃ fl, s.productStep o tile f z 1 =
      some ((s.storeRows o tile z 0 64 [(columnSums y.1 y.2 f (s.stepBytes o) 64).1]).1, o.flagged fl) := by
  have hpass : nth o.kind.passes (o.step / 1) (0, 0, 0) = (0, 64, 0) := by
    rw [hk, hstep]
    exact MxKind.nth_passes_mma hp
  have hsums : s.stepSums o f 0 64 =
      some ([(columnSums y.1 y.2 f (s.stepBytes o) 64).1], 0 ||| (columnSums y.1 y.2 f (s.stepBytes o) 64).2) := by
    simp only [State.stepSums, MxOp.strands_single hgang, List.map_cons, List.map_nil, h, List.any_cons, List.any_nil, Option.isNone_some,
      Bool.or_self, Bool.false_eq_true, if_false, List.filterMap_cons, List.filterMap_nil, Option.map_some,
      length_columnSums, List.foldl_cons, List.foldl_nil, Nat.reduceMul, Nat.sub_self, List.replicate_zero, List.append_nil]
  refine ⟨(0 ||| (columnSums y.1 y.2 f (s.stepBytes o) 64).2) |||
    (s.storeRows o tile z 0 64 [(columnSums y.1 y.2 f (s.stepBytes o) 64).1]).2, ?_⟩
  rw [MxOp.flagged, ← BitVec.or_assoc]
  simp only [State.productStep, hpass, Nat.mod_one, hsums, Nat.zero_mul, Nat.add_zero, if_true]

end

/-- A step of an MMA of one column block adds the canonical sums of its tile to the elements of its unit, or puts them in their
place. -/
theorem exec_sequencerStep_mma {s : State} {o : MxOp} (h : s.alone o) (hacc : s.accSorted) {tile p : Nat} {f : Fmt} {z : Bool}
    {q : BitVec 32} {y : Fmt × List Byte} (hk : o.kind = .mma tile f z q p 1) (hp : 1 ≤ p)
    (hy : s.weightTile o.strand o.part 0 = some y) (hlines : s.tileLines o.part 0 o.strand = [])
    (hcheck : o.check = true → s.slotCheck o = none) (hfault : s.slotFault o = none) (hwait : s.slotWait o = none) :
    ∃ t, exec .sequencerStep s = .next t ∧ ∀ m n, m < 64 → n < 64 →
      t.acc.find (accKey (rowOf s.cur) o.part tile (64 * m + n)) = (s.rowValue (accKey (rowOf s.cur) o.part tile (64 * m + n)) z
        (columnSum y.1 f y.2 (s.stepBytes o) m n)).map (BitVec.ofNat 32) := by
  have hlatched : o.strands.any (fun k => s.latchedSrc (coreOf k) o.part == .none) = false := by
    simp [h.strands, State.latchedSrc_of_weightTile hy]
  have hkind : o.kind.plain = true := by rw [hk]; rfl
  have htile : o.kind.tileOf o.step = 0 := by
    rw [hk, h.step]
    rw [MxKind.tileOf, Nat.zero_div, MxKind.nth_passes_mma hp]
    rfl
  obtain ⟨fl, hprod⟩ := State.productStep_single (s := s.putOp o.checked) (o := o.checked) h.gang h.step hk hp hy
  have htry : s.tryStep o = .acted (((s.putOp o.checked).storeRows o.checked tile z 0 64
      [(columnSums y.1 y.2 f ((s.putOp o.checked).stepBytes o.checked) 64).1]).1.stepped (o.checked.flagged fl)) := by
    rw [State.tryStep_mma h.bad h.step hk hp hcheck hlatched hfault hwait, htile,
      State.withTile_held (s := s.putOp o.checked) (o := o.checked) h.gang hlines hy, hprod]
  obtain ⟨l, hl⟩ := exec_sequencerStep_acts h htry
  refine ⟨_, hl, fun m n hm hn => ?_⟩
  have hstored := State.storeRows_single (s.putOp o.checked) (o := o.checked) h.gang tile z
    (columnSums y.1 y.2 f ((s.putOp o.checked).stepBytes o.checked) 64).1
  have hlen : (columnSums y.1 y.2 f ((s.putOp o.checked).stepBytes o.checked) 64).1.length = 4096 := length_columnSums ..
  obtain ⟨-, hfind⟩ := State.addRows_find (s := s.putOp o.checked) hacc (accKey (rowOf o.core) o.part tile 0) z hlen 64 le_rfl
  have hkey : accKey (rowOf s.cur) o.part tile (64 * m + n) = accKey (rowOf o.core) o.part tile 0 + (64 * m + n) := by
    rw [accKey_add, h.core]
  rw [State.acc_posts, State.acc_stepped (o := o.checked.flagged fl) hkind h.gang, hstored, hkey]
  refine (hfind _).trans ?_
  rw [if_pos (by omega), Nat.add_sub_cancel_left, nth_columnSums _ _ _ _ hm hn]
  rfl

end Sys2Proof.Machine
end

section
/-! PROOF. The entries of an MMAS are read ahead, and their tiles are fetched into the ring (R108, R134, R325). -/
namespace Sys2Proof.Machine

/-! ### The op whose entry is read -/

theorem nextOn_mem {core part : Nat} {o : MxOp} : ∀ (l : List MxOp) (held : List Nat), nextOn core part l held = some o → o ∈ l := by
  intro l
  induction l with
  | nil => exact fun _ h => nomatch h
  | cons x l ih =>
    intro held h
    rw [nextOn] at h
    split_ifs at h
    · exact List.mem_cons_of_mem _ (ih _ h)
    · exact List.mem_cons_of_mem _ (ih _ h)
    · exact List.mem_cons.mpr (.inl (Option.some.inj h).symm)
    · exact List.mem_cons_of_mem _ (ih _ h)

theorem State.current_mem {s : State} {core part : Nat} {o : MxOp} (h : s.current core part = some o) : o ∈ s.ops := by
  rw [State.current] at h
  split at h
  · exact nomatch h
  · next x hx =>
    split_ifs at h
    exact Option.some.inj h ▸ nextOn_mem _ _ hx

theorem State.prefetching_mem {s : State} {core : Nat} {o : MxOp} (h : s.prefetching core = some o) : o ∈ s.ops ∧ o.core = core := by
  obtain ⟨p, -, hp⟩ := List.exists_of_findSome?_eq_some h
  split at hp
  · exact nomatch hp
  · next x hx =>
    split at hp
    · split_ifs at hp with hc
      exact Option.some.inj hp ▸ ⟨State.current_mem hx, hc.1⟩
    · exact nomatch hp

theorem exec_mmasPrefetch_none {s : State} (h : s.prefetching s.cur = none) : exec .mmasPrefetch s = .next s := by
  rw [exec_mmasPrefetch, execMmasPrefetch, h]

/-! ### An entry (R325) -/

/-- The block column and row of the entry before the next one. -/
def MxOp.prevEnt (o : MxOp) : Option (Nat × Nat) :=
  match o.ents.getLast? with
  | some e => some (e.c, e.r)
  | none => o.last

/-- The next entry of an op, and where it lies. -/
def MxOp.nextEnt (o : MxOp) : Nat := o.step + o.ents.length
def MxOp.entAt (o : MxOp) (list : Word) : Word := list + BitVec.ofNat 64 (32 + 16 * o.nextEnt)

/-- The op with an entry read ahead. -/
def MxOp.withEnt (o : MxOp) (x : MmasEnt) : MxOp := { o with ents := o.ents ++ [x], ahead := (0, 0) }

/-- The state once an entry has been read. -/
def State.entRead (s : State) (w : Who) (ea : Word) : State :=
  (if (w.lines ea 16).isEmpty then s else s.countEv (dieF s.cur) 0x20 0 (w.lines ea 16).length).touch w ea 16

/-- The fills of the tile of entry `x` start. -/
def State.fetchTile (s : State) (core : Nat) (o : MxOp) (x : MmasEnt) (f : Fmt) (task : Option Task) (qs : List (BitVec 32)) : State :=
  (List.range qs.length).foldl (fun (s : State) i => s.startFill core (o.slotOf (nth qs i 0)) (nth qs i 0)
    ⟨x.va + BitVec.ofNat 64 (8192 * i), Nat.min 8192 (tileBytes f), task⟩) s

/-- The entry stands in the op, and both steps of the slice are due. -/
def State.entKept (s : State) (core : Nat) (o : MxOp) (x : MmasEnt) : State :=
  ((s.putOp (o.withEnt x)).postOnce core .mmasPrefetch).postOnce core .sequencerStep

theorem State.ops_entRead (s : State) (w : Who) (ea : Word) : (s.entRead w ea).ops = s.ops := by
  have h : s.readsAs (s.entRead w ea) := by
    unfold State.entRead
    split
    · exact s.readsAs_touch _ _ _
    · exact State.readsAs_trans (s.readsAs_countEv _ _ _ _) (State.readsAs_touch _ _ _ _)
  obtain ⟨⟨d, a, r, h⟩, -, -⟩ := h
  rw [h]

theorem State.entKept_eq (s : State) (core : Nat) (o : MxOp) (x : MmasEnt) :
    ∃ l, s.entKept core o x = (s.putOp (o.withEnt x)).posts l := by
  obtain ⟨l, hl⟩ := (s.putOp (o.withEnt x)).postOnce_eq core .mmasPrefetch
  obtain ⟨l', hl'⟩ := ((s.putOp (o.withEnt x)).posts l).postOnce_eq core .sequencerStep
  exact ⟨l ++ l', by rw [State.entKept, hl, hl']; simp [State.posts, List.append_assoc]⟩

theorem State.mem_entKept {s : State} {o : MxOp} (core : Nat) (x : MmasEnt) (h : o ∈ s.ops) :
    o.withEnt x ∈ (s.entKept core o x).ops := by
  obtain ⟨l, hl⟩ := s.entKept_eq core o x
  rw [hl]
  exact State.mem_putOp (p := o.withEnt x) h rfl

theorem State.slot_entKept (s : State) (core : Nat) (o : MxOp) (x : MmasEnt) (c i : Nat) :
    (s.entKept core o x).slot c i = s.slot c i := by
  obtain ⟨l, hl⟩ := s.entKept_eq core o x
  rw [hl]
  rfl

theorem State.fetchTile_single (s : State) (core : Nat) (o : MxOp) (x : MmasEnt) (f : Fmt) (task : Option Task) (r : BitVec 32) :
    s.fetchTile core o x f task [r] = s.startFill core (o.slotOf r) r ⟨x.va, Nat.min 8192 (tileBytes f), task⟩ := by
  simp [State.fetchTile, nth]

section
variable {s : State} {o : MxOp} {tile : Nat} {f : Fmt} {z : Bool} {list : Word} {nent nbr nbc : Nat} {q : BitVec 32}
  (hp : s.prefetching s.cur = some o) (hk : o.kind = .mmas tile f z list nent nbr nbc q)
include hp hk

/-- A refreshing bank holds the read. -/
theorem exec_mmasPrefetch_stalls {e : Nat × Nat} (h : s.unitStalls ((s.whoOf o.strand).lines (o.entAt list) 16) o.ahead = some e) :
    ∃ t p, exec .mmasPrefetch s = .next t ∧ p ∈ t.ops ∧ p = { o with ahead := e } ∧ (s.cur, Instr.mmasPrefetch) ∈ t.agenda := by
  have hexec : exec .mmasPrefetch s = .next ((s.putOp { o with ahead := e }).postOnce s.cur .mmasPrefetch) := by
    unfold MxOp.entAt MxOp.nextEnt at h
    rw [exec_mmasPrefetch, execMmasPrefetch, hp]
    dsimp only
    split
    · next hk' =>
      rw [hk] at hk'
      cases hk'
      rw [h]
    · next hk' => exact absurd hk (hk' _ _ _ _ _ _ _ _)
  obtain ⟨l, hl⟩ := (s.putOp { o with ahead := e }).postOnce_eq s.cur .mmasPrefetch
  refine ⟨_, { o with ahead := e }, hexec, ?_, rfl, State.mem_postOnce _ _ _⟩
  rw [hl]
  exact State.mem_putOp (o := o) (State.prefetching_mem hp).1 rfl

section
variable {x : MmasEnt} (hs : s.unitStalls ((s.whoOf o.strand).lines (o.entAt list) 16) o.ahead = none)
  (hread : s.readEntry (s.whoOf o.strand) list o.nextEnt nbr nbc o.prevEnt = (x, 0)) (hflt : x.flt = none)
  (hecc : s.eccHit (s.whoOf o.strand) (o.entAt list) 16 = false)
include hs hread hflt hecc

/-- An entry that is absent, or whose tile may be fetched, is read ahead. -/
theorem exec_mmasPrefetch_reads (hclear : x.absent = true ∨ s.slotsClear o o.nextEnt ((o.kind.seqs o.nextEnt).map o.slotOf) = true) :
    exec .mmasPrefetch s = .next ((if x.absent then s.entRead (s.whoOf o.strand) (o.entAt list)
      else (s.entRead (s.whoOf o.strand) (o.entAt list)).fetchTile s.cur o x f (s.whoOf o.strand).task (o.kind.seqs o.nextEnt)).entKept
        s.cur o x) := by
  have hgo : (!x.absent && !s.slotsClear o o.nextEnt ((o.kind.seqs o.nextEnt).map o.slotOf)) = false := by
    rcases hclear with h | h <;> simp [h]
  unfold MxOp.entAt MxOp.nextEnt at *
  rw [exec_mmasPrefetch, execMmasPrefetch, hp]
  dsimp only
  split
  · next hk' =>
    rw [hk] at hk'
    cases hk'
    rw [hs]
    dsimp only
    generalize hr : s.readEntry (s.whoOf o.strand) _ _ _ _ _ = r
    obtain rfl : r = (x, 0) := hr.symm.trans hread
    simp only [hecc, hflt, hgo, Option.isNone_none, Bool.true_and, Bool.false_eq_true, if_false, ne_eq, not_true_eq_false]
    cases x.absent <;> rfl
  · next hk' => exact absurd hk (hk' _ _ _ _ _ _ _ _)

/-- An absent entry is kept, and its step is due. -/
theorem exec_mmasPrefetch_absent (ha : x.absent = true) : ∃ t p, exec .mmasPrefetch s = .next t ∧ p ∈ t.ops ∧ p.id = o.id ∧
    p.ents = o.ents ++ [x] ∧ (s.cur, Instr.sequencerStep) ∈ t.agenda := by
  have hexec := exec_mmasPrefetch_reads hp hk hs hread hflt hecc (.inl ha)
  rw [if_pos ha] at hexec
  refine ⟨_, o.withEnt x, hexec, State.mem_entKept (o := o) _ _ ?_, rfl, rfl, State.mem_postOnce _ _ _⟩
  rw [State.ops_entRead]
  exact (State.prefetching_mem hp).1

/-- The tile of an entry that is not absent is fetched into the slot of its sequence. -/
theorem exec_mmasPrefetch_fetches (ha : x.absent = false) (hf : f ≠ .f32)
    (hclear : s.slotsClear o o.nextEnt [o.slotOf (q + BitVec.ofNat 32 o.nextEnt)] = true) :
    ∃ t p, exec .mmasPrefetch s = .next t ∧ p ∈ t.ops ∧ p.id = o.id ∧ p.ents = o.ents ++ [x] ∧
      (t.slot s.cur (o.slotOf (q + BitVec.ofNat 32 o.nextEnt))).st = 2 ∧
      (t.slot s.cur (o.slotOf (q + BitVec.ofNat 32 o.nextEnt))).tag = q + BitVec.ofNat 32 o.nextEnt ∧
      (t.slot s.cur (o.slotOf (q + BitVec.ofNat 32 o.nextEnt))).fill =
        some ⟨x.va, min 8192 (tileBytes f), (s.strand o.strand).task⟩ := by
  have hseqs : o.kind.seqs o.nextEnt = [q + BitVec.ofNat 32 o.nextEnt] := by simp [hk, MxKind.seqs, fmtSlots, hf]
  have hexec := exec_mmasPrefetch_reads hp hk hs hread hflt hecc (.inr (by rw [hseqs]; exact hclear))
  rw [if_neg (by simp [ha]), hseqs] at hexec
  obtain ⟨hmem, hcore⟩ := State.prefetching_mem hp
  have hslot : o.slotOf (q + BitVec.ofNat 32 o.nextEnt) < 32 := by
    refine State.slot_lt_of_st (s := s) (c := o.core) fun h0 => ?_
    simp [State.slotsClear, h0] at hclear
  have hfill : ((s.entRead (s.whoOf o.strand) (o.entAt list)).fetchTile s.cur o x f (s.whoOf o.strand).task
      [q + BitVec.ofNat 32 o.nextEnt]).slot s.cur (o.slotOf (q + BitVec.ofNat 32 o.nextEnt)) =
      { (s.entRead (s.whoOf o.strand) (o.entAt list)).slot s.cur (o.slotOf (q + BitVec.ofNat 32 o.nextEnt)) with
        st := 2, tag := q + BitVec.ofNat 32 o.nextEnt
        fill := some ⟨x.va, min 8192 (tileBytes f), (s.strand o.strand).task⟩
        pend := none, fva := 0, fcode := 0, stall := (0, 0) } := by
    rw [State.fetchTile_single, State.startFill, State.slot_post, State.slot_modSlot, if_pos ⟨rfl, hslot⟩]
    rfl
  refine ⟨_, o.withEnt x, hexec, State.mem_entKept (o := o) _ _ ?_, rfl, rfl, ?_⟩
  · rw [State.fetchTile_single]
    show o ∈ (s.entRead (s.whoOf o.strand) (o.entAt list)).ops
    rw [State.ops_entRead]
    exact hmem
  · rw [State.slot_entKept, hfill]
    exact ⟨rfl, rfl, rfl⟩

end

end

end Sys2Proof.Machine
end

section
/-! PROOF. The steps of the row's sequencer, from MWAIT to the entries that are read ahead (R113 to R117, R321, R323, R325, R327
to R330). -/
namespace Sys2Proof.Machine

section
variable {s : State} {g : Guard} {d : SReg} (hg : s.guard g = true)
include hg

theorem exec_mstat_reads (sel : MstatSel) : exec (.mstat g d sel) s = s.givesS d (match sel with
    | .stat => putBits s.st.mxstat 8 8 (s.pendOps s.cur)
    | .step => s.st.mxstep
    | .fva => s.st.mxfva) := by
  rw [exec_mstat, execMstat, plain_wS hg]
  cases sel <;> rfl

end

/-! ### The obligation -/

/-- Settles O44: MWAIT, MRESUME and MSTAT by what they find, a step of the barrier by the group that stands at it
(`exec_gangBarrier_eq`), a step of the sequencer by the op that is alone in it (`State.alone`), and an entry by its read. -/
theorem matrixSteps : Obligations.MatrixSteps := by
  intro s g d l ends live
  refine ⟨fun hg => ⟨fun hrep ho => exec_mwait_found hg (mwaitCond_idle hrep ho) rfl, fun fc n r h => exec_mwait_reports hg h,
      fun o fc x va hrep ho hstop hfc => exec_mwait_found hg (mwaitCond_stopped hrep ho hstop hfc) rfl, exec_mresume_idle hg,
      fun o ho hstop hgang => exec_mresume_resumes hg ho hstop hgang, exec_mstat_reads hg .stat, exec_mstat_reads hg .step,
      exec_mstat_reads hg .fva⟩,
    fun p e => ⟨exec_gangBarrier_quiet, fun x o c hl hx hbad =>
      ⟨exec_gangBarrier_enters hl hx hbad, exec_gangBarrier_full hl hx hbad⟩,
      exec_gangBarrier_alone⟩,
    fun o hops hcore hstrand hgang hpart hstep hstop hcancel hbad => ?_, exec_mmasPrefetch_none,
    fun o tile f z list nent nbr nbc q hp hk x hread hflt => ⟨fun e he => exec_mmasPrefetch_stalls hp hk he, fun hecc hs =>
      ⟨exec_mmasPrefetch_fetches hp hk hs hread hflt hecc, exec_mmasPrefetch_absent hp hk hs hread hflt hecc⟩⟩⟩
  have h : s.alone o := ⟨hops, hcore, hstrand, hgang, hpart, hstep, hstop, hcancel, hbad⟩
  refine ⟨fun tile hk => exec_sequencerStep_mzero h hk, fun f tt p j b hk hs => exec_sequencerStep_mldw h hk hs, fun hacc =>
    ⟨fun tile f z q p y hk hp hy hlines hcheck hfault hwait => ?_,
      fun tile f m sc dst hk hw hq => exec_sequencerStep_mout_quiet h hk hw hq, fun tile f m sc dst hk hf hw hq => ?_⟩⟩
  · obtain ⟨t, ht, hfind⟩ := exec_sequencerStep_mma h hacc hk hp hy hlines hcheck hfault hwait
    refine ⟨t, ht, fun m n hm hn => (hfind m n hm hn).trans ?_⟩
    cases z <;> rfl
  · obtain ⟨t, ht, hend, hread⟩ := exec_sequencerStep_mout h hk hw hacc hf hq
    refine ⟨t, ht, hend, fun e he => (hread e he).trans ?_⟩
    cases s.acc.find (accKey (rowOf s.cur) o.part tile e) <;> rfl

end Sys2Proof.Machine
end

section
/-! SUPPORT. Loads through an address mode: what the checks, the stalls and the translation of an access leave, and its
base update (R123, R134, R138, R287). -/
namespace Sys2Proof.Machine

/-! ### Numbers from bytes -/

theorem natOfBytes_lt (l : List Byte) : natOfBytes l < 2 ^ (8 * l.length) := by
  induction l with
  | nil => simp [natOfBytes]
  | cons b l ih =>
    have hb : b.toNat < 256 := b.isLt
    have hpow : 2 ^ (8 * (b :: l).length) = 256 * 2 ^ (8 * l.length) := by
      rw [List.length_cons, Nat.mul_succ, Nat.pow_add, Nat.mul_comm]
    rw [natOfBytes, hpow]
    omega

@[simp] theorem State.length_ldBytes (s : State) (w : Who) (n : Nat) : ∀ ea : Word, (s.ldBytes w ea n).length = n := by
  induction n with
  | zero => exact fun _ => rfl
  | succ n ih => exact fun ea => congrArg Nat.succ (ih (ea + 1))

theorem State.ldNat_lt (s : State) (w : Who) (ea : Word) (n : Nat) : s.ldNat w ea n < 2 ^ (8 * n) := by
  simpa [State.ldNat] using natOfBytes_lt (s.ldBytes w ea n)

theorem State.tile_ok {s : State} {size : Nat} (h : s.tileFits size) : s.tile size = .ok s.elems := by
  obtain ⟨hr, hr', hc, hc', hn⟩ := h
  unfold State.elems at hn
  unfold State.tile State.elems
  rw [if_neg (by omega)]

/-! ### The current strand's registers -/

section
variable (s : State) (n : Nat) (a r : SReg) (v : Word) (x : VReg) (y : VWord) (b : BReg) (z : BoxImg)

@[simp] theorem State.rS_adv : (s.adv n).rS r = s.rS r := by rw [State.rS, State.st_adv]; rfl
@[simp] theorem State.rV_adv : (s.adv n).rV x = s.rV x := by rw [State.rV, State.st_adv]; rfl
@[simp] theorem State.rB_adv : (s.adv n).rB b = s.rB b := by rw [State.rB, State.st_adv]; rfl
theorem State.rS_wS : (s.wS a v).rS r = if r = a ∧ a ≠ 0 then v else s.rS r := by
  rw [State.rS, State.st_wS, Strand.rS_wS]; rfl
theorem State.rV_wV (x' : VReg) : (s.wV x y).rV x' = if x' = x then y else s.rV x' := by
  rw [State.rV, State.st_wV, Strand.rV_wV]; rfl
@[simp] theorem State.rS_wV : (s.wV x y).rS r = s.rS r := by rw [State.rS, State.st_wV]; rfl
@[simp] theorem State.rS_wB : (s.wB b z).rS r = s.rS r := by
  rw [State.rS, State.st_wB, Strand.wB]; split <;> rfl
@[simp] theorem State.rV_wS : (s.wS a v).rV x = s.rV x := by
  rw [State.rV, State.st_wS, Strand.wS]; split <;> rfl
@[simp] theorem State.rB_wS : (s.wS a v).rB b = s.rB b := by
  rw [State.rB, State.st_wS, Strand.wS]; split <;> rfl

/-- What a write of a box register gives (R54: b0 is never written). -/
theorem State.rB_wB (b' : BReg) : (s.wB b z).rB b' = if b' = b ∧ b ≠ 0 then z else s.rB b' := by
  rw [State.rB, State.st_wB]
  unfold Strand.wB Strand.rB
  by_cases hb : b = 0
  · simp [hb]; rfl
  · by_cases hr : b' = b
    · subst hr; simp [hb]
    · have h : b.val ≠ b'.val := fun h => hr (Fin.ext h.symm)
      simp [hb, hr, Vector.getElem_set_ne, h]; rfl

end

/-! ### The base update (R123) -/

section
variable (s : State) (a : SReg) (e : EffAddr)

theorem State.baseUpdate_keeps {α : Type} (p : State → α) (hp : ∀ (s : State) v, p (s.wS a v) = p s) :
    p (s.baseUpdate a e) = p s := by
  unfold State.baseUpdate
  split
  · rfl
  · exact hp s _

@[simp] theorem State.rV_baseUpdate (x : VReg) : (s.baseUpdate a e).rV x = s.rV x :=
  s.baseUpdate_keeps a e (·.rV x) fun s v => s.rV_wS a v x
@[simp] theorem State.rB_baseUpdate (b : BReg) : (s.baseUpdate a e).rB b = s.rB b :=
  s.baseUpdate_keeps a e (·.rB b) fun s v => s.rB_wS a v b
@[simp] theorem State.pc_baseUpdate : (s.baseUpdate a e).st.pc = s.st.pc :=
  s.baseUpdate_keeps a e (·.st.pc) fun s v => by rw [State.st_wS, Strand.wS_pc]
@[simp] theorem State.lds_baseUpdate : (s.baseUpdate a e).lds = s.lds := s.baseUpdate_keeps a e (·.lds) fun _ _ => rfl

theorem State.rS_baseUpdate_ne {r : SReg} (h : r ≠ a) : (s.baseUpdate a e).rS r = s.rS r :=
  s.baseUpdate_keeps a e (·.rS r) fun s v => by rw [State.rS_wS, if_neg (fun hr => h hr.1)]

theorem State.rS_baseUpdate_self {u : Word} (hu : e.upd = some u) (ha : a ≠ 0) : (s.baseUpdate a e).rS a = u := by
  simp [State.baseUpdate, hu, State.rS_wS, ha]

theorem State.SameReads.baseUpdate : s.SameReads (s.baseUpdate a e) := by
  unfold State.baseUpdate
  split
  · exact .refl s
  · exact .setStrand s s.cur _

end

/-! ### What an access does before it moves its bytes -/

/-- `t` reads memory as `s` does, and its current strand differs in its stall alone. -/
def State.primed (s t : State) : Prop := t.cur = s.cur ∧ (∃ x, t.st = { s.st with stall := x }) ∧ s.SameReads t

section
variable {s t : State}

theorem State.primed_trans {u : State} (h : s.primed t) (h' : t.primed u) : s.primed u := by
  obtain ⟨hcur, ⟨x, hx⟩, hr⟩ := h
  obtain ⟨hcur', ⟨y, hy⟩, hr'⟩ := h'
  exact ⟨hcur'.trans hcur, ⟨y, by rw [hy, hx]⟩, hr.trans hr'⟩

theorem State.primed_of_fetched (h : s.fetched t) : s.primed t := by
  obtain ⟨hcur, hstr, hr⟩ := h
  exact ⟨hcur, ⟨s.st.stall, by simp only [State.st, State.strand, hcur, hstr]⟩, hr⟩

/-- A body whose reads of the weight store meet no refreshing bank goes on. -/
theorem State.primed_afterStall {lines : List Nat} (h : s.stalls lines = none) :
    ∃ u, s.primed u ∧ ∀ f, s.afterStall lines f = f u := by
  by_cases hl : lines.isEmpty
  · exact ⟨s, State.primed_of_fetched ⟨rfl, rfl, .refl s⟩, fun f => by simp [State.afterStall, h, hl]⟩
  · have hmod : s.primed (s.mod (fun t => { t with stall := none })) := ⟨rfl, ⟨_, State.st_mod s _⟩, .setStrand s s.cur _⟩
    exact ⟨_, State.primed_trans hmod (State.primed_of_fetched (State.fetched_countEv _ (dieF (coreOf s.cur)) 0x20 0 lines.length)),
      fun f => by simp [State.afterStall, h, hl]⟩

section
variable (h : s.primed t)
include h

theorem State.primed_reads : s.SameReads t := by
  obtain ⟨-, -, hr⟩ := h
  exact hr

theorem State.primed_pc : t.st.pc = s.st.pc := by
  obtain ⟨-, ⟨x, hx⟩, -⟩ := h
  rw [hx]

theorem State.primed_rS (r : SReg) : t.rS r = s.rS r := by
  obtain ⟨-, ⟨x, hx⟩, -⟩ := h
  rw [State.rS, hx]; rfl

theorem State.primed_rV (r : VReg) : t.rV r = s.rV r := by
  obtain ⟨-, ⟨x, hx⟩, -⟩ := h
  rw [State.rV, hx]; rfl

theorem State.primed_rB (r : BReg) : t.rB r = s.rB r := by
  obtain ⟨-, ⟨x, hx⟩, -⟩ := h
  rw [State.rB, hx]; rfl

end
end

end Sys2Proof.Machine
end

section
/-! PROOF. Loads through every address mode (R123, R135, R241, R287 to R289). -/
namespace Sys2Proof.Machine

section
variable {s : State} {a : SReg} {m : AMode} {n al : Nat}

/-- A load that passes its checks, stalls on no bank and meets no error uses the bytes at its effective address, after its
base update (R287). -/
theorem loadVia_reads (use : Nat → State → State) (hacc : s.accessEa s.who kLoad (s.effAddr a m) n al = .ok ())
    (hstall : s.stalls (s.who.lines (s.effAddr a m).ea n) = none) (hecc : s.eccHit s.who (s.effAddr a m).ea n = false) :
    ∃ u, s.primed u ∧ loadVia a m n al use s =
      .ok ((use (s.ldNat s.who (s.effAddr a m).ea n) (u.baseUpdate a (s.effAddr a m))).adv 8) := by
  obtain ⟨u, hu, hgo⟩ := State.primed_afterStall hstall
  refine ⟨u.touch s.who (s.effAddr a m).ea n, State.primed_trans hu (State.primed_of_fetched (u.fetched_touch _ _ _)), ?_⟩
  simp only [loadVia, hacc, hecc, State.unlessEcc_free, hgo]
  rw [(State.primed_reads hu).ldNat]

/-- A load that passes its checks and meets an uncorrectable error ends the launch (R135). -/
theorem loadVia_error (use : Nat → State → State) (hacc : s.accessEa s.who kLoad (s.effAddr a m) n al = .ok ())
    (hecc : s.eccHit s.who (s.effAddr a m).ea n = true) :
    loadVia a m n al use s = .ok (s.endLaunch s.who.ctx 1) := by
  simp only [loadVia, hacc, hecc, State.unlessEcc, if_true]

end

/-- LDV of a tile that fits is one load of its bytes (R102, R289). -/
theorem exec_ldv_fits {g : Guard} {s t : State} {v : VReg} {a : SReg} {m : AMode} {o : MemOrd} (hg : s.guard g = true)
    (hfit : s.tileFits (fmtSize (AccTy m)))
    (hload : loadVia a m (s.elems * fmtSize (AccTy m)) (tileAlign (AccTy m))
      (fun x u => u.wV v (putBits (u.rV v) 0 (8 * (s.elems * fmtSize (AccTy m))) x)) s = .ok t) :
    exec (.ldv g v a m o) s = .next t := by
  rw [exec_ldv, execLdv]
  refine guarded_ok hg ?_
  rw [State.tile_ok hfit]
  exact hload

/-- What a load leaves: the pc moved on, the bytes of memory, and the base register updated unless the load is into it. -/
theorem State.primed_based {s u : State} (h : s.primed u) (a : SReg) (e : EffAddr) (f : Strand → Strand)
    (hf : ∀ t, (f t).pc = t.pc) :
    (((u.baseUpdate a e).mod f).adv 8).st.pc = s.st.pc + 8 ∧ s.sameMemory (((u.baseUpdate a e).mod f).adv 8) := by
  constructor
  · rw [State.st_adv, State.st_mod]
    show (f _).pc + 8 = _
    rw [hf, State.pc_baseUpdate, State.primed_pc h]
  · exact (((State.primed_reads h).trans (.baseUpdate u a e)).trans
      ((State.SameReads.setStrand _ _ _).trans (.setStrand _ _ _))).sameMemory

/-- Settles O28: a load is its checks, its stalls and its bytes; the register writes and the base update are read off. -/
theorem loadsThroughAddressModes : Obligations.LoadsThroughAddressModes := by
  intro s g d a v b m o hg e ty ready based
  refine ⟨?_, ?_, ?_, ?_⟩
  · rintro ⟨hacc, hstall, hecc⟩
    obtain ⟨u, hu, hload⟩ := loadVia_reads (fun v s => s.wS d (resultWord ty v)) hacc hstall hecc
    obtain ⟨hpc, hmem⟩ := State.primed_based hu a e (·.wS d (resultWord ty (s.ldNat s.who e.ea (fmtSize ty)))) (fun t => t.wS_pc d _)
    refine ⟨_, guarded_ok hg hload, hpc, hmem, fun hd => ?_, fun had x hx ha => ?_, fun r hrd hra => ?_⟩
    · rw [State.rS_adv, State.rS_wS, if_pos ⟨rfl, hd⟩]
    · rw [State.rS_adv, State.rS_wS, if_neg (fun h => had h.1), State.rS_baseUpdate_self _ _ _ hx ha]
    · rw [State.rS_adv, State.rS_wS, if_neg (fun h => hrd h.1), State.rS_baseUpdate_ne _ _ _ hra, State.primed_rS hu]
  · rintro hfit ⟨hacc, hstall, hecc⟩
    have hsize : 8 * (s.elems * fmtSize ty) ≤ 8192 := by
      obtain ⟨-, -, -, -, hn⟩ := hfit
      omega
    obtain ⟨u, hu, hload⟩ := loadVia_reads (n := s.elems * fmtSize ty)
      (fun x t => t.wV v (putBits (t.rV v) 0 (8 * (s.elems * fmtSize ty)) x)) hacc hstall hecc
    obtain ⟨hpc, hmem⟩ := State.primed_based hu a e (·.wV v _) (fun t => t.wV_pc v _)
    refine ⟨_, exec_ldv_fits hg hfit hload, hpc, hmem, fun x hx ha => ?_, ?_, fun j hj => ?_, fun r hr => ?_⟩
    · rw [State.rS_adv, State.rS_wV, State.rS_baseUpdate_self _ _ _ hx ha]
    · rw [State.rV_adv, State.rV_wV, if_pos rfl, putBits_toNat _ _ _ hsize, Nat.mul_add_mod,
        Nat.mod_mod, Nat.mod_eq_of_lt (s.ldNat_lt _ _ _)]
    · rw [State.rV_adv, State.rV_wV, if_pos rfl, putBits_above _ _ _ _ hsize hj, State.rV_baseUpdate, State.primed_rV hu]
    · rw [State.rV_adv, State.rV_wV, if_neg hr, State.rV_baseUpdate, State.primed_rV hu]
  · rintro hb ⟨hacc, hstall, hecc⟩
    obtain ⟨u, hu, hload⟩ := loadVia_reads (fun v s => s.wB b (BitVec.ofNat 512 v)) hacc hstall hecc
    obtain ⟨hpc, hmem⟩ := State.primed_based hu a e (·.wB b (BitVec.ofNat 512 (s.ldNat s.who e.ea 64))) (fun t => t.wB_pc b _)
    refine ⟨_, guarded_ok hg hload, hpc, hmem, fun x hx ha => ?_, ?_, fun r hr => ?_⟩
    · rw [State.rS_adv, State.rS_wB, State.rS_baseUpdate_self _ _ _ hx ha]
    · rw [State.rB_adv, State.rB_wB, if_pos ⟨rfl, hb⟩]
    · rw [State.rB_adv, State.rB_wB, if_neg (fun h => hr h.1), State.rB_baseUpdate, State.primed_rB hu]
  · intro hacc hecc
    exact guarded_ok hg (loadVia_error _ hacc hecc)

end Sys2Proof.Machine
end

section
/-! PROOF. Stores to the local store (R125, R126, R241, R288, R289). -/
namespace Sys2Proof.Machine

theorem length_boxBytes (b : BoxImg) : (boxBytes b).length = 64 := by rw [boxBytes, length_bytesOfNat]

/-- STV of a tile that fits is one store of its bytes (R102, R289). -/
theorem exec_stv_fits {g : Guard} {s t : State} {v : VReg} {a : SReg} {m : AMode} {o : MemOrd} (hg : s.guard g = true)
    (hfit : s.tileFits (fmtSize (AccTy m)))
    (hstore : storeVia a m kStore false (tileAlign (AccTy m)) (bytesOfNat (s.elems * fmtSize (AccTy m)) (s.rV v).toNat) s =
      .ok t) : exec (.stv g v a m o) s = .next t := by
  rw [exec_stv, execStv]
  refine guarded_ok hg ?_
  rw [State.tile_ok hfit]
  exact hstore

section
variable {s : State} {a : SReg} {m : AMode} {kd : AccKind} {n al : Nat} {l : List Byte}

/-- A store to the local store that passes its checks, outside the keep regions or in exact mode, writes its bytes at the
place of the effective address (R125, R126). -/
theorem storeVia_local (all : Bool) (hlen : l.length = n) (hwin : window (s.effAddr a m).ea = 2)
    (hacc : s.accessEa s.who kd (s.effAddr a m) n al = .ok ())
    (hkeep : s.who.exact = true ∨ s.who.inKeep (inWindowOff (s.effAddr a m).ea) n = false) :
    storeVia a m kd all al l s =
      .ok (((s.ldsStored s.who (inWindowOff (s.effAddr a m).ea) l).baseUpdate a (s.effAddr a m)).adv 8) := by
  subst hlen
  have htouch : s.touch s.who (s.effAddr a m).ea l.length = s := by simp [State.touch, hwin]
  have hhit : s.tableHit s.who (s.effAddr a m).ea l.length = false := by simp [State.tableHit, hwin]
  have hplain : (!s.who.exact && s.who.inKeep (inWindowOff (s.effAddr a m).ea) l.length) = false := by
    rcases hkeep with h | h <;> simp [h]
  simp [storeVia, hacc, htouch, hhit, State.unlessEcc_free, State.stBytes, hwin, hplain, Except.map, State.ldsStored]

end

/-- Settles O29: each store is one write of the local stores, at the place that its effective address names. -/
theorem storesToLocalStore : Obligations.StoresToLocalStore := by
  intro s g d a v b m o hg e ty place ready done
  have hdone : ∀ (l : List Byte) (i : Instr), exec i s = .next (((s.ldsStored s.who (inWindowOff e.ea) l).baseUpdate a e).adv 8) → done l (exec i s) := by
    intro l i hi
    refine ⟨_, hi, ?_, fun j hj => ?_, fun x hx => ?_, ?_, ?_, ?_, fun u hu ha => ?_, fun r hr => ?_⟩
    · rw [State.st_adv]
      show _ + _ = _
      rw [State.pc_baseUpdate]; rfl
    · rw [State.adv_lds, State.lds_baseUpdate]
      exact Mem.get_write_inside l s.lds place j hj
    · rw [State.adv_lds, State.lds_baseUpdate]
      exact Mem.get_write_outside l s.lds place x hx
    · exact State.baseUpdate_keeps _ a e (fun t => t.dies.map (·.view)) fun _ _ => rfl
    · exact State.baseUpdate_keeps _ a e (·.ws) fun _ _ => rfl
    · exact State.baseUpdate_keeps _ a e (·.opmem) fun _ _ => rfl
    · rw [State.rS_adv, State.rS_baseUpdate_self _ _ _ hu ha]
    · rw [State.rS_adv, State.rS_baseUpdate_ne _ _ _ hr]; rfl
  refine ⟨?_, ?_, ?_, ?_⟩
  · rintro ⟨hwin, hacc, hkeep⟩
    exact hdone _ _ (guarded_ok hg (storeVia_local false (length_bytesOfNat _ _) hwin hacc hkeep))
  · rintro ⟨hwin, hacc, hkeep⟩
    exact hdone _ _ (guarded_ok hg (storeVia_local true (length_bytesOfNat _ _) hwin hacc hkeep))
  · rintro hfit ⟨hwin, hacc, hkeep⟩
    exact hdone _ _ (exec_stv_fits hg hfit (storeVia_local false (length_bytesOfNat _ _) hwin hacc hkeep))
  · rintro ⟨hwin, hacc, hkeep⟩
    have hstore := storeVia_local false (length_boxBytes (s.rB b)) hwin hacc hkeep
    refine hdone (boxBytes (s.rB b)) (.boxst g b a m) ?_
    rw [exec_boxst, execBoxst]
    exact guarded_ok hg hstore

end Sys2Proof.Machine
end

section
/-! SUPPORT. What a write of one die to words that no other die writes does to the views of global memory (R144, R145,
R152), and the words of a range. -/
namespace Sys2Proof.Machine

/-! ### Words of a range (R144) -/

theorem mem_wordsOf {pa n w : Nat} :
    w ∈ wordsOf pa n ↔ 0 < n ∧ ∃ q, w = q * 8 ∧ pa / 8 ≤ q ∧ q ≤ (pa + n - 1) / 8 := by
  unfold wordsOf
  split
  · next h => simp [h]
  · next h =>
    simp only [List.mem_map, List.mem_range]
    constructor
    · rintro ⟨i, hi, rfl⟩
      exact ⟨by omega, pa / 8 + i, rfl, by omega, by omega⟩
    · rintro ⟨-, q, rfl, hlo, hhi⟩
      exact ⟨q - pa / 8, by omega, by congr 1; omega⟩

theorem wordsOf_subset {pa n pa' n' : Nat} (hlo : pa ≤ pa') (hhi : pa' + n' ≤ pa + n) : wordsOf pa' n' ⊆ wordsOf pa n := by
  intro w hw
  obtain ⟨hn, q, rfl, hq, hq'⟩ := mem_wordsOf.mp hw
  exact mem_wordsOf.mpr ⟨by omega, q, rfl, by omega, by omega⟩

/-- A range that lies in one word. -/
theorem wordsOf_within {a n : Nat} (hn : 0 < n) (hone : a % 8 + n ≤ 8) : wordsOf a n = [a / 8 * 8] := by
  have hlast : (a + n - 1) / 8 - a / 8 + 1 = 1 := by omega
  rw [wordsOf, if_neg (by omega), hlast]
  simp

theorem PWrite.meets_subset (w : PWrite) {l l' : List Nat} (h : l' ⊆ l) (hw : w.meets l = false) : w.meets l' = false := by
  simp only [PWrite.meets, has, List.any_eq_false, List.any_eq_true, beq_iff_eq, not_exists, not_and] at hw ⊢
  exact fun x hx y hy hxy => hw x hx y (h hy) hxy

theorem State.quietAt_within {s : State} {d : Fin 4} {pa n pa' n' : Nat} (hlo : pa ≤ pa') (hhi : pa' + n' ≤ pa + n)
    (h : s.quietAt d pa n) : s.quietAt d pa' n' :=
  fun w hw => w.meets_subset (wordsOf_subset hlo hhi) (h w hw)

/-! ### Bytes written in pieces -/

theorem Mem.write_take_drop (n : Nat) : ∀ (l : List Byte) (m : List Host.Cell) (a : Nat),
    Mem.write (Mem.write m a (l.take n)) (a + n) (l.drop n) = Mem.write m a l := by
  induction n with
  | zero => exact fun _ _ _ => rfl
  | succ n ih =>
    intro l m a
    cases l with
    | nil => rfl
    | cons b l =>
      rw [List.take_succ_cons, List.drop_succ_cons, Nat.add_comm n, ← Nat.add_assoc]
      exact ih l (Mem.set m a b) (a + 1)

/-- The bytes of a range that lies in one word are one piece. -/
theorem pieces_within {a : Nat} {l : List Byte} (hl : 0 < l.length) (hone : a % 8 + l.length ≤ 8) :
    pieces l.length a l = [(a, l)] := by
  cases l with
  | nil => exact absurd hl (Nat.lt_irrefl 0)
  | cons b t =>
    have htake : (b :: t).length ≤ 8 - a % 8 := by omega
    rw [List.length_cons, pieces]
    simp only [List.take_of_length_le htake, List.drop_of_length_le htake]
    cases t <;> rfl

/-! ### The views after a write (R152) -/

/-- `t` is `s` after writes of die `d`: that die sees the bytes `m`, nothing new is on its way to it, and the other dies
see what they saw. -/
structure State.ViewWritten (s t : State) (d : Fin 4) (m : List Host.Cell) : Prop where
  rest : ∃ v n f g, t = { s with dies := v, stamp := n, free := f, agenda := g }
  own : (t.die d).view.cells = m
  pend : (t.die d).view.pend = (s.die d).view.pend
  other : ∀ f, f ≠ d → (t.die f).view.cells = (s.die f).view.cells

namespace State.ViewWritten

theorem refl (s : State) (d : Fin 4) : s.ViewWritten s d (s.die d).view.cells :=
  ⟨⟨_, _, _, _, rfl⟩, rfl, rfl, fun _ _ => rfl⟩

theorem trans {s t u : State} {d : Fin 4} {m m' : List Host.Cell} (h : s.ViewWritten t d m) (h' : t.ViewWritten u d m') :
    s.ViewWritten u d m' := by
  obtain ⟨⟨v, n, f, g, rfl⟩, -, hpend, hother⟩ := h
  obtain ⟨⟨v', n', f', g', rfl⟩, hown', hpend', hother'⟩ := h'
  exact ⟨⟨v', n', f', g', rfl⟩, hown', hpend'.trans hpend, fun f hf => (hother' f hf).trans (hother f hf)⟩

/-- A write to words that no other die's write is on its way to (R145). -/
theorem gwrite {s : State} {d : Fin 4} {pa : Nat} {l : List Byte} (tag : Option Bool) (mark path : Nat)
    (hq : s.quietAt d pa l.length) :
    s.ViewWritten (s.gwrite d pa l tag mark path) d (Mem.write (s.die d).view.cells pa l) := by
  have hcatch : (s.die d).view.catchUp (wordsOf pa l.length) = (s.die d).view := View.catchUp_quiet hq
  refine ⟨⟨_, _, _, _, rfl⟩, ?_, ?_, fun f hf => ?_⟩
  · simp [State.die, State.gwrite, View.apply] at hcatch ⊢
    rw [hcatch]
  · simp [State.die, State.gwrite, View.apply] at hcatch ⊢
    rw [hcatch]
  · simp [State.die, State.gwrite, hf]

section
variable {s t : State} {d : Fin 4} {m : List Host.Cell} (h : s.ViewWritten t d m)
include h

theorem quietAt {pa n : Nat} (hq : s.quietAt d pa n) : t.quietAt d pa n := fun w hw => hq w (h.pend ▸ hw)

theorem core (c : Nat) : t.core c = s.core c := by
  obtain ⟨⟨v, n, f, g, rfl⟩, -, -, -⟩ := h
  rfl

theorem st : t.st = s.st := by
  obtain ⟨⟨v, n, f, g, rfl⟩, -, -, -⟩ := h
  rfl

theorem local_ : t.lds = s.lds ∧ t.ws = s.ws ∧ t.opmem = s.opmem := by
  obtain ⟨⟨v, n, f, g, rfl⟩, -, -, -⟩ := h
  exact ⟨rfl, rfl, rfl⟩

end

end State.ViewWritten

/-! ### Publish tags (R71) -/

theorem find_setTags {ws : List Nat} {w : Nat} : ∀ {tags : Table Unit}, w ∈ ws ∨ (tags.find w).isSome = true →
    ((setTags tags true ws).find w).isSome = true := by
  induction ws with
  | nil => exact fun h => h.resolve_left (by simp)
  | cons x ws ih =>
    intro tags h
    refine ih ?_
    rw [if_pos rfl, Table.find_set]
    split
    · exact .inr rfl
    · next hx =>
      rw [List.mem_cons] at h
      exact h.imp (fun h => h.resolve_left hx) id

/-- A write with a tag sets it on the words that it covers. -/
theorem State.tagged_gwrite {s : State} {d : Fin 4} {pa : Nat} {l : List Byte} (mark path : Nat) {w : Nat}
    (hw : w ∈ wordsOf pa l.length) : (s.gwrite d pa l (some true) mark path).tagged d w = true := by
  simp only [State.tagged, State.die, State.gwrite, View.apply, State.posts, Fin.getElem_fin, Vector.getElem_ofFn, if_true]
  exact find_setTags (.inl hw)

end Sys2Proof.Machine
end

section
/-! PROOF. Stores and AMO to global memory (R71, R135, R137, R141, R144, R145, R152, R241, R259, R288, R289). -/
namespace Sys2Proof.Machine

/-! ### Aligned accesses of at most a word (R287) -/

/-- An element of at most a word has a size that divides the word. -/
theorem fmtSize_dvd {t : Fmt} (h : fmtSize t ≤ 8) : 0 < fmtSize t ∧ fmtSize t ∣ 8 := by
  cases t <;> revert h <;> decide

theorem aligned_within {a n : Nat} (hd : n ∣ 8) (ha : a % n = 0) : a % 8 + n ≤ 8 := by
  obtain ⟨k, hk⟩ := hd
  obtain ⟨j, hj⟩ : n ∣ a % 8 := (Nat.dvd_mod_iff ⟨k, hk⟩).mpr (Nat.dvd_of_mod_eq_zero ha)
  have hlt : n * j < n * k := by omega
  have hjk : j + 1 ≤ k := Nat.lt_of_mul_lt_mul_left hlt
  calc a % 8 + n = n * (j + 1) := by rw [hj, Nat.mul_succ]
    _ ≤ n * k := Nat.mul_le_mul_left n hjk
    _ = 8 := hk.symm

theorem alignCheck_ok {ea : Word} {n al : Nat} (h : alignCheck ea n al = .ok ()) : ea.toNat % al = 0 := by
  unfold alignCheck at h
  split at h
  · assumption
  · cases h

/-- An access that passes its checks is aligned, since alignment is tested first (R120, R287). -/
theorem State.access_aligned {s : State} {w : Who} {kd : AccKind} {ea : Word} {n al : Nat}
    (h : s.access w kd ea n al = .ok ()) : ea.toNat % al = 0 := by
  cases halign : alignCheck ea n al with
  | error t => rw [State.access, halign] at h; cases h
  | ok => exact alignCheck_ok halign

theorem State.accessEa_aligned {s : State} {w : Who} {kd : AccKind} {e : EffAddr} {n al : Nat}
    (h : s.accessEa w kd e n al = .ok ()) : e.ea.toNat % al = 0 := by
  cases halign : alignCheck e.ea n al with
  | error t => rw [State.accessEa, halign] at h; cases h
  | ok => exact alignCheck_ok halign

/-! ### Writes word by word (R141, R144) -/

section
variable {s : State} {w : Who} {a : Nat} {x : Xl} {l : List Byte}

/-- The tag that a write of a piece sets (R71). -/
def Who.pieceTag (w : Who) (a n : Nat) : Option Bool := if w.pubWord a n (a / 8 * 8) && !w.quiet then some true else none

/-- A piece of any store but an MSTORE of a replicated word is one write, of the executing die's copy (R141). -/
theorem State.stGlob_own (hx : s.xl w a = .ok x) {all : Bool} (hone : (x.replica && all) = false) :
    s.stGlob w all a l =
      s.gwrite (dieF w.core) (x.pa (dieOf w.core)) l (w.pieceTag a l.length) w.mark w.path := by
  simp [State.stGlob, hx, hone, Who.pieceTag]

/-- An MSTORE of a replicated word writes its four copies (R141). -/
theorem State.stGlob_copies (hx : s.xl w a = .ok x) (hrep : x.replica = true) :
    s.stGlob w true a l = (List.range 4).foldl (fun s e =>
      s.gwrite (dieF w.core) (x.pa e) l (w.pieceTag a l.length) w.mark w.path) s := by
  simp [State.stGlob, hx, hrep, Who.pieceTag]

end

section
variable {s : State} {w : Who} {ea : Word} {x : Xl} {l : List Byte}

/-- The bytes of a store in one word are one piece. -/
theorem State.stWords_within {all : Bool} (hl : 0 < l.length) (hone : ea.toNat % 8 + l.length ≤ 8) :
    s.stWords w all ea l = s.stGlob w all ea.toNat l := by
  rw [State.stWords, pieces_within hl hone]
  rfl

/-- The offset moved on in a page or a group. -/
def Xl.plus (x : Xl) (n : Nat) : Xl := { x with off := x.off + n }

theorem Xl.pa_plus {x : Xl} (h : x.replica = false) (n d : Nat) : (x.plus n).pa d = x.pa d + n := by
  simp [Xl.pa, Xl.plus, h, Nat.add_assoc]

/-- Every byte of a range has its translation in the core's TLB, one page or group long. -/
def State.tlbHolds (s : State) (w : Who) (x : Xl) (a n : Nat) : Prop :=
  ∀ j, j < n → tlbFind (s.core w.core).tlb w.ctx (a + j) = some (x.plus j)

theorem State.xl_of_tlb {a : Nat} (hmmu : w.mmu = .core) (h : tlbFind (s.core w.core).tlb w.ctx a = some x) :
    s.xl w a = .ok x := by
  simp [State.xl, hmmu, State.xlateBy, State.xlate, h]

/-- A store through one unreplicated page that the core's TLB holds writes its bytes in one run, piece by piece. -/
theorem State.foldl_stGlob_tlb (all : Bool) (hmmu : w.mmu = .core) : ∀ (f : Nat) (s : State) (x : Xl) (a : Nat) (l : List Byte),
    l.length ≤ f → x.replica = false → s.tlbHolds w x a l.length → s.quietAt (dieF w.core) (x.pa (dieOf w.core)) l.length →
    s.ViewWritten ((pieces f a l).foldl (fun s (p : Nat × List Byte) => s.stGlob w all p.1 p.2) s) (dieF w.core)
      (Mem.write (s.die (dieF w.core)).view.cells (x.pa (dieOf w.core)) l) := by
  intro f
  induction f with
  | zero =>
    intro s x a l hl _ _ _
    rw [List.length_eq_zero_iff.mp (Nat.le_zero.mp hl)]
    exact .refl s _
  | succ f ih =>
    intro s x a l hl hrep htlb hq
    cases l with
    | nil => exact .refl s _
    | cons b t =>
      rw [pieces]
      generalize hn : 8 - a % 8 = n
      generalize hlen : (b :: t).length = len at *
      have hhead : (List.take n (b :: t)).length ≤ len := by rw [List.length_take, hlen]; exact Nat.min_le_right _ _
      have htail : (List.drop n (b :: t)).length = len - n := by rw [List.length_drop, hlen]
      have hx : s.xl w a = .ok x := State.xl_of_tlb hmmu (htlb 0 (by simp [← hlen]))
      have hhd := State.ViewWritten.gwrite (w.pieceTag a ((b :: t).take n).length) w.mark w.path
        (State.quietAt_within (Nat.le_refl _) (Nat.add_le_add_left hhead _) hq)
      rw [List.foldl_cons, State.stGlob_own hx (by simp [hrep])]
      have htl := ih (s.gwrite (dieF w.core) (x.pa (dieOf w.core)) ((b :: t).take n) (w.pieceTag a ((b :: t).take n).length)
        w.mark w.path) (x.plus n) (a + n) ((b :: t).drop n) (by omega) hrep (fun j hj => ?_) ?_
      · rw [hhd.own, Xl.pa_plus hrep, Mem.write_take_drop] at htl
        exact hhd.trans htl
      · rw [hhd.core, Nat.add_assoc]
        exact (htlb (n + j) (by omega)).trans (by simp [Xl.plus, Nat.add_assoc])
      · rw [Xl.pa_plus hrep]
        by_cases h : n ≤ len
        · exact hhd.quietAt (State.quietAt_within (by omega) (by omega) hq)
        · have hempty : wordsOf (x.pa (dieOf w.core) + n) (List.drop n (b :: t)).length = [] := by
            rw [htail]; simp [wordsOf, Nat.sub_eq_zero_of_le (Nat.le_of_not_le h)]
          rw [State.quietAt, hempty]
          exact fun w _ => by simp [PWrite.meets, has]

end

/-! ### Several places at once (R141) -/

/-- Bytes written at places that do not overlap are read at each of them, and nothing else has changed. -/
theorem Mem.get_writes {l : List Byte} {places : List Nat} (hp : places.Pairwise (fun p q => p + l.length ≤ q)) :
    ∀ m : List Host.Cell, (∀ p ∈ places, ∀ i (h : i < l.length),
      Mem.get (places.foldl (fun m p => Mem.write m p l) m) (p + i) = l[i]) ∧
      ∀ y, (∀ p ∈ places, y < p ∨ p + l.length ≤ y) → Mem.get (places.foldl (fun m p => Mem.write m p l) m) y = Mem.get m y := by
  induction places with
  | nil => exact fun m => ⟨fun p hp => absurd hp (by simp), fun _ _ => rfl⟩
  | cons p places ih =>
    intro m
    rw [List.pairwise_cons] at hp
    obtain ⟨hhead, htail⟩ := hp
    obtain ⟨hin, hout⟩ := ih htail (Mem.write m p l)
    refine ⟨fun q hq i hi => ?_, fun y hy => ?_⟩
    · rcases List.mem_cons.mp hq with rfl | hq
      · rw [List.foldl_cons, hout _ (fun r hr => .inl (by have := hhead r hr; omega))]
        exact Mem.get_write_inside l m q i hi
      · exact hin q hq i hi
    · rw [List.foldl_cons, hout y (fun r hr => hy r (List.mem_cons_of_mem _ hr))]
      exact Mem.get_write_outside l m p y (hy p List.mem_cons_self)

/-- The four copies of a replicated word lie 8 KB apart (R140). -/
theorem Xl.copies_apart {x : Xl} (h : x.replica = true) {n : Nat} (hn : n ≤ 8192) :
    ((List.range 4).map x.pa).Pairwise (fun p q => p + n ≤ q) := by
  rw [List.pairwise_map]
  refine List.pairwise_lt_range.imp fun {d e} hde => ?_
  simp only [Xl.pa, h, if_true]
  omega

theorem State.ViewWritten.copies {s : State} {d : Fin 4} {l : List Byte} (tag : Option Bool) (mark path : Nat) (pa : Nat → Nat)
    (es : List Nat) : (∀ e ∈ es, s.quietAt d (pa e) l.length) →
    s.ViewWritten (es.foldl (fun s e => s.gwrite d (pa e) l tag mark path) s) d
      ((es.map pa).foldl (fun m p => Mem.write m p l) (s.die d).view.cells) := by
  induction es generalizing s with
  | nil => exact fun _ => .refl s d
  | cons e es ih =>
    intro hq
    have hhd := State.ViewWritten.gwrite tag mark path (hq e List.mem_cons_self)
    have htl := ih (s := s.gwrite d (pa e) l tag mark path) (fun f hf => hhd.quietAt (hq f (List.mem_cons_of_mem _ hf)))
    rw [hhd.own] at htl
    exact hhd.trans htl

/-! ### Stores through an address mode (R288) -/

section
variable {s : State} {a : SReg} {m : AMode} {kd : AccKind} {n al : Nat} {l : List Byte}

/-- A store whose walk reads an uncorrectable error ends the launch (R135). -/
theorem storeVia_tableHit (all : Bool) (hlen : l.length = n) (hacc : s.accessEa s.who kd (s.effAddr a m) n al = .ok ())
    (hhit : s.tableHit s.who (s.effAddr a m).ea n = true) :
    storeVia a m kd all al l s = .ok (s.endLaunch s.who.ctx 1) := by
  subst hlen
  simp only [storeVia, hacc, hhit, State.unlessEcc, if_true]

/-- A store to global memory that passes its checks enters the tag log, writes word by word, and updates its base. -/
theorem storeVia_global (all : Bool) (hlen : l.length = n) (hwin : window (s.effAddr a m).ea = 0)
    (hacc : s.accessEa s.who kd (s.effAddr a m) n al = .ok ()) (hhit : s.tableHit s.who (s.effAddr a m).ea n = false) :
    storeVia a m kd all al l s = ((s.touch s.who (s.effAddr a m).ea n).logRun s.who (s.effAddr a m).ea n).map (fun u =>
      ((u.stWords s.who all (s.effAddr a m).ea l).baseUpdate a (s.effAddr a m)).adv 8) := by
  subst hlen
  simp only [storeVia, hacc, hhit, State.unlessEcc_free, State.stBytes, hwin, if_true]
  cases (s.touch s.who (s.effAddr a m).ea l.length).logRun s.who (s.effAddr a m).ea l.length <;> rfl

/-- A state that reads as `s` did, at its pc, then writes of the executing die, then the pc moved on. -/
theorem State.globStored_of {s u v t : State} {places : List Nat} {mem : List Host.Cell} (hr : s.SameReads u)
    (hw : u.ViewWritten v (dieF (coreOf s.cur)) mem) (ht : t.stores = v.stores) (hpc : t.st.pc = s.st.pc + 8)
    (hin : ∀ p ∈ places, ∀ i (h : i < l.length), Mem.get mem (p + i) = l[i])
    (hout : ∀ y, (∀ p ∈ places, y < p ∨ p + l.length ≤ y) →
      Mem.get mem y = Mem.get (s.die (dieF (coreOf s.cur))).view.cells y) : s.globStored places l t := by
  simp only [State.stores, Prod.mk.injEq] at ht
  obtain ⟨hdies, hws, hlds, hop⟩ := ht
  obtain ⟨hvl, hvw, hvo⟩ := hw.local_
  have hdie : ∀ e, t.die e = v.die e := fun e => by rw [State.die, hdies]; rfl
  refine ⟨hpc, fun p hp i hi => ?_, fun y hy => ?_, fun f hf => ?_, hlds.trans (hvl.trans hr.lds), hws.trans (hvw.trans hr.ws),
    hop.trans (hvo.trans hr.opmem)⟩
  · rw [hdie, hw.own]
    exact hin p hp i hi
  · rw [hdie, hw.own]
    exact hout y hy
  · rw [hdie, hw.other f hf, hr.view]

end

/-- What a store through an address mode leaves once its bytes are written: they are stored, and the base is updated. -/
theorem State.globStored_based {s u v : State} {places : List Nat} {l : List Byte} (a : SReg) (e : EffAddr) (hr : s.SameReads u)
    (hpc : u.st.pc = s.st.pc)
    (hw : u.ViewWritten v (dieF (coreOf s.cur)) (places.foldl (fun m p => Mem.write m p l) (u.die (dieF (coreOf s.cur))).view.cells))
    (hp : places.Pairwise (fun p q => p + l.length ≤ q)) :
    s.globStored places l ((v.baseUpdate a e).adv 8) ∧ ∀ x, e.upd = some x → a ≠ 0 → ((v.baseUpdate a e).adv 8).rS a = x := by
  obtain ⟨hin, hout⟩ := Mem.get_writes hp (u.die (dieF (coreOf s.cur))).view.cells
  refine ⟨State.globStored_of hr hw ?_ ?_ hin (fun y hy => (hout y hy).trans (by rw [hr.view])), fun x hx ha => ?_⟩
  · exact State.baseUpdate_keeps _ a e State.stores fun _ _ => rfl
  · rw [State.st_adv]
    exact congrArg (· + 8) ((State.pc_baseUpdate v a e).trans ((congrArg Strand.pc hw.st).trans hpc))
  · rw [State.rS_adv, State.rS_baseUpdate_self _ _ _ hx ha]

section
variable {s : State} {a : SReg} {m : AMode} {kd : AccKind} {n al : Nat} {l : List Byte} {x : Xl} {all : Bool}

/-- A store outside the PUB tensors enters no tag log. -/
theorem storeVia_unlogged (hlen : l.length = n) (hwin : window (s.effAddr a m).ea = 0)
    (hacc : s.accessEa s.who kd (s.effAddr a m) n al = .ok ()) (hhit : s.tableHit s.who (s.effAddr a m).ea n = false)
    (hrun : s.who.pubRun (s.effAddr a m).ea n = none) : storeVia a m kd all al l s =
      .ok ((((s.touch s.who (s.effAddr a m).ea n).stWords s.who all (s.effAddr a m).ea l).baseUpdate a (s.effAddr a m)).adv 8) := by
  rw [storeVia_global all hlen hwin hacc hhit, State.logRun, hrun]
  rfl

theorem State.touch_pc (w : Who) (ea : Word) (n : Nat) : (s.touch w ea n).st.pc = s.st.pc :=
  State.primed_pc (State.primed_of_fetched (s.fetched_touch w ea n))

theorem State.SameReads.quietAt {s u : State} (h : s.SameReads u) {d : Fin 4} {pa n : Nat} (hq : s.quietAt d pa n) :
    u.quietAt d pa n := fun w hw => hq w (h.view d ▸ hw)

section
variable {ea : Word} (hlen : l.length = n) (hpos : 0 < n) (hword : ea.toNat % 8 + n ≤ 8)
  (hx : s.xl s.who ea.toNat = .ok x)
include hlen hpos hword hx

/-- The bytes of a word, of the executing die's copy (R141, R144). -/
theorem State.touched_own {u : State} (hone : (x.replica && all) = false) (hr : s.SameReads u)
    (hq : s.quietAt (dieF s.who.core) (x.pa (dieOf s.who.core)) n) :
    u.ViewWritten (u.stWords s.who all ea l) (dieF (coreOf s.cur))
      ([x.pa (dieOf s.who.core)].foldl (fun m p => Mem.write m p l) (u.die (dieF (coreOf s.cur))).view.cells) := by
  subst hlen
  rw [State.stWords_within hpos hword, State.stGlob_own ((hr.xl _ _).trans hx) hone]
  exact .gwrite _ _ _ (hr.quietAt hq)

/-- The bytes of a word, of all four copies (R141). -/
theorem State.touched_copies {u : State} (hrep : x.replica = true) (hr : s.SameReads u)
    (hq : ∀ f, f < 4 → s.quietAt (dieF s.who.core) (x.pa f) n) :
    u.ViewWritten (u.stWords s.who true ea l) (dieF (coreOf s.cur))
      (((List.range 4).map x.pa).foldl (fun m p => Mem.write m p l) (u.die (dieF (coreOf s.cur))).view.cells) := by
  subst hlen
  rw [State.stWords_within hpos hword, State.stGlob_copies ((hr.xl _ _).trans hx) hrep]
  exact .copies _ _ _ x.pa _ fun f hf => hr.quietAt (hq f (List.mem_range.mp hf))

end

/-! ### Tiles and boxes (R241, R289) -/

/-- Pages whose translations the core's TLB holds are not walked. -/
theorem State.tableHit_tlb {w : Who} {ea : Word} (hmmu : w.mmu = .core) (htlb : s.tlbHolds w x ea.toNat n) :
    s.tableHit w ea n = false := by
  by_cases hn : n = 0
  · simp [State.tableHit, hn]
  · have hpage : ∀ p ∈ pageStarts ea.toNat n, s.walkHit w.mmu w.core w.ctx p = false := by
      intro p hp
      obtain ⟨j, hj, rfl⟩ : ∃ j, j < n ∧ p = ea.toNat + j := by
        simp only [pageStarts, List.mem_cons, List.mem_map, List.mem_range] at hp
        rcases hp with rfl | ⟨i, hi, rfl⟩
        · exact ⟨0, by omega, rfl⟩
        · exact ⟨(ea.toNat / 65536 + 1 + i) * 65536 - ea.toNat, by omega, by omega⟩
      simp [State.walkHit, hmmu, htlb j hj]
    have hnone : (pageStarts ea.toNat n).any (s.walkHit w.mmu w.core w.ctx) = false :=
      List.any_eq_false.mpr fun p hp => by simp [hpage p hp]
    simp [State.tableHit, hnone]

/-- A store of bytes whose page the core's TLB holds. -/
theorem storeVia_tlb (hlen : l.length = n) (hwin : window (s.effAddr a m).ea = 0) (hrep : x.replica = false)
    (hrun : s.who.pubRun (s.effAddr a m).ea l.length = none)
    (hq : s.quietAt (dieF s.who.core) (x.pa (dieOf s.who.core)) l.length)
    (htlb : s.tlbHolds s.who x (s.effAddr a m).ea.toNat l.length)
    (hacc : s.accessEa s.who kd (s.effAddr a m) n al = .ok ()) :
    ∃ t, storeVia a m kd all al l s = .ok t ∧ s.globStored [x.pa (dieOf s.who.core)] l t ∧
      ∀ y, (s.effAddr a m).upd = some y → a ≠ 0 → t.rS a = y := by
  subst hlen
  have htouch : s.SameReads (s.touch s.who (s.effAddr a m).ea l.length) := .touch s _ _ _
  refine ⟨_, storeVia_unlogged rfl hwin hacc (State.tableHit_tlb rfl htlb) hrun, ?_⟩
  refine State.globStored_based a _ htouch (State.touch_pc _ _ _) ?_ (List.pairwise_singleton _ _)
  refine State.foldl_stGlob_tlb all rfl l.length _ x _ l (Nat.le_refl _) hrep (fun j hj => ?_) (htouch.quietAt hq)
  rw [State.core_touch]
  exact htlb j hj

end

/-! ### PUB tensors (R71) -/

section
variable {w : Who} {ea : Word} {n i : Nat} {t : Tensor} (hex : w.exact = true) (hten : w.tensor ea.toNat = some (i, t))
  (hcls : t.cls = 2) (hpos : 0 < n) (hword : ea.toNat % 8 + n ≤ 8)
include hex hten hcls hpos hword

theorem Who.pubWord_first : w.pubWord ea.toNat n (ea.toNat / 8 * 8) = true := by
  have hlo : Nat.max (ea.toNat / 8 * 8) ea.toNat = ea.toNat := Nat.max_eq_right (by omega)
  have hcount : Nat.min (ea.toNat / 8 * 8 + 8) (ea.toNat + n) - ea.toNat = n - 1 + 1 := by
    rw [show Nat.min (ea.toNat / 8 * 8 + 8) (ea.toNat + n) = ea.toNat + n from Nat.min_eq_right (by omega)]
    omega
  simp only [Who.pubWord, hex, Who.pubByte, hlo, hcount, scanBytes, hten, Option.bind_some, hcls, if_true, Bool.true_and,
    Option.isSome_some]

/-- The run of a store to a word of a PUB tensor is that word. -/
theorem Who.pubRun_word (hwin : window ea = 0) : w.pubRun ea n = some (ea.toNat / 8 * 8, 8) := by
  simp only [Who.pubRun, hwin, hex, wordsOf_within hpos hword, Who.pubWord_first hex hten hcls hpos hword, and_self, if_true,
    List.filter_cons_of_pos, List.filter_nil, List.head?_cons, List.getLast?_singleton, Nat.add_sub_cancel_left]

end

/-- The state with another tag log in the task of its strand. -/
def State.setTagLog (s : State) (log : List (Nat × Nat)) : State :=
  s.mod (fun t => { t with task := t.task.map (fun k => { k with tagLog := log }) })

theorem State.task_setTagLog {s : State} {k : Task} (h : s.st.task = some k) (log : List (Nat × Nat)) :
    (s.setTagLog log).st.task = some { k with tagLog := log } := by
  rw [State.setTagLog, State.st_mod, h]
  rfl

section
variable {s : State} {a : SReg} {m : AMode} {n al i : Nat} {l : List Byte} {x : Xl} {k : Task} {c : Tensor}
  (htask : s.st.task = some k) (hex : s.who.exact = true) (hten : s.who.tensor (s.effAddr a m).ea.toNat = some (i, c))
  (hcls : c.cls = 2) (hlen : l.length = n) (hpos : 0 < n) (hword : (s.effAddr a m).ea.toNat % 8 + n ≤ 8)
  (hwin : window (s.effAddr a m).ea = 0) (hacc : s.accessEa s.who kStore (s.effAddr a m) n al = .ok ())
  (hhit : s.tableHit s.who (s.effAddr a m).ea n = false)
include htask hex hten hcls hlen hpos hword hwin hacc hhit

/-- A store to a word of a PUB tensor whose run finds no room in the tag log traps CAPACITY. -/
theorem storeVia_logFull (all : Bool) (hfull : 256 < (addRun k.tagLog ((s.effAddr a m).ea.toNat / 8 * 8) 8).length) :
    storeVia a m kStore all al l s = .error ⟨0x1B, 3, (s.effAddr a m).ea, 0⟩ := by
  obtain ⟨hcur, hstr, -⟩ := s.fetched_touch s.who (s.effAddr a m).ea n
  have hk : ((s.touch s.who (s.effAddr a m).ea n).strand s.who.k).task = some k := by
    rw [State.strand, hstr]; exact htask
  rw [storeVia_global all hlen hwin hacc hhit, State.logRun, Who.pubRun_word hex hten hcls hpos hword hwin]
  simp only [hk, Option.map_some, Option.getD_some, if_pos hfull]
  rfl

/-- One whose run finds room is written, with the tag of its word set and its run in the log. -/
theorem storeVia_logged (hx : s.xl s.who (s.effAddr a m).ea.toNat = .ok x)
    (hq : s.quietAt (dieF s.who.core) (x.pa (dieOf s.who.core)) n)
    (hroom : (addRun k.tagLog ((s.effAddr a m).ea.toNat / 8 * 8) 8).length ≤ 256) :
    ∃ t k', storeVia a m kStore false al l s = .ok t ∧ s.globStored [x.pa (dieOf s.who.core)] l t ∧
      t.tagged (dieF s.who.core) (x.pa (dieOf s.who.core) / 8 * 8) = true ∧ t.st.task = some k' ∧
      k'.tagLog = addRun k.tagLog ((s.effAddr a m).ea.toNat / 8 * 8) 8 := by
  obtain ⟨hcur, hstr, hread⟩ := s.fetched_touch s.who (s.effAddr a m).ea n
  have htask' : (s.touch s.who (s.effAddr a m).ea n).st.task = some k := by
    rw [State.st, State.strand, hcur, hstr]; exact htask
  have hk : ((s.touch s.who (s.effAddr a m).ea n).strand s.who.k).task = some k := by
    rw [State.strand, hstr]; exact htask
  generalize hlog : addRun k.tagLog ((s.effAddr a m).ea.toNat / 8 * 8) 8 = log at hroom
  have hrun : (s.touch s.who (s.effAddr a m).ea n).logRun s.who (s.effAddr a m).ea n =
      .ok ((s.touch s.who (s.effAddr a m).ea n).setTagLog log) := by
    rw [State.logRun, Who.pubRun_word hex hten hcls hpos hword hwin]
    simp only [hk, Option.map_some, Option.getD_some, hlog, if_neg (Nat.not_lt.mpr hroom), State.setTagLog, State.mod, hcur]
    rfl
  generalize hu : (s.touch s.who (s.effAddr a m).ea n).setTagLog log = u at hrun
  have hr : s.SameReads u := hu ▸ hread.trans (.setStrand _ _ _)
  have hpc : u.st.pc = s.st.pc := by
    rw [← hu, State.setTagLog, State.st_mod]; exact State.touch_pc _ _ _
  have hut : u.st.task = some { k with tagLog := log } := hu ▸ State.task_setTagLog htask' log
  have hone : (x.replica && false) = false := Bool.and_false _
  have hw := State.touched_own (l := l) hlen hpos hword hx hone hr hq
  refine ⟨_, { k with tagLog := log }, by rw [storeVia_global false hlen hwin hacc hhit, hrun]; rfl,
    (State.globStored_based a _ hr hpc hw (List.pairwise_singleton _ _)).1, ?_, ?_, rfl⟩
  · have hpiece : s.who.pieceTag (s.effAddr a m).ea.toNat l.length = some true := by
      rw [hlen, Who.pieceTag, Who.pubWord_first hex hten hcls hpos hword]; rfl
    subst hlen
    refine (State.baseUpdate_keeps _ a _ (·.tagged _ _) fun _ _ => rfl).trans ?_
    rw [State.stWords_within hpos hword, State.stGlob_own ((hr.xl _ _).trans hx) hone, hpiece]
    exact State.tagged_gwrite _ _ (mem_wordsOf.mpr ⟨hpos, _, rfl, Nat.le_refl _, by omega⟩)
  · rw [State.st_adv]
    refine (State.baseUpdate_keeps _ a _ (·.st.task) fun s v => ?_).trans ?_
    · rw [State.st_wS, Strand.wS_task]
    · rw [hw.st, hut]

end

/-! ### AMO (R259) -/

/-- An AMO on a word of global memory, in a launch of arrival mode, reads the last value and writes the new one. -/
theorem exec_amo_global {s : State} {g : Guard} {ty : Fmt} {op : AmoOp} {d a b c : SReg} {x : Xl} (hg : s.guard g = true)
    (hsize : fmtSize ty ≤ 8) (hwin : window (s.rS a) = 0) (hex : s.who.exact = false)
    (hacc : s.access s.who kAmo (s.rS a) (fmtSize ty) (fmtSize ty) = .ok ()) (hx : s.xl s.who (s.rS a).toNat = .ok x)
    (hecc : s.eccHit s.who (s.rS a) (fmtSize ty) = false)
    (hq : s.quietAt (dieF s.who.core) (x.pa (dieOf s.who.core)) (fmtSize ty)) :
    let old := natOfBytes (s.gatomic (x.pa (dieOf s.who.core)) (fmtSize ty))
    ∃ t, exec (.amo g ty op d a b c) s = .next t ∧ (d ≠ 0 → t.rS d = resultWord ty old) ∧
      s.globStored [x.pa (dieOf s.who.core)]
        (bytesOfNat (fmtSize ty) (amoNew op (8 * fmtSize ty) old (s.rS b).toNat (s.rS c).toNat)) t := by
  intro old
  obtain ⟨hpos, hdvd⟩ := fmtSize_dvd hsize
  have hword := aligned_within hdvd (State.access_aligned hacc)
  have hread : s.SameReads (s.touch s.who (s.rS a) (fmtSize ty)) := .touch s _ _ _
  generalize hl : bytesOfNat (fmtSize ty) (amoNew op (8 * fmtSize ty) old (s.rS b).toNat (s.rS c).toNat) = l
  have hlen : l.length = fmtSize ty := hl ▸ length_bytesOfNat _ _
  have hold : s.atomicNat s.who (s.rS a) (fmtSize ty) = old := by simp [State.atomicNat, hwin, hx, old]
  have hrun : (s.touch s.who (s.rS a) (fmtSize ty)).stBytes s.who false (s.rS a) l =
      .ok ((s.touch s.who (s.rS a) (fmtSize ty)).stWords s.who false (s.rS a) l) := by
    simp [State.stBytes, hwin, State.logRun, Who.pubRun, hex, Except.map]
  have hw := State.touched_own hlen hpos hword hx (Bool.and_false _) hread hq
  have hbody : (((s.touch s.who (s.rS a) (fmtSize ty)).stBytes s.who false (s.rS a) l).map
      (fun s => (s.wS d (resultWord ty old)).adv 8)) =
      .ok ((((s.touch s.who (s.rS a) (fmtSize ty)).stWords s.who false (s.rS a) l).wS d (resultWord ty old)).adv 8) := by
    rw [hrun]; rfl
  have hexec : exec (.amo g ty op d a b c) s =
      .next ((((s.touch s.who (s.rS a) (fmtSize ty)).stWords s.who false (s.rS a) l).wS d (resultWord ty old)).adv 8) := by
    rw [exec_amo, execAmo]
    refine guarded_ok hg ?_
    simp only [hacc, hecc, State.unlessEcc_free, hold, hl]
    exact hbody
  refine ⟨_, hexec, fun hd => ?_, ?_⟩
  · rw [State.rS_adv, State.rS_wS, if_pos ⟨rfl, hd⟩]
  · obtain ⟨hin, hout⟩ := Mem.get_writes (l := l) (List.pairwise_singleton _ (x.pa (dieOf s.who.core)))
      ((s.touch s.who (s.rS a) (fmtSize ty)).die (dieF (coreOf s.cur))).view.cells
    refine State.globStored_of hread hw rfl ?_ hin (fun y hy => (hout y hy).trans (by rw [hread.view]))
    rw [State.st_adv, State.st_wS, Strand.wS_pc, hw.st, State.touch_pc]
    rfl

/-- Settles O30: a store is its tag log, then writes of the executing die alone, which on quiet words are read back. -/
theorem storeToGlobalMemory : Obligations.StoreToGlobalMemory := by
  intro s g d a b c v bx m o op ty x hg e n w die own data stored
  have hdata : data.length = n := length_bytesOfNat _ _
  have hread : s.SameReads (s.touch w e.ea n) := .touch s _ _ _
  have hword : n ≤ 8 → ∀ kd, s.accessEa w kd e n n = .ok () → 0 < n ∧ e.ea.toNat % 8 + n ≤ 8 := fun hn kd hacc =>
    ⟨(fmtSize_dvd hn).1, aligned_within (fmtSize_dvd hn).2 (State.accessEa_aligned hacc)⟩
  refine ⟨fun hhit hacc => ?_, fun hn hwin hx hhit hq => ⟨fun hacc hrun => ?_, fun hacc hrun => ⟨fun hrep => ?_, fun hrep hqs => ?_⟩,
    fun k i t htask hex hten hcls hacc => ⟨fun hroom => ?_, fun hfull => ?_⟩⟩,
    fun l hwin hrep hrun hq htlb => ⟨fun hfit hl hacc => ?_, fun hl hacc => ?_⟩,
    fun hsize hwin hex hacc hx hecc hq => exec_amo_global hg hsize hwin hex hacc hx hecc hq⟩
  · exact guarded_ok hg (storeVia_tableHit false hdata hacc hhit)
  · obtain ⟨hpos, hone⟩ := hword hn _ hacc
    exact ⟨_, guarded_ok hg (storeVia_unlogged hdata hwin hacc hhit hrun), State.globStored_based a e hread (State.touch_pc _ _ _)
      (State.touched_own hdata hpos hone hx (Bool.and_false _) hread hq) (List.pairwise_singleton _ _)⟩
  · obtain ⟨hpos, hone⟩ := hword hn _ hacc
    exact ⟨_, guarded_ok hg (storeVia_unlogged hdata hwin hacc hhit hrun), State.globStored_based a e hread (State.touch_pc _ _ _)
      (State.touched_own hdata hpos hone hx (by rw [hrep]; rfl) hread hq) (List.pairwise_singleton _ _)⟩
  · obtain ⟨hpos, hone⟩ := hword hn _ hacc
    exact ⟨_, guarded_ok hg (storeVia_unlogged hdata hwin hacc hhit hrun), State.globStored_based a e hread (State.touch_pc _ _ _)
      (State.touched_copies hdata hpos hone hx hrep hread hqs) (Xl.copies_apart hrep (by omega))⟩
  · obtain ⟨hpos, hone⟩ := hword hn _ hacc
    obtain ⟨t', k', hstore, hrest⟩ := storeVia_logged htask hex hten hcls hdata hpos hone hwin hacc hhit hx hq hroom
    exact ⟨t', k', guarded_ok hg hstore, hrest⟩
  · obtain ⟨hpos, hone⟩ := hword hn _ hacc
    exact guarded_trap hg (storeVia_logFull htask hex hten hcls hdata hpos hone hwin hacc hhit false hfull)
  · subst hl
    obtain ⟨t, hstore, hrest⟩ := storeVia_tlb (all := false) rfl hwin hrep hrun hq htlb hacc
    exact ⟨t, exec_stv_fits hg hfit hstore, hrest⟩
  · subst hl
    obtain ⟨t, hstore, hrest⟩ := storeVia_tlb (all := false) (length_boxBytes _) hwin hrep hrun hq htlb hacc
    refine ⟨t, ?_, hrest⟩
    rw [exec_boxst, execBoxst]
    exact guarded_ok hg hstore

end Sys2Proof.Machine
end

section
/-! SUPPORT. Batons (R130, R131, R262): what a table reads after a slot is put or freed, and how far NEXTREL moves. -/
namespace Sys2Proof.Machine

/-! ### Lists with an element replaced -/

section
variable {α : Type} (y : α)

@[simp] theorem length_setNth : ∀ (l : List α) (i : Nat), (setNth l i y).length = l.length
  | [], _ => rfl
  | _ :: _, 0 => rfl
  | _ :: l, i + 1 => congrArg Nat.succ (length_setNth l i)

theorem nth_setNth {l : List α} {i : Nat} (h : i < l.length) (d : α) : nth (setNth l i y) i d = y := by
  rw [nth, setNth_get y (List.getElem?_eq_getElem h)]
  rfl

theorem nth_map {β : Type} (f : β → α) (l : List β) (i : Nat) (d : β) (h : i < l.length) (e : α) :
    nth (l.map f) i e = f (nth l i d) := by
  simp [nth, h]

end

/-! ### Tables -/

theorem State.batonOf_modBaton {s : State} {lck i : Nat} (f : Baton → Baton) (h : i < (s.lc lck).batons.length) :
    (s.modBaton lck i f).batonOf lck i = f (s.batonOf lck i) := by
  rw [State.batonOf, State.modBaton, State.lc_modLc_self]
  exact nth_setNth _ h _

theorem Baton.slot_put {t : Baton} {q : BitVec 32} (y : BSlot) (h : t.index q < t.slots.length) : (t.put q y).slot q = y :=
  nth_setNth y h _

theorem Baton.slot_free {t : Baton} {q : BitVec 32} (h : t.index q < t.slots.length) :
    (batonFree t (t.index q)).slot q = { t.slot q with st := 0, owner := 0, remote := false, got := 0 } :=
  nth_setNth _ h _

theorem Baton.tagged_iff {t : Baton} {q : BitVec 32} : t.tagged q = true ↔ (t.slot q).st ≠ 0 ∧ (t.slot q).tag = some q := by
  simp [Baton.tagged]

/-! ### NEXTREL (R130, R262) -/

/-- The slot of a sequence has been freed and not been passed. -/
def freedAt (depth : Nat) (slots : List BSlot) (q : BitVec 32) : Prop :=
  (nth slots (q.toNat % depth) noSlot).st = 0 ∧ (nth slots (q.toNat % depth) noSlot).tag = some q

/-- NEXTREL passes each freed sequence in turn and stops before the first that is not, or after `f` of them. -/
theorem advNext_passes (depth : Nat) (slots : List BSlot) : ∀ (f : Nat) (q : BitVec 32), ∃ m, m ≤ f ∧
    advNext depth slots f q = q + BitVec.ofNat 32 m ∧ (∀ j, j < m → freedAt depth slots (q + BitVec.ofNat 32 j)) ∧
    (m < f → ¬ freedAt depth slots (q + BitVec.ofNat 32 m)) := by
  intro f
  induction f with
  | zero => exact fun q => ⟨0, Nat.le_refl 0, (BitVec.add_zero q).symm, fun j hj => absurd hj (Nat.not_lt_zero j),
      fun h => absurd h (Nat.lt_irrefl 0)⟩
  | succ f ih =>
    intro q
    by_cases hfree : freedAt depth slots q
    · obtain ⟨m, hm, hq, hpass, hstop⟩ := ih (q + 1)
      have hnext : ∀ j : Nat, q + 1 + BitVec.ofNat 32 j = q + BitVec.ofNat 32 (j + 1) := fun j => by
        rw [BitVec.add_assoc, BitVec.ofNat_add, BitVec.add_comm (BitVec.ofNat 32 j)]; rfl
      refine ⟨m + 1, Nat.succ_le_succ hm, ?_, fun j hj => ?_, fun h => ?_⟩
      · rw [advNext]
        exact (if_pos hfree).trans (hq.trans (hnext m))
      · cases j with
        | zero => simpa using hfree
        | succ j => exact hnext j ▸ hpass j (Nat.lt_of_succ_lt_succ hj)
      · exact hnext m ▸ hstop (Nat.lt_of_succ_lt_succ h)
    · refine ⟨0, Nat.zero_le _, ?_, fun j hj => absurd hj (Nat.not_lt_zero j), fun _ => by simpa using hfree⟩
      rw [advNext]
      exact (if_neg hfree).trans (BitVec.add_zero q).symm

/-! ### Owners (R131) -/

/-- A slot whose owner is gone keeps its state and its tag. -/
def orphaned (k : Nat) (x : BSlot) : BSlot := if x.owner = k ∧ !x.remote then { x with owner := nobody } else x

theorem orphaned_keeps (k : Nat) (x : BSlot) : (orphaned k x).st = x.st ∧ (orphaned k x).tag = x.tag := by
  unfold orphaned
  split <;> exact ⟨rfl, rfl⟩

theorem batonOrphan_slot (k : Nat) (b : Baton) (i : Nat) :
    (nth (batonOrphan k b).slots i noSlot).st = (nth b.slots i noSlot).st ∧
      (nth (batonOrphan k b).slots i noSlot).tag = (nth b.slots i noSlot).tag := by
  have hslots : (batonOrphan k b).slots = b.slots.map (orphaned k) := rfl
  rw [hslots]
  by_cases hi : i < b.slots.length
  · rw [nth_map _ _ _ noSlot hi]
    exact orphaned_keeps k _
  · simp [nth, Nat.le_of_not_lt hi]

end Sys2Proof.Machine
end

section
/-! PROOF. The life of a baton slot (R131, R132, R260 to R264). -/
namespace Sys2Proof.Machine

/-! ### Handles (R260, R261) -/

theorem State.ownBaton_lt {s : State} {h : Word} {lck i : Nat} (ho : s.ownBaton h = some (lck, i)) :
    i < (s.lc lck).batons.length := by
  unfold State.ownBaton at ho
  split at ho
  · cases ho
  · dsimp only at ho
    split at ho
    · next htest =>
      cases ho
      simp only [Bool.and_eq_true, decide_eq_true_eq] at htest
      exact htest.2
    · cases ho

theorem State.anyBaton_lt {s : State} {h : Word} {lck i : Nat} (ho : s.anyBaton h = some (lck, i)) :
    i < (s.lc lck).batons.length := by
  unfold State.anyBaton at ho
  dsimp only at ho
  split at ho
  · next htest =>
    cases ho
    simp only [Bool.and_eq_true, decide_eq_true_eq] at htest
    exact htest.2
  · cases ho

section
variable {s : State} {g : Guard} {d a : SReg} {x : Fin 16} {k : Task} {n : Launch}

theorem exec_bdecl_none (hg : s.guard g = true) (hk : s.st.task = some k) (hl : s.curLaunch = some n)
    (hx : n.baton x.val = none) : exec (.bdecl g false d a x) s = s.givesS d 0 := by
  rw [exec_bdecl, execBdecl, plain_wS hg]
  simp [State.declare, hk, hl, hx]

theorem exec_bdecl_core {o z dp r : Nat} (hg : s.guard g = true) (hk : s.st.task = some k) (hl : s.curLaunch = some n)
    (hx : n.baton x.val = some (o, z, dp, true, r)) : exec (.bdecl g false d a x) s =
      s.givesS d (BitVec.ofNat 64 (s.globalLc k.lc * 2 ^ 44 + 2 ^ 43 + x.val * 2 ^ 32)) := by
  rw [exec_bdecl, execBdecl, plain_wS hg]
  simp [State.declare, hk, hl, hx, batonHandle, b2n]

theorem exec_bdecl_remote {o z dp r : Nat} (hg : s.guard g = true) (hk : s.st.task = some k) (hl : s.curLaunch = some n)
    (hx : n.baton x.val = some (o, z, dp, true, r)) (hin : (s.rS a).toNat < n.nlcore)
    (hhost : s.who.hosted (s.rS a).toNat = true) : exec (.bdecl g true d a x) s =
      s.givesS d (BitVec.ofNat 64 ((s.rS a).toNat * 2 ^ 44 + 2 ^ 43 + 2 ^ 42 + x.val * 2 ^ 32)) := by
  rw [exec_bdecl, execBdecl, plain_wS hg]
  simp [State.declare, hk, hl, hx, hhost, Nat.not_le.mpr hin, batonHandle, b2n]

end

/-! ### The four instructions on a baton of the task's logical core (R261 to R263) -/

/-- An instruction that writes a status and does not block completes with it. -/
theorem State.completed_status {s t : State} (d : SReg) (code detail : Nat) (hpc : t.st.pc = s.st.pc) (hw : t.st.wait = none) :
    s.completed ((t.status d code detail).adv 8) d (statusWord code detail) := by
  refine ⟨?_, fun hd => ?_, ?_⟩
  · rw [State.st_adv, State.status, State.st_wS, Strand.wS_pc, hpc]
    rfl
  · rw [State.rS_adv, State.status, State.rS_wS, if_pos ⟨rfl, hd⟩]
  · rw [State.st_adv, State.status, State.st_wS]
    unfold Strand.wS
    split <;> exact hw

section
variable {s : State} {g : Guard} {d a b c l : SReg} (hg : s.guard g = true)
include hg

/-- WAITB whose condition ends it at once. -/
theorem exec_waitb_ends {prod : Bool} {code detail : Nat} {t : State}
    (h : waitbCond prod a b s = some (code, detail, t)) (hpc : t.st.pc = s.st.pc) :
    ∃ u, exec (.waitb g prod d a b l) s = .next u ∧ s.completed u d (statusWord code detail) ∧ u.lcs = t.lcs := by
  refine ⟨_, ?_, State.blocking_completes .issue (i := .waitb g prod d a b l) (d := d) (dl := s.deadline l)
    (late := fun s => (sTIMEOUT, 0, s)) h hpc, ?_⟩
  · rw [exec_waitb, execWaitb]
    exact guarded_ok hg rfl
  · rw [State.blocking_some h]
    rfl

theorem exec_badv_foreign (hown : s.ownBaton (s.rS a) = none) :
    exec (.badv g d a b) s = .next ((s.status d sSTALE 3).adv 8) := by
  rw [exec_badv, execBadv, plain_true hg]
  simp only [hown]

theorem exec_brel_foreign (hown : s.ownBaton (s.rS a) = none) :
    exec (.brel g d a b) s = .next ((s.status d sSTALE 3).adv 8) := by
  rw [exec_brel, execBrel]
  exact guarded_ok hg (by simp only [hown])

theorem exec_bstat_foreign (hown : s.ownBaton (s.rS a) = none) :
    exec (.bstat g d a b) s = s.givesS d (BitVec.allOnes 64) := by
  rw [exec_bstat, execBstat, plain_true hg]
  simp only [hown]
  rw [State.wS_adv]
  rfl

end

theorem waitbCond_foreign {s : State} {a : SReg} (b : SReg) (prod : Bool) (hown : s.ownBaton (s.rS a) = none) :
    waitbCond prod a b s = some (sSTALE, 3, s) := by simp only [waitbCond, hown]

section
variable {s : State} {a b : SReg} {lck i : Nat} {n : Launch} (hown : s.ownBaton (s.rS a) = some (lck, i))

/-- The sequence that an instruction names, and its slot. -/
def State.seqOf (s : State) (b : SReg) : BitVec 32 := (s.rS b).setWidth 32
def State.slotOf (s : State) (lck i : Nat) (b : SReg) : BSlot := (s.batonOf lck i).slot (s.seqOf b)

theorem State.seq_tagged {m : Nat} (hst : (s.slotOf lck i b).st = m) (hm : m ≠ 0)
    (htag : (s.slotOf lck i b).tag = some (s.seqOf b)) : (s.batonOf lck i).tagged (s.seqOf b) = true :=
  Baton.tagged_iff.mpr ⟨hst ▸ hm, htag⟩

/-- The place of a sequence's slot in window 0x2 (R126, R261). -/
def State.slotPlace (s : State) (n : Launch) (lck i : Nat) (b : SReg) : Nat :=
  (s.batonOf lck i).viewOff n.sa (s.seqOf b)

section
include hown

/-- A sequence that NEXTREL has passed is stale (R261). -/
theorem waitbCond_passed (prod : Bool) (h : (s.batonOf lck i).rel (s.seqOf b) < 0) :
    waitbCond prod a b s = some (sSTALE, 2, s) := by
  simp only [State.seqOf] at h
  simp only [waitbCond, hown, h, if_true]

/-- A producer claims a free slot within the depth (R261). -/
theorem waitbCond_claims (hl : s.curLaunch = some n) (h : 0 ≤ (s.batonOf lck i).rel (s.seqOf b))
    (hdepth : (s.batonOf lck i).rel (s.seqOf b) < (s.batonOf lck i).depth) (hfree : (s.slotOf lck i b).st = 0) :
    waitbCond true a b s = some (sOK, s.slotPlace n lck i b,
      s.modBaton lck i (fun t => t.put (s.seqOf b) ⟨1, some (s.seqOf b), s.cur, false, 0⟩)) := by
  simp only [State.seqOf, State.slotOf, State.slotPlace] at *
  simp [waitbCond, hown, hl, Int.not_lt.mpr h, hdepth, hfree]

/-- A consumer takes a full one, after the writes that are on their way to its die (R261; log 20). -/
theorem waitbCond_takes (hl : s.curLaunch = some n) (h : 0 ≤ (s.batonOf lck i).rel (s.seqOf b))
    (hfull : (s.slotOf lck i b).st = 2) (htag : (s.slotOf lck i b).tag = some (s.seqOf b)) :
    waitbCond false a b s = some (sOK, s.slotPlace n lck i b, (s.modBaton lck i (fun t =>
      t.put (s.seqOf b) { s.slotOf lck i b with st := 3, owner := s.cur, remote := false })).drain (dieF (coreOf s.cur))) := by
  have htagged := State.seq_tagged hfull (by decide) htag
  simp only [State.seqOf, State.slotOf, State.slotPlace] at *
  simp [waitbCond, hown, hl, Int.not_lt.mpr h, htagged, hfull]

end

section
variable {g : Guard} {d : SReg} (hg : s.guard g = true)
include hg hown

/-- BADV makes a slot that the task claimed FULL (R262). -/
theorem exec_badv_claimed (hst : (s.slotOf lck i b).st = 1) (htag : (s.slotOf lck i b).tag = some (s.seqOf b))
    (howns : s.ownsSlot (s.slotOf lck i b) = true) : exec (.badv g d a b) s = .next
      (((s.modBaton lck i (fun t => t.put (s.seqOf b) { t.slot (s.seqOf b) with st := 2, owner := nobody })).status d sOK 0).adv 8) := by
  have htagged := State.seq_tagged hst (by decide) htag
  rw [exec_badv, execBadv, plain_true hg]
  simp only [State.seqOf, State.slotOf] at *
  simp [hown, hst, htagged, howns]

theorem exec_badv_unclaimed (hst : (s.slotOf lck i b).st ≠ 1) :
    exec (.badv g d a b) s = .next ((s.status d sSTALE 4).adv 8) := by
  rw [exec_badv, execBadv, plain_true hg]
  simp only [State.seqOf, State.slotOf] at *
  simp [hown, hst]

theorem exec_brel_undrained (hst : (s.slotOf lck i b).st ≠ 3) :
    exec (.brel g d a b) s = .next ((s.status d sSTALE 4).adv 8) := by
  rw [exec_brel, execBrel]
  refine guarded_ok hg ?_
  simp only [State.seqOf, State.slotOf] at *
  simp [hown, hst]

section
variable (hst : (s.slotOf lck i b).st = 3) (htag : (s.slotOf lck i b).tag = some (s.seqOf b))
  (howns : s.ownsSlot (s.slotOf lck i b) = true)
include hst htag howns

/-- BREL of a slot that the task drains, of a RELAY baton at once (R262). -/
theorem exec_brel_relay (hcore : (s.batonOf lck i).core = false) : exec (.brel g d a b) s = .next
      (((s.modBaton lck i (fun t => batonFree t (t.index (s.seqOf b)))).status d sOK 0).adv 8) := by
  have htagged := State.seq_tagged hst (by decide) htag
  rw [exec_brel, execBrel]
  refine guarded_ok hg ?_
  simp only [State.seqOf, State.slotOf] at *
  simp [hown, hst, htagged, howns, hcore]

/-- The task once the release of a CORE slot is held for its group. -/
def State.holdsBrel (s : State) (lck i j : Nat) : State :=
  s.mod (fun t => { t with task := t.task.map (fun k => { k with effects := k.effects ++ [Effect.brel lck i j] }) })

/-- Of a CORE baton at the release of the group, and counted nowhere (R96, R262). -/
theorem exec_brel_core (hcore : (s.batonOf lck i).core = true) : exec (.brel g d a b) s = .next
      (((s.holdsBrel lck i ((s.batonOf lck i).index (s.seqOf b))).status d sOK 0).adv 8) := by
  have htagged := State.seq_tagged hst (by decide) htag
  rw [exec_brel, execBrel]
  refine guarded_ok hg ?_
  simp only [State.seqOf, State.slotOf] at *
  simp [hown, hst, htagged, howns, hcore, State.commit, Effect.counted, Except.map, State.holdsBrel]

end

theorem exec_bstat_own : exec (.bstat g d a b) s = s.givesS d ((s.batonOf lck i).word (s.seqOf b)) := by
  rw [exec_bstat, execBstat, plain_true hg]
  simp only [hown]
  rw [State.wS_adv]
  rfl

end
end

/-! ### SENDB (R132, R264) -/

theorem State.ends_statusB (s : State) (d : SReg) (code detail : Nat) : ((s.statusB d code detail).adv 8).st.pc = s.st.pc + 8 ∧
    (d ≠ 0 → ((s.statusB d code detail).adv 8).rS d = statusWord code detail) := by
  have hst : (s.statusB d code detail).st = (s.st.wS d (statusWord code detail)).dlResult code := by
    rw [State.statusB, State.st_mod, State.st_wS]
  constructor
  · rw [State.st_adv, hst]
    simp
  · intro hd
    rw [State.rS_adv, State.rS, hst]
    simp [Strand.rS_wS, hd]

section
variable {s : State} {g : Guard} {d a b c l : SReg} {len : BitVec 11} {lck i : Nat}

section
variable (hg : s.guard g = true) (hany : s.anyBaton (s.rS b) = some (lck, i))
include hg hany

theorem exec_sendb_relay (hcore : (s.batonOf lck i).core = false) :
    exec (.sendb g d a b c l len) s = .next ((s.statusB d sFAULT 2).adv 8) := by
  rw [exec_sendb, execSendb]
  refine guarded_ok hg ?_
  simp [sendbPoll, hany, hcore]

theorem exec_sendb_long (hcore : (s.batonOf lck i).core = true)
    (hlen : (s.batonOf lck i).size < sendbLen len (s.batonOf lck i).size) :
    exec (.sendb g d a b c l len) s = .next ((s.statusB d sFAULT 1).adv 8) := by
  rw [exec_sendb, execSendb]
  refine guarded_ok hg ?_
  simp [sendbPoll, hany, hcore, hlen]

/-- A SENDB that passes its checks is offered, and waits for the answer (R132, R264). -/
theorem exec_sendb_offers (hcore : (s.batonOf lck i).core = true)
    (hlen : sendbLen len (s.batonOf lck i).size ≤ (s.batonOf lck i).size)
    (hcheck : s.sendbCheck (s.rS a) (sendbLen len (s.batonOf lck i).size) = .ok ()) : exec (.sendb g d a b c l len) s =
      .next ((s.block (.sendb g d a b c l len) (s.deadline l) 0).post s.cur .sendbArrival) := by
  rw [exec_sendb, execSendb]
  refine guarded_ok hg ?_
  simp [sendbPoll, hany, hcore, Nat.not_lt.mpr hlen, hcheck]

end

section
variable {w : Wait} {k : Task} (hw : s.st.wait = some w) (hi : w.instr = .sendb g d a b c l len)
include hw hi

/-- An offer that is accepted claims the slot, and its bytes are on their way (R132). -/
theorem exec_sendbArrival_accepted (hk : s.st.task = some k) (hany : s.anyBaton (s.rS b) = some (lck, i)) (hstage : w.stage = 0)
    (hoffer : s.offer lck i (s.seqOf c) = 1) : exec .sendbArrival s =
      .next ((({ s.modBaton lck i (fun t => t.put (s.seqOf c) ⟨1, some (s.seqOf c), s.cur, true, 0⟩) with
        xfers := s.xfers ++ [⟨s.mark s.cur, 1, coreOf s.cur, k.lc, s.rS a, some k, sendbLen len (s.batonOf lck i).size, lck, i,
          (s.batonOf lck i).index (s.seqOf c), s.seqOf c, 0, true⟩] } : State).setStage 1).post s.cur .sendbLanded) := by
  simp only [State.seqOf] at *
  simp [execSendbArrival, hw, hi, hk, hany, hstage, hoffer]
  rfl

/-- When they have landed the wait ends with OK. -/
theorem exec_sendb_landed (hstage : w.stage = 1) :
    exec .waitSatisfied s = .next (((s.unblock).statusB d sOK 0).adv 8) := by
  rw [exec_waitSatisfied_tested hw, hi]
  simp [State.retest, sendbPoll, hw, hstage, State.orTrap]

end

/-- The last bytes that land in a slot make it FULL (R131). -/
theorem State.slot_land_last {s : State} {lck x slot : Nat} (off : Nat) (l : List Byte) (hx : x < (s.lc lck).batons.length)
    (hslot : slot < (s.batonOf lck x).slots.length) :
    (nth ((s.land lck x slot off l true).batonOf lck x).slots slot noSlot).st = 2 := by
  have h := State.batonOf_modBaton (s := { s with lds := Mem.write s.lds (s.slotPhys lck x slot off) l })
    (fun t => { t with slots := setNth t.slots slot { nth t.slots slot noSlot with st := 2, owner := nobody, remote := false, got := 0 } })
    hx
  exact (congrArg (fun t : Baton => (nth t.slots slot noSlot).st) h).trans (congrArg BSlot.st (nth_setNth _ hslot _))

/-- The last byte of the strand's oldest transfer lands: the slot is FULL and holds the bytes of the source (R131). -/
theorem exec_sendbLanded_first {y : Xfer} {r : List Xfer} (hx : s.xfers = y :: r) (hmark : markStrand y.mark = s.cur)
    (hpath : y.path = 1) : exec .sendbLanded s =
      .next ((({ s with xfers := r } : State).land y.lc y.baton y.slot y.off (s.ldBytes (s.xferWho y) y.src y.len) y.last).wakeCore
        y.core) := by
  have hfind : findIdx (fun (x : Xfer) => markStrand x.mark == s.cur && x.path == 1) s.xfers 0 = some 0 := by
    simp [hx, findIdx, hmark, hpath]
  rw [exec_sendbLanded, execSendbLanded, hfind]
  simp [hx, dropNth]

end

/-! ### The release of a group that frees one CORE slot (R96, R131, R262) -/

/-- A part of the state that what a core keeps for its tasks, the steps posted and the queued matrix operations leave. -/
def State.offCores {α : Type} (p : State → α) : Prop :=
  ∀ (s : State) c a o, p { s with cores := c, agenda := a, ops := o } = p s

section
variable {α : Type} {p : State → α} (hp : State.offCores p)
include hp

theorem State.unname_keeps (s : State) (o : MxOp) : p (s.unname o) = p s := by
  unfold State.unname
  split
  · exact hp s _ s.agenda s.ops
  · rfl

theorem State.wakeSlices_keeps (s : State) (row : Nat) : p (s.wakeSlices row) = p s := by
  refine foldl_keeps p (fun s c => ?_) _ s
  obtain ⟨l, h⟩ := s.postOnce_eq c .sequencerStep
  rw [h]
  exact hp s s.cores (s.agenda ++ l) s.ops

theorem State.dropOps_keeps (s : State) (k : Nat) : p (s.dropOps k) = p s := by
  refine (foldl_keeps p (fun s o => ?_) _ _).trans (hp s s.cores s.agenda _)
  rw [State.wakeSlices_keeps hp]
  exact (hp (s.unname o) _ (s.unname o).agenda (s.unname o).ops).trans (State.unname_keeps hp s o)

theorem State.relRing_keeps (s : State) (k : Nat) (r : Option (Nat × Nat)) : p (s.relRing k r) = p s := by
  unfold State.relRing
  split
  · rfl
  · exact (foldl_keeps p (fun s i => hp s _ s.agenda s.ops) _ _).trans (hp s _ s.agenda s.ops)

end

theorem State.modLc_congr {s u : State} (h : u.lcs = s.lcs) (k : Nat) (f : LCore → LCore) :
    (u.modLc k f).lcs = (s.modLc k f).lcs := by
  simp only [State.modLc, State.lc, h]

/-- A strand that stands in no barrier has nothing to withdraw but its row's arrivals. -/
theorem State.withdrawAll_lcs {s : State} {k : Nat} (h : (s.strand k).arr = Vector.replicate 4 none) :
    (s.withdrawAll k).lcs = s.lcs := by
  unfold State.withdrawAll
  extract_lets ctx lc stays s'
  have h' : (s'.strand k).arr = Vector.replicate 4 none := h
  rw [h']
  rfl

theorem State.arrHit_none {s : State} {k : Nat} (h : (s.strand k).arr = Vector.replicate 4 none) : s.arrHit k = false := by
  simp only [State.arrHit, h]
  exact Bool.and_false _

theorem State.countTask_keeps {α : Type} {p : State → α}
    (hp : ∀ (s : State) d a c, p { s with dies := d, agenda := a, ctxs := c } = p s) (s : State) (k : Nat) (ks : List Nat) :
    p (s.countTask k ks) = p s := by
  refine (State.count_keeps (fun s d a => hp s d a s.ctxs) _ _ _).trans ?_
  exact State.modCtx_keeps p (fun s l => hp s s.dies s.agenda l) s _ _

section
variable {s : State} {k : Nat} {tk : Task} (htask : (s.strand k).task = some tk)
  (harr : (s.strand k).arr = Vector.replicate 4 none) (hkind : tk.tr.kind ≠ .cont)
include htask harr hkind

/-- The end of a task of a rule that stands in no barrier orphans its baton slots, and changes no other table. -/
theorem State.endTask_lcs :
    (s.endTask k).lcs = (s.modLc tk.lc (fun l => { l with batons := l.batons.map (batonOrphan k) })).lcs := by
  have hcont : s.freeContRec tk.lc tk.tr = s := by simp [State.freeContRec, hkind]
  have hhit : s.contHit tk = false := by simp [State.contHit, hkind]
  have hstrand : ((s.dropOps k).strand k).arr = Vector.replicate 4 none := by
    rw [← harr]
    exact State.dropOps_keeps (p := fun s : State => (s.strand k).arr) (fun _ _ _ _ => rfl) s k
  have hlcs : (((s.dropOps k).withdrawAll k).relRing k tk.ring).lcs = s.lcs := by
    rw [State.relRing_keeps (p := State.lcs) (fun _ _ _ _ => rfl), State.withdrawAll_lcs hstrand]
    exact State.dropOps_keeps (p := State.lcs) (fun _ _ _ _ => rfl) s k
  simp only [State.endTask, htask, State.arrHit_none harr, hhit, hcont, Bool.or_self, Bool.false_eq_true, if_false]
  generalize ((s.dropOps k).withdrawAll k).relRing k tk.ring = u at hlcs
  refine (State.wakeCore_keeps (p := State.lcs) (fun _ _ _ => rfl) _ _).trans ?_
  rw [← State.modLc_congr hlcs]
  generalize u.modLc tk.lc _ = v
  cases tk.trigger <;> rfl

end

/-- A baton whose slots have lost an owner at most: what of it the end of a task keeps. -/
structure Baton.SameSlots (t u : Baton) : Prop where
  depth : u.depth = t.depth
  nextrel : u.nextrel = t.nextrel
  slot : ∀ j, (nth u.slots j noSlot).st = (nth t.slots j noSlot).st ∧ (nth u.slots j noSlot).tag = (nth t.slots j noSlot).tag

theorem State.batonOf_orphaned {s u : State} {k lc lck i : Nat} (hi : i < (s.lc lck).batons.length)
    (hu : u.lcs = (s.modLc lc (fun l => { l with batons := l.batons.map (batonOrphan k) })).lcs) :
    (s.batonOf lck i).SameSlots (u.batonOf lck i) := by
  have hlc : u.lc lck = (s.modLc lc (fun l => { l with batons := l.batons.map (batonOrphan k) })).lc lck := by
    rw [State.lc, hu]; rfl
  have hbaton : u.batonOf lck i = s.batonOf lck i ∨ u.batonOf lck i = batonOrphan k (s.batonOf lck i) := by
    rw [State.batonOf, hlc, State.lc_modLc]
    split
    · next h =>
      subst h
      exact .inr (nth_map _ _ _ noBaton hi _)
    · exact .inl rfl
  rcases hbaton with h | h <;> rw [h]
  · exact ⟨rfl, rfl, fun _ => ⟨rfl, rfl⟩⟩
  · exact ⟨rfl, rfl, batonOrphan_slot k _⟩

section
variable {s : State} {k : Task} {lck i j : Nat} (htask : s.st.task = some k) (hphase : s.st.phase = .ending .done)
  (hops : s.opsHold s.cur = false) (hxfers : ∀ y ∈ s.xfers, y.mark ≠ s.mark s.cur) (hfpx : k.mxFlags &&& s.st.te = 0)
  (hlegs : k.legs = []) (hjoin : k.tr.jref = 0) (hjournal : k.journal = []) (heff : k.effects = [Effect.brel lck i j])
include htask hphase hops hxfers hfpx

/-- DONE of a task that nothing holds back is released (R96, R116, R149). -/
theorem exec_commitGroupRelease_done : exec .commitGroupRelease s = .next (s.releaseDone s.cur k) := by
  have hx : s.xfers.any (fun x => x.mark == s.mark s.cur) = false :=
    List.any_eq_false.mpr fun y hy => by simpa using hxfers y hy
  simp [execCommitGroupRelease, hphase, htask, hops, hx, hfpx]

include hlegs hjoin hjournal heff

/-- The group of one BREL under no join: the slot is freed, and the task ends. -/
theorem exec_commitGroupRelease_brel : exec .commitGroupRelease s =
    .next (((s.modBaton lck i (fun t => batonFree t j)).countTask s.cur [s.cur]).endTask s.cur) := by
  have htask' : (s.strand s.cur).task = some k := htask
  have hlines : s.depositLines s.cur = [] := by simp [State.depositLines, htask', heff]
  have hgroup : s.releaseGroup s.cur = s.modBaton lck i (fun t => batonFree t j) := by
    rw [State.releaseGroup, htask']
    simp [heff, hjournal, State.applyJournal, htask', State.perform]
    rfl
  have hcover : ∀ t : State, t.cover k.lc k.tr.jref k.tr.box = t := fun t => by simp [State.cover, hjoin]
  have hrest : ((s.modBaton lck i (fun t => batonFree t j)).strand s.cur).task = some k := htask
  rw [exec_commitGroupRelease_done htask hphase hops hxfers hfpx]
  simp [State.releaseDone, Task.strands, hlegs, hlines, State.unitStalls, hgroup, hcover, hrest]

/-- After it the slot is free, with its tag, and NEXTREL has passed each freed sequence in turn. -/
theorem exec_commitGroupRelease_frees (hkind : k.tr.kind ≠ .cont) (harr : s.st.arr = Vector.replicate 4 none)
    (hi : i < (s.lc lck).batons.length) (hj : j < (s.batonOf lck i).slots.length) :
    ∃ u n, exec .commitGroupRelease s = .next u ∧ (nth (u.batonOf lck i).slots j noSlot).st = 0 ∧
      (nth (u.batonOf lck i).slots j noSlot).tag = (nth (s.batonOf lck i).slots j noSlot).tag ∧ n ≤ (s.batonOf lck i).depth ∧
      (u.batonOf lck i).nextrel = (s.batonOf lck i).nextrel + BitVec.ofNat 32 n ∧
      let freed := fun (m : Nat) => let p := (s.batonOf lck i).nextrel + BitVec.ofNat 32 m
        ((u.batonOf lck i).slot p).st = 0 ∧ ((u.batonOf lck i).slot p).tag = some p
      (∀ m, m < n → freed m) ∧ (n < (s.batonOf lck i).depth → ¬ freed n) := by
  obtain ⟨b, hb⟩ : ∃ b, b = batonFree (s.batonOf lck i) j := ⟨_, rfl⟩
  obtain ⟨r, hr⟩ : ∃ r, r = (s.modBaton lck i (fun t => batonFree t j)).countTask s.cur [s.cur] := ⟨_, rfl⟩
  have hrlcs : r.lcs = (s.modBaton lck i (fun t => batonFree t j)).lcs :=
    hr ▸ State.countTask_keeps (p := State.lcs) (fun _ _ _ _ => rfl) _ _ _
  have hrstrand : r.strand s.cur = s.st :=
    hr ▸ State.countTask_keeps (p := fun t : State => t.strand s.cur) (fun _ _ _ _ => rfl) _ _ _
  have hrb : r.batonOf lck i = b := by
    rw [State.batonOf, State.lc, hrlcs, hb]
    exact State.batonOf_modBaton (fun t => batonFree t j) hi
  have hri : i < (r.lc lck).batons.length := by
    rw [State.lc, hrlcs]
    simpa [State.modBaton, State.lc, State.modLc] using hi
  have hsame := State.batonOf_orphaned hri (State.endTask_lcs (hrstrand ▸ htask) (hrstrand ▸ harr) hkind)
  rw [hrb] at hsame
  obtain ⟨n, hn, hnext, hpass, hstop⟩ := advNext_passes b.depth b.slots b.depth (s.batonOf lck i).nextrel
  have hfreed : nth b.slots j noSlot = { nth (s.batonOf lck i).slots j noSlot with st := 0, owner := 0, remote := false, got := 0 } :=
    hb ▸ nth_setNth _ hj _
  have hslot : ∀ p : BitVec 32, (((r.endTask s.cur).batonOf lck i).slot p).st = 0 ∧
      (((r.endTask s.cur).batonOf lck i).slot p).tag = some p ↔ freedAt b.depth b.slots p := fun p => by
    rw [Baton.slot, Baton.index, hsame.depth, (hsame.slot _).1, (hsame.slot _).2]
    rfl
  have hdepth : b.depth = (s.batonOf lck i).depth := hb ▸ rfl
  refine ⟨r.endTask s.cur, n, ?_, ?_, ?_, hdepth ▸ hn, ?_, fun m hm => (hslot _).mpr (hpass m hm),
    fun h hf => hstop (hdepth ▸ h) ((hslot _).mp hf)⟩
  · rw [hr]
    exact exec_commitGroupRelease_brel htask hphase hops hxfers hfpx hlegs hjoin hjournal heff
  · rw [(hsame.slot j).1, hfreed]
  · rw [(hsame.slot j).2, hfreed]
  · rw [hsame.nextrel, ← hnext, hb]
    rfl

end

/-! ### The obligation -/

/-- Settles O41: each instruction is one change of the slot that its handle and sequence name, SENDB's offer another, and the
release of the group frees the slot (`exec_commitGroupRelease_frees`). -/
theorem batons : Obligations.Batons := by
  intro s g d a b c l x len k n lck i htask hlaunch t q sl flag at_ ends slots
  have hends : ∀ {j : Instr} {u : State} {v : Word}, exec j s = .next u → s.completed u d v → ends j v := by
    rintro j u v hexec ⟨hpc, hd, -⟩
    exact ⟨u, hexec, hpc, hd⟩
  have hslots : ∀ {j : Instr} {u : State} {v : Word} {y : BSlot} (f : Baton → Baton), (f t).slot q = y →
      exec j s = .next u → s.completed u d v → u.lcs = (s.modBaton lck i f).lcs → i < (s.lc lck).batons.length → slots j v y := by
    rintro j u v y f hy hexec ⟨hpc, hd, hw⟩ hlcs hi
    refine ⟨u, hexec, hpc, hd, ?_, hw⟩
    rw [State.batonOf, State.lc, hlcs]
    exact (congrArg (·.slot q) (State.batonOf_modBaton f hi)).trans hy
  refine ⟨fun hg hx => exec_bdecl_none hg htask hlaunch hx, fun o z dp r hg hx => ⟨exec_bdecl_core hg htask hlaunch hx,
    exec_bdecl_remote hg htask hlaunch hx⟩, fun hg hown hwait => ?_, fun hg hown hin hwait => ?_, ?_, ?_, ?_⟩
  · have hstale := State.completed_status (s := s) (t := s) d sSTALE 3 rfl hwait
    have hwaitb : ∀ p, ends (.waitb g p d a b l) (statusWord 4 3) := fun p => by
      obtain ⟨u, hu, hdone, -⟩ := exec_waitb_ends (l := l) (d := d) hg (waitbCond_foreign b p hown) rfl
      exact hends hu hdone
    exact ⟨hwaitb true, hwaitb false, hends (exec_badv_foreign hg hown) hstale, hends (exec_brel_foreign hg hown) hstale,
      exec_bstat_foreign hg hown⟩
  · have hi := State.ownBaton_lt hown
    have hstale := State.completed_status (s := s) (t := s) d sSTALE 4 rfl hwait
    refine ⟨fun hrel => ?_, fun hrel hdepth hfree => ?_, fun hrel hfull htag => ?_, fun hst htag howns => ?_,
      fun hst => hends (exec_badv_unclaimed hown hg hst) hstale, fun hst htag howns hcore => ?_, fun hst htag howns hcore => ?_,
      fun hst => hends (exec_brel_undrained hown hg hst) hstale, exec_bstat_own hown hg⟩
    · have hwaitb : ∀ p, ends (.waitb g p d a b l) (statusWord 4 2) := fun p => by
        obtain ⟨u, hu, hdone, -⟩ := exec_waitb_ends (l := l) (d := d) hg (waitbCond_passed hown p hrel) rfl
        exact hends hu hdone
      exact ⟨hwaitb true, hwaitb false⟩
    · obtain ⟨u, hu, hdone, hlcs⟩ := exec_waitb_ends (l := l) (d := d) hg (waitbCond_claims hown hlaunch hrel hdepth hfree) rfl
      exact hslots (fun t => t.put q ⟨1, some q, s.cur, false, 0⟩) (Baton.slot_put _ hin) hu hdone hlcs hi
    · obtain ⟨u, hu, hdone, hlcs⟩ := exec_waitb_ends (l := l) (d := d) hg (waitbCond_takes hown hlaunch hrel hfull htag) rfl
      exact hslots (fun t => t.put q { sl with st := 3, owner := s.cur, remote := false }) (Baton.slot_put _ hin) hu hdone
        hlcs hi
    · exact hslots (fun t => t.put q { t.slot q with st := 2, owner := nobody }) (Baton.slot_put _ hin)
        (exec_badv_claimed hown hg hst htag howns) (State.completed_status d sOK 0 rfl hwait) rfl hi
    · exact hslots (fun t => batonFree t (t.index q)) (Baton.slot_free hin)
        (exec_brel_relay hown hg hst htag howns hcore) (State.completed_status d sOK 0 rfl hwait) rfl hi
    · obtain ⟨hpc, hd, -⟩ := State.completed_status (s := s) (t := s.holdsBrel lck i (t.index q)) d sOK 0
        (by rw [State.holdsBrel, State.st_mod]) (by rw [State.holdsBrel, State.st_mod]; exact hwait)
      refine ⟨_, { k with effects := k.effects ++ [Effect.brel lck i (t.index q)] },
        exec_brel_core hown hg hst htag howns hcore, hpc, hd, ?_, rfl, rfl⟩
      rw [State.st_adv, State.status, State.st_wS, Strand.wS_task, State.holdsBrel, State.st_mod, htask]
      rfl
  · intro j hphase hops hxfers hfpx hlegs hkind hjoin hjournal harr heff hi hj
    exact exec_commitGroupRelease_frees htask hphase hops hxfers hfpx hlegs hjoin hjournal heff hkind harr hi hj
  · intro q m me hany
    have hi := State.anyBaton_lt hany
    refine ⟨fun hg hcore => ⟨_, exec_sendb_relay hg hany hcore, s.ends_statusB d sFAULT 2⟩,
      fun hg hcore hlong => ⟨_, exec_sendb_long hg hany hcore hlong, s.ends_statusB d sFAULT 1⟩,
      fun hg hcore hlen hcheck hwait => ?_, fun w hw hme => ⟨fun hstage hoffer hin => ?_, fun hstage => ?_⟩⟩
    · have hst := State.st_block (s := s) (.sendb g d a b c l len) (s.deadline l) 0 hwait
      have hpost : (((s.block (.sendb g d a b c l len) (s.deadline l) 0).post s.cur .sendbArrival).st) = _ := hst
      exact ⟨_, ⟨.sendb g d a b c l len, s.now + s.deadline l, s.cyc (coreOf s.cur), 0⟩,
        exec_sendb_offers hg hany hcore hlen hcheck, congrArg (·.wait) hpost, rfl, rfl, rfl, congrArg (·.pc) hpost⟩
    · refine ⟨_, { w with stage := 1 }, exec_sendbArrival_accepted hw hme htask hany hstage hoffer, ?_, ?_, rfl, rfl, rfl⟩
      · exact (congrArg (·.slot q) (State.batonOf_modBaton
          (fun t => t.put q ⟨1, some q, s.cur, true, 0⟩) hi)).trans (Baton.slot_put _ hin)
      · rw [State.st_post, State.setStage, State.st_mod]
        exact congrArg (Option.map fun w : Wait => { w with stage := 1 }) hw
    · obtain ⟨hpc, hd, hnone⟩ := State.completed_blockEnd (s := s) (t := s) d sOK 0 rfl
      exact ⟨_, exec_sendb_landed hw hme hstage, hpc, hd, hnone⟩
  · intro y r hx hmark hpath hlast hi hin
    refine ⟨_, exec_sendbLanded_first hx hmark hpath, ?_, ?_, ?_⟩
    · exact State.wakeCore_keeps (p := State.xfers) (fun _ _ _ => rfl) _ _
    · rw [State.batonOf, State.lc, State.wakeCore_keeps (p := State.lcs) (fun _ _ _ => rfl)]
      exact hlast ▸ State.slot_land_last _ _ hi hin
    · exact State.wakeCore_keeps (p := State.lds) (fun _ _ _ => rfl) _ _

end Sys2Proof.Machine
end

section
/-! SUPPORT. The canonical form of the byte stores (R121, R125, R134, R136; log 2) as a postcondition: of a state, of what a
computation answers, and of an outcome. One lemma for each way of building a state or an answer; the sections after this one
hold one lemma for each function of the model that answers a state, in the order of the model's files, and each such lemma is
named after its function. -/
namespace Sys2Proof.Machine

/-- Every byte store of the state is in canonical form. -/
abbrev State.Wf (s : State) : Prop := s.memWf = true

/-- The next state, where there is one, is well formed. -/
def NextWf (o : Host.Outcome State Fault Refusal) : Prop := ∀ t, o = .next t → t.Wf

/-- What a computation answers, where it does not trap, has `P`. -/
def OkHolds {ε α : Type} (P : α → Prop) (x : Except ε α) : Prop := ∀ a, x = .ok a → P a

/-- The value, where there is one, has `P`. -/
def SomeHolds {α : Type} (P : α → Prop) (x : Option α) : Prop := ∀ a, x = some a → P a

/-- The state that a checked engine command goes on with is well formed. -/
def Issued.Wf : Issued → Prop
  | .status _ _ s => s.Wf
  | .cmd s _ _ => s.Wf

/-- The state after a step of an operation of a matrix unit was tried is well formed. -/
def Tried.Wf : Tried → Prop
  | .waits s => s.Wf
  | .acted s => s.Wf

/-- The state after a block was taken is well formed. -/
def Sunk.Wf : Sunk → Prop
  | .done s _ => s.Wf
  | .stale _ => True
  | .again _ => True
  | .full => True

/-- The state in which the planned turn is carried out is well formed. -/
def Plan.Wf : Plan → Prop
  | .run _ s => s.Wf
  | .done s => s.Wf

/-! ### Outcomes -/

theorem NextWf.next {s : State} (h : s.Wf) : NextWf (.next s) := by rintro _ ⟨⟩; exact h
theorem NextWf.fault {r : Fault} : NextWf (.fault r) := by rintro _ ⟨⟩
theorem NextWf.refused {r : Refusal} : NextWf (.refused r) := by rintro _ ⟨⟩

/-! ### Computations that may trap -/

section
variable {ε α β : Type} {P : α → Prop} {Q : β → Prop} {a : α} {x : Except ε α} {f : α → β} {g : α → Except ε β}

theorem OkHolds.ok (h : P a) : OkHolds P (.ok a : Except ε α) := by rintro _ ⟨⟩; exact h
theorem OkHolds.error {e : ε} : OkHolds P (.error e : Except ε α) := by rintro _ ⟨⟩
theorem OkHolds.trapc {code detail : Nat} : OkHolds P (trapc code detail) := .error

theorem OkHolds.bind (hx : OkHolds P x) (hg : ∀ a, P a → OkHolds Q (g a)) : OkHolds Q (x >>= g) := by
  cases x with
  | error e => exact .error
  | ok a => exact hg a (hx a rfl)

theorem OkHolds.bindAny (hg : ∀ a, OkHolds Q (g a)) : OkHolds Q (x >>= g) := by
  cases x with
  | error e => exact .error
  | ok a => exact hg a

theorem OkHolds.map (hx : OkHolds P x) (hf : ∀ a, P a → Q (f a)) : OkHolds Q (x.map f) := by
  cases x with
  | error e => exact .error
  | ok a => exact .ok (hf a (hx a rfl))

end

/-! ### Values that may be missing -/

section
variable {α β : Type} {P : α → Prop} {Q : β → Prop} {a : α} {x : Option α} {f : α → β} {g : α → Option β}

theorem SomeHolds.some (h : P a) : SomeHolds P (some a) := by rintro _ ⟨⟩; exact h
theorem SomeHolds.none : SomeHolds P none := by rintro _ ⟨⟩

theorem SomeHolds.bind (hx : SomeHolds P x) (hg : ∀ a, P a → SomeHolds Q (g a)) : SomeHolds Q (x >>= g) := by
  cases x with
  | none => exact .none
  | some a => exact hg a (hx a rfl)

theorem SomeHolds.bindAny (hg : ∀ a, SomeHolds Q (g a)) : SomeHolds Q (x >>= g) := by
  cases x with
  | none => exact .none
  | some a => exact hg a

theorem SomeHolds.map (hx : SomeHolds P x) (hf : ∀ a, P a → Q (f a)) : SomeHolds Q (x.map f) := by
  cases x with
  | none => exact .none
  | some a => exact .some (hf a (hx a rfl))

theorem SomeHolds.mapAny (hf : ∀ a, Q (f a)) : SomeHolds Q (x.map f) := by
  cases x with
  | none => exact .none
  | some a => exact .some (hf a)

theorem SomeHolds.getD (hx : SomeHolds P x) (h : P a) : P (x.getD a) := by
  cases x with
  | none => exact h
  | some b => exact hx b rfl

theorem SomeHolds.findSome? {l : List α} (hg : ∀ a, SomeHolds Q (g a)) : SomeHolds Q (l.findSome? g) := by
  intro b hb
  obtain ⟨a, -, ha⟩ := List.exists_of_findSome?_eq_some hb
  exact hg a b ha

end

/-! ### Both branches of a test, and folds -/

section
variable {c : Prop} [Decidable c]

theorem State.Wf.ite {t u : State} (ht : t.Wf) (hu : u.Wf) : (if c then t else u).Wf := by
  split
  · exact ht
  · exact hu

theorem NextWf.ite {x y : Host.Outcome State Fault Refusal} (hx : NextWf x) (hy : NextWf y) : NextWf (if c then x else y) := by
  split
  · exact hx
  · exact hy

theorem OkHolds.ite {ε α : Type} {P : α → Prop} {x y : Except ε α} (hx : OkHolds P x) (hy : OkHolds P y) :
    OkHolds P (if c then x else y) := by
  split
  · exact hx
  · exact hy

theorem SomeHolds.ite {α : Type} {P : α → Prop} {x y : Option α} (hx : SomeHolds P x) (hy : SomeHolds P y) :
    SomeHolds P (if c then x else y) := by
  split
  · exact hx
  · exact hy

theorem Tried.Wf.ite {x y : Tried} (hx : x.Wf) (hy : y.Wf) : (if c then x else y).Wf := by
  split
  · exact hx
  · exact hy

end

theorem foldl_holds {α γ : Type} {P : α → Prop} {f : α → γ → α} {a : α} {l : List γ} (hf : ∀ a x, P a → P (f a x)) (h : P a) :
    P (l.foldl f a) :=
  List.foldlRecOn l f h fun b hb x _ => hf b x hb

theorem State.Wf.foldl {γ : Type} {f : State → γ → State} {s : State} {l : List γ} (h : s.Wf)
    (hf : ∀ s x, s.Wf → (f s x).Wf) : (l.foldl f s).Wf :=
  foldl_holds hf h

/-! ### The state in an answer -/

section
variable {ε α β : Type} {a : α} {b : β} {t : State}

theorem State.Wf.of_fst {x : State × α} (e : x = (t, a)) (h : x.1.Wf) : t.Wf := by subst e; exact h
theorem State.Wf.of_snd {x : α × State} (e : x = (a, t)) (h : x.2.Wf) : t.Wf := by subst e; exact h
theorem State.Wf.of_snd_snd {x : α × β × State} (e : x = (a, b, t)) (h : x.2.2.Wf) : t.Wf := by subst e; exact h
theorem State.Wf.of_ok {x : Except ε State} (e : x = .ok t) (h : OkHolds State.Wf x) : t.Wf := h _ e
theorem State.Wf.of_ok_fst {x : Except ε (State × α)} (e : x = .ok (t, a)) (h : OkHolds (·.1.Wf) x) : t.Wf := h _ e
theorem State.Wf.of_ok_snd {x : Except ε (α × State)} (e : x = .ok (a, t)) (h : OkHolds (·.2.Wf) x) : t.Wf := h _ e
theorem State.Wf.of_some {x : Option State} (e : x = some t) (h : SomeHolds State.Wf x) : t.Wf := h _ e
theorem State.Wf.of_some_fst {x : Option (State × α)} (e : x = some (t, a)) (h : SomeHolds (·.1.Wf) x) : t.Wf := h _ e
theorem State.Wf.of_some_snd {x : Option (α × State)} (e : x = some (a, t)) (h : SomeHolds (·.2.Wf) x) : t.Wf := h _ e
theorem State.Wf.of_some_snd_snd {x : Option (α × β × State)} (e : x = some (a, b, t)) (h : SomeHolds (·.2.2.Wf) x) : t.Wf :=
  h _ e
theorem Tried.Wf.of_waits {x : Tried} (e : x = .waits t) (h : x.Wf) : t.Wf := by subst e; exact h
theorem Tried.Wf.of_acted {x : Tried} (e : x = .acted t) (h : x.Wf) : t.Wf := by subst e; exact h
theorem Sunk.Wf.of_done {x : Sunk} {c : Cmd} (e : x = .done t c) (h : x.Wf) : t.Wf := by subst e; exact h

end

/-! ### Changes of the state: what leaves the stores, and the writes of each store -/

/-- A change of anything but the byte stores. -/
theorem State.Wf.ofStores {s t : State} (hd : t.dies = s.dies) (hw : t.ws = s.ws) (hl : t.lds = s.lds) (ho : t.opmem = s.opmem)
    (h : s.Wf) : t.Wf :=
  State.memWf_of_stores hd hw hl ho h

/-- A change of the dies that keeps the form of each view. -/
theorem State.Wf.ofViews {s t : State} (hv : ∀ d, Mem.wf (s.die d).view.cells = true → Mem.wf (t.die d).view.cells = true)
    (hw : t.ws = s.ws) (hl : t.lds = s.lds) (ho : t.opmem = s.opmem) (h : s.Wf) : t.Wf := by
  rw [State.Wf, State.memWf_iff] at h ⊢
  obtain ⟨hd, hs⟩ := h
  exact ⟨fun d => hv d (hd d), hw ▸ hl ▸ ho ▸ hs⟩

section
variable {s : State} {k n : Nat} {d : Fin 4} {l : List Byte} (h : s.Wf)
include h

theorem State.Wf.writeLds : ({ s with lds := Mem.write s.lds n l } : State).Wf := State.memWf_lds n l h
theorem State.Wf.writeOpmem : ({ s with opmem := Mem.write s.opmem n l } : State).Wf := State.memWf_opmem n l h
theorem State.Wf.setStrand {x : Strand} : (s.setStrand k x).Wf := h
theorem State.Wf.posts {l : List (Nat × Instr)} : (s.posts l).Wf := h
theorem State.Wf.modCtx {f : Ctx → Ctx} : (s.modCtx n f).Wf := State.memWf_modCtx n f h
theorem State.Wf.modLc {f : LCore → LCore} : (s.modLc k f).Wf := h
theorem State.Wf.modCore {f : Core → Core} : (s.modCore k f).Wf := h
theorem State.Wf.drain : (s.drain d).Wf := State.memWf_drain d h
theorem State.Wf.catchUp {l : List Nat} : (s.catchUp d l).Wf := State.memWf_catchUp d l h
theorem State.Wf.gwriteAll {tag : Option Bool} : (s.gwriteAll n l tag).Wf := State.memWf_gwriteAll n l tag h
theorem State.Wf.gwrite {tag : Option Bool} {mark path : Nat} : (s.gwrite d n l tag mark path).Wf :=
  State.memWf_gwrite d n l tag mark path h
theorem State.Wf.ctxWrite {tag : Option Bool} : (s.ctxWrite k tag n l).Wf := State.memWf_ctxWrite k tag l s n h

/-- A change of one die that leaves its view. -/
theorem State.Wf.modDie {f : Die → Die} (hf : ∀ x, (f x).view = x.view := by exact fun _ => rfl) : (s.modDie d f).Wf :=
  State.memWf_modDie d f (fun hd => (congrArg (fun v : View => Mem.wf v.cells) (hf _)).trans hd) h

end

end Sys2Proof.Machine
end

section
/-! SUPPORT. The canonical form of the byte stores: the state's operations, the operands and the way an instruction is issued. -/
namespace Sys2Proof.Machine

/-! ### Machine/State.lean -/

theorem State.Wf.reset : State.reset.Wf := State.reset_memWf

/-! ### Machine/Mem.lean -/

section
variable {s : State} {code unit : Nat} {d : Fin 4} {f : Strand → Strand} {i : Instr}

theorem State.Wf.modStrand {i : Nat} (h : s.Wf) : (s.modStrand i f).Wf := h
theorem State.Wf.mod (h : s.Wf) : (s.mod f).Wf := h
theorem State.Wf.modRow {r : Nat} {f : Row → Row} (h : s.Wf) : (s.modRow r f).Wf := h
theorem State.Wf.modLaunch {c : Nat} {f : Launch → Launch} (h : s.Wf) : (s.modLaunch c f).Wf := .modCtx h
theorem State.Wf.post (h : s.Wf) : (s.post unit i).Wf := h
theorem State.Wf.fresh (h : s.Wf) : s.fresh.2.Wf := h
theorem State.Wf.postOnce (h : s.Wf) : (s.postOnce unit i).Wf := .ite h h

theorem State.Wf.countBy {n : Nat → Nat} (h : s.Wf) : (s.countBy d code n).Wf := by
  unfold State.countBy
  extract_lets x new sets t
  refine State.Wf.posts (s := t) ?_
  exact .modDie h

theorem State.Wf.countEv {row n : Nat} (h : s.Wf) : (s.countEv d code row n).Wf := .countBy h
theorem State.Wf.countRows {f : Nat → Nat} (h : s.Wf) : (s.countRows d code f).Wf := .countBy h
theorem State.Wf.count {core : Nat} (h : s.Wf) : (s.count core code).Wf := .ite h (.countEv h)

end

/-! ### Machine/Ops.lean -/

section
variable {s : State} {k ctx n code lck core dl detail ix : Nat} {tk : Task} {d : SReg} {body : List Byte} {t : TrapInfo}
   {ctr tgt : Word} {g : Guard} {i : Instr}

theorem State.Wf.wS {r : SReg} {v : Word} (h : s.Wf) : (s.wS r v).Wf := h
theorem State.Wf.wV {r : VReg} {v : VWord} (h : s.Wf) : (s.wV r v).Wf := h
theorem State.Wf.adv (h : s.Wf) : (s.adv n).Wf := h
theorem State.Wf.status (h : s.Wf) : (s.status d code detail).Wf := h
theorem State.Wf.statusB (h : s.Wf) : (s.statusB d code detail).Wf := h

theorem State.Wf.syncMailbox (h : s.Wf) : (s.syncMailbox lck).Wf := by
  unfold State.syncMailbox
  split
  · exact h
  · dsimp only
    exact .ctxWrite h

theorem State.Wf.syncExt (h : s.Wf) : (s.syncExt k).Wf := by
  unfold State.syncExt
  split
  · exact h
  · dsimp only
    exact .ctxWrite h

theorem SomeHolds.spill? (h : s.Wf) : SomeHolds State.Wf (s.spill? k) := .ite .none (.some (.count (.syncExt h)))
theorem SomeHolds.hwRoom? (h : s.Wf) : SomeHolds State.Wf (s.hwRoom? k) := .ite (.some h) (.spill? h)
theorem SomeHolds.push? {i : DqItem} (h : s.Wf) : SomeHolds State.Wf (s.push? k i) := .map (.hwRoom? h) (fun _ ht => ht)

theorem SomeHolds.pushTop? {r : TaskRec} (h : s.Wf) : SomeHolds State.Wf (s.pushTop? k r) := by
  unfold State.pushTop?
  refine SomeHolds.bind (P := State.Wf) (.ite (.hwRoom? h) (.some h)) fun t ht => ?_
  exact .ite (.some (.modLc ht)) (.ite .none (.some (.syncExt (.modLc ht))))

theorem State.Wf.refill (h : s.Wf) : (s.refill k).Wf := .ite (.syncExt h) h

theorem State.Wf.unname {o : MxOp} (h : s.Wf) : (s.unname o).Wf := by
  unfold State.unname
  split <;> exact h

theorem State.Wf.settleSlots (h : s.Wf) : (s.settleSlots core).Wf := h

theorem SomeHolds.allocFrame {owner : Nat} (h : s.Wf) : SomeHolds (·.2.Wf) (s.allocFrame core n owner) := by
  unfold State.allocFrame
  refine .ite (.some h) ?_
  dsimp only
  split
  · exact .none
  · exact .some (State.Wf.writeLds (.modCore h))

theorem State.Wf.relRing {ring : Option (Nat × Nat)} (h : s.Wf) : (s.relRing k ring).Wf := by
  unfold State.relRing
  split
  · exact h
  · dsimp only
    exact .foldl h (fun _ _ ht => ht)

theorem State.Wf.clearTags {log : List (Nat × Nat)} (h : s.Wf) : (s.clearTags k log).Wf :=
  .ofViews (s := s) (fun d hd => by simpa [State.clearTags, State.die] using hd) rfl rfl rfl h
theorem State.Wf.freeStrand (h : s.Wf) : (s.freeStrand k).Wf := h
theorem State.Wf.respond {m : VcpMsg} {result : Nat} (h : s.Wf) : (s.respond m result ctx body).Wf := .ite h h
theorem State.Wf.event (h : s.Wf) : (s.event code ctx body).Wf := h

theorem State.Wf.endLaunch {status : Nat} (h : s.Wf) : (s.endLaunch ctx status).Wf := by
  have hsettle : ∀ {l : List Nat} {t : State}, t.Wf → (l.foldl (fun s c => s.settleSlots c) t).Wf := fun ht =>
    .foldl ht (fun _ _ hu => .settleSlots hu)
  unfold State.endLaunch
  split
  · exact h
  · split
    · exact h
    · refine .post (.modCtx ?_)
      refine hsettle ?_
      refine State.Wf.foldl (.foldl h (fun _ _ ht => .drain ht)) (fun _ _ ht => .freeStrand (.relRing ht))

theorem State.Wf.barWrite {d : Fin 4} {pa count gen : Nat} (h : s.Wf) : (s.barWrite d pa count gen n).Wf :=
  .gwrite (.gwrite h)

theorem State.Wf.withdraw {a : Arrival} (h : s.Wf) : (s.withdraw core ctx a).2.Wf := by
  unfold State.withdraw
  split
  · exact h
  · dsimp only
    split
    · exact h
    · split
      · exact .barWrite h
      · exact h

theorem State.Wf.xcSend {chip : Nat} {body : XcBody} (h : s.Wf) : (s.xcSend lck chip body).Wf := by
  unfold State.xcSend
  extract_lets _ _ _ _ t
  have ht : t.Wf := .modLaunch h
  exact ht

theorem State.Wf.withdrawAll (h : s.Wf) : (s.withdrawAll k).Wf := by
  unfold State.withdrawAll
  dsimp only
  refine .foldl h (fun _ _ ht => ?_)
  split
  · exact ht
  · exact .ite ht (.ite (.xcSend ht) (.withdraw ht))

theorem State.Wf.heapFree {va : Nat} (h : s.Wf) : (s.heapFree ctx va).Wf := by
  unfold State.heapFree
  split
  · exact h
  · exact .modLaunch h

theorem State.Wf.discardEffect {e : Effect} (h : s.Wf) : (s.discardEffect ctx e).Wf := by
  unfold State.discardEffect
  split
  · exact h
  · exact .heapFree h
  · exact h

theorem State.Wf.dropSpawn (h : s.Wf) : (s.dropSpawn k).Wf := by
  unfold State.dropSpawn
  extract_lets t
  have ht : t.Wf := by
    unfold t
    split <;> exact h
  exact ht

theorem State.Wf.abortStrand {undo : Bool} (h : s.Wf) : (s.abortStrand k undo).Wf := by
  unfold State.abortStrand
  dsimp only
  split
  · exact h
  next tk _ =>
    have hd : ((tk.effects.foldl (fun s e => s.discardEffect tk.ctx e) ((s.withdrawAll k).clearTags k tk.tagLog)).dropSpawn
      k).Wf :=
      .dropSpawn (.foldl (.clearTags (.withdrawAll h)) (fun _ _ ht => .discardEffect ht))
    exact .relRing (.ofStores rfl rfl rfl rfl hd)

theorem SomeHolds.holdTrigger (h : s.Wf) : SomeHolds State.Wf (s.holdTrigger k tk ix) := by
  unfold State.holdTrigger
  split
  · exact .push? h
  · exact .some h
  · exact .some h

theorem State.Wf.trapRing {l : List Byte} (h : s.Wf) : (s.trapRing ctx code l).Wf := by
  unfold State.trapRing
  split
  · exact h
  · extract_lets _ t
    have ht : t.Wf := .ctxWrite h
    exact .modCtx ht

theorem State.Wf.applyRoute {lc route vec : Nat} {key : Word} (h : s.Wf) : (s.applyRoute ctx lc ix route vec key).Wf :=
  .ite h (.ite h (.endLaunch h))
theorem State.Wf.stopLegs (h : s.Wf) : (s.stopLegs k tk).Wf := .foldl h (fun _ _ ht => ht)

theorem State.Wf.trapNow (h : s.Wf) : (s.trapNow k tk t).Wf := by
  unfold State.trapNow
  extract_lets _ _ _ _ _ _ _ _ _ t
  have ht : t.Wf := .foldl h (fun _ _ ht => .abortStrand ht)
  split
  extract_lets _ _
  split
  split
  next u _ e =>
    have hu : u.Wf := by
      refine .of_fst e ?_
      split
      next v hv => exact State.Wf.of_some hv (.holdTrigger ht)
      · exact ht
    extract_lets _ v w x y z aa
    have hx : x.Wf := .count (.modLaunch (.trapRing hu))
    have hy : y.Wf := .ite (.countEv (.countEv (.count hx))) hx
    have hz : aa.Wf := .foldl (.modCtx hy) (fun _ _ hu => hu)
    exact .ite (.endLaunch hz) (.applyRoute hz)

theorem State.Wf.poolPosts (h : s.Wf) : (s.poolPosts lck).Wf :=
  .foldl h (fun _ _ ht => .ite ht (.foldl ht (fun _ _ hu => .ite hu hu)))

theorem State.Wf.yieldNow {expiry : Nat} (h : s.Wf) : (s.yieldNow k tk ctr tgt expiry).Wf := by
  unfold State.yieldNow
  extract_lets _ _ _ _ _ t u v
  have ht : t.Wf := .foldl h (fun _ _ ht => .abortStrand ht)
  have hu : u.Wf := .count ht
  have hv : v.Wf := .poolPosts (.foldl hu (fun _ _ hv => hv))
  exact .ite (.endLaunch hv) hv

theorem State.Wf.legStopped (h : s.Wf) : (s.legStopped k).Wf := by
  unfold State.legStopped
  dsimp only
  split
  · exact h
  · split
    · exact h
    · refine SomeHolds.getD (.findSome? fun j => ?_) h
      split
      · exact .some (.trapNow h)
      · exact .some (.yieldNow h)
      · exact .none

theorem State.Wf.yield (h : s.Wf) : (s.yield ctr tgt dl).Wf := by
  unfold State.yield
  dsimp only
  split
  · exact h
  · exact .ite (.legStopped h) (.ite (.modStrand (.stopLegs h)) (.yieldNow (.stopLegs h)))

theorem State.Wf.hold (h : s.Wf) : s.hold.Wf := h
theorem State.Wf.release (h : s.Wf) : s.release.Wf := h

theorem State.Wf.takeTrap (h : s.Wf) : (s.takeTrap t).Wf := by
  unfold State.takeTrap
  dsimp only
  split
  · exact h
  · split
    · exact .legStopped h
    · exact .ite (.endLaunch h) (.ite (.modStrand (.stopLegs h)) (.trapNow (.stopLegs h)))

theorem NextWf.orTrap {r : Except TrapInfo State} (h : s.Wf) (hr : OkHolds State.Wf r) : NextWf (s.orTrap r) := by
  cases r with
  | ok t => exact .next (hr t rfl)
  | error t => exact .next (.takeTrap h)

theorem NextWf.guarded {body : State → Except TrapInfo State} (h : s.Wf) (hbody : ∀ s, s.Wf → OkHolds State.Wf (body s)) :
    NextWf (guarded g n s body) :=
  .ite (.orTrap h (hbody _ h)) (.next h)

theorem NextWf.plain {f : State → State} (h : s.Wf) (hf : ∀ s, s.Wf → (f s).Wf) : NextWf (plain g s f) :=
  .guarded h (fun _ ht => .ok (.adv (hf _ ht)))
theorem State.Wf.block {stage : Nat} (h : s.Wf) : (s.block i dl stage).Wf := h
theorem State.Wf.unblock (h : s.Wf) : s.unblock.Wf := h

theorem State.Wf.blocking {p : Poll} {cond : State → Option (Nat × Nat × State)} {late : State → Nat × Nat × State} (h : s.Wf)
    (hcond : SomeHolds (·.2.2.Wf) (cond s)) (hlate : (late s).2.2.Wf) : (s.blocking p i d dl cond late).Wf := by
  unfold State.blocking
  split
  next e => exact .adv (.statusB (.unblock (.of_some_snd_snd e hcond)))
  · dsimp only
    split
    · split
      · exact .count (.adv (.statusB (.unblock hlate)))
      · exact .adv (.statusB (.unblock hlate))
    · split
      · exact .count (.adv (.statusB (.unblock hlate)))
      · exact .block h

end

/-! ### Machine/Operands.lean -/

section
variable {s : State} {w : Who} {ea : Word} {all hit : Bool} {l : List Byte} {n : Nat} {lines : List Nat}
   {f : State → Except TrapInfo State}

theorem OkHolds.logRun (h : s.Wf) : OkHolds State.Wf (s.logRun w ea n) := by
  unfold State.logRun
  split
  · exact .ok h
  · dsimp only
    exact .ite .error (.ok h)

theorem OkHolds.logRuns : ∀ {l : List (Word × Nat)} {s : State}, s.Wf → OkHolds State.Wf (s.logRuns w l)
  | [], _, h => .ok h
  | (a, n) :: t, s, h => by
    unfold State.logRuns
    split
    · exact .error
    next e => exact OkHolds.logRuns (.of_ok e (.logRun h))

theorem State.Wf.stGlob {a : Nat} (h : s.Wf) : (s.stGlob w all a l).Wf := by
  unfold State.stGlob
  split
  · exact h
  · dsimp only
    exact .ite (.foldl h (fun _ _ ht => .gwrite ht)) (.gwrite h)

theorem State.Wf.stWords (h : s.Wf) : (s.stWords w all ea l).Wf := by
  unfold State.stWords
  refine .foldl h (fun _ _ ht => ?_)
  split
  exact .stGlob ht

theorem OkHolds.stBytes (h : s.Wf) : OkHolds State.Wf (s.stBytes w all ea l) := by
  unfold State.stBytes
  dsimp only
  refine .ite (.map (.logRun h) fun _ ht => .stWords ht) (.ite (.ite (.ite .error (.ok (.modStrand h))) ?_) (.ok h))
  exact .ok (.writeLds h)

theorem State.Wf.baseUpdate {a : SReg} {e : EffAddr} (h : s.Wf) : (s.baseUpdate a e).Wf := by
  unfold State.baseUpdate
  split <;> exact h

theorem SomeHolds.stalls (h : s.Wf) : SomeHolds State.Wf (s.stalls lines) := by
  unfold State.stalls
  refine .mapAny (fun _ => ?_)
  split
  exact h

theorem OkHolds.afterStall (h : s.Wf) (hf : ∀ s, s.Wf → OkHolds State.Wf (f s)) :
    OkHolds State.Wf (s.afterStall lines f) := by
  unfold State.afterStall
  split
  next t e =>
    have ht : t.Wf := .of_some e (.stalls h)
    exact .ok ht
  · exact .ite (hf _ h) (hf _ (.countEv h))

theorem State.Wf.unlessHit {f : State} (h : s.Wf) (h1 : f.Wf) : (s.unlessHit w hit f).Wf := .ite (.endLaunch h) h1

theorem OkHolds.unlessEcc {r : Except TrapInfo State} (h : s.Wf) (hr : OkHolds State.Wf r) : OkHolds State.Wf (s.unlessEcc w
    hit r) :=
  .ite (.ok (.endLaunch h)) hr

theorem State.Wf.touch (h : s.Wf) : (s.touch w ea n).Wf := by
  unfold State.touch
  refine .ite h ?_
  refine .foldl h (fun _ _ ht => ?_)
  refine .ite ht ?_
  extract_lets u v
  have hu : u.Wf := .count ht
  have hv : v.Wf := .ite hu (.countEv hu)
  exact hv

theorem OkHolds.withReads {l : List (Word × Nat)} (h : s.Wf) (hf : ∀ s, s.Wf → OkHolds State.Wf (f s)) : OkHolds State.Wf
    (s.withReads w l f) := by
  unfold State.withReads
  split
  · exact hf _ h
  · exact .unlessEcc h (.afterStall h (fun _ ht => hf _ (.foldl ht (fun _ _ hu => .touch hu))))

end

/-! ### Machine/Flags.lean -/

theorem OkHolds.withFlags {s : State} {f : FFlags} {write : State → State} (h : s.Wf) (hwrite : ∀ s, s.Wf → (write s).Wf) :
    OkHolds State.Wf (s.withFlags f write) :=
  .ite .error (.ok (hwrite _ h))

/-! ### Machine/Control.lean -/

section
variable {s : State} {v : Word}

theorem State.Wf.writeTstart (h : s.Wf) : (s.writeTstart v).Wf := by
  unfold State.writeTstart
  extract_lets src t src₁ t' due u
  have hu : u.Wf := h
  exact .ite hu (.post hu)

theorem State.Wf.releaseHalt (h : s.Wf) : (s.releaseHalt v).Wf := by
  unfold State.releaseHalt
  extract_lets k t c s₁ s₂ left
  have h₁ : s₁.Wf := .modStrand h
  have h₂ : s₂.Wf := .ite (.post h₁) h₁
  exact .ite (.modCore h₂) h

theorem State.Wf.crWrite {k n : Nat} {sup : Bool} (h : s.Wf) : (s.crWrite k n sup v).Wf := by
  unfold State.crWrite
  extract_lets core ctx d
  iterate 17 refine .ite h ?_
  refine .ite (.writeTstart h) ?_
  iterate 5 refine .ite h ?_
  exact .ite (.modDie h) (.ite (.modDie h) (.ite (.releaseHalt h) h))

end

/-! ### Machine/Issue.lean -/

section
variable {s : State} {k : Nat}

theorem State.Wf.codeLine {w : Who} {line : Nat} (h : s.Wf) : (s.codeLine w line).2.Wf := by
  unfold State.codeLine
  dsimp only
  split
  · exact .modCore (.touch h)
  · split
    · exact h
    · split
      · exact .fresh h
      · exact .modCore (.fresh h)

theorem OkHolds.fetchWord {pc : Word} (h : s.Wf) : OkHolds (·.2.Wf) (s.fetchWord pc) := by
  unfold State.fetchWord
  dsimp only
  split
  · exact .error
  · exact .ok (.codeLine h)

theorem Plan.Wf.planFetch (h : s.Wf) : s.planFetch.Wf := by
  unfold State.planFetch
  split
  · exact State.Wf.endLaunch h
  · split
    · exact State.Wf.takeTrap (.mod h)
    next w t e =>
      have ht : t.Wf := .of_ok_snd e (.fetchWord h)
      dsimp only
      split
      · exact State.Wf.endLaunch ht
      · split
        · exact State.Wf.takeTrap (.mod ht)
        next w2 u e' =>
          have hu : u.Wf := by
            refine .of_ok_snd e' ?_
            split
            · exact .fetchWord (.mod ht)
            · exact .ok (.mod ht)
          split
          · show State.Wf (if _ then _ else _)
            exact .ite hu (.count hu)
          · split
            · exact State.Wf.takeTrap hu
            · exact State.Wf.takeTrap hu

theorem Plan.Wf.planStrand (h : s.Wf) : (s.planStrand k).Wf := by
  unfold State.planStrand
  dsimp only
  split
  · exact .planFetch h
  · split
    · exact .legStopped h
    · split
      · exact h
      · split
        · exact .takeTrap h
        · split
          · exact h
          · split
            · exact .takeTrap h
            · exact .planFetch h

theorem State.Wf.pollStrand (h : s.Wf) : (s.pollStrand k).Wf := by
  unfold State.pollStrand
  split
  · exact h
  · refine .ite h ?_
    dsimp only
    exact .ite h (.ite h h)

theorem Plan.Wf.planCore {c : Nat} (h : s.Wf) : (s.planCore c).Wf := by
  unfold State.planCore
  extract_lets t
  have ht : t.Wf := .foldl h (fun _ _ ht => .pollStrand ht)
  split
  · exact ht
  · exact .planStrand ht

theorem Plan.Wf.planEvent (h : s.Wf) : s.planEvent.Wf := by
  unfold State.planEvent
  split <;> exact h

theorem Plan.Wf.plan (h : s.Wf) : s.plan.Wf := by
  unfold State.plan
  split
  · exact .planEvent h
  · exact .planCore h
  · split
    · exact .planEvent h
    · split
      · exact .planCore h
      · exact .planEvent h

theorem State.Wf.tickEvents {d : Fin 4} {n stalled : Nat} {gang : Nat → Nat} (h : s.Wf) :
    (s.tickEvents d n stalled gang).Wf := by
  unfold State.tickEvents
  split
  · extract_lets t u v w y
    have ht : t.Wf := .countEv h
    have hu : u.Wf := .countEv ht
    have hv : v.Wf := .countRows hu
    have hw : w.Wf := .ite (.countEv hv) hv
    have hy : y.Wf := .foldl hw (fun _ _ h1 => .countRows h1)
    exact .foldl hy (fun _ _ h1 => .countEv h1)
  · exact h

theorem State.Wf.tick (h : s.Wf) : s.tick.Wf := by
  unfold State.tick
  refine .foldl (.ofViews (s := s) (fun d hd => ?_) rfl rfl rfl h) (fun _ _ ht => .tickEvents ht)
  simp only [State.die, Vector.getElem_ofFn, Fin.getElem_fin]
  split <;> exact hd

end

end Sys2Proof.Machine
end

section
/-! SUPPORT. The canonical form of the byte stores: the system's registers, memory, tasks, synchronisation and batons. -/
namespace Sys2Proof.Machine

/-! ### Machine/System.lean -/

section
variable {s : State} {g : Guard} {v : Word} {a d l : SReg} {n : BitVec 12} {q : Bool} {c : BitVec 5}
   {r : Host.Outcome State Fault Refusal} {sc : TlbScope} {k : Nat}

theorem NextWf.privileged {detail : Nat} (h : s.Wf) (hr : NextWf r) : NextWf (privileged s detail r) :=
  .ite hr (.next (.takeTrap h))
theorem NextWf.execIllegal {w : BitVec 56} (h : s.Wf) : NextWf (execIllegal w s) := .next (.takeTrap h)
theorem NextWf.execNop (h : s.Wf) : NextWf (execNop g s) := .plain h (fun _ ht => ht)
theorem NextWf.execSkip {n : BitVec 20} (h : s.Wf) : NextWf (execSkip g n s) := .guarded h (fun _ ht => .ok ht)

theorem NextWf.execCall {i : BitVec 34} (h : s.Wf) : NextWf (execCall g i s) := by
  unfold Machine.execCall
  refine .guarded h (fun _ ht => ?_)
  dsimp only
  exact .ite .trapc (.ok ht)

theorem NextWf.execRet (h : s.Wf) : NextWf (execRet g s) := by
  unfold Machine.execRet
  refine .guarded h (fun _ ht => ?_)
  dsimp only
  exact .ite .trapc (.ok ht)

theorem NextWf.execTrap {i : BitVec 32} (h : s.Wf) : NextWf (execTrap g i s) := .guarded h (fun _ _ => .trapc)
theorem NextWf.execBrk (h : s.Wf) : NextWf (execBrk g s) := .guarded h (fun _ _ => .trapc)
theorem NextWf.crChecked (h : s.Wf) (hr : NextWf r) : NextWf (crChecked n s r) :=
  .ite (.next (.takeTrap h)) (.ite (.next (.takeTrap h)) hr)
theorem NextWf.execMovc (h : s.Wf) : NextWf (execMovc g d n s) := .crChecked h (.plain h (fun _ ht => ht))
theorem NextWf.execMovcw (h : s.Wf) : NextWf (execMovcw g a n s) := .crChecked h (.plain h (fun _ ht => .crWrite ht))
theorem OkHolds.commit {e : Effect} (h : s.Wf) : OkHolds State.Wf (s.commit e) := .ite .trapc (.ok h)

theorem OkHolds.endHold {drop : Bool} (h : s.Wf) : OkHolds State.Wf (endHold drop d a c s) := by
  unfold Machine.endHold
  dsimp only
  refine .ite (.ok h) ?_
  split
  · exact .ok h
  · refine .ite (.ok h) ?_
    split
    · refine .ite (.ok h) ?_
      split
      · exact .error
      next t e =>
        have ht : t.Wf := .of_ok e (.commit h)
        exact .ok ht
    · refine .ite (.ok h) ?_
      split
      · exact .error
      next t e =>
        have ht : t.Wf := .of_ok e (.commit h)
        exact .ok ht

theorem NextWf.execTresume (h : s.Wf) : NextWf (execTresume g d a c s) := .guarded h (fun _ ht => .endHold ht)
theorem NextWf.execTdrop (h : s.Wf) : NextWf (execTdrop g d a c s) := .guarded h (fun _ ht => .endHold ht)
theorem State.Wf.tlbInvalidate {ctx va : Nat} (h : s.Wf) : (s.tlbInvalidate sc ctx va).Wf :=
  .ofViews (s := s) (fun d hd => by simpa [State.tlbInvalidate, State.die] using hd) rfl rfl rfl h
theorem NextWf.execTlbinv {b : SReg} (h : s.Wf) : NextWf (execTlbinv g sc a b s) :=
  .privileged h (.guarded h (fun _ ht => .ite (.ok (.adv (.release (.tlbInvalidate ht)))) (.ok ht)))
theorem NextWf.execIcinv (h : s.Wf) : NextWf (execIcinv g s) := .privileged h (.plain h (fun _ ht => ht))
theorem SomeHolds.haltCond (h : s.Wf) : SomeHolds (·.2.2.Wf) (haltCond q k s) :=
  .ite .none (.ite (.some h) (.ite (.some h) .none))
theorem State.Wf.haltLate (h : s.Wf) : (haltLate q k s).2.2.Wf := .ite h h

theorem OkHolds.haltPoll {p : Poll} (h : s.Wf) : OkHolds State.Wf (haltPoll p g q d a l s) := by
  unfold Machine.haltPoll
  extract_lets _ _ t
  have ht : t.Wf := .ite h h
  exact .ite (.ok h) (.ite (.ok h) (.ok (.blocking ht (.haltCond ht) (.haltLate ht))))

theorem NextWf.execHalt (h : s.Wf) : NextWf (execHalt g q d a l s) := .privileged h (.guarded h (fun _ ht => .haltPoll ht))
theorem NextWf.execHaltStop (h : s.Wf) : NextWf (execHaltStop s) := .ite (.next h) (.next h)
theorem NextWf.execTstartWrite (h : s.Wf) : NextWf (execTstartWrite v s) := .next (.writeTstart h)
theorem NextWf.execTickpWrite (h : s.Wf) : NextWf (execTickpWrite v s) := .next h
theorem NextWf.execPlimitWrite (h : s.Wf) : NextWf (execPlimitWrite v s) := .next h
theorem NextWf.execFpcrWrite (h : s.Wf) : NextWf (execFpcrWrite v s) := .next h
theorem NextWf.execFpsrWrite (h : s.Wf) : NextWf (execFpsrWrite v s) := .next h
theorem NextWf.execAgemaxWrite (h : s.Wf) : NextWf (execAgemaxWrite v s) := .next h
theorem NextWf.execDlescWrite (h : s.Wf) : NextWf (execDlescWrite v s) := .next h
theorem NextWf.execEvselWrite {n : Fin 16} (h : s.Wf) : NextWf (execEvselWrite n v s) := .next (.modDie h)
theorem NextWf.execEvcntWrite {n : Fin 16} (h : s.Wf) : NextWf (execEvcntWrite n v s) := .next (.modDie h)
theorem NextWf.execHaltrelWrite (h : s.Wf) : NextWf (execHaltrelWrite v s) := .next (.releaseHalt h)
theorem NextWf.execRegisterWrite (h : s.Wf) : NextWf (execRegisterWrite n v s) := .next (.crWrite h)

theorem NextWf.execEvOvf {n : Fin 16} (h : s.Wf) : NextWf (Machine.execEvOvf n s) := by
  unfold Machine.execEvOvf
  extract_lets d t
  have ht : t.Wf := .modDie h
  exact .ite (.next h) (.next (.ofStores rfl rfl rfl rfl ht))

end

/-! ### Machine/Memory.lean -/

section
variable {s : State} {a d b l : SReg} {g : Guard} {m : AMode} {ord : MemOrd} {t : Fmt} {al : Nat} {sh : Fin 4} {i : BitVec 24}

theorem OkHolds.loadVia {n : Nat} {use : Nat → State → State} (h : s.Wf) (huse : ∀ s t, t.Wf → (use s t).Wf) : OkHolds
    State.Wf (loadVia a m n al use s) := by
  unfold Machine.loadVia
  dsimp only
  split
  · exact .error
  · exact .unlessEcc h (.afterStall h (fun _ ht => .ok (.adv (huse _ _ (.baseUpdate (.touch ht))))))

theorem OkHolds.storeVia {kd : AccKind} {all : Bool} {data : List Byte} (h : s.Wf) : OkHolds State.Wf (storeVia a m kd all al
    data s) := by
  unfold Machine.storeVia
  dsimp only
  split
  · exact .error
  · exact .unlessEcc h (.map (.stBytes (.touch h)) (fun _ ht => .adv (.baseUpdate ht)))

theorem NextWf.execLd (h : s.Wf) : NextWf (execLd g d a m ord s) := .guarded h (fun _ ht => .loadVia ht (fun _ _ hu => hu))
theorem NextWf.execSt (h : s.Wf) : NextWf (execSt g d a m ord s) := .guarded h (fun _ ht => .storeVia ht)
theorem NextWf.execMstore (h : s.Wf) : NextWf (execMstore g d a m ord s) := .guarded h (fun _ ht => .storeVia ht)
theorem NextWf.execBoxld {d : BReg} (h : s.Wf) : NextWf (execBoxld g d a m s) :=
  .guarded h (fun _ ht => .loadVia ht (fun _ _ hu => hu))
theorem NextWf.execBoxst {d : BReg} (h : s.Wf) : NextWf (execBoxst g d a m s) := .guarded h (fun _ ht => .storeVia ht)

theorem NextWf.execLdv {d : VReg} (h : s.Wf) : NextWf (execLdv g d a m ord s) := by
  unfold Machine.execLdv
  dsimp only
  refine .guarded h (fun _ ht => ?_)
  split
  · exact .error
  · exact .loadVia ht (fun _ _ hu => hu)

theorem NextWf.execStv {d : VReg} (h : s.Wf) : NextWf (execStv g d a m ord s) := by
  unfold Machine.execStv
  dsimp only
  refine .guarded h (fun _ ht => ?_)
  split
  · exact .error
  · exact .storeVia ht

theorem OkHolds.elemStores {w : Who} {addr : Nat → Word} {data : Nat → List Byte} : ∀ {l : List Nat} {s : State}, s.Wf →
    OkHolds State.Wf (State.elemStores w addr data l s)
  | [], _, h => .ok h
  | i :: l, s, h => by
    unfold State.elemStores
    split
    · exact .error
    next e => exact OkHolds.elemStores (.of_ok e (.stBytes h))

theorem NextWf.execLdvx {k : Msk} {d : VReg} {b : VReg} (h : s.Wf) : NextWf (execLdvx g t k d a b sh s) := by
  unfold Machine.execLdvx
  dsimp only
  refine .guarded h (fun _ ht => ?_)
  split
  · exact .error
  · exact .error
  · split
    · exact .error
    · exact .unlessEcc ht (.afterStall ht (fun _ hu => .ok (.adv (.wV (.foldl hu (fun _ _ hv => .touch hv))))))

theorem NextWf.execStvx {k : KReg} {d : VReg} {b : VReg} (h : s.Wf) : NextWf (execStvx g t k d a b sh s) := by
  unfold Machine.execStvx
  dsimp only
  refine .guarded h (fun _ ht => ?_)
  split
  · exact .error
  · exact .error
  · split
    · exact .error
    · exact .unlessEcc ht (.map (.elemStores (.foldl ht (fun _ _ hu => .touch hu))) (fun _ hu => hu))

theorem OkHolds.ldwPoll {p : Poll} (h : s.Wf) : OkHolds State.Wf (ldwPoll p g d a b l i s) := by
  unfold Machine.ldwPoll
  dsimp only
  split
  · exact .error
  · exact .unlessEcc h (.afterStall h (fun _ ht => .ok (.blocking (.touch ht) (.ite (.some (.wS (.touch ht))) .none) (.touch
      ht))))

theorem NextWf.execLdw (h : s.Wf) : NextWf (execLdw g d a b l i s) := .guarded h (fun _ ht => .ldwPoll ht)

theorem NextWf.execAmo {op : AmoOp} {c : SReg} (h : s.Wf) : NextWf (execAmo g t op d a b c s) := by
  unfold Machine.execAmo
  dsimp only
  refine .guarded h (fun _ ht => ?_)
  split
  · exact .error
  · exact .unlessEcc ht (.map (.stBytes (.touch ht)) (fun _ hu => hu))

theorem NextWf.execTableWalk {ctx : Nat} {va : Word} (h : s.Wf) : NextWf (Machine.execTableWalk ctx va s) := by
  unfold Machine.execTableWalk
  dsimp only
  split
  · exact .next (.modCore h)
  · refine .ite (.next (.endLaunch (.countEv h))) ?_
    split
    · exact .next (.countEv h)
    · exact .next (.modDie (.modCore (.countEv h)))

theorem NextWf.execRefreshStallEnd (h : s.Wf) : NextWf (execRefreshStallEnd s) := by
  unfold Machine.execRefreshStallEnd
  split
  · exact .next h
  · exact .ite (.next h) (.next h)

theorem NextWf.execWriteApply {i : Nat} (h : s.Wf) : NextWf (Machine.execWriteApply i s) := by
  unfold Machine.execWriteApply
  dsimp only
  split
  · exact .next h
  · refine .ite (.next (State.memWf_modDie _ _ (fun hd => ?_) h)) (.next h)
    exact View.wf_receive _ _ hd

end

/-! ### Machine/Tasks.lean -/

section
variable {s : State} {g : Guard} {k lck ctx va dst : Nat} {tk : Task} {l : Launch} {pc : BitVec 32} {r tr : TaskRec}
   {box : BoxImg} {d : SReg} {a b : BReg} {cont : Option (BitVec 32)} {x : Fin 8} {jref parent : BitVec 48} {w : Who}
   {mask : BitVec 6} {e : EndKind} {arrival vn : Bool} {ea : Word} {kd : Kind}

theorem NextWf.execBoxget {sel : BoxSel} (h : s.Wf) : NextWf (execBoxget g d a sel x s) := .plain h (fun _ ht => ht)

theorem NextWf.execBoxset {d : BReg} {b : SReg} {hi : Bool} (h : s.Wf) : NextWf (execBoxset g d a b hi x s) := by
  unfold Machine.execBoxset
  refine .plain h (fun _ ht => ?_)
  dsimp only
  exact ht

theorem NextWf.execBoxkey {sel : KeySel} (h : s.Wf) : NextWf (execBoxkey g d a sel s) := by
  unfold Machine.execBoxkey
  refine .plain h (fun _ ht => ?_)
  dsimp only
  exact ht

theorem NextWf.execFits {d : PReg} {x : BitVec 16} (h : s.Wf) : NextWf (execFits g d a x s) := .plain h (fun _ ht => ht)

theorem State.Wf.wakeCore {core : Nat} (h : s.Wf) : (s.wakeCore core).Wf := by
  unfold State.wakeCore
  refine .foldl h (fun _ _ ht => ?_)
  dsimp only
  exact .ite (.postOnce ht) ht

theorem OkHolds.pushRec (h : s.Wf) : OkHolds State.Wf (s.pushRec lck r) := by
  unfold State.pushRec
  split
  · exact .trapc
  next t e =>
    have ht : t.Wf := .of_some e (.push? h)
    exact .ok (.wakeCore ht)

theorem SomeHolds.arriveRec (h : s.Wf) : SomeHolds State.Wf (s.arriveRec lck r) :=
  .ite (.ite .none (.some (.syncExt h))) (.map (.push? h) (fun _ ht => .wakeCore ht))
theorem State.Wf.mustPush {i : DqItem} (h : s.Wf) : (s.mustPush lck i).Wf := SomeHolds.getD (.push? h) (.endLaunch h)
theorem State.Wf.placeRec (h : s.Wf) : (s.placeRec lck r).Wf := SomeHolds.getD (.arriveRec h) (.endLaunch h)

theorem State.Wf.dieWrite {d : Fin 4} {l : List Byte} (h : s.Wf) : (s.dieWrite d ctx va l).Wf := by
  unfold State.dieWrite
  refine .foldl h (fun _ _ ht => ?_)
  split
  · exact ht
  · exact .gwrite ht

theorem State.Wf.moveCont (h : s.Wf) : (s.moveCont ctx va dst).Wf := .foldl h (fun _ _ ht => .ite ht (.syncExt ht))

theorem State.Wf.movePiece (h : s.Wf) : (s.movePiece ctx va dst).Wf := by
  unfold State.movePiece
  extract_lets _ t
  have ht : t.Wf := .modLaunch h
  exact ht

theorem State.Wf.movePtrs {r o : Nat} (h : s.Wf) : (s.movePtrs ctx r o dst).Wf := by
  refine .foldl h fun t f ht => ?_
  dsimp only
  split
  · exact ht
  · exact .ctxWrite ht

theorem State.Wf.packHeap {c : Ctx} : ∀ {x : List (Nat × Nat)} {s : State}, s.Wf → (State.packHeap ctx c l x s).Wf
  | [], _, h => h
  | (o, n) :: t, s, h => by
    unfold State.packHeap
    refine State.Wf.packHeap ?_
    split
    · exact h
    · exact .modLaunch (.movePiece h)
    · exact .modLaunch (.moveCont (.movePtrs (.ctxWrite h)))

theorem OkHolds.heapAlloc {n : Nat} (h : s.Wf) : OkHolds (·.2.Wf) (s.heapAlloc ctx n) := by
  unfold State.heapAlloc
  extract_lets m place s₁
  have hplace : ∀ {t c l}, t.Wf → SomeHolds (·.2.Wf) (place t c l) := fun ht => .mapAny fun _ => .modLaunch ht
  split
  · split
    next r e => exact .ok (hplace h r e)
    · extract_lets used s₂
      split
      · exact .trapc
      · split
        · exact .error
        · have hs : s₂.Wf := .packHeap (.foldl h (fun _ _ ht => .drain ht))
          split
          next r e =>
            obtain ⟨l, -, e⟩ := Option.bind_eq_some_iff.mp e
            exact .ok (hplace hs r e)
          · exact .trapc
  · exact .trapc

theorem SomeHolds.pinCont (h : s.Wf) : SomeHolds (·.2.Wf) (s.pinCont ctx r) := by
  unfold State.pinCont
  split
  · extract_lets va rec_ s₁
    split
    · exact .some h
    · split
      · exact .some h
      · split
        · exact .some (.endLaunch h)
        · extract_lets data rest s₂ held place
          have hs : s₂.Wf := .modLaunch (.foldl h (fun _ _ ht => .drain ht))
          have hplace : ∀ {t any}, t.Wf → SomeHolds (·.2.Wf) (place t any) := fun ht =>
            .bindAny fun l => .bindAny fun at_ => by
              split
              · refine .some (SomeHolds.getD ?_ (.ctxWrite (.modLaunch ht)))
                exact .mapAny fun _ => .movePtrs (.ctxWrite (.modLaunch ht))
              · exact .none
          split
          next x e => exact .some (hplace hs x e)
          · exact hplace (.packHeap hs)
  · exact .some h

theorem OkHolds.openJoin {d : Fin 4} {static : Bool} (h : s.Wf) : OkHolds State.Wf (s.openJoin d ctx l va static box parent
    cont arrival) := by
  unfold State.openJoin
  dsimp only
  split
  · exact .error
  next t e =>
    have ht : t.Wf := .of_ok_snd e (.heapAlloc h)
    exact .ok (.dieWrite (.ite (.dieWrite (.dieWrite ht)) (.dieWrite (.dieWrite (.dieWrite ht)))))

theorem OkHolds.newJoin (h : s.Wf) : OkHolds (·.2.Wf) (s.newJoin lck box parent cont arrival) := by
  unfold State.newJoin
  dsimp only
  split
  · exact .trapc
  · split
    · exact .trapc
    · split
      · exact .trapc
      · refine .ite (.ok (.xcSend (.drain h))) (.ite .error (.ite (.ok (.drain h)) ?_))
        exact .map (.openJoin (.drain h)) fun _ ht => ht

theorem State.Wf.toSplicer {jref : Nat} {ev : SplEv} (h : s.Wf) : (s.toSplicer lck jref ev).Wf := by
  unfold State.toSplicer
  dsimp only
  split
  · exact h
  · split
    · exact h
    · exact .ite (.xcSend h) h

theorem State.Wf.cover (h : s.Wf) : (s.cover lck jref box).Wf := .ite h (.toSplicer h)
theorem State.Wf.retestPool (h : s.Wf) : (s.retestPool ctx ea).Wf := h

theorem State.Wf.addCounter {n : Word} (h : s.Wf) : (s.addCounter w ea n).Wf := by
  unfold State.addCounter
  refine .unlessHit h (.retestPool (.ite ?_ (.ite (.writeLds h) h)))
  split
  · exact h
  · exact .gwrite h

theorem State.Wf.seat (h : s.Wf) : (s.seat k tk pc).Wf := h
theorem State.Wf.trapAt {pc : Word} {word : Option Word} {t : TrapInfo} (h : s.Wf) : (s.trapAt pc word t).Wf := .takeTrap h

theorem OkHolds.fitSplit (h : s.Wf) : OkHolds (·.1.Wf) (s.fitSplit lck l tr pc mask box jref) := by
  unfold State.fitSplit
  extract_lets core push
  have hpush : ∀ {t a jl jr}, t.Wf → OkHolds (·.1.Wf) (push t a jl jr) := fun {t a jl jr} ht => by
    refine .ite .error (.ite .error ?_)
    exact .bind (.pushRec ht) fun _ hu => .ok (.count hu)
  split
  · exact hpush h
  · split
    · exact .trapc
    · refine .ite .trapc (.ite (hpush h) (.bind (.newJoin h) fun x hx => ?_))
      split
      exact hpush hx

theorem OkHolds.fitLoop {foot : Option (List (List (Nat × List Nat)))} : ∀ {n : Nat} {s : State} {box : BoxImg} {jref : BitVec
    48}, s.Wf → OkHolds (·.1.Wf) (State.fitLoop lck l tr pc foot mask n s box jref)
  | 0, _, _, _, h => .ok h
  | n + 1, s, box, jref, h => by
    unfold State.fitLoop
    refine .ite (.ok h) ?_
    split
    · exact .error
    next e => exact OkHolds.fitLoop (.of_ok_fst e (.fitSplit h))

theorem OkHolds.fitRecord (h : s.Wf) : OkHolds (·.1.Wf) (s.fitRecord l tk) := by
  unfold State.fitRecord
  refine .ite (.bind (.fitLoop h) fun _ ht => .ok ht) (.ok h)

theorem State.Wf.startTask (h : s.Wf) : (s.startTask k tk).Wf := by
  have hseat : ∀ {core : Nat}, ((({ s with cur := k } : State).drain (dieF core)).seat k tk tk.tr.pc).Wf := .seat (.drain h)
  unfold State.startTask
  extract_lets core s₁ s₂
  have hs : s₂.Wf := by
    unfold s₂
    split
    · exact .count hseat
    · exact .count hseat
    · exact hseat
  split
  · exact hs
  · refine .ite (.trapAt hs) ?_
    split
    · exact .trapAt hs
    next e =>
      have hr := State.Wf.of_ok_fst e (.fitRecord hs)
      refine .ite (.mod hr) ?_
      split
      · exact .trapAt (.mod hr)
      next e' => exact .mod (.of_some_snd e' (.allocFrame (.mod hr)))

theorem State.Wf.wakeSlices {row : Nat} (h : s.Wf) : (s.wakeSlices row).Wf := .foldl h (fun _ _ ht => .postOnce ht)
theorem State.Wf.dropOps (h : s.Wf) : (s.dropOps k).Wf := .foldl h (fun _ _ ht => .wakeSlices (.settleSlots (.unname ht)))
theorem State.Wf.freeJoin {d : Fin 4} (h : s.Wf) : (s.freeJoin d ctx va).Wf := .dieWrite (.heapFree h)

theorem State.Wf.freeContRec (h : s.Wf) : (s.freeContRec lck r).Wf := by
  unfold State.freeContRec
  split
  · dsimp only
    split
    · exact h
    · exact .freeJoin h
  · exact h

theorem State.Wf.endTask (h : s.Wf) : (s.endTask k).Wf := by
  unfold State.endTask
  split
  · exact h
  · extract_lets _ t _ u v
    have ht : t.Wf := .relRing (.withdrawAll (.dropOps (.freeContRec h)))
    have hu : u.Wf := by
      unfold u
      split
      · dsimp only
        exact ht
      · exact ht
    have hv : v.Wf := .wakeCore hu
    exact .ite (.endLaunch hv) hv

theorem State.Wf.releaseMsg (h : s.Wf) : (s.releaseMsg k tk vn).Wf := by
  unfold State.releaseMsg
  dsimp only
  split
  · exact h
  · split
    · exact h
    · exact .post (.modStrand (.modCore (.modLaunch h)))

theorem State.Wf.finishHold {h : Word} {c : Nat} {drop : Bool} (hs : s.Wf) : (s.finishHold ctx h c drop).Wf := by
  unfold State.finishHold
  split
  · exact hs
  · refine .ite (.post (.modCtx hs)) ?_
    extract_lets t _ _ _ u v _ _ _ _ _ _ _ w
    have ht : t.Wf := .modCtx hs
    have hu : u.Wf := .syncExt ht
    have hv : v.Wf := by
      unfold v
      split
      · split
        · exact hu
        · exact .freeContRec (.cover hu)
      · exact hu
    have hw : w.Wf := .ite ht (.syncMailbox ht)
    exact .ite (.wakeCore hv) (.wakeCore hw)

theorem State.Wf.perform {e : Effect} (h : s.Wf) : (s.perform w tk e).Wf := by
  unfold State.perform
  split
  · exact .releaseMsg h
  · exact .addCounter h
  · dsimp only
    exact .unlessHit h (.toSplicer h)
  · exact h
  · exact .finishHold h
  · exact .post (.modLaunch h)
  · exact h

theorem State.Wf.applyJournal {j : List (Nat × List Byte)} (h : s.Wf) : (s.applyJournal w j).Wf := by
  rw [State.Wf, State.memWf_iff] at h ⊢
  obtain ⟨hd, hw, hl, ho⟩ := h
  exact ⟨hd, hw, foldl_holds (P := fun m => Mem.wf m = true) (fun m e hm => Mem.wf_write _ _ _ hm) hl, ho⟩

theorem State.Wf.releaseGroup (h : s.Wf) : (s.releaseGroup k).Wf := by
  unfold State.releaseGroup
  split
  · exact h
  · extract_lets _ t
    have ht : t.Wf := .applyJournal h
    exact .foldl ht (fun _ _ hu => .ite hu (.perform hu))

theorem State.Wf.discardGroup (h : s.Wf) : (s.discardGroup k).Wf := by
  unfold State.discardGroup
  split
  · exact h
  · extract_lets t
    have ht : t.Wf := .foldl h (fun _ _ ht => .discardEffect ht)
    exact ht

theorem State.Wf.countTask {strands : List Nat} (h : s.Wf) : (s.countTask k strands).Wf := .count (.modLaunch h)
theorem OkHolds.splitJoin {a : Nat} (h : s.Wf) : OkHolds (·.1.Wf) (s.splitJoin lck l tr a cont) :=
  .ite (.ok h) (.bind (.newJoin h) fun _ ht => .ok ht)

theorem OkHolds.doSplit {a : Nat} (h : s.Wf) : OkHolds (·.1.Wf) (s.doSplit k tk l a cont) := by
  unfold State.doSplit
  refine .bind (.splitJoin h) fun x hx => ?_
  refine .ite .error (.ite ?_ ?_)
  · exact .bind (.ite (.pushRec (.count hx)) (.ok (.count hx))) fun _ ht => .ok ht
  · refine .bind (.pushRec (.count hx)) fun t ht => ?_
    split
    · exact .trapc
    next e => exact .ok (.of_some e (.hwRoom? ht))

theorem OkHolds.doLeaf (h : s.Wf) : OkHolds (·.1.Wf) (s.doLeaf k tk l box jref pc) := by
  unfold State.doLeaf
  refine .ite .error (.ite ?_ (.ite (.ok h) ?_))
  · split
    · exact .trapc
    next e =>
      have ht := State.Wf.of_some_snd e (.allocFrame h)
      exact .ite (.map (.pushRec h) fun _ hu => hu) (.ite (.ok (.modLc ht)) (.ok (.modLc ht)))
  · split
    · exact .trapc
    next e => exact .ok (.of_some_snd e (.allocFrame h))

theorem OkHolds.verdict (h : s.Wf) : OkHolds (·.1.Wf) (s.verdict k tk l e) := by
  unfold State.verdict
  split
  · exact .ok h
  · exact .ok h
  · exact .doSplit h
  · split
    · exact .trapc
    · exact .doSplit h
  · exact .ok (.count (.cover h))
  · exact .doLeaf h
  · exact .ite .error (.bind (.fitLoop h) fun _ ht => .doLeaf ht)

theorem State.Wf.follow {f : Follow} (h : s.Wf) : (s.follow k lck f).Wf := by
  unfold State.follow
  split
  · exact h
  · exact .ite h (.ite (.mustPush h) (.startTask h))

theorem State.Wf.releaseVerdict (h : s.Wf) : (s.releaseVerdict k tk l e).Wf := by
  unfold State.releaseVerdict
  extract_lets s₁
  have h₁ : s₁.Wf := .ite (.discardGroup h) (.releaseGroup h)
  refine .ite h₁ ?_
  split
  · exact .takeTrap h
  next e' => exact .follow (.endTask (.countTask (.of_ok_fst e' (.ite (.verdict h₁) (.ok h₁)))))

theorem State.Wf.releaseDone (h : s.Wf) : (s.releaseDone k tk).Wf := by
  unfold State.releaseDone
  extract_lets _ _ t _ u _ v w y
  have ht : t.Wf := .ite h h
  have hu : u.Wf := .ite ht (.countEv ht)
  have hv : v.Wf := .foldl hu (fun _ _ hv => .releaseGroup hv)
  have hw : w.Wf := .ite hv (.cover hv)
  have hy : y.Wf := .countTask hw
  refine .ite ht ?_
  split
  · exact h
  · exact .ite hv (.foldl hy (fun _ _ h1 => .endTask h1))

theorem State.Wf.releaseRequeue (h : s.Wf) : (s.releaseRequeue k tk).Wf := by
  unfold State.releaseRequeue
  extract_lets ks dead t back
  have ht : t.Wf := .foldl h fun _ _ hu => .abortStrand hu
  have hback : SomeHolds State.Wf back := by
    unfold back
    split
    · exact .pushTop? ht
    · exact .some (.modCore ht)
    · exact .some (.modLc ht)
  clear_value back
  cases back with
  | none => exact .takeTrap h
  | some u =>
    have hu : ((ks.foldl (fun (s : State) j => s.freeStrand j) (u.count (coreOf k) 0x10)).wakeCore (coreOf k)).Wf :=
      .wakeCore (.foldl (.count (hback u rfl)) fun _ _ hv => .freeStrand hv)
    exact .ite (.endLaunch hu) hu

theorem NextWf.execCommitGroupRelease (h : s.Wf) : NextWf (execCommitGroupRelease s) := by
  unfold Machine.execCommitGroupRelease
  dsimp only
  split
  · refine .ite (.next h) ?_
    refine .ite (.next (.takeTrap h)) ?_
    split
    · exact .next (.releaseDone h)
    · exact .next (.ite (.post (.stopLegs h)) (.releaseRequeue (.stopLegs h)))
    · exact .next (.releaseVerdict h)
    · exact .next (.endTask h)
  · exact .next h

theorem OkHolds.rule {check : Launch → TaskRec → Except TrapInfo Unit} (h : s.Wf) : OkHolds State.Wf (s.rule e check) := by
  unfold State.rule
  split
  · refine .ite .trapc ?_
    refine .ite .trapc ?_
    split
    · exact .error
    · exact .ok h
  · exact .trapc

theorem NextWf.execSplit (h : s.Wf) : NextWf (execSplit g x s) := .guarded h (fun _ ht => .rule ht)
theorem NextWf.execSplitk (h : s.Wf) : NextWf (execSplitk g pc s) := .guarded h (fun _ ht => .rule ht)
theorem NextWf.execSplitf (h : s.Wf) : NextWf (execSplitf g mask pc s) := .guarded h (fun _ ht => .rule ht)
theorem NextWf.execPrune (h : s.Wf) : NextWf (execPrune g s) := .guarded h (fun _ ht => .rule ht)
theorem NextWf.execLeaf (h : s.Wf) : NextWf (execLeaf g pc s) := .guarded h (fun _ ht => .rule ht)
theorem NextWf.execDone (h : s.Wf) : NextWf (execDone g s) := .guarded h (fun _ ht => .ite .trapc (.ok ht))
theorem NextWf.execRequeue (h : s.Wf) : NextWf (execRequeue g s) := .guarded h (fun _ ht => .ite .trapc (.ok ht))

theorem SomeHolds.spawnCond (h : s.Wf) : SomeHolds (·.2.2.Wf) (spawnCond s) := by
  unfold Machine.spawnCond
  split
  · dsimp only
    split
    next t e =>
      have ht : t.Wf := .of_ok e (.commit h)
      exact .some ht
    · exact .none
  · exact .some h
  · exact .none

theorem OkHolds.spawnPoll {p : Poll} {a : SReg} {l : SReg} {pc : BitVec 24} (h : s.Wf) : OkHolds State.Wf (spawnPoll p g kd d
    a b l pc s) := by
  unfold Machine.spawnPoll
  extract_lets _ _ t
  have ht : t.Wf := .ite h h
  split
  · exact .ok h
  · exact .ite (.ok h) (.ite .trapc (.ok (.blocking ht (.spawnCond ht) (.dropSpawn ht))))

theorem NextWf.execSpawn {a : SReg} {l : SReg} {pc : BitVec 24} (h : s.Wf) : NextWf (execSpawn g kd d a b l pc s) :=
  .guarded h (fun _ ht => .spawnPoll ht)

theorem NextWf.execSend {a : SReg} (h : s.Wf) : NextWf (execSend g vn a pc s) := by
  unfold Machine.execSend
  refine .guarded h (fun _ ht => ?_)
  dsimp only
  split
  · exact .error
  · split
    · split
      · exact .trapc
      · exact .ok ht
    · split
      · exact .trapc
      · exact .ok ht

theorem NextWf.execDeposit {t : Fmt} {a : SReg} (h : s.Wf) : NextWf (execDeposit g t a s) := by
  unfold Machine.execDeposit
  refine .guarded h (fun _ ht => ?_)
  split
  · exact .trapc
  · dsimp only
    refine .ite .trapc ?_
    refine .ite .trapc ?_
    refine .ite .trapc ?_
    refine .ite .trapc ?_
    split
    · exact .error
    · split
      · exact .error
      next u e =>
        have hu : u.Wf := .of_ok e (.commit ht)
        exact .ok hu

end

/-! ### Machine/Sync.lean -/

section
variable {s : State} {g : Guard} {d a l b : SReg} {p : Poll} {sc : Scope} {y : Bool} {i : Instr} {slot dl : Nat} {va : Word}
   {before after : BitVec 8}

theorem OkHolds.counterAdd {n : State → Word} (h : s.Wf) : OkHolds State.Wf (counterAdd a n s) := by
  unfold Machine.counterAdd
  dsimp only
  split
  · exact .error
  · exact .map (.commit (.touch h)) (fun _ ht => ht)

theorem NextWf.execCinc (h : s.Wf) : NextWf (execCinc g a s) := .guarded h (fun _ ht => .counterAdd ht)
theorem NextWf.execCadd (h : s.Wf) : NextWf (execCadd g a b s) := .guarded h (fun _ ht => .counterAdd ht)

theorem NextWf.execPoolRetest {i : Nat} (h : s.Wf) : NextWf (execPoolRetest i s) := by
  unfold Machine.execPoolRetest
  dsimp only
  split
  · exact .next h
  · refine .ite (.next h) ?_
    refine .ite (.next (.endLaunch h)) ?_
    split
    · exact .next (.poolPosts h)
    · split
      · exact .ite (.next (.wakeCore h)) (.next (.poolPosts h))
      · exact .ite (.next (.wakeCore (.modLc (.countEv h)))) (.next (.poolPosts (.countEv h)))

theorem NextWf.execPoolExpiry {i : Nat} (h : s.Wf) : NextWf (execPoolExpiry i s) := by
  unfold Machine.execPoolExpiry
  dsimp only
  split
  · exact .next h
  · exact .ite (.next h) (.ite (.next (.wakeCore h)) (.next (.poolPosts h)))

theorem OkHolds.countPoll {eas : List Word} {tgt : Word} {detail : State → List Word → Nat} (h : s.Wf) : OkHolds State.Wf
    (countPoll p i y d l eas tgt detail s) := by
  unfold Machine.countPoll
  dsimp only
  split
  · exact .error
  · refine .afterStall h (fun _ ht => ?_)
    refine .unlessEcc (.foldl ht (fun _ _ hu => .touch hu)) ?_
    split
    · exact .ok (.blocking (.foldl ht (fun _ _ hu => .touch hu)) (.ite (.some (.foldl ht (fun _ _ hu => .touch hu))) .none)
        (.foldl ht (fun _ _ hu => .touch hu)))
    · split
      · exact .ok (.blocking (.foldl ht (fun _ _ hu => .touch hu)) (.ite (.some (.foldl ht (fun _ _ hu => .touch hu))) .none)
          (.foldl ht (fun _ _ hu => .touch hu)))
      · refine .ite (.ok (.count (.adv (.statusB (.mod (.foldl ht (fun _ _ hu => .touch hu))))))) ?_
        split
        · exact .ok (.yield (.foldl ht (fun _ _ hu => .touch hu)))
        · exact .ok (.blocking (.foldl ht (fun _ _ hu => .touch hu)) (.ite (.some (.foldl ht (fun _ _ hu => .touch hu)))
            .none) (.foldl ht (fun _ _ hu => .touch hu)))

theorem OkHolds.waitcPoll (h : s.Wf) : OkHolds State.Wf (waitcPoll p g y d a b l s) := by
  unfold Machine.waitcPoll
  dsimp only
  exact .countPoll h

theorem NextWf.execWaitc (h : s.Wf) : NextWf (execWaitc g y d a b l s) := .guarded h (fun _ ht => .waitcPoll ht)

theorem OkHolds.vwaitcPoll {b : VReg} {i : BitVec 24} (h : s.Wf) : OkHolds State.Wf (vwaitcPoll p g y d a b l i s) := by
  unfold Machine.vwaitcPoll
  split
  · exact .error
  · dsimp only
    exact .countPoll h

theorem NextWf.execVwaitc {b : VReg} {i : BitVec 24} (h : s.Wf) : NextWf (execVwaitc g y d a b l i s) :=
  .guarded h (fun _ ht => .vwaitcPoll ht)
theorem State.Wf.modArr {k : Nat} {f : Arrival → Arrival} (h : s.Wf) : (s.modArr k slot f).Wf := h

theorem State.Wf.arriveHome {core ctx : Nat} {n : Nat} (h : s.Wf) : (s.arriveHome core ctx sc va n).2.2.Wf := by
  unfold State.arriveHome
  split
  · exact h
  · dsimp only
    split
    · exact .endLaunch h
    · split
      · exact h
      · split
        · exact h
        · split
          · exact h
          · split
            · refine State.Wf.foldl ?_ fun _ _ ht => .xcSend ht
              refine State.Wf.posts ?_
              exact State.Wf.barWrite h
            · exact State.Wf.barWrite h

theorem NextWf.execBarrierArrival (h : s.Wf) : NextWf (execBarrierArrival s) := by
  unfold Machine.execBarrierArrival
  dsimp only
  split
  · refine .ite (.next h) ?_
    split
    · exact .ite (.next h) (.next h)
    · exact .ite (.next (.xcSend h)) (.next (.post (.modArr (.arriveHome h))))
  · exact .next h

theorem NextWf.execBarrierWithdraw (h : s.Wf) : NextWf (execBarrierWithdraw s) := by
  unfold Machine.execBarrierWithdraw
  dsimp only
  split
  · refine .ite (.next h) ?_
    split
    · exact .next (.ite h h)
    · refine .ite (.next (.xcSend h)) ?_
      split
      · exact .next (.endLaunch h)
      · exact .ite (.next (.modArr (.withdraw h))) (.next (.drain (.modArr (.withdraw h))))
  · exact .next h

theorem NextWf.execBarrierComplete (h : s.Wf) : NextWf (execBarrierComplete s) :=
  .ite (.next (.endLaunch h)) (.ite (.next (.drain h)) (.next h))

theorem State.Wf.barTest (h : s.Wf) : (barTest p i d dl slot s).Wf := by
  unfold Machine.barTest
  dsimp only
  split
  · exact .adv h
  · refine .ite h ?_
    refine .ite (.adv (.statusB h)) ?_
    split
    · exact .ite (.count (.adv (.statusB h))) (.count (.adv (.statusB h)))
    · exact .ite (.adv (.statusB h)) (.ite h (.ite h (.ite h h)))

theorem SomeHolds.sendArrival (h : s.Wf) : SomeHolds (·.2.Wf) (s.sendArrival i sc va dl) := by
  unfold State.sendArrival
  split
  · exact .none
  · dsimp only
    exact .some h

theorem OkHolds.barPoll (h : s.Wf) : OkHolds State.Wf (barPoll p g sc d a b l s) := by
  unfold Machine.barPoll
  dsimp only
  split
  · split
    · exact .error
    · split
      · exact .ok h
      next t e =>
        have ht : t.Wf := .of_some_snd e (.sendArrival h)
        exact .ok ht
  · exact .ok (.barTest h)

theorem NextWf.execBar (h : s.Wf) : NextWf (execBar g sc d a b l s) := .guarded h (fun _ ht => .barPoll ht)

theorem OkHolds.baraPoll (h : s.Wf) : OkHolds State.Wf (baraPoll p g sc d a b s) := by
  unfold Machine.baraPoll
  split
  · split
    · exact .error
    · split
      · exact .ok h
      next t e =>
        have ht : t.Wf := .of_some_snd e (.sendArrival h)
        exact .ok ht
  · dsimp only
    split
    · exact .ok h
    · exact .ite (.ok h) (.ite (.ok (.adv h)) (.ok h))

theorem NextWf.execBara (h : s.Wf) : NextWf (execBara g sc d a b s) := .guarded h (fun _ ht => .baraPoll ht)

theorem OkHolds.barwPoll (h : s.Wf) : OkHolds State.Wf (barwPoll p g d a l s) := by
  unfold Machine.barwPoll
  split
  · exact .ok (.adv h)
  · exact .ok (.barTest h)

theorem NextWf.execBarw (h : s.Wf) : NextWf (execBarw g d a l s) := .guarded h (fun _ ht => .barwPoll ht)
theorem OkHolds.fencePoll (h : s.Wf) : OkHolds State.Wf (fencePoll p g d l before after s) :=
  .ok (.blocking h (.ite (.some h) .none) h)
theorem NextWf.execFence (h : s.Wf) : NextWf (execFence g d l before after s) := .guarded h (fun _ ht => .fencePoll ht)
theorem OkHolds.fencescPoll (h : s.Wf) : OkHolds State.Wf (fencescPoll p g d l s) :=
  .ok (.blocking h (.ite (.some h) .none) h)
theorem NextWf.execFencesc (h : s.Wf) : NextWf (execFencesc g d l s) := .guarded h (fun _ ht => .fencescPoll ht)

end

/-! ### Machine/Batons.lean -/

section
variable {s : State} {a d b l c : SReg} {g : Guard} {prod : Bool} {lck x : Nat} {p : Poll} {len : BitVec 11}

theorem NextWf.execBdecl {rem : Bool} {x : Fin 16} (h : s.Wf) : NextWf (execBdecl g rem d a x s) := .plain h (fun _ ht => ht)
theorem State.Wf.modBaton {f : Baton → Baton} (h : s.Wf) : (s.modBaton lck x f).Wf := h

theorem SomeHolds.waitbCond (h : s.Wf) : SomeHolds (·.2.2.Wf) (waitbCond prod a b s) := by
  unfold Machine.waitbCond
  dsimp only
  split
  · exact .some h
  · exact .ite (.some h) (.ite (.some h) (.ite (.some (.drain h)) (.ite (.some h) .none)))

theorem OkHolds.waitbPoll (h : s.Wf) : OkHolds State.Wf (waitbPoll p g prod d a b l s) := .ok (.blocking h (.waitbCond h) h)
theorem NextWf.execWaitb (h : s.Wf) : NextWf (execWaitb g prod d a b l s) := .guarded h (fun _ ht => .waitbPoll ht)

theorem NextWf.execBadv (h : s.Wf) : NextWf (execBadv g d a b s) := by
  unfold Machine.execBadv
  refine .plain h (fun _ ht => ?_)
  dsimp only
  split
  · exact ht
  · exact .ite ht ht

theorem NextWf.execBrel (h : s.Wf) : NextWf (execBrel g d a b s) := by
  unfold Machine.execBrel
  refine .guarded h (fun _ ht => ?_)
  dsimp only
  split
  · exact .ok ht
  · exact .ite (.ite (.map (.commit ht) (fun _ hu => hu)) (.ok ht)) (.ok ht)

theorem NextWf.execBstat (h : s.Wf) : NextWf (execBstat g d a b s) := by
  unfold Machine.execBstat
  refine .plain h (fun _ ht => ?_)
  split <;> exact ht

theorem State.Wf.land {slot off : Nat} {l : List Byte} {last : Bool} (h : s.Wf) : (s.land lck x slot off l last).Wf :=
  .modBaton (.writeLds h)

theorem OkHolds.sendbPoll (h : s.Wf) : OkHolds State.Wf (sendbPoll p g d a b c l len s) := by
  unfold Machine.sendbPoll
  dsimp only
  split
  · split
    · exact .ok h
    · refine .ite (.ok h) ?_
      refine .ite (.ok h) ?_
      split
      · exact .error
      · exact .ok h
  · refine .ite (.ok (.adv h)) ?_
    split
    · exact .ok (.adv h)
    · exact .ite (.ok (.adv h)) (.ite (.ok (.count (.adv h))) (.ite (.ok (.count (.adv h))) (.ok h)))

theorem NextWf.execSendb (h : s.Wf) : NextWf (execSendb g d a b c l len s) := .guarded h (fun _ ht => .sendbPoll ht)

theorem NextWf.execSendbArrival (h : s.Wf) : NextWf (execSendbArrival s) := by
  unfold Machine.execSendbArrival
  dsimp only
  split
  · exact .next h
  · split
    · refine .ite (.next h) ?_
      refine .ite (.next h) ?_
      split
      · exact .next h
      · split <;> exact .next h
    · exact .next h

theorem NextWf.execSendbLanded (h : s.Wf) : NextWf (execSendbLanded s) := by
  unfold Machine.execSendbLanded
  split
  · exact .next h
  · split
    · exact .next h
    · dsimp only
      exact .next (.wakeCore (.land h))

end

end Sys2Proof.Machine
end

section
/-! SUPPORT. The canonical form of the byte stores: the matrix units and the engines. -/
namespace Sys2Proof.Machine

/-! ### Machine/Matrix.lean -/

section
variable {s : State} {o : MxOp} {g : Guard} {l a b c d : SReg} {tile : Fin 64} {p : Poll}
   {core fcode detail j n dl k nbc : Nat} {t : Fmt} {z : Bool} {x : BitVec 6} {slot : Fin 32} {va : Word} {w : Who}
   {lines : List Nat} {code : BitVec 8} {i : Instr} {st : Stk} {go : State → Tried}

theorem State.Wf.modSlot {i : Nat} {f : Slot → Slot} (h : s.Wf) : (s.modSlot core i f).Wf := h
theorem State.Wf.setRing {r : Option (Nat × Nat)} (h : s.Wf) : (s.setRing r).Wf := h

theorem NextWf.execSclaim (h : s.Wf) : NextWf (execSclaim g d x s) := by
  unfold Machine.execSclaim
  refine .guarded h (fun _ ht => ?_)
  split
  · exact .trapc
  · dsimp only
    split
    · exact .ok ht
    · exact .ok (.adv (.status (.setRing (.foldl ht (fun _ _ hu => hu)))))

theorem NextWf.execSrel (h : s.Wf) : NextWf (execSrel g a x s) := by
  unfold Machine.execSrel
  refine .guarded h (fun _ ht => ?_)
  dsimp only
  split
  · exact .trapc
  · exact .ite .trapc (.ok (.adv (.setRing (.foldl ht (fun _ _ hu => hu)))))

theorem NextWf.execSfill {len : BitVec 8} (h : s.Wf) : NextWf (execSfill g a b c len s) := by
  unfold Machine.execSfill
  refine .guarded h (fun _ ht => ?_)
  dsimp only
  split
  · exact .error
  · refine .ite .trapc ?_
    split
    · exact .error
    · exact .ite (.ok ht) (.ite (.ok ht) .trapc)

theorem NextWf.execSstat (h : s.Wf) : NextWf (execSstat g d a s) := by
  unfold Machine.execSstat
  refine .plain h (fun _ ht => ?_)
  dsimp only
  exact .ite ht ht

theorem NextWf.execSlotFillStart (h : s.Wf) : NextWf (execSlotFillStart slot s) := by
  unfold Machine.execSlotFillStart
  dsimp only
  split
  · exact .next h
  · exact .ite (.next h) (.next h)

theorem State.Wf.xlateWait {ctx : Nat} {key : Word} (h : s.Wf) : (s.xlateWait ctx va key).Wf := h
theorem State.Wf.unitWrite {ea : Word} {l : List Byte} (h : s.Wf) : (s.unitWrite w ea l).Wf :=
  .ite (.writeLds h) (.ite h (.stWords h))

theorem State.Wf.unitLines {cur : Nat × Nat} {keep : State → Nat × Nat → State} {go : State → State} (h : s.Wf) (hkeep : ∀ s
    t, s.Wf → (keep s t).Wf) (hgo : ∀ s, s.Wf → (go s).Wf) : (s.unitLines core lines cur keep go).Wf := by
  unfold State.unitLines
  split
  · exact hkeep _ _ h
  · exact hgo _ (.ite h (.countEv h))

theorem NextWf.execSlotFillEnd (h : s.Wf) : NextWf (Machine.execSlotFillEnd slot s) := by
  unfold Machine.execSlotFillEnd
  dsimp only
  split
  · exact .next h
  · split
    · exact .next (.settleSlots (.modSlot h))
    · exact .next (.xlateWait (.settleSlots (.modSlot (.touch h))))
    · split
      · exact .next (.settleSlots (.modSlot (.touch h)))
      · refine .next (.unlessHit (.touch h) (.unitLines (.touch h) (fun _ _ ht => .post (.modSlot ht)) fun _ ht => ?_))
        exact .count (.settleSlots (.modSlot (.writeOpmem ht)))

theorem State.Wf.accWrite {key : Nat} {l : List (Option Nat)} (h : s.Wf) : (s.accWrite key l).Wf := h
theorem State.Wf.accept (h : s.Wf) : (s.accept o n).Wf := .foldl h (fun _ _ ht => .postOnce ht)

theorem State.Wf.issueOp {kind : MxKind} {f : State → State} (h : s.Wf) (hf : ∀ s, s.Wf → (f s).Wf) : (s.issueOp kind dl n
    f).Wf :=
  .ite (.adv (.release (.accept (hf _ h)))) h

theorem NextWf.execMldw {ws : Bool} (h : s.Wf) : NextWf (execMldw g t ws a l s) := by
  unfold Machine.execMldw
  refine .guarded h (fun _ ht => ?_)
  dsimp only
  split
  · split
    · exact .error
    · refine .ite .trapc ?_
      split
      · exact .error
      · exact .ok (.issueOp ht (fun _ hu => hu))
  · split
    · exact .error
    · exact .ok (.issueOp ht (fun _ hu => hu))

theorem State.Wf.gangArrive {mask : BitVec 16} {op : MxOp} (h : s.Wf) : (s.gangArrive mask op code i dl).Wf := h
theorem State.Wf.gangTest (h : s.Wf) : (s.gangTest p).Wf :=
  .ite h (.ite h (.ite (.count (.adv h)) (.ite (.count (.adv h)) h)))

theorem OkHolds.heldOrReads {l : List (Word × Nat)} {f : State → Except TrapInfo State} (h : s.Wf) (hf : ∀ s, s.Wf → OkHolds
    State.Wf (f s)) : OkHolds State.Wf ((if s.st.held then (fun f => f s) else s.withReads w l) f) := by
  split
  · exact hf _ h
  · exact .withReads h hf

theorem OkHolds.productPoll {gang : Option (BitVec 16)} {reads : State → List (Word × Nat)} {op : State → Except TrapInfo
    (MxKind × Nat)} (h : s.Wf) : OkHolds State.Wf (Machine.productPoll p i code gang l reads op s) := by
  unfold Machine.productPoll
  refine .ite (.ok (.gangTest h)) (.heldOrReads h fun t ht => ?_)
  split
  · exact .error
  · split
    · exact .ok (.issueOp ht fun _ hu => hu)
    · exact .ite (.ok (.gangArrive ht)) (.ite (.ok (.adv (.release (.accept ht)))) (.ok (.hold ht)))

theorem OkHolds.mmaPoll {o : MxOpt} (h : s.Wf) : OkHolds State.Wf (mmaPoll p g o tile a b c l s) := .productPoll h
theorem OkHolds.mmagPoll {o : MxOpt} (h : s.Wf) : OkHolds State.Wf (mmagPoll p g o tile a b c l s) := .productPoll h
theorem OkHolds.mmasPoll {o : MxOpt} (h : s.Wf) : OkHolds State.Wf (mmasPoll p g o tile a b c l s) := .productPoll h
theorem NextWf.execMma {o : MxOpt} (h : s.Wf) : NextWf (execMma g o tile a b c l s) := .guarded h (fun _ ht => .mmaPoll ht)
theorem NextWf.execMmag {o : MxOpt} (h : s.Wf) : NextWf (execMmag g o tile a b c l s) := .guarded h (fun _ ht => .mmagPoll ht)
theorem NextWf.execMmas {o : MxOpt} (h : s.Wf) : NextWf (execMmas g o tile a b c l s) := .guarded h (fun _ ht => .mmasPoll ht)
theorem State.Wf.gangGo (h : s.Wf) : (s.gangGo k).Wf := h

theorem State.Wf.gangBad {b : RowArr} (h : s.Wf) : (s.gangBad b).Wf := by
  unfold State.gangBad
  split
  · exact h
  · exact .ite (.wakeSlices h) h

theorem State.Wf.gangDone {row : Nat} {l : List RowArr} (h : s.Wf) : (s.gangDone row l).Wf := by
  unfold State.gangDone
  split
  · exact h
  · split
    · exact .foldl h (fun _ _ ht => .drain ht)
    · extract_lets _ _ _ t
      have ht : t.Wf := .ite (.wakeSlices h) (.accept h)
      exact .foldl ht (fun _ _ hu => hu)

theorem NextWf.execGangBarrier {part : Fin 4} (h : s.Wf) : NextWf (execGangBarrier part s) := by
  unfold Machine.execGangBarrier
  dsimp only
  split
  · exact .next (.post (.gangGo (.accept h)))
  · exact .ite (.next h) (.next h)
  · split
    · exact .next (.post (.foldl h (fun _ _ ht => .gangBad ht)))
    · exact .ite (.next h) (.next (.post (.gangDone h)))

theorem State.Wf.report {step : Nat} {keep : Bool} (h : s.Wf) : (s.report o fcode detail step keep).Wf :=
  .foldl h (fun _ _ ht => ht)
theorem State.Wf.leave (h : s.Wf) : (s.leave o).Wf := .wakeSlices (.foldl h (fun _ _ ht => .wakeCore ht))
theorem State.Wf.finish (h : s.Wf) : (s.finish o).Wf := .report (.leave h)
theorem State.Wf.endAt (h : s.Wf) : (s.endAt o fcode detail).Wf := .report (.leave h)

theorem State.Wf.stopOp (h : s.Wf) : (s.stopOp o fcode detail va).Wf := by
  unfold State.stopOp
  extract_lets _ t
  have ht : t.Wf := .report (.unname h)
  exact .foldl ht (fun _ _ hu => hu)

theorem State.Wf.putOp (h : s.Wf) : (s.putOp o).Wf := h

theorem State.Wf.loadTile {part : Nat} (h : s.Wf) : (State.loadTile part j s k).Wf := by
  unfold State.loadTile
  split
  · exact .ite h h
  · exact h

theorem State.Wf.writeUnits : ∀ {s : State} {us : List Nat} {ts : Tiles}, s.Wf → (s.writeUnits o us ts).Wf
  | _, [], _, h => h
  | _, _ :: _, [], h => h
  | s, u :: _, t :: _, h => State.Wf.writeUnits (s := s.accWrite (accKey (rowOf o.core) o.part u 0) t) h

theorem State.Wf.mergeTop {y x : Nat × Nat × List Nat} (h : s.Wf) : (s.mergeTop o y x).1.Wf := by
  unfold State.mergeTop
  split
  · exact h
  · split
    · exact h
    · split
      exact .writeUnits h

theorem State.Wf.merge {all : Bool} : ∀ {n : Nat} {s : State} {st : Stk} {f : FFlags}, s.Wf → (State.merge o all n s st
    f).1.Wf
  | 0, _, _, _, h => h
  | n + 1, s, st, f, h => by
    unfold State.merge
    split
    · dsimp only
      split
      · exact State.Wf.merge (.mergeTop h)
      · exact h
    · exact h

theorem State.Wf.padStack : ∀ {n j : Nat} {s : State} {st : Stk} {f : FFlags}, s.Wf → (State.padStack o n j s st f).1.Wf
  | 0, _, _, _, _, h => h
  | n + 1, j, s, st, f, h =>
    State.Wf.padStack (n := n) (s := (State.merge o false 64 s ((j, j + 1, []) :: st) f).1) (.merge h)

theorem State.Wf.pushBlock {used : List Nat} {t : Tiles} (h : s.Wf) : (s.pushBlock o used st j t).1.Wf :=
  .merge (.writeUnits (.padStack h))

theorem State.Wf.rootOf {c : Nat} (h : s.Wf) : (s.rootOf o st c).1.Wf := by
  unfold State.rootOf
  dsimp only
  split <;> exact .merge (.padStack h)

theorem State.Wf.storeRows {tile : Nat} {base rows : Nat} {t : Tiles} (h : s.Wf) :
    (s.storeRows o tile z base rows t).1.Wf := by
  refine foldl_holds (P := fun x : State × FFlags => x.1.Wf) (fun a _ ha => ?_) h
  refine foldl_holds (P := fun x : State × FFlags => x.1.Wf) (fun b _ hb => ?_) ha
  dsimp only
  split
  · exact hb
  · exact hb

theorem SomeHolds.productStep {tile : Nat} {c : Nat} (h : s.Wf) : SomeHolds (·.1.Wf) (s.productStep o tile t z c) := by
  unfold State.productStep
  split
  · dsimp only
    split
    · exact .none
    · refine .ite (.some (.storeRows h)) ?_
      split
      · refine .some ?_
        split <;> exact .storeRows (.rootOf (.pushBlock h))
      · exact .some (.pushBlock h)

theorem SomeHolds.mmasStep {tile : Nat} {e : MmasEnt} (h : s.Wf) : SomeHolds (·.1.Wf) (s.mmasStep o tile t z nbc e) := by
  unfold State.mmasStep
  refine .ite (.some h) ?_
  split
  · exact .none
  · split
    · split
      next t _ e =>
        have ht : t.Wf := .of_fst e (.storeRows h)
        exact .some ht
    · dsimp only
      exact .some (.pushBlock h)

theorem State.Wf.mmasEnd {tile : Nat} {nbr : Nat} (h : s.Wf) : (s.mmasEnd o tile z nbr nbc).1.Wf := by
  refine foldl_holds (P := fun x : State × FFlags => x.1.Wf) (fun a _ ha => ?_) h
  dsimp only
  split
  · split
    · exact .storeRows ha
    · exact ha
  · split
    · split
      · exact .storeRows (.rootOf ha)
      · exact .rootOf ha
    · exact .storeRows (.rootOf ha)

theorem Tried.Wf.slotDelay {slot : Nat} (h : s.Wf) : (s.slotDelay o slot).Wf := by
  unfold State.slotDelay
  dsimp only
  split
  · exact .stopOp h
  · split
    · exact h
    · exact .count h

theorem State.Wf.stepped (h : s.Wf) : (s.stepped o).Wf := by
  unfold State.stepped
  extract_lets t
  have ht : t.Wf := .modRow (.count h)
  split
  · split
    · split
      next u _ e =>
        have hu : u.Wf := .of_fst e (.mmasEnd ht)
        exact .finish hu
    · exact .finish ht
  · exact .foldl ht (fun _ _ hu => hu)

theorem Tried.Wf.emptyOp (h : s.Wf) : (s.emptyOp o).Wf := by
  unfold State.emptyOp
  split
  · split
    next t _ e =>
      have ht : t.Wf := .of_fst e (.mmasEnd h)
      exact .finish ht
  · exact .finish h

theorem Tried.Wf.afterLines (h : s.Wf) (hgo : ∀ s, s.Wf → (go s).Wf) : (s.afterLines o lines go).Wf := by
  unfold State.afterLines
  split
  · exact h
  · exact hgo _ (.ite h (.countEv h))

theorem Tried.Wf.withTile (h : s.Wf) (hgo : ∀ s, s.Wf → (go s).Wf) : (s.withTile o j go).Wf :=
  .afterLines h (fun _ ht => hgo _ (.foldl ht (fun _ _ hu => .loadTile hu)))

theorem Tried.Wf.tryStep (h : s.Wf) : (s.tryStep o).Wf := by
  unfold State.tryStep
  split
  · exact .endAt h
  · split
    · exact .emptyOp h
    · split
      · exact .stepped h
      · split
        · split
          · exact h
          · exact .stepped (.unitWrite h)
      · split
        · split
          · dsimp only
            exact .afterLines h (fun _ ht => .stepped ht)
          · exact .stepped h
        · split
          · exact .stopOp h
          · exact .slotDelay h
          · exact .stepped h
      · split
        · exact .endAt h
        · split
          · exact .endAt h
          · dsimp only
            split
            · exact .stopOp h
            · exact .slotDelay h
            · refine .withTile h (fun _ ht => ?_)
              split
              · exact .endAt ht
              next u _ e =>
                have hu : u.Wf := .of_some_fst e (.productStep ht)
                exact .stepped hu
      · split
        · exact .endAt h
        · split
          · exact .endAt h
          · dsimp only
            split
            · exact .stopOp h
            · exact .slotDelay h
            · refine .withTile h (fun _ ht => ?_)
              split
              · exact .endAt ht
              next u _ e =>
                have hu : u.Wf := .of_some_fst e (.productStep ht)
                exact .stepped hu
      · split
        · exact .endAt h
        · split
          · exact .slotDelay h
          · split
            · exact .stopOp h
            · dsimp only
              split
              · exact .stepped h
              · split
                · split <;> exact .stopOp h
                · exact .slotDelay h
                · refine .withTile h (fun _ ht => ?_)
                  split
                  · exact .endAt ht
                  next u _ e =>
                    have hu : u.Wf := .of_some_fst e (.mmasStep ht)
                    exact .stepped hu

theorem State.Wf.dropCancelled (h : s.Wf) : (s.dropCancelled core).Wf := .foldl h (fun _ _ ht => .leave (.unname ht))

theorem State.Wf.tryParts : ∀ {l : List Nat} {s : State}, s.Wf → (State.tryParts core l s).Wf
  | [], _, h => h
  | p :: ps, s, h => by
    unfold State.tryParts
    split
    · exact State.Wf.tryParts h
    · split
      next e => exact State.Wf.tryParts (Tried.Wf.of_waits e (.tryStep h))
      next e => exact Tried.Wf.of_acted e (.tryStep h)

theorem NextWf.execSequencerStep (h : s.Wf) : NextWf (execSequencerStep s) := by
  unfold Machine.execSequencerStep
  extract_lets _ t u v
  have ht : t.Wf := .dropCancelled h
  have hu : u.Wf := .tryParts ht
  have hv : v.Wf := .ite (.postOnce hu) hu
  exact .next (.ite (.postOnce hv) hv)

theorem NextWf.execMmasPrefetch (h : s.Wf) : NextWf (execMmasPrefetch s) := by
  unfold Machine.execMmasPrefetch
  dsimp only
  split
  · exact .next h
  · split
    · split
      · exact .next (.postOnce h)
      · refine .ite (.next (.endLaunch h)) ?_
        split
        · refine .ite (.next (.postOnce h)) ?_
          refine .next ?_
          refine .postOnce ?_
          refine .postOnce ?_
          refine .putOp ?_
          split
          · exact .foldl (.ite (.xlateWait (.touch (.ite h (.countEv h)))) (.touch (.ite h (.countEv h)))) (fun _ _ ht => ht)
          · exact .ite (.xlateWait (.touch (.ite h (.countEv h)))) (.touch (.ite h (.countEv h)))
        · refine .ite (.next (.postOnce h)) ?_
          refine .next ?_
          refine .postOnce ?_
          refine .postOnce ?_
          refine .putOp ?_
          split
          · exact .foldl (.ite (.xlateWait (.touch (.ite h (.countEv h)))) (.touch (.ite h (.countEv h)))) (fun _ _ ht => ht)
          · exact .ite (.xlateWait (.touch (.ite h (.countEv h)))) (.touch (.ite h (.countEv h)))
    · exact .next h

theorem SomeHolds.mwaitCond (h : s.Wf) : SomeHolds (·.2.2.Wf) (mwaitCond s) := by
  unfold Machine.mwaitCond
  split
  · exact .some h
  · split
    · exact .some h
    · split
      · exact .none
      · exact .ite (.some (.count h)) (.some h)

theorem OkHolds.mwaitPoll (h : s.Wf) : OkHolds State.Wf (mwaitPoll p g d l s) := .ok (.blocking h (.mwaitCond h) h)
theorem NextWf.execMwait (h : s.Wf) : NextWf (execMwait g d l s) := .guarded h (fun _ ht => .mwaitPoll ht)

theorem OkHolds.mresumePoll (h : s.Wf) : OkHolds State.Wf (mresumePoll p g l s) := by
  unfold Machine.mresumePoll
  refine .ite (.ok (.gangTest h)) ?_
  split
  · exact .ok h
  · refine .ite (.ok h) ?_
    refine .ite (.ok h) ?_
    extract_lets _ t
    have ht : t.Wf := by
      unfold t
      split <;> exact h
    exact .ok (.adv (.wakeSlices ht))

theorem NextWf.execMresume (h : s.Wf) : NextWf (execMresume g l s) := .guarded h (fun _ ht => .mresumePoll ht)

theorem NextWf.execMout {m : Rm} {sc : Bool} (h : s.Wf) : NextWf (execMout g t m sc tile a b s) := by
  unfold Machine.execMout
  refine .guarded h (fun _ ht => ?_)
  dsimp only
  split
  · exact .error
  · refine .ite .trapc ?_
    refine .ite (.ok ht) ?_
    split
    · exact .error
    next u e =>
      have hu : u.Wf := .of_ok e (.logRun ht)
      exact .ok (.issueOp hu (fun _ hv => .touch hv))

theorem NextWf.execMzero (h : s.Wf) : NextWf (execMzero g tile s) :=
  .guarded h (fun _ ht => .ite .trapc (.ok (.issueOp ht (fun _ hu => hu))))
theorem NextWf.execMstat {sel : MstatSel} (h : s.Wf) : NextWf (execMstat g d sel s) := .plain h (fun _ ht => ht)

end

/-! ### Machine/Engines.lean -/

section
variable {s : State} {a d l b c : SReg} {g : Guard} {p : Poll} {i : Instr} {t : Fmt} {n : BitVec 8} {z : BitVec 10} {w : Who}
   {f : State → Cmd → State} {ctx reason : Nat} {src dst : Layout} {check : State → Except TrapInfo Issued} {va : Word}

theorem State.Wf.putCmd {c : Cmd} (h : s.Wf) : (s.putCmd c).Wf := h

theorem State.Wf.acceptCmd {c : Cmd} {first : Option Instr} (h : s.Wf) : (s.acceptCmd c first).2.Wf := by
  unfold State.acceptCmd
  dsimp only
  split <;> exact h

theorem OkHolds.engineTest (h : s.Wf) (hcheck : OkHolds Issued.Wf (check s)) : OkHolds State.Wf (Machine.engineTest p i d l
    check s) := by
  unfold Machine.engineTest
  split
  · exact .error
  next e => exact .ok (.adv (.statusB (.unblock (hcheck _ e))))
  next e =>
    have ht : State.Wf _ := hcheck _ e
    exact .ok (.blocking h (.ite (.some (.acceptCmd ht)) .none) h)

theorem OkHolds.enginePoll {reads : State → List (Word × Nat)} (h : s.Wf) (hcheck : ∀ s, s.Wf → OkHolds Issued.Wf (check s)) :
    OkHolds State.Wf (Machine.enginePoll p i d l reads check s) :=
  .ite (.withReads h fun _ ht => .engineTest ht (hcheck _ ht)) (.engineTest h (hcheck _ h))

theorem State.Wf.unitTouch {ea : Word} {n : Nat} (h : s.Wf) : (s.unitTouch w ea n).Wf := by
  unfold State.unitTouch
  refine .ite h (.foldl h fun t p ht => ?_)
  dsimp only
  split
  · exact ht
  · exact .ite ht (.modDie (.countEv (.countEv ht)))
  · exact .ite ht (.ofStores rfl rfl rfl rfl (.countEv ht))

theorem State.Wf.endCmd {c : Cmd} {final : Nat} (h : s.Wf) : (s.endCmd c final reason va).Wf := h
theorem State.Wf.failCmd {c : Cmd} (h : s.Wf) : (s.failCmd c reason va).Wf :=
  .unlessHit h (.xlateWait (.endCmd (.unitTouch h)))

theorem State.Wf.rereadFirst {c : Cmd} {stay : State → State} (h : s.Wf) (hstay : ∀ s, s.Wf → (stay s).Wf) (hf : ∀ s t, s.Wf →
    (f s t).Wf) : (s.rereadFirst c stay f).Wf := by
  unfold State.rereadFirst
  dsimp only
  split
  · exact hf _ _ h
  · exact .unlessHit h (.unitLines h (fun _ _ ht => hstay _ ht) (fun _ ht => hf _ _ ht))

theorem State.Wf.cmdStep (h : s.Wf) (hf : ∀ s t, s.Wf → (f s t).Wf) : (s.cmdStep f).Wf := by
  unfold State.cmdStep
  split
  · exact h
  · refine .ite h ?_
    split
    · split
      · exact .wakeCore h
      · exact h
    · refine .rereadFirst h (fun _ ht => ?_) (fun _ _ ht => hf _ _ ht)
      split <;> exact ht

theorem NextWf.execEngineCommandEnd (h : s.Wf) : NextWf (execEngineCommandEnd s) := by
  unfold Machine.execEngineCommandEnd
  split
  · exact .next h
  · exact .next (.ite (.wakeCore h) h)

theorem OkHolds.copyCheck {fetch : Bool} (h : s.Wf) : OkHolds Issued.Wf (Machine.copyCheck fetch i a b c s) := by
  unfold Machine.copyCheck
  refine .ite (.ok h) (.ite (.ok h) ?_)
  split
  · exact .error
  · exact .error
  · split
    · exact .error
    next e => exact .ite (.ok h) (.ok (State.Wf.of_ok e (.ite (.ok h) (.logRun h))))

theorem OkHolds.fetchPoll (h : s.Wf) : OkHolds State.Wf (fetchPoll p g d a b c l s) :=
  .enginePoll h (fun _ ht => .copyCheck ht)
theorem OkHolds.putPoll (h : s.Wf) : OkHolds State.Wf (putPoll p g d a b c l s) := .enginePoll h (fun _ ht => .copyCheck ht)
theorem NextWf.execFetch (h : s.Wf) : NextWf (execFetch g d a b c l s) := .guarded h (fun _ ht => .fetchPoll ht)
theorem NextWf.execPut (h : s.Wf) : NextWf (execPut g d a b c l s) := .guarded h (fun _ ht => .putPoll ht)

theorem NextWf.execGdeTransferBlock (h : s.Wf) : NextWf (execGdeTransferBlock s) := by
  unfold Machine.execGdeTransferBlock
  refine .next ?_
  refine .cmdStep h (fun _ _ ht => ?_)
  dsimp only
  refine .ite ht ?_
  refine .ite ht ?_
  split
  · exact .failCmd ht
  · exact .unlessHit ht (.unitLines ht (fun _ _ hu => hu) (fun _ hu => .ite (.endCmd (.unitTouch (.unitWrite hu))) (.post
      (.putCmd (.unitTouch (.unitWrite hu))))))

theorem OkHolds.gatherCheck (h : s.Wf) : OkHolds Issued.Wf (gatherCheck i a b c n z s) := by
  unfold Machine.gatherCheck
  dsimp only
  split
  · exact .error
  · split
    · exact .error
    · split
      · exact .error
      · exact .ite (.ok h) (.ite (.ok h) (.ite (.ok h) (.ok h)))

theorem OkHolds.gatherPoll (h : s.Wf) : OkHolds State.Wf (gatherPoll p g d a b c l n z s) :=
  .enginePoll h (fun _ ht => .gatherCheck ht)
theorem NextWf.execGather (h : s.Wf) : NextWf (execGather g d a b c l n z s) := .guarded h (fun _ ht => .gatherPoll ht)

theorem Sunk.Wf.sink {c : Cmd} {q : BitVec 32} {l : List Byte} (h : s.Wf) : (s.sink c q l).Wf := by
  unfold State.sink
  split
  · exact trivial
  · dsimp only
    split
    · split
      · exact trivial
      · exact State.Wf.unitWrite h
    · split
      · exact State.Wf.land (.modBaton h)
      all_goals exact trivial

theorem State.Wf.writeRecord {c : Cmd} (h : s.Wf) : (s.writeRecord c).Wf := by
  unfold State.writeRecord
  split
  · dsimp only
    exact .ite (.ctxWrite (.ctxWrite h)) h
  · exact h

theorem State.Wf.afterSink {c : Cmd} {r : Sunk} {more : State → Cmd → State} (h : s.Wf) (hr : r.Wf) (hmore : ∀ s c, s.Wf →
    (more s c).Wf) : (s.afterSink c i r more).Wf := by
  cases r with
  | done s c => exact hmore s c hr
  | stale n => exact .endCmd h
  | again n => exact .post (.putCmd h)
  | full => exact .writeRecord (.putCmd h)

theorem State.Wf.replayOr (h : s.Wf) (hf : ∀ s t, s.Wf → (f s t).Wf) : (s.replayOr i f).Wf := by
  unfold State.replayOr
  split
  · exact h
  · split
    · exact .cmdStep h (fun _ _ ht => hf _ _ ht)
    · refine .ite (.cmdStep h (fun _ _ ht => hf _ _ ht)) ?_
      refine .ite h ?_
      split
      next t _ e =>
        have ht : t.Wf := Sunk.Wf.of_done e (.sink h)
        exact ht
      · exact h
      · exact h

theorem State.Wf.dedup {a : Word} (h : s.Wf) : (State.dedup w s a).Wf := by
  unfold State.dedup
  split
  · exact h
  · dsimp only
    exact .ite (.countEv h) h

theorem NextWf.execGdeRowFetch (h : s.Wf) : NextWf (execGdeRowFetch s) := by
  unfold Machine.execGdeRowFetch
  refine .next ?_
  refine .replayOr h (fun _ _ ht => ?_)
  split
  · refine .ite ht ?_
    split
    · exact ht
    · extract_lets _ _ _ _ _ _ _ _ _ u
      have hu : u.Wf := .foldl ht (fun _ _ hu => .unitTouch hu)
      split
      · exact .failCmd ht
      · refine .unlessHit hu ?_
        refine .afterSink hu (.sink hu) (fun _ _ hv => ?_)
        extract_lets w
        have hw : w.Wf := .foldl hv (fun _ _ hw => .dedup hw)
        exact .ite hw hw
  · exact ht

theorem OkHolds.scataCheck (h : s.Wf) : OkHolds Issued.Wf (scataCheck i t a b c n z s) := by
  unfold Machine.scataCheck
  dsimp only
  split
  · exact .error
  · split
    · exact .error
    · split
      · exact .error
      · split
        · exact .error
        · refine .ite (.ok h) ?_
          split
          · exact .error
          next t e =>
            have ht : t.Wf := .of_ok_snd e (.heapAlloc h)
            split
            · exact .error
            next u e' =>
              have hu : u.Wf := .of_ok e' (.commit ht)
              exact .ok hu

theorem OkHolds.scataPoll (h : s.Wf) : OkHolds State.Wf (scataPoll p g t d a b c l n z s) :=
  .enginePoll h (fun _ ht => .scataCheck ht)
theorem NextWf.execScata (h : s.Wf) : NextWf (execScata g t d a b c l n z s) := .guarded h (fun _ ht => .scataPoll ht)

theorem State.Wf.scataRow : ∀ {us : List (List Byte)} {a : Word} {r : State × FFlags × Option Word}, r.1.Wf → (State.scataRow
    w t a us r).1.Wf
  | [], _, _, h => h
  | u :: us, a, (s, f, bad), h => by
    unfold State.scataRow
    dsimp only
    split
    · exact State.Wf.scataRow h
    · exact State.Wf.scataRow (.unitWrite h)

theorem State.Wf.applyScata {held : HeldScata} (h : s.Wf) : (s.applyScata ctx held).Wf := by
  unfold State.applyScata
  extract_lets m src w rows at_ hit t
  have ht : t.Wf := .foldl h fun _ _ hu => .unitTouch hu
  refine .unlessHit ht ?_
  have hrows : ((List.range held.idx.length).foldl (fun (acc : State × FFlags × Option Word) i =>
      State.scataRow w held.t (rowAt held.base held.z (nth held.idx i 0))
        (chunks (fmtSize held.t) (held.z / fmtSize held.t) (nth rows i [])) acc) (t, (0 : FFlags), (none : Option Word))).1.Wf :=
    foldl_holds (P := fun x : State × FFlags × Option Word => x.1.Wf) (fun _ _ hu => .scataRow hu) ht
  split
  next u f bad e =>
    have hu : u.Wf := .of_fst e hrows
    dsimp only
    split
    · exact .modLaunch (.heapFree hu)
    · split
      · exact .endCmd (.modLaunch (.heapFree hu))
      · exact .failCmd (.modLaunch (.heapFree hu))

theorem NextWf.execScataApply (h : s.Wf) : NextWf (execScataApply s) := by
  unfold Machine.execScataApply
  dsimp only
  split
  · exact .next h
  · split
    · exact .next (.post (.rereadFirst h (fun _ ht => ht) (fun _ _ ht => .modLaunch ht)))
    · refine .ite (.next h) ?_
      split
      · exact .next h
      · exact .next (.post (.post (.applyScata (.modLaunch h))))

theorem OkHolds.ewaitPoll (h : s.Wf) : OkHolds State.Wf (ewaitPoll p g d a l s) := by
  unfold Machine.ewaitPoll
  split
  · exact .ok (.adv h)
  · exact .ok (.blocking h (.ite (.ite (.some (.drain h)) (.some h)) .none) h)

theorem NextWf.execEwait (h : s.Wf) : NextWf (execEwait g d a l s) := .guarded h (fun _ ht => .ewaitPoll ht)
theorem NextWf.execEstat (h : s.Wf) : NextWf (execEstat g d a s) := .plain h (fun _ ht => ht)
theorem State.Wf.modNle {d : Fin 4} {f : Nle → Nle} (h : s.Wf) : (s.modNle d ctx f).Wf := .modDie h
theorem State.Wf.supersede {unit : Nat} {bins : Bool} (h : s.Wf) : (s.supersede unit ctx bins).Wf := h

theorem OkHolds.nlcfgCheck (h : s.Wf) : OkHolds Issued.Wf (nlcfgCheck i a s) := by
  unfold Machine.nlcfgCheck
  dsimp only
  split
  · exact .error
  · exact .ite (.ok h) (.ite (.ok (.modNle h)) (.ok (.modNle h)))

theorem OkHolds.nlcfgPoll (h : s.Wf) : OkHolds State.Wf (nlcfgPoll p g d a l s) := .enginePoll h (fun _ ht => .nlcfgCheck ht)
theorem NextWf.execNlcfg (h : s.Wf) : NextWf (execNlcfg g d a l s) := .guarded h (fun _ ht => .nlcfgPoll ht)

theorem OkHolds.nlbinCheck (h : s.Wf) : OkHolds Issued.Wf (Machine.nlbinCheck i a b s) := by
  unfold Machine.nlbinCheck
  dsimp only
  split
  · exact .error
  · split
    · exact .error
    · exact .error
    next e =>
      have ht := State.Wf.of_ok e (by
        split
        · exact .ok h
        · exact .bindAny fun _ => .logRun h)
      exact .ite (.ok h) (.ite (.ok h) (.ite (.ok h) (.ok (State.Wf.supersede ht))))

theorem OkHolds.nlbinPoll (h : s.Wf) : OkHolds State.Wf (nlbinPoll p g d a b l s) :=
  .enginePoll h (fun _ ht => .nlbinCheck ht)
theorem NextWf.execNlbin (h : s.Wf) : NextWf (execNlbin g d a b l s) := .guarded h (fun _ ht => .nlbinPoll ht)
theorem State.Wf.scribble {c : NlCfg} (h : s.Wf) : (s.scribble w c).Wf := .unitWrite h

theorem NextWf.execNlbinComplete (h : s.Wf) : NextWf (execNlbinComplete s) := by
  unfold Machine.execNlbinComplete
  refine .next ?_
  refine .cmdStep h (fun _ _ ht => ?_)
  dsimp only
  split
  · exact ht
  · refine .unitLines ht (fun _ _ hu => hu) (fun _ hu => ?_)
    refine .unlessHit (.unitTouch (.unitTouch hu)) ?_
    split
    · exact .endCmd (.modNle (.unitTouch (.unitTouch hu)))
    · exact .endCmd (.modNle (.unitTouch (.unitTouch hu)))
    · exact .endCmd (.modNle (.scribble (.unitTouch (.unitTouch hu))))

theorem OkHolds.nlpairsCheck (h : s.Wf) : OkHolds Issued.Wf (nlpairsCheck i a b c s) := by
  unfold Machine.nlpairsCheck
  dsimp only
  split
  · exact .error
  · split
    · split
      · exact .error
      · exact .ite (.ok h) (.ite (.ok h) (.ite (.ok h) (.ok (.modNle h))))
    · exact .ite (.ok h) (.ok h)

theorem OkHolds.nlpairsPoll (h : s.Wf) : OkHolds State.Wf (nlpairsPoll p g d a b c l s) :=
  .enginePoll h (fun _ ht => .nlpairsCheck ht)
theorem NextWf.execNlpairs (h : s.Wf) : NextWf (execNlpairs g d a b c l s) := .guarded h (fun _ ht => .nlpairsPoll ht)

theorem NextWf.execNleBlock (h : s.Wf) : NextWf (execNleBlock s) := by
  unfold Machine.execNleBlock
  refine .next ?_
  refine .replayOr h (fun _ _ ht => ?_)
  dsimp only
  split
  · refine .ite ht ?_
    refine .unitLines ht (fun _ _ hu => hu) (fun _ hu => ?_)
    refine .unlessHit (.foldl hu (fun _ _ hv => .unitTouch hv)) ?_
    split
    · refine .ite (.endCmd (.foldl hu (fun _ _ hv => .unitTouch hv))) ?_
      split
      · exact .endCmd (.foldl hu (fun _ _ hv => .unitTouch hv))
      · refine .afterSink (.foldl hu (fun _ _ hv => .unitTouch hv)) (.sink (.foldl hu (fun _ _ hv => .unitTouch hv))) (fun _ _
          hv => ?_)
        split
        · exact .endCmd (.modNle (.countEv hv))
        · exact .post (.putCmd (.modNle (.countEv hv)))
    · refine .ite (.endCmd (.foldl hu (fun _ _ hv => .unitTouch hv))) ?_
      split
      · exact .endCmd (.foldl hu (fun _ _ hv => .unitTouch hv))
      · refine .afterSink (.foldl hu (fun _ _ hv => .unitTouch hv)) (.sink (.foldl hu (fun _ _ hv => .unitTouch hv))) (fun _ _
          hv => ?_)
        split
        · exact .endCmd (.modNle (.countEv hv))
        · exact .post (.putCmd (.modNle (.countEv hv)))
  · exact ht

theorem NextWf.execNlstat {sel : Fin 16} (h : s.Wf) : NextWf (execNlstat g d sel s) := .plain h (fun _ ht => ht)

theorem OkHolds.convCheck (h : s.Wf) : OkHolds Issued.Wf (convCheck i t src dst a b s) := by
  unfold Machine.convCheck
  dsimp only
  refine .bindAny (fun _ => ?_)
  refine .bindAny (fun _ => ?_)
  split
  · refine .ite (.ok h) ?_
    split
    · exact .ok h
    · exact .bindAny (fun _ => .bindAny (fun _ => .bind (.logRuns h) (fun _ ht => .ite (.ok h) (.ok ht))))
  · exact .ok h

theorem OkHolds.convPoll (h : s.Wf) : OkHolds State.Wf (convPoll p g t src dst d a b l s) :=
  .enginePoll h (fun _ ht => .convCheck ht)
theorem NextWf.execConv (h : s.Wf) : NextWf (execConv g t src dst d a b l s) := .guarded h (fun _ ht => .convPoll ht)
theorem State.Wf.someWrites {l : List (Word × List Byte)} (h : s.Wf) : (s.someWrites w l).Wf :=
  .foldl h (fun _ _ ht => .ite (.unitWrite ht) ht)

theorem NextWf.execConvPhase (h : s.Wf) : NextWf (execConvPhase s) := by
  unfold Machine.execConvPhase
  refine .next ?_
  refine .cmdStep h (fun _ _ ht => ?_)
  split
  · split
    · dsimp only
      refine .unitLines ht (fun _ _ hu => hu) (fun _ hu => ?_)
      split
      · exact .endLaunch hu
      · exact .failCmd hu
      · refine .ite (.endLaunch hu) ?_
        refine .ite (.endCmd (.foldl (.someWrites hu) (fun _ _ hv => .unitTouch hv))) ?_
        split
        · exact .failCmd (.foldl (.someWrites hu) (fun _ _ hv => .unitTouch hv))
        · split
          · exact .endCmd (.countEv (.foldl (.foldl hu (fun _ _ hv => .unitWrite hv)) (fun _ _ hv => .unitTouch hv)))
          · exact .post (.putCmd (.foldl (.foldl hu (fun _ _ hv => .unitWrite hv)) (fun _ _ hv => .unitTouch hv)))
    · exact ht
  · exact ht

end

end Sys2Proof.Machine
end

section
/-! SUPPORT. The canonical form of the byte stores: scheduling, splices, eviction, launches, the host, boot and power. -/
namespace Sys2Proof.Machine

/-! ### Machine/Sched.lean -/

section
variable {s : State} {lck k core i : Nat} {vn : Bool} {r : TaskRec}

theorem State.Wf.sendSteal (h : s.Wf) : (s.sendSteal lck i).Wf := .post (.count h)
theorem State.Wf.startSteal (h : s.Wf) : (s.startSteal lck).Wf := .ite h (.sendSteal h)

theorem SomeHolds.takeRec {ext : Bool} (h : s.Wf) : SomeHolds (·.2.Wf) (s.takeRec lck ext i) := by
  unfold State.takeRec
  dsimp only
  split
  · exact .none
  · exact .ite (.some (.syncExt h)) (.some h)

theorem SomeHolds.popRec (h : s.Wf) : SomeHolds (·.2.Wf) (s.popRec lck) := by
  unfold State.popRec
  extract_lets t
  have ht : t.Wf := .refill h
  split
  · exact .none
  · exact .takeRec ht

theorem SomeHolds.giveRec (h : s.Wf) : ∀ {x : List Nat}, SomeHolds (·.2.Wf) (s.giveRec x)
  | [] => .none
  | k :: t => by
    unfold State.giveRec
    split
    · exact .takeRec h
    · exact SomeHolds.giveRec h

theorem OkHolds.answerSteal {ctx : Nat} (h : s.Wf) : OkHolds (·.2.Wf) (s.answerSteal ctx core) := by
  unfold State.answerSteal
  dsimp only
  refine .ite .error ?_
  refine .ite .error ?_
  split
  · exact .error
  next t e =>
    have ht : t.Wf := .of_some_snd e (.giveRec h)
    exact .ok (.count ht)

theorem NextWf.execStealRequest (h : s.Wf) : NextWf (execStealRequest s) := by
  unfold Machine.execStealRequest
  dsimp only
  split
  · exact .next h
  · split
    next t e =>
      have ht : t.Wf := .of_ok_snd e (.answerSteal h)
      exact .next ht
    · exact .next h

theorem NextWf.execStealGrant (h : s.Wf) : NextWf (execStealGrant s) := by
  unfold Machine.execStealGrant
  dsimp only
  split
  · exact .next h
  · exact .next (SomeHolds.getD (.arriveRec h) h)

theorem NextWf.execStealDeny (h : s.Wf) : NextWf (execStealDeny s) := by
  unfold Machine.execStealDeny
  dsimp only
  split
  · refine .ite (.next h) ?_
    refine .ite (.next (.sendSteal h)) ?_
    split
    · exact .ite (.next (.xcSend (.count h))) (.next h)
    · exact .next h
  · exact .next h

theorem NextWf.execStealBackoffExpiry (h : s.Wf) : NextWf (execStealBackoffExpiry s) :=
  .ite (.next h) (.ite (.next h) (.ite (.next h) (.next (.startSteal h))))

theorem State.Wf.relayCheck (h : s.Wf) : (s.relayCheck core).Wf := by
  unfold State.relayCheck
  refine .foldl h (fun _ _ ht => ?_)
  split
  · exact .ite ht ht
  · exact ht

theorem State.Wf.startRec (h : s.Wf) : (s.startRec k lck r).Wf := .ite (.startTask h) (.relayCheck h)

theorem State.Wf.startSvc {v : SvcItem} (h : s.Wf) : (s.startSvc k lck v).Wf := by
  unfold State.startSvc
  refine .ite (.endLaunch h) ?_
  split
  next e => exact .startTask (State.Wf.writeLds (.of_some_snd e (.allocFrame h)))
  · exact h

theorem State.Wf.startHandler (h : s.Wf) : (s.startHandler k lck vn).Wf := by
  unfold State.startHandler
  dsimp only
  split
  · exact h
  · exact .ite (.endLaunch h) (.startTask h)

theorem State.Wf.takeBottom (h : s.Wf) : (s.takeBottom k lck).Wf := by
  unfold State.takeBottom
  split
  · exact h
  next t e =>
    have ht : t.Wf := .of_some_snd e (.popRec h)
    split
    · exact h
    next u e' =>
      have hu : u.Wf := .of_some_snd e' (.pinCont ht)
      exact .ite hu (.startRec hu)

theorem State.Wf.takeWork {w : Work} (h : s.Wf) : (s.takeWork k lck w).Wf := by
  unfold State.takeWork
  dsimp only
  split
  · split
    · exact h
    · exact .startSvc h
  · exact .startHandler h
  · split
    · exact h
    · exact .startRec (.poolPosts h)
  · exact .takeBottom h

theorem State.Wf.stealIdle (h : s.Wf) : (s.stealIdle core).Wf := .foldl h (fun _ _ ht => .ite (.startSteal ht) ht)

theorem State.Wf.takeTurn (h : s.Wf) : (s.takeTurn k).Wf := by
  unfold State.takeTurn
  dsimp only
  refine .ite (.relayCheck h) ?_
  split
  · split
    · exact .takeWork h
    · exact h
  · exact h

theorem State.Wf.dispatchFree (h : s.Wf) : (s.dispatchFree k).Wf := .stealIdle (.takeTurn h)

theorem State.Wf.startSpawn {r : SpawnReq} (h : s.Wf) : (s.startSpawn k r).Wf := by
  unfold State.startSpawn
  dsimp only
  split
  · exact h
  · exact .ite (.endLaunch h) (.ite (.post (.placeRec h)) (.startRec h))

theorem NextWf.execStrandDispatch (h : s.Wf) : NextWf (execStrandDispatch s) := by
  unfold Machine.execStrandDispatch
  dsimp only
  refine .ite (.next h) ?_
  split
  · exact .next (.dispatchFree h)
  · exact .ite (.next (.startSpawn h)) (.next h)
  · exact .next h

theorem State.Wf.startRelay {l : Launch} {legs : List (BitVec 32)} {ks : List Nat} {pre : Nat × Nat} (h : s.Wf) :
    (s.startRelay lck l r legs ks pre).Wf := by
  unfold State.startRelay
  extract_lets k₀ core s₁ src tk s₂ s₃
  have hs : s₃.Wf := .count (.foldl (.drain h) fun _ _ ht => .seat ht)
  split
  · exact .trapAt hs
  next e =>
    have hr := State.Wf.of_ok_fst e (.fitRecord hs)
    dsimp only
    split
    · exact .trapAt hr
    next e' =>
      refine .foldl (.ite ?_ (.modCore ?_)) fun _ _ ht => .modStrand ht
      all_goals exact .of_some_snd e' (.ite (.some hr) (.ite (.some (.modCore hr)) (.allocFrame hr)))

theorem NextWf.execRelayStart (h : s.Wf) : NextWf (execRelayStart s) := by
  unfold Machine.execRelayStart
  dsimp only
  split
  · exact .ite (.next h) (.next (.wakeCore (.startRelay h)))
  · exact .next h

theorem NextWf.execSpawnReservationRequest (h : s.Wf) : NextWf (execSpawnReservationRequest s) := by
  unfold Machine.execSpawnReservationRequest
  dsimp only
  split
  · refine .ite (.next h) ?_
    split <;> exact .next (.post (.count h))
  · exact .next h

theorem NextWf.execSpawnAnswer (h : s.Wf) : NextWf (execSpawnAnswer s) := .ite (.next h) (.next h)

theorem NextWf.execSpawnRelease (h : s.Wf) : NextWf (execSpawnRelease s) := by
  unfold Machine.execSpawnRelease
  dsimp only
  split
  · exact .next (.wakeCore h)
  · exact .next h

theorem State.Wf.injectMsg (h : s.Wf) : (s.injectMsg k vn).Wf := by
  unfold State.injectMsg
  dsimp only
  split
  · exact h
  · split
    · exact h
    · exact .ite (.wakeCore (.count h)) (.post (.count h))

theorem State.Wf.pump : ∀ {n : Nat} {s : State}, s.Wf → (State.pump core n s).Wf
  | 0, _, h => h
  | n + 1, s, h => by
    unfold State.pump
    split
    · exact h
    · exact State.Wf.pump (.injectMsg h)

theorem State.Wf.sendMsgs (h : s.Wf) : (s.sendMsgs vn).Wf := by
  unfold State.sendMsgs
  extract_lets t
  have ht : t.Wf := .pump h
  split
  · exact .ite (.post ht) ht
  · exact ht

theorem NextWf.execMessageInject (h : s.Wf) : NextWf (execMessageInject vn s) := .next (.sendMsgs h)
theorem NextWf.execMessageReoffer (h : s.Wf) : NextWf (execMessageReoffer vn s) := .next (.sendMsgs h)

theorem State.Wf.enterMsg {m : Msg} (h : s.Wf) : (s.enterMsg core k m).Wf := by
  unfold State.enterMsg
  extract_lets lck t q mine gone
  clear_value mine
  have ht : t.Wf := h
  have hgone : gone.Wf := by
    unfold gone
    split
    · exact .wakeCore (.post (.modStrand ht))
    · exact ht
  split
  · exact .wakeCore (.modCore hgone)
  · exact .syncMailbox (.modLc hgone)
  · split
    · exact ht
    · split
      · exact ht
      · exact .post (.modStrand ht)

theorem NextWf.execMessageArrival (h : s.Wf) : NextWf (execMessageArrival s) := by
  unfold Machine.execMessageArrival
  dsimp only
  split
  · exact .next (.enterMsg h)
  · exact .ite (.next h) (.next h)

theorem OkHolds.retest {p : Poll} {i : Instr} (h : s.Wf) : OkHolds State.Wf (State.retest p i s) := by
  unfold State.retest
  split
  · exact .haltPoll h
  · exact .ldwPoll h
  · exact .waitcPoll h
  · exact .vwaitcPoll h
  · exact .barPoll h
  · exact .baraPoll h
  · exact .barwPoll h
  · exact .fencePoll h
  · exact .fencescPoll h
  · exact .waitbPoll h
  · exact .sendbPoll h
  · exact .spawnPoll h
  · exact .mwaitPoll h
  · exact .mresumePoll h
  · exact .mmaPoll h
  · exact .mmagPoll h
  · exact .mmasPoll h
  · exact .fetchPoll h
  · exact .putPoll h
  · exact .gatherPoll h
  · exact .scataPoll h
  · exact .nlcfgPoll h
  · exact .nlbinPoll h
  · exact .nlpairsPoll h
  · exact .convPoll h
  · exact .ewaitPoll h
  · exact .ok h

theorem NextWf.execWaitSatisfied (h : s.Wf) : NextWf (execWaitSatisfied s) := by
  unfold Machine.execWaitSatisfied
  split
  · exact .next h
  · exact .orTrap h (.retest h)

theorem NextWf.execDeadlineExpiry (h : s.Wf) : NextWf (execDeadlineExpiry s) := by
  unfold Machine.execDeadlineExpiry
  split
  · exact .next h
  · exact .ite (.orTrap h (.retest h)) (.next h)

theorem NextWf.execEvictionBound (h : s.Wf) : NextWf (execEvictionBound s) := by
  unfold Machine.execEvictionBound
  split
  · exact .ite (.orTrap h (.retest h)) (.next h)
  · exact .next h

theorem NextWf.execWatchdog (h : s.Wf) : NextWf (execWatchdog s) := .ite (.next (.takeTrap h)) (.next h)

end

/-! ### Machine/Splice.lean -/

section
variable {s : State} {ctx : Nat} {d : Fin 4} {j : Join} {jbox box : BoxImg}

theorem State.Wf.launchFlags {f : BitVec 5} (h : s.Wf) : (s.launchFlags ctx f).Wf := .modLaunch h
theorem State.Wf.deposit {side : Nat} {tile : List Byte} (h : s.Wf) : (s.deposit d ctx j jbox side tile box).Wf :=
  .ite (.countEv (.launchFlags (.dieWrite h))) (.dieWrite h)

theorem State.Wf.combine {va : Nat} (h : s.Wf) : (s.combine d ctx va j jbox).Wf := by
  unfold State.combine
  split
  · exact h
  · split
    · exact h
    · extract_lets _ _ _ _ _ _ t u _ v
      have ht : t.Wf := by
        refine .ite h ?_
        split
        exact .countEv (.launchFlags (.dieWrite h))
      have hu : u.Wf := .dieWrite ht
      have hv : v.Wf := .freeJoin hu
      exact .ite (.endLaunch hu) (.ite (.placeRec hu) (.ite hv (.toSplicer hv)))

theorem State.Wf.splice {jref : Nat} {tile : Option (List Byte)} (h : s.Wf) : (s.splice d ctx jref tile box).Wf := by
  unfold State.splice
  extract_lets _ _ _ _ t _ u
  have ht : t.Wf := by
    unfold t
    split
    · exact h
    · exact .deposit h
  have hu : u.Wf := .dieWrite ht
  split
  · exact .endLaunch h
  · exact .ite h (.ite (.endLaunch h) (.ite hu (.ite (.endLaunch hu) (.combine hu))))

theorem State.Wf.spliceNext {row : Nat} {dep : Bool} {again : Instr} (h : s.Wf) : (s.spliceNext row dep again).Wf := by
  unfold State.spliceNext
  extract_lets _ t
  have ht : t.Wf := .drain h
  split
  · exact .ite ht ht
  · dsimp only
    split
    · exact .ite (.post (.splice ht)) (.wakeCore (.post (.splice ht)))
    · exact .post (.splice ht)
    · exact ht

theorem NextWf.execSplicerDeposit (h : s.Wf) : NextWf (execSplicerDeposit s) := .next (.spliceNext h)
theorem NextWf.execSplicerCover (h : s.Wf) : NextWf (execSplicerCover s) := .next (.spliceNext h)

end

/-! ### Machine/Evict.lean -/

section
variable {s : State} {ctx row part lck sa i : Nat} {c : Ctx} {e : Evict}

theorem State.Wf.stashPart (h : s.Wf) : (s.stashPart ctx row part).Wf := h

theorem State.Wf.savePart (h : s.Wf) : (s.savePart ctx row part c).Wf := by
  unfold State.savePart
  exact .foldl (.ctxWrite (.stashPart h)) fun _ _ ht => .ctxWrite ht

theorem State.Wf.rowStatus {v : Nat} (h : s.Wf) : (s.rowStatus ctx row c v).Wf := .ctxWrite h

theorem State.Wf.yieldPart (h : s.Wf) : (s.yieldPart ctx row part).Wf := by
  unfold State.yieldPart
  refine .foldl h (fun _ _ ht => ?_)
  split
  · exact ht
  · exact .ite ht (.modCtx (.rowStatus (.savePart ht)))

theorem State.Wf.seatRow {f : CtxRegs → CtxRegs} (h : s.Wf) : (s.seatRow ctx row part f).Wf := by
  unfold State.seatRow
  split
  · exact h
  · extract_lets t
    have ht : t.Wf := .modCtx (.yieldPart h)
    refine .foldl ht (fun _ _ hu => ?_)
    dsimp only
    exact hu

theorem State.Wf.startEvict {acc : Bool} (h : s.Wf) : (s.startEvict ctx row acc).Wf := by
  unfold State.startEvict
  extract_lets t
  have ht : t.Wf := by
    refine .foldl h (fun _ _ ht => ?_)
    split
    · exact ht
    · dsimp only
      exact .wakeCore (.foldl ht (fun _ _ hu => .mustPush hu))
  exact .post (.modCtx ht)

theorem State.Wf.drainRow (h : s.Wf) : (s.drainRow ctx row).Wf := by
  unfold State.drainRow
  extract_lets _ t
  have ht : t.Wf := .foldl h (fun _ _ ht => ht)
  exact ht

theorem State.Wf.saveLc (h : s.Wf) : (s.saveLc c sa lck).Wf := by
  unfold State.saveLc
  extract_lets core s₁ s₂ mine q s₃
  have h₂ : s₂.Wf := .ctxWrite (.ctxWrite h)
  exact .wakeCore (.syncMailbox (.modLc (.modCore h₂)))

theorem State.Wf.saveRow (h : s.Wf) : (s.saveRow ctx row e).Wf := by
  unfold State.saveRow
  split
  · exact h
  · extract_lets _ t u v
    have ht : t.Wf := .foldl h (fun _ _ ht => .saveLc ht)
    have hu : u.Wf := by
      unfold u
      split
      · exact .savePart ht
      · exact ht
    have hv : v.Wf := .rowStatus hu
    exact .modCtx hv

theorem State.Wf.releaseBacklog (h : s.Wf) : s.releaseBacklog.Wf := h

theorem State.Wf.answerEvict (h : s.Wf) : (s.answerEvict ctx).Wf := by
  unfold State.answerEvict
  split
  · exact h
  · refine .ite h ?_
    split
    · exact h
    · exact .releaseBacklog (.respond (.modCtx h))

theorem NextWf.execEvictStepEnd (h : s.Wf) : NextWf (execEvictStepEnd ctx s) := by
  unfold Machine.execEvictStepEnd
  dsimp only
  split
  · exact .next h
  · refine .next ?_
    split
    · exact .post (.modCtx h)
    · exact .ite (.post (.modCtx h)) h
    · exact .ite (.post (.modCtx (.drainRow h))) h
    · exact .ite (.post (.modCtx h)) h
    · exact .ite (.answerEvict (.saveRow h)) h
    · exact h

theorem State.Wf.resumeCmds (h : s.Wf) : (s.resumeCmds ctx row).Wf := by
  unfold State.resumeCmds
  extract_lets _ _ _ t
  have ht : t.Wf := by
    unfold t
    split <;> exact h
  refine .foldl ht (fun _ _ hu => ?_)
  dsimp only
  split <;> exact hu

theorem State.Wf.enterMail (h : s.Wf) : (s.enterMail lck i).Wf := by
  unfold State.enterMail
  split
  · exact h
  · extract_lets t
    have ht : t.Wf := .modCore (.modLc h)
    exact .ite (.syncMailbox ht) ht

theorem State.Wf.heldMail (h : s.Wf) : (s.heldMail lck).Wf := by
  unfold State.heldMail
  refine .foldl h (fun _ _ ht => ?_)
  split
  · exact ht
  · exact .ite (.enterMail ht) ht

theorem State.Wf.loadLc (h : s.Wf) : (s.loadLc c sa lck).Wf := by
  unfold State.loadLc
  extract_lets core at_ top img rem s₁ s₂ s₃ s₄ s₅
  have h₃ : s₃.Wf := .heldMail (.modLc (.writeLds h))
  have h₄ : s₄.Wf := .ite h₃ (.post h₃)
  exact .wakeCore (.poolPosts (.ite h₄ (.post h₄)))

theorem State.Wf.loadRow (h : s.Wf) : (s.loadRow ctx row part e).Wf := by
  unfold State.loadRow
  split
  · exact h
  · extract_lets _ t u v w
    have ht : t.Wf := .seatRow h
    have hu : u.Wf := .ite ht (.ite ht ht)
    have hv : v.Wf := .modCtx hu
    have hw : w.Wf := .rowStatus hv
    exact .ite (.endLaunch hw) (.resumeCmds (.foldl hw (fun _ _ h1 => .loadLc h1)))

theorem NextWf.execMailboxDrain (h : s.Wf) : NextWf (execMailboxDrain s) := by
  unfold Machine.execMailboxDrain
  extract_lets _ t
  have ht : t.Wf := by
    unfold t
    split
    · exact h
    · exact .wakeCore (.enterMail h)
  refine .ite (.next h) ?_
  refine .next ?_
  split <;> exact ht

theorem State.Wf.makeRoom (h : s.Wf) : (s.makeRoom ctx row).Wf := by
  unfold State.makeRoom
  refine .ite h ?_
  dsimp only
  exact .ite h (.startEvict (.fresh h))

theorem State.Wf.xlateMapped {x : Hold} (h : s.Wf) : (s.xlateMapped ctx x).Wf := .ite (.finishHold h) h

theorem NextWf.execSupHoldService (h : s.Wf) : NextWf (execSupHoldService i s) := by
  unfold Machine.execSupHoldService
  dsimp only
  split
  · exact .next h
  · split
    · exact .next h
    · refine .ite (.next (.finishHold h)) ?_
      refine .ite (.next (.xlateMapped (.ite h (.event (.modCtx h))))) ?_
      split
      · exact .ite (.next (.wakeCore (.applyRoute h))) (.next (.endLaunch h))
      · exact .ite (.next h) (.next (.endLaunch h))

end

/-! ### Machine/Launch.lean -/

section
variable {s : State} {ctx : Nat} {c : Ctx} {l : Launch}

theorem State.Wf.notRun {b : List Byte} {conn status : Nat} (h : s.Wf) : (s.notRun c b conn status).Wf := h
theorem State.Wf.takeQueue (h : s.Wf) : (s.takeQueue ctx).Wf := .modCtx h

theorem State.Wf.clearPub {lo hi : Nat} (h : s.Wf) : (s.clearPub ctx lo hi).Wf := by
  unfold State.clearPub
  refine .ite h (.foldl h fun t _ ht => ?_)
  dsimp only
  split
  · exact ht
  · exact .foldl ht fun u _ hu => .ofViews (s := u) (fun d hd => by simpa [State.die] using hd) rfl rfl rfl hu

theorem State.Wf.clearArena {base n : Nat} (h : s.Wf) : (s.clearArena ctx base n).Wf :=
  .foldl h (fun _ _ ht => .ite ht (.ctxWrite ht))

theorem State.Wf.newLc {i : Nat} (h : s.Wf) : (s.newLc ctx l i).Wf := by
  unfold State.newLc
  extract_lets core before left base p lds lds' b
  refine .syncExt ?_
  rw [State.Wf, State.memWf_iff] at h ⊢
  obtain ⟨hd, hw, hl, ho⟩ := h
  refine ⟨hd, hw, foldl_holds (P := fun m => Mem.wf m = true) (fun m e hm => ?_) (Mem.wf_write _ _ _ hl), ho⟩
  split
  · exact hm
  · exact Mem.wf_write _ _ _ hm

theorem State.Wf.activate {remapVa : Nat} (h : s.Wf) : (s.activate ctx c l remapVa).Wf := by
  unfold State.activate
  extract_lets s₁ s₂ s₃ table s₄ s₅ wake s₆ s₇
  have h₂ : s₂.Wf := .clearArena (.foldl h fun _ _ ht => .ite (.clearPub ht) ht)
  have h₃ : s₃.Wf := .ite (.ctxWrite h₂) h₂
  have h₄ : s₄.Wf := .foldl h₃ fun _ _ ht => .seatRow ht
  have h₅ : s₅.Wf := h₄
  have h₆ : s₆.Wf := .modCtx h₅
  have h₇ : s₇.Wf := .foldl h₆ fun _ _ ht => .newLc ht
  exact .ite (.endLaunch h₆) (.ite (.endLaunch h₇) (.post (.posts (s := s₇) h₇)))

theorem NextWf.execLaunchStart (h : s.Wf) : NextWf (execLaunchStart s) := by
  unfold Machine.execLaunchStart
  extract_lets _ t
  have ht : t.Wf := .answerEvict h
  split
  · exact .next ht
  · refine .ite (.next ht) ?_
    refine .ite (.next ht) ?_
    dsimp only
    split
    · exact .next (.post (.notRun (.takeQueue ht)))
    · split
      · exact .next (.activate (.takeQueue ht))
      · exact .next (.post (.foldl ht (fun _ _ hu => .ite hu (.makeRoom hu))))

theorem NextWf.execWakeMessage (h : s.Wf) : NextWf (execWakeMessage ctx s) := by
  unfold Machine.execWakeMessage
  extract_lets _ t
  have ht : t.Wf := .ite h h
  split
  · dsimp only
    exact .ite (.next (.endLaunch ht)) (.next (.wakeCore (.foldl ht (fun _ _ hu => .mustPush hu))))
  · exact .next ht

theorem NextWf.execLaunchEnd (h : s.Wf) : NextWf (execLaunchEnd s) := by
  unfold Machine.execLaunchEnd
  dsimp only
  split
  · exact .next h
  · exact .ite (.next (.endLaunch h)) (.ite (.next h) (.next (.post (.releaseBacklog (.ite h h)))))

end

/-! ### Machine/Host.lean -/

section
variable {s : State} {m : VcpMsg} {ctx n a va len ttpa pa wsbase rkey addr : Nat} {c : Ctx}

theorem State.Wf.zeroRange (h : s.Wf) : (s.zeroRange pa n).Wf :=
  .ofViews (s := s) (fun d hd => by simpa [State.zeroRange, State.die] using Mem.wf_filter _ _ hd) rfl rfl rfl h
theorem SomeHolds.palloc {al r : Nat} (h : s.Wf) : SomeHolds (·.2.Wf) (s.palloc n al r) := .mapAny (fun _ => .zeroRange h)
theorem State.Wf.pfree {b : Nat} (h : s.Wf) : (s.pfree b).Wf := h
theorem SomeHolds.newTable (h : s.Wf) : SomeHolds (·.2.Wf) (s.newTable ctx) :=
  .map (.palloc h) fun _ ht => .modCtx ht
theorem State.Wf.setPte {v : Nat} (h : s.Wf) : (s.setPte a v).Wf := .gwriteAll h
theorem SomeHolds.nextTable (h : s.Wf) : SomeHolds (·.2.Wf) (s.nextTable ctx a) :=
  .ite (.some h) (.map (.newTable h) (fun _ ht => .setPte ht))

theorem SomeHolds.leafAt {large : Bool} (h : s.Wf) : SomeHolds (·.2.Wf) (s.leafAt ctx ttpa va large) := by
  unfold State.leafAt
  split
  · exact .none
  next t e =>
    have ht : t.Wf := .of_some_snd e (.nextTable h)
    dsimp only
    exact .ite (.some ht) (.map (.nextTable ht) (fun _ hu => hu))

theorem SomeHolds.mapPages {copies flags : Nat} : ∀ {s : State} {l : List (Nat × Bool)} (_ : s.Wf), SomeHolds State.Wf
    (s.mapPages ctx ttpa va pa copies flags l)
  | _, [], h => .some h
  | s, (v, large) :: t, h => by
    unfold State.mapPages
    split
    · exact .none
    next e => exact SomeHolds.mapPages (.setPte (.of_some_snd e (.leafAt h)))

theorem State.Wf.clearPages : ∀ {l : List (Nat × Bool)} {s : State}, s.Wf → (s.clearPages ctx ttpa l).Wf
  | [], _, h => h
  | (v, large) :: t, s, h => by
    unfold State.clearPages
    split
    · exact State.Wf.clearPages h
    next e => exact State.Wf.clearPages (.setPte (.of_some_snd e (.leafAt h)))

theorem State.Wf.consume (h : s.Wf) : (s.consume m).Wf := by
  unfold State.consume
  split <;> exact h

theorem State.Wf.command {own : Instr} {code : Nat} {run : State → State} (h : s.Wf) (hrun : ∀ s, s.Wf → (run s).Wf) :
    (s.command m own code len run).Wf := by
  unfold State.command
  refine .ite h ?_
  refine .ite h ?_
  split
  · exact hrun _ h
  · exact .respond (.ite h (.consume h))

theorem State.Wf.answered {f : State → Nat × List Byte × State} (h : s.Wf) (hf : ∀ s, s.Wf → (f s).2.2.Wf) : (State.answered m
    f s).Wf := by
  unfold State.answered
  split
  next t e =>
    have ht : t.Wf := .of_snd_snd e (hf _ (.consume h))
    exact .respond ht

theorem State.Wf.kick (h : s.Wf) : (s.kick ctx).Wf := .ite h h

theorem State.Wf.wsZero {base : Nat} (h : s.Wf) : (s.wsZero base n).Wf := by
  rw [State.Wf, State.memWf_iff] at h ⊢
  obtain ⟨hd, hw, hs⟩ := h
  exact ⟨hd, Mem.wf_filter _ _ hw, hs⟩

theorem SomeHolds.makeArea (h : s.Wf) : SomeHolds State.Wf (s.makeArea m ctx wsbase) := by
  unfold State.makeArea
  dsimp only
  split
  · exact .none
  next t e =>
    have ht : t.Wf := .of_some_snd e (.palloc h)
    split
    · exact .none
    next u e' =>
      have hu : u.Wf := .of_some_snd e' (.palloc ht)
      exact .mapPages (.wsZero hu)

theorem SomeHolds.makeCtx (h : s.Wf) : SomeHolds State.Wf (s.makeCtx m ctx wsbase) :=
  .map (.makeArea h) (fun _ ht => .ctxWrite ht)

theorem State.Wf.runCreate (h : s.Wf) : (Machine.runCreate m s).Wf := by
  have hs : ∀ {n b}, ((s.consume m).respond m n 0 b).Wf := .respond (.consume h)
  unfold Machine.runCreate
  extract_lets s₁ fail
  refine .ite hs (.ite hs ?_)
  split
  · refine .ite hs ?_
    split
    · exact hs
    next t e =>
      have ht : t.Wf := .of_some e (.makeCtx (.consume h))
      split
      · exact .respond (.ofStores rfl rfl rfl rfl ht)
      · exact hs
  · exact hs

theorem NextWf.execCreateCtx (h : s.Wf) : NextWf (execCreateCtx m s) := .next (.command h (fun _ ht => .runCreate ht))

theorem State.Wf.freeXlate (h : s.Wf) : (s.freeXlate ctx va len).Wf := by
  unfold State.freeXlate
  split
  · exact h
  · exact .foldl h (fun _ _ ht => .xlateMapped ht)

theorem State.Wf.runMap (h : s.Wf) : (Machine.runMap m s).2.2.Wf := by
  unfold Machine.runMap
  split
  · exact h
  · split
    · exact h
    · split
      · exact h
      · dsimp only
        split
        · exact h
        next t e =>
          have ht : t.Wf := .of_some_snd e (.palloc h)
          split
          · exact h
          next u e' =>
            have hu : u.Wf := .of_some e' (.mapPages ht)
            exact .freeXlate (.modCtx (s := { u with free := u.free + 1 }) hu)

theorem NextWf.execMap (h : s.Wf) : NextWf (execMap m s) :=
  .next (.command h (fun _ ht => .answered ht (fun _ hu => .runMap hu)))
theorem State.Wf.tlbClear (h : s.Wf) : (s.tlbClear ctx va len).Wf :=
  .ofViews (s := s) (fun d hd => by simpa [State.tlbClear, State.die] using hd) rfl rfl rfl h

theorem State.Wf.runUnmap (h : s.Wf) : (runUnmap m s).2.2.Wf := by
  unfold Machine.runUnmap
  split
  · exact h
  · split
    · exact h
    · extract_lets _ _ _ t
      have ht : t.Wf := .foldl h (fun _ _ ht => .pfree (.tlbClear (.clearPages ht)))
      split
      · exact h
      · split
        · exact h
        · exact .modCtx ht

theorem NextWf.execUnmap (h : s.Wf) : NextWf (execUnmap m s) :=
  .next (.command h (fun _ ht => .answered ht (fun _ hu => .runUnmap hu)))
theorem State.Wf.extend {i : Nat} {d : List Byte} (h : s.Wf) : (s.extend i d).Wf := h

theorem State.Wf.runLoad (h : s.Wf) : (Machine.runLoad m s).2.2.Wf := by
  unfold Machine.runLoad
  split
  · exact h
  · extract_lets mask off len on
    split
    · exact h
    · split
      · exact h
      · split
        · exact h
        · split
          · exact h
          · refine State.Wf.extend ?_
            rw [State.Wf, State.memWf_iff] at h ⊢
            obtain ⟨hd, hw, hs⟩ := h
            refine ⟨hd, foldl_holds (P := fun m => Mem.wf m = true) (fun m e hm => ?_) hw, hs⟩
            split
            · exact Mem.wf_write _ _ _ hm
            · exact hm

theorem NextWf.execLoadWimage (h : s.Wf) : NextWf (execLoadWimage m s) :=
  .next (.command h (fun _ ht => .answered ht (fun _ hu => .runLoad hu)))

theorem State.Wf.runAttest (h : s.Wf) : (runAttest m s).2.2.Wf := by
  unfold Machine.runAttest
  extract_lets _ t
  have ht : t.Wf := .ite h h
  split
  · exact h
  · exact ht

theorem NextWf.execAttest (h : s.Wf) : NextWf (execAttest m s) :=
  .next (.command h (fun _ ht => .answered ht (fun _ hu => .runAttest hu)))

theorem State.Wf.runLaunch (h : s.Wf) : (runLaunch m s).2.2.Wf := by
  unfold Machine.runLaunch
  split
  · exact h
  · split
    · exact h
    · split
      · exact h
      · extract_lets _ t u
        have ht : t.Wf := .ctxWrite h
        have hu : u.Wf := .modCtx ht
        exact .kick hu

theorem NextWf.execLaunch (h : s.Wf) : NextWf (execLaunch m s) :=
  .next (.command h (fun _ ht => .answered ht (fun _ hu => .runLaunch hu)))
theorem State.Wf.doorbell {conn : Nat} {tail : Nat} (h : s.Wf) : (s.doorbell conn ctx c tail).Wf := .ite h (.kick (.modCtx h))
theorem State.Wf.emit {m : HostMsg} (h : s.Wf) : (s.emit m).Wf := h

theorem NextWf.execDoorbellWrite {val : Word} (h : s.Wf) : NextWf (execDoorbellWrite ctx val s) := by
  unfold Machine.execDoorbellWrite
  refine .ite (.next h) ?_
  split
  · exact .next h
  · exact .next (.emit (.doorbell h))

theorem State.Wf.runEvict (h : s.Wf) : (runEvict m s).Wf := by
  unfold Machine.runEvict
  extract_lets t
  have ht : t.Wf := .consume h
  split
  · exact .respond ht
  · extract_lets _ u
    have hu : u.Wf := .foldl ht (fun _ _ hu => .ite hu (.startEvict hu))
    exact .ite (.respond ht) (.ite (.respond ht) (.ite (.respond ht) (.modCtx hu)))

theorem NextWf.execEvict (h : s.Wf) : NextWf (execEvict m s) := .next (.command h (fun _ ht => .runEvict ht))

theorem State.Wf.runResume (h : s.Wf) : (runResume m s).Wf := by
  unfold Machine.runResume
  split
  · exact .respond (.consume h)
  · extract_lets _ t u
    have ht : t.Wf := by
      refine .foldl (.modCtx (.consume h)) (fun _ _ ht => ?_)
      split
      · exact .loadRow ht
      · exact ht
    have hu : u.Wf := .foldl h (fun _ _ hu => .ite hu (.makeRoom hu))
    exact .ite (.respond (.consume h)) (.ite (.respond ht) hu)

theorem NextWf.execResume (h : s.Wf) : NextWf (execResume m s) := .next (.command h (fun _ ht => .runResume ht))

theorem State.Wf.cancelQueue : ∀ {n : Nat} {s : State}, s.Wf → (State.cancelQueue ctx n s).Wf
  | 0, _, h => h
  | n + 1, s, h => by
    unfold State.cancelQueue
    split
    · exact h
    · exact .ite h (State.Wf.cancelQueue (.notRun (.takeQueue h)))

theorem State.Wf.freeCtx (h : s.Wf) : (s.freeCtx ctx c).Wf := by
  unfold State.freeCtx
  extract_lets gone t keep mine
  have ht : t.Wf := .foldl h fun _ _ hu => .pfree hu
  exact .ofViews (s := t) (fun d hd => by simpa [State.die] using hd) rfl rfl rfl ht

theorem State.Wf.runDestroy (h : s.Wf) : (runDestroy m s).2.2.Wf := by
  unfold Machine.runDestroy
  extract_lets t
  have ht : t.Wf := .cancelQueue (.endLaunch h)
  split
  · exact ht
  · exact .freeCtx ht

theorem NextWf.execDestroyCtx (h : s.Wf) : NextWf (execDestroyCtx m s) :=
  .next (.command h (fun _ ht => .answered ht (fun _ hu => .runDestroy hu)))
theorem State.Wf.markRead {slot : Nat → Bool} (h : s.Wf) : (s.markRead ctx slot).Wf := .modCtx h

theorem State.Wf.runRing (h : s.Wf) : (runRing m s).2.2.Wf := by
  unfold Machine.runRing
  split
  · exact h
  · dsimp only
    split
    · exact h
    · exact .markRead h

theorem NextWf.execReadTrapring (h : s.Wf) : NextWf (execReadTrapring m s) :=
  .next (.command h (fun _ ht => .answered ht (fun _ hu => .runRing hu)))

theorem NextWf.execConnectionAccept {port : Bool} (h : s.Wf) : NextWf (execConnectionAccept port s) := by
  unfold Machine.execConnectionAccept
  dsimp only
  split
  · split <;> exact .next h
  · split <;> exact .next h

theorem NextWf.execConnectionDrop (h : s.Wf) : NextWf (execConnectionDrop s) := by
  unfold Machine.execConnectionDrop
  dsimp only
  split
  · exact .next h
  · exact .ite (.next h) (.next h)

theorem NextWf.execRecoveryStatusRead (h : s.Wf) : NextWf (execRecoveryStatusRead s) := .ite (.next h) (.next h)
theorem State.Wf.retestRange (h : s.Wf) : (s.retestRange ctx a n).Wf := .foldl h (fun _ _ ht => ht)

theorem NextWf.execHostRdmaWrite {bytes : List Byte} (h : s.Wf) : NextWf (execHostRdmaWrite rkey addr bytes s) := by
  unfold Machine.execHostRdmaWrite
  refine .ite (.next h) ?_
  split
  · exact .ite (.next h) (.next (.emit (.retestRange (.ctxWrite h))))
  · split
    · exact .next (.emit (.doorbell h))
    · exact .next h
  · exact .next h

theorem State.Wf.ringRead (h : s.Wf) : (s.ringRead ctx a n).Wf := by
  unfold State.ringRead
  split
  · exact h
  · exact .markRead h

theorem NextWf.execHostRdmaRead (h : s.Wf) : NextWf (execHostRdmaRead rkey addr len s) := by
  unfold Machine.execHostRdmaRead
  refine .ite (.next h) ?_
  split
  · exact .next h
  · split <;> exact .next h
  · exact .ite (.next (.emit (.endLaunch h))) (.next (.emit (.ringRead h)))
  · exact .next h

end

/-! ### Machine/Boot.lean -/

section
variable {s : State} {reg : Bool} {bit : Nat}

theorem State.Wf.measure {cls : Nat} (h : s.Wf) : (s.measure cls).Wf := .foldl h (fun _ _ ht => ht)
theorem State.Wf.selectRoles (h : s.Wf) : s.selectRoles.Wf := h

theorem State.Wf.bootUp (h : s.Wf) : s.bootUp.Wf := by
  unfold State.bootUp
  split
  · extract_lets s₁ s₂
    have h₂ : s₂.Wf := .extend (.extend (.extend (.measure h)))
    split
    · exact .selectRoles (.measure (.measure (.measure h₂)))
    · exact .ofStores rfl rfl rfl rfl h₂
  · exact h

theorem NextWf.execPackageReset : NextWf (execPackageReset s) := by
  unfold Machine.execPackageReset
  extract_lets t _ _ _ _ _ _ _ u
  have ht : t.Wf := .reset
  have hu : u.Wf := by
    unfold u
    split <;> exact ht
  exact .next (.bootUp hu)

theorem State.Wf.setReady {v : Nat} (h : s.Wf) : (s.setReady reg bit v).Wf := .ite h h
theorem NextWf.execFunctionReady {bit : Fin 64} (h : s.Wf) : NextWf (execFunctionReady reg bit s) :=
  .ite (.next (.setReady h)) (.next h)

theorem State.Wf.endAll {p : Nat → Ctx → Launch → Bool} {status : Nat} (h : s.Wf) : (s.endAll p status).Wf := by
  unfold State.endAll
  refine .foldl h (fun _ _ ht => ?_)
  split
  · exact .ite (.endLaunch ht) ht
  · exact ht

theorem State.Wf.tellLost (h : s.Wf) : s.tellLost.Wf := h
theorem State.Wf.dropNle (h : s.Wf) : (s.dropNle reg bit).Wf := .ite (.modDie h) h

theorem NextWf.execFuncLost {bit : Fin 64} (h : s.Wf) : NextWf (execFuncLost reg bit s) := by
  unfold Machine.execFuncLost
  dsimp only
  split <;> exact .ite (.next h) (.next (.tellLost (.dropNle (.setReady (.endAll h)))))

end

/-! ### Machine/Power.lean -/

section
variable {s : State} {mv : Nat}

theorem State.Wf.outOfRange {below : Bool} (h : s.Wf) : (s.outOfRange mv below).Wf := .ite h h

theorem State.Wf.powerLost (h : s.Wf) : s.powerLost.Wf := by
  unfold State.powerLost
  split
  · dsimp only
    exact .event (.endAll h)
  · exact h

theorem NextWf.execSupplyOutOfRange (h : s.Wf) : NextWf (execSupplyOutOfRange mv s) :=
  .ite (.next (.outOfRange (.powerLost h))) (.next h)

theorem NextWf.execSupplyInRange (h : s.Wf) : NextWf (execSupplyInRange mv s) := by
  unfold Machine.execSupplyInRange
  split
  · extract_lets t
    have ht : t.Wf := .powerLost h
    exact .next ht
  · exact .next h

theorem NextWf.execSupplyDip (h : s.Wf) : NextWf (execSupplyDip mv s) := by
  unfold Machine.execSupplyDip
  refine .ite (.next h) ?_
  extract_lets t
  have ht : t.Wf := .outOfRange h
  exact .next (.ite ht ht)

theorem NextWf.execPowerLoss (h : s.Wf) : NextWf (execPowerLoss s) := .ite (.next h) (.next (.powerLost h))
theorem NextWf.execSupplyOvervoltage (h : s.Wf) : NextWf (execSupplyOvervoltage s) := .next h

theorem State.Wf.stretchMore (h : s.Wf) : s.stretchMore.Wf := by
  unfold State.stretchMore
  extract_lets idle src t
  have ht : t.Wf := .ofViews (s := s) (fun d hd => by simpa [t, State.die] using hd) rfl rfl rfl h
  exact .ite ht ht

theorem NextWf.execPowerSample {watts : Nat} (h : s.Wf) : NextWf (execPowerSample watts s) := .next (.ite (.stretchMore h) h)

theorem NextWf.execStretchRelax (h : s.Wf) : NextWf (Machine.execStretchRelax s) := by
  unfold Machine.execStretchRelax
  refine .ite (.next h) (.ite (.next h) (.next (.post ?_)))
  exact .ofViews (s := s) (fun d hd => by simpa [State.die] using hd) rfl rfl rfl h

theorem NextWf.execDroopDetect (h : s.Wf) : NextWf (Machine.execDroopDetect mv s) := by
  unfold Machine.execDroopDetect
  extract_lets d bit x left t
  have ht : t.Wf := .modDie h
  refine .ite (.next (.modDie h)) (.ite (.next (.post ?_)) (.next ht))
  exact .modDie ht

theorem NextWf.execDroopRelease (h : s.Wf) : NextWf (execDroopRelease s) :=
  .ite (.next h) (.ite (.next h) (.next (.modDie h)))
theorem NextWf.execThermalThrottle {tempC : Nat} (h : s.Wf) : NextWf (execThermalThrottle tempC s) :=
  .ite (.next (.stretchMore h)) (.next h)

theorem NextWf.execThermalTrip (h : s.Wf) : NextWf (Machine.execThermalTrip s) := by
  unfold Machine.execThermalTrip
  extract_lets t
  have ht : t.Wf := .event (.endAll h)
  exact .next (.ofViews (s := t) (fun d hd => by simpa [State.die] using hd) rfl rfl rfl ht)

end

end Sys2Proof.Machine
end

section
/-! SUPPORT. The canonical form of the byte stores: scalar and vector instructions, time, and the step. -/
namespace Sys2Proof.Machine

/-! ### Machine/Scalar.lean -/

section
variable {g : Guard} {s : State} {d a b c : SReg} {t : Fmt} {i : BitVec 34} {m : Rm} {f : Word → Word → Word}

theorem NextWf.binary (h : s.Wf) : NextWf (binary g d a b f s) := .plain h (fun _ ht => ht)
theorem NextWf.immediate (h : s.Wf) : NextWf (immediate g d a i f s) := .plain h (fun _ ht => ht)
theorem NextWf.shiftImm {f : Word → Nat → Word} (h : s.Wf) : NextWf (shiftImm g d a i f s) := .plain h (fun _ ht => ht)
theorem NextWf.execAdd (h : s.Wf) : NextWf (execAdd g d a b s) := .binary h
theorem NextWf.execSub (h : s.Wf) : NextWf (execSub g d a b s) := .binary h
theorem NextWf.execMul (h : s.Wf) : NextWf (execMul g d a b s) := .binary h
theorem NextWf.execMulh (h : s.Wf) : NextWf (execMulh g d a b s) := .binary h
theorem NextWf.execMulhu (h : s.Wf) : NextWf (execMulhu g d a b s) := .binary h
theorem NextWf.execDiv (h : s.Wf) : NextWf (execDiv g d a b s) := .binary h
theorem NextWf.execDivu (h : s.Wf) : NextWf (execDivu g d a b s) := .binary h
theorem NextWf.execRem (h : s.Wf) : NextWf (execRem g d a b s) := .binary h
theorem NextWf.execRemu (h : s.Wf) : NextWf (execRemu g d a b s) := .binary h
theorem NextWf.execAnd (h : s.Wf) : NextWf (execAnd g d a b s) := .binary h
theorem NextWf.execOr (h : s.Wf) : NextWf (execOr g d a b s) := .binary h
theorem NextWf.execXor (h : s.Wf) : NextWf (execXor g d a b s) := .binary h
theorem NextWf.execAndn (h : s.Wf) : NextWf (execAndn g d a b s) := .binary h
theorem NextWf.execShl (h : s.Wf) : NextWf (execShl g d a b s) := .binary h
theorem NextWf.execShr (h : s.Wf) : NextWf (execShr g d a b s) := .binary h
theorem NextWf.execSar (h : s.Wf) : NextWf (execSar g d a b s) := .binary h
theorem NextWf.execRot (h : s.Wf) : NextWf (execRot g d a b s) := .binary h
theorem NextWf.execMin (h : s.Wf) : NextWf (execMin g d a b s) := .binary h
theorem NextWf.execMax (h : s.Wf) : NextWf (execMax g d a b s) := .binary h
theorem NextWf.execMinu (h : s.Wf) : NextWf (execMinu g d a b s) := .binary h
theorem NextWf.execMaxu (h : s.Wf) : NextWf (execMaxu g d a b s) := .binary h
theorem NextWf.execClz (h : s.Wf) : NextWf (execClz g d a s) := .plain h (fun _ ht => ht)
theorem NextWf.execCtz (h : s.Wf) : NextWf (execCtz g d a s) := .plain h (fun _ ht => ht)
theorem NextWf.execPopc (h : s.Wf) : NextWf (execPopc g d a s) := .plain h (fun _ ht => ht)
theorem NextWf.execBfx (h : s.Wf) : NextWf (execBfx g d a b c s) := .plain h (fun _ ht => ht)
theorem NextWf.execBfxs (h : s.Wf) : NextWf (execBfxs g d a b c s) := .plain h (fun _ ht => ht)
theorem NextWf.execBfi (h : s.Wf) : NextWf (execBfi g d a b c s) := .plain h (fun _ ht => ht)
theorem NextWf.execSel {c : PReg} (h : s.Wf) : NextWf (execSel g d a b c s) := .plain h (fun _ ht => ht)
theorem NextWf.execCmp {c : ICond} {d : PReg} (h : s.Wf) : NextWf (execCmp g c d a b s) := .plain h (fun _ ht => ht)
theorem NextWf.execAddi (h : s.Wf) : NextWf (execAddi g d a i s) := .immediate h
theorem NextWf.execAndi (h : s.Wf) : NextWf (execAndi g d a i s) := .immediate h
theorem NextWf.execOri (h : s.Wf) : NextWf (execOri g d a i s) := .immediate h
theorem NextWf.execXori (h : s.Wf) : NextWf (execXori g d a i s) := .immediate h
theorem NextWf.execMuli (h : s.Wf) : NextWf (execMuli g d a i s) := .immediate h
theorem NextWf.execShli (h : s.Wf) : NextWf (execShli g d a i s) := .shiftImm h
theorem NextWf.execShri (h : s.Wf) : NextWf (execShri g d a i s) := .shiftImm h
theorem NextWf.execSari (h : s.Wf) : NextWf (execSari g d a i s) := .shiftImm h
theorem NextWf.execCmpi {c : ICond} {d : PReg} (h : s.Wf) : NextWf (execCmpi g c d a i s) := .plain h (fun _ ht => ht)
theorem NextWf.execLea (h : s.Wf) : NextWf (execLea g d i s) := .plain h (fun _ ht => ht)
theorem NextWf.execMovi (h : s.Wf) : NextWf (execMovi g d i s) := .plain h (fun _ ht => ht)
theorem NextWf.execMovhi {i : BitVec 30} (h : s.Wf) : NextWf (execMovhi g d i s) := .plain h (fun _ ht => ht)
theorem NextWf.execMovx {imm : Word} (h : s.Wf) : NextWf (execMovx g d imm s) := .guarded h (fun _ ht => .ok ht)
theorem NextWf.fpResult {f : State → Nat × FFlags} (h : s.Wf) : NextWf (fpResult g t d f s) :=
  .guarded h (fun _ ht => .map (.withFlags ht (fun _ hu => hu)) (fun _ hu => hu))
theorem NextWf.execFadd (h : s.Wf) : NextWf (execFadd g t m d a b s) := .fpResult h
theorem NextWf.execFsub (h : s.Wf) : NextWf (execFsub g t m d a b s) := .fpResult h
theorem NextWf.execFmul (h : s.Wf) : NextWf (execFmul g t m d a b s) := .fpResult h
theorem NextWf.execFdiv (h : s.Wf) : NextWf (execFdiv g t m d a b s) := .fpResult h
theorem NextWf.execFfma (h : s.Wf) : NextWf (execFfma g t m d a b c s) := .fpResult h
theorem NextWf.execFsqrt (h : s.Wf) : NextWf (execFsqrt g t m d a s) := .fpResult h
theorem NextWf.execFmin (h : s.Wf) : NextWf (execFmin g t d a b s) := .fpResult h
theorem NextWf.execFmax (h : s.Wf) : NextWf (execFmax g t d a b s) := .fpResult h

theorem NextWf.execFcmp {c : FCond} {d : PReg} (h : s.Wf) : NextWf (execFcmp g t c d a b s) := by
  unfold Machine.execFcmp
  refine .guarded h (fun _ ht => ?_)
  dsimp only
  exact .map (.withFlags ht (fun _ hu => hu)) (fun _ hu => hu)

theorem NextWf.execFcvt {src : Fmt} (h : s.Wf) : NextWf (execFcvt g t src m d a s) := .fpResult h
theorem NextWf.execFclass (h : s.Wf) : NextWf (execFclass g t d a s) := .plain h (fun _ ht => ht)
theorem NextWf.execFexp (h : s.Wf) : NextWf (execFexp g t m d a s) := .fpResult h
theorem NextWf.execFlog (h : s.Wf) : NextWf (execFlog g t m d a s) := .fpResult h
theorem NextWf.execFerf (h : s.Wf) : NextWf (execFerf g t m d a s) := .fpResult h
theorem NextWf.execFerfc (h : s.Wf) : NextWf (execFerfc g t m d a s) := .fpResult h
theorem NextWf.execFsgn {op : SgnOp} (h : s.Wf) : NextWf (execFsgn g t op d a s) := .plain h (fun _ ht => ht)

end

/-! ### Machine/Time.lean -/

section
variable {s : State} {ctx va n mark gen lcore : Nat} {l : Launch} {i : XcItem}

theorem NextWf.execPtpMessage {port : Nat} {correction : ℤ} (h : s.Wf) : NextWf (execPtpMessage port correction s) := by
  unfold Machine.execPtpMessage
  refine .ite (.next h) ?_
  refine .ite (.next h) ?_
  dsimp only
  exact .next h

theorem State.Wf.sendOut {limited : Bool} (h : s.Wf) : (s.sendOut limited).Wf := h

theorem State.Wf.endTicks (h : s.Wf) : (s.endTicks n).Wf := by
  unfold State.endTicks
  refine .foldl h (fun _ _ ht => ?_)
  dsimp only
  exact .ite ht ht

theorem State.Wf.answerFar {thief : Nat} (h : s.Wf) : (s.answerFar ctx thief).Wf := by
  unfold State.answerFar
  extract_lets t
  have ht : t.Wf := .xcSend h
  split
  next u e =>
    have hu : u.Wf := .of_ok_snd e (.answerSteal h)
    split
    next v e' =>
      have hv : v.Wf := .of_some_snd e' (.pinCont hu)
      exact .xcSend hv
    · exact ht
  · exact ht

theorem State.Wf.arriveFar (h : s.Wf) : (s.arriveFar ctx va n lcore mark).Wf := .ite (.endLaunch h) (.xcSend (.arriveHome h))

theorem State.Wf.withdrawFar (h : s.Wf) : (s.withdrawFar ctx va gen lcore mark).Wf := by
  unfold State.withdrawFar
  refine .ite (.endLaunch h) ?_
  split
  next t e =>
    have ht : t.Wf := .of_snd e (.withdraw h)
    exact .xcSend ht

theorem State.Wf.replyFar {detail : Nat} (h : s.Wf) : (s.replyFar ctx mark va gen detail).Wf :=
  .ite (.ite (.drain h) h) (.ite (.xcSend h) h)
theorem State.Wf.completeFar (h : s.Wf) : (s.completeFar ctx va gen).Wf := .foldl h (fun _ _ ht => .drain ht)
theorem State.Wf.grantFar {k : Nat} {r : TaskRec} (h : s.Wf) : (s.grantFar k r).Wf := SomeHolds.getD (.arriveRec h) h

theorem State.Wf.joinFar {box : BoxImg} {parent : BitVec 48} {cont : Option (BitVec 32)} {arrival : Bool} (h : s.Wf) :
    (s.joinFar ctx l va box parent cont arrival).Wf := by
  unfold State.joinFar
  split
  · exact h
  · extract_lets _ t
    have ht : t.Wf := .drain h
    refine .ite (.endLaunch ht) ?_
    refine .ite ht ?_
    split
    next u e =>
      have hu : u.Wf := .of_ok e (.openJoin ht)
      exact hu
    · exact .endLaunch ht

theorem State.Wf.deliver (h : s.Wf) : (s.deliver l i).Wf := by
  unfold State.deliver
  dsimp only
  split
  · exact h
  · exact .toSplicer h
  · exact .toSplicer h
  · exact .joinFar h
  · exact .answerFar h
  · exact .grantFar h
  · exact h
  · exact .arriveFar h
  · exact .withdrawFar h
  · exact .replyFar h
  · exact .completeFar h

theorem State.Wf.deliverOr (h : s.Wf) : (s.deliverOr i).Wf := by
  unfold State.deliverOr
  split
  · exact h
  · refine .ite h ?_
    split
    · exact h
    · exact .ite (.deliver h) h

theorem State.Wf.deliverAt (h : s.Wf) : (s.deliverAt n).Wf := .foldl h (fun _ _ ht => .deliverOr ht)

theorem NextWf.execTickBoundary (h : s.Wf) : NextWf (Machine.execTickBoundary s) := by
  unfold Machine.execTickBoundary
  extract_lets n s₁ src s₂ s₃
  have h₁ : s₁.Wf := .ite (.endTicks (.sendOut h)) (.sendOut h)
  have h₃ : s₃.Wf := .posts (s := s₂) (.ofStores rfl rfl rfl rfl h₁)
  exact .ite (.next h) (.ite (.next (.post (.ite h (.sendOut h)))) (.next (.post (.ite h₃ (.deliverAt h₃)))))

theorem NextWf.execExchangeFrameRx {port : Fin 8} {f : XFrame} (h : s.Wf) : NextWf (execExchangeFrameRx port f s) := by
  unfold Machine.execExchangeFrameRx
  dsimp only
  split
  · exact .ite (.next h) (.ite (.next h) (.next h))
  · exact .ite (.next h) (.ite (.next h) (.next h))
  · exact .ite (.next h) (.next h)

theorem NextWf.execExchangeLinkLoss (h : s.Wf) : NextWf (execExchangeLinkLoss s) := by
  unfold Machine.execExchangeLinkLoss
  extract_lets _ t u
  have ht : t.Wf := .endAll h
  have hu : u.Wf := .ite (.setReady ht) ht
  exact .ite (.next h) (.next hu)

end

/-! ### Machine/Vector.lean -/

section
variable {s : State} {g : Guard} {d a c : VReg} {t : Fmt} {k : Msk} {m : Rm} {b : VB} {size : Nat}
   {f : State → Nat → Nat × FFlags}

theorem OkHolds.vwrite {l : List (Nat × FFlags)} (h : s.Wf) : OkHolds State.Wf (s.vwrite d size l) :=
  .map (.withFlags h (fun _ ht => ht)) (fun _ ht => ht)

theorem NextWf.ewise {sizes : List Nat} (h : s.Wf) : NextWf (ewise g sizes size k d f s) := by
  unfold Machine.ewise
  refine .guarded h (fun _ ht => ?_)
  split
  · exact .error
  · exact .vwrite ht

theorem NextWf.ewiseT (h : s.Wf) : NextWf (ewiseT g t k d f s) := .ewise h
theorem NextWf.execVadd (h : s.Wf) : NextWf (execVadd g t m k d a b s) := .ewiseT h
theorem NextWf.execVsub (h : s.Wf) : NextWf (execVsub g t m k d a b s) := .ewiseT h
theorem NextWf.execVmul (h : s.Wf) : NextWf (execVmul g t m k d a b s) := .ewiseT h
theorem NextWf.execVdiv (h : s.Wf) : NextWf (execVdiv g t m k d a b s) := .ewiseT h
theorem NextWf.execVfma (h : s.Wf) : NextWf (execVfma g t m k d a b c s) := .ewiseT h
theorem NextWf.execVfms (h : s.Wf) : NextWf (execVfms g t m k d a b c s) := .ewiseT h
theorem NextWf.execVsqrt (h : s.Wf) : NextWf (execVsqrt g t m k d a s) := .ewiseT h
theorem NextWf.execVmin (h : s.Wf) : NextWf (execVmin g t k d a b s) := .ewiseT h
theorem NextWf.execVmax (h : s.Wf) : NextWf (execVmax g t k d a b s) := .ewiseT h
theorem NextWf.execVabs (h : s.Wf) : NextWf (execVabs g t k d a s) := .ewiseT h
theorem NextWf.execVneg (h : s.Wf) : NextWf (execVneg g t k d a s) := .ewiseT h

theorem NextWf.execVcmp {c : VCond} {d : KReg} (h : s.Wf) : NextWf (execVcmp g t c k d a b s) := by
  unfold Machine.execVcmp
  refine .guarded h (fun _ ht => ?_)
  split
  · exact .error
  · dsimp only
    exact .map (.withFlags ht (fun _ hu => hu)) (fun _ hu => hu)

theorem NextWf.execVsel {k : KReg} {b : VReg} (h : s.Wf) : NextWf (execVsel g t k d a b s) := .ewiseT h
theorem NextWf.execVand (h : s.Wf) : NextWf (execVand g t k d a b s) := .ewiseT h
theorem NextWf.execVor (h : s.Wf) : NextWf (execVor g t k d a b s) := .ewiseT h
theorem NextWf.execVxor (h : s.Wf) : NextWf (execVxor g t k d a b s) := .ewiseT h
theorem NextWf.execVshl (h : s.Wf) : NextWf (execVshl g t k d a b s) := .ewiseT h
theorem NextWf.execVshr (h : s.Wf) : NextWf (execVshr g t k d a b s) := .ewiseT h
theorem NextWf.execVsar (h : s.Wf) : NextWf (execVsar g t k d a b s) := .ewiseT h
theorem NextWf.execVmov (h : s.Wf) : NextWf (execVmov g t k d a s) := .ewiseT h
theorem NextWf.execVshape {x : BitVec 16} (h : s.Wf) : NextWf (execVshape g x s) := .plain h (fun _ ht => ht)
theorem NextWf.execViota {a : SReg} (h : s.Wf) : NextWf (execViota g t k d a s) := .ewiseT h

theorem NextWf.execRedt {k : KReg} {d : SReg} {b : SReg} (h : s.Wf) : NextWf (execRedt g t m k d a b s) := by
  unfold Machine.execRedt
  refine .guarded h (fun _ ht => ?_)
  split
  · exact .error
  · dsimp only
    exact .map (.withFlags ht (fun _ hu => hu)) (fun _ hu => hu)

theorem NextWf.execVred {cols : Bool} (h : s.Wf) : NextWf (execVred g t m k cols d a s) := by
  unfold Machine.execVred
  refine .guarded h (fun _ ht => ?_)
  split
  · exact .error
  · dsimp only
    exact .vwrite ht

theorem NextWf.execVcvt {src : Fmt} (h : s.Wf) : NextWf (execVcvt g t src m k d a s) := by
  unfold Machine.execVcvt
  split
  · refine .guarded h (fun _ ht => ?_)
    split
    · exact .error
    · exact .vwrite ht
  · split
    · refine .guarded h (fun _ ht => ?_)
      split
      · exact .error
      · exact .vwrite ht
    · exact .ewise h

theorem NextWf.execVreq {b : SReg} (h : s.Wf) : NextWf (execVreq g t m k d a b s) := .ewiseT h

theorem NextWf.execVcomp {k : KReg} {c : SReg} (h : s.Wf) : NextWf (execVcomp g t k d a c s) := by
  unfold Machine.execVcomp
  refine .guarded h (fun _ ht => ?_)
  split
  · exact .error
  · dsimp only
    exact .ok ht

theorem NextWf.execVexpd (h : s.Wf) : NextWf (execVexpd g t k d a s) := .ewiseT h
theorem NextWf.execVperm {b : VReg} (h : s.Wf) : NextWf (execVperm g t k d a b s) := .ewise h
theorem NextWf.execVtrans (h : s.Wf) : NextWf (execVtrans g t d a s) := .ewiseT h
theorem NextWf.execVbcast {a : SReg} (h : s.Wf) : NextWf (execVbcast g t k d a s) := .ewiseT h
theorem NextWf.execVslide {down : Bool} {b : SReg} (h : s.Wf) : NextWf (execVslide g t down k d a b s) := .ewiseT h

theorem NextWf.execVgets {d : SReg} {b : SReg} (h : s.Wf) : NextWf (execVgets g t d a b s) := by
  unfold Machine.execVgets
  refine .guarded h (fun _ ht => ?_)
  split
  · exact .error
  · dsimp only
    exact .ok ht

theorem NextWf.execVputs {a b : SReg} (h : s.Wf) : NextWf (execVputs g t d a b s) := by
  unfold Machine.execVputs
  refine .guarded h (fun _ ht => ?_)
  split
  · exact .error
  · dsimp only
    exact .ok (.adv (.ite ht ht))

theorem NextWf.execKop {op : KopOp} (h : s.Wf) : NextWf (execKop g op s) := by
  unfold Machine.execKop
  refine .plain h (fun _ ht => ?_)
  split <;> exact ht

theorem NextWf.execVrand {w64 : Bool} (h : s.Wf) : NextWf (execVrand g w64 k d s) := by
  unfold Machine.execVrand
  refine .guarded h (fun _ ht => ?_)
  dsimp only
  split
  · exact .error
  · exact .map (.vwrite ht) (fun _ hu => hu)

theorem NextWf.execVfexp (h : s.Wf) : NextWf (execVfexp g t m k d a s) := .ewiseT h
theorem NextWf.execVflog (h : s.Wf) : NextWf (execVflog g t m k d a s) := .ewiseT h
theorem NextWf.execVferf (h : s.Wf) : NextWf (execVferf g t m k d a s) := .ewiseT h
theorem NextWf.execVferfc (h : s.Wf) : NextWf (execVferfc g t m k d a s) := .ewiseT h
theorem NextWf.execVlnt (h : s.Wf) : NextWf (execVlnt g t k d a s) := .ewise h
theorem NextWf.execVlnf (h : s.Wf) : NextWf (execVlnf g t m k d a s) := .ewise h
theorem NextWf.execVxexp (h : s.Wf) : NextWf (execVxexp g t k d a s) := .ewiseT h
theorem NextWf.execVxrcp (h : s.Wf) : NextWf (execVxrcp g t k d a s) := .ewiseT h
theorem NextWf.execVxrsq (h : s.Wf) : NextWf (execVxrsq g t k d a s) := .ewiseT h
theorem NextWf.execVxsig (h : s.Wf) : NextWf (execVxsig g t k d a s) := .ewiseT h
theorem NextWf.execVxtanh (h : s.Wf) : NextWf (execVxtanh g t k d a s) := .ewiseT h

end

/-! ### Machine/Dispatch.lean -/

section
variable {s : State}

/-- No instruction breaks the form: one arm for each arm of `exec`. -/
theorem NextWf.exec (h : s.Wf) : ∀ i : Instr, NextWf (exec i s)
  | .illegal w => .execIllegal (w := w) h
  | .nop .. => .execNop h
  | .skip .. => .execSkip h
  | .call .. => .execCall h
  | .ret .. => .execRet h
  | .trap .. => .execTrap h
  | .brk .. => .execBrk h
  | .movc .. => .execMovc h
  | .movcw .. => .execMovcw h
  | .tresume .. => .execTresume h
  | .tdrop .. => .execTdrop h
  | .tlbinv .. => .execTlbinv h
  | .icinv .. => .execIcinv h
  | .halt .. => .execHalt h
  | .boxld .. => .execBoxld h
  | .boxst .. => .execBoxst h
  | .boxget .. => .execBoxget h
  | .boxset .. => .execBoxset h
  | .boxkey .. => .execBoxkey h
  | .fits .. => .execFits h
  | .split .. => .execSplit h
  | .splitk .. => .execSplitk h
  | .splitf .. => .execSplitf h
  | .prune .. => .execPrune h
  | .leaf .. => .execLeaf h
  | .done .. => .execDone h
  | .requeue .. => .execRequeue h
  | .spawn .. => .execSpawn h
  | .send .. => .execSend h
  | .deposit .. => .execDeposit h
  | .cinc .. => .execCinc h
  | .cadd .. => .execCadd h
  | .waitc .. => .execWaitc h
  | .vwaitc .. => .execVwaitc h
  | .bar .. => .execBar h
  | .bara .. => .execBara h
  | .barw .. => .execBarw h
  | .fence .. => .execFence h
  | .fencesc .. => .execFencesc h
  | .amo .. => .execAmo h
  | .bdecl .. => .execBdecl h
  | .waitb .. => .execWaitb h
  | .badv .. => .execBadv h
  | .brel .. => .execBrel h
  | .bstat .. => .execBstat h
  | .sendb .. => .execSendb h
  | .add .. => .execAdd h
  | .sub .. => .execSub h
  | .mul .. => .execMul h
  | .mulh .. => .execMulh h
  | .mulhu .. => .execMulhu h
  | .div .. => .execDiv h
  | .divu .. => .execDivu h
  | .rem .. => .execRem h
  | .remu .. => .execRemu h
  | .and .. => .execAnd h
  | .or .. => .execOr h
  | .xor .. => .execXor h
  | .andn .. => .execAndn h
  | .shl .. => .execShl h
  | .shr .. => .execShr h
  | .sar .. => .execSar h
  | .rot .. => .execRot h
  | .min .. => .execMin h
  | .max .. => .execMax h
  | .minu .. => .execMinu h
  | .maxu .. => .execMaxu h
  | .clz .. => .execClz h
  | .ctz .. => .execCtz h
  | .popc .. => .execPopc h
  | .bfx .. => .execBfx h
  | .bfxs .. => .execBfxs h
  | .bfi .. => .execBfi h
  | .sel .. => .execSel h
  | .cmp .. => .execCmp h
  | .addi .. => .execAddi h
  | .andi .. => .execAndi h
  | .ori .. => .execOri h
  | .xori .. => .execXori h
  | .shli .. => .execShli h
  | .shri .. => .execShri h
  | .sari .. => .execSari h
  | .cmpi .. => .execCmpi h
  | .muli .. => .execMuli h
  | .lea .. => .execLea h
  | .movi .. => .execMovi h
  | .movhi .. => .execMovhi h
  | .fadd .. => .execFadd h
  | .fsub .. => .execFsub h
  | .fmul .. => .execFmul h
  | .ffma .. => .execFfma h
  | .fdiv .. => .execFdiv h
  | .fsqrt .. => .execFsqrt h
  | .fmin .. => .execFmin h
  | .fmax .. => .execFmax h
  | .fcmp .. => .execFcmp h
  | .fcvt .. => .execFcvt h
  | .fclass .. => .execFclass h
  | .fexp .. => .execFexp h
  | .flog .. => .execFlog h
  | .ferf .. => .execFerf h
  | .ferfc .. => .execFerfc h
  | .fsgn .. => .execFsgn h
  | .ld _ _ _ _ o => .execLd (ord := o) h
  | .st _ _ _ _ o => .execSt (ord := o) h
  | .ldv _ _ _ _ o => .execLdv (ord := o) h
  | .stv _ _ _ _ o => .execStv (ord := o) h
  | .ldvx .. => .execLdvx h
  | .stvx .. => .execStvx h
  | .ldw .. => .execLdw h
  | .mstore _ _ _ _ o => .execMstore (ord := o) h
  | .vadd .. => .execVadd h
  | .vsub .. => .execVsub h
  | .vmul .. => .execVmul h
  | .vfma .. => .execVfma h
  | .vfms .. => .execVfms h
  | .vdiv .. => .execVdiv h
  | .vsqrt .. => .execVsqrt h
  | .vmin .. => .execVmin h
  | .vmax .. => .execVmax h
  | .vabs .. => .execVabs h
  | .vneg .. => .execVneg h
  | .vcmp .. => .execVcmp h
  | .vsel .. => .execVsel h
  | .vand .. => .execVand h
  | .vor .. => .execVor h
  | .vxor .. => .execVxor h
  | .vshl .. => .execVshl h
  | .vshr .. => .execVshr h
  | .vsar .. => .execVsar h
  | .vmov .. => .execVmov h
  | .vshape .. => .execVshape h
  | .viota .. => .execViota h
  | .vred .. => .execVred h
  | .redt .. => .execRedt h
  | .vcvt .. => .execVcvt h
  | .vreq .. => .execVreq h
  | .vcomp .. => .execVcomp h
  | .vexpd .. => .execVexpd h
  | .vperm .. => .execVperm h
  | .vtrans .. => .execVtrans h
  | .vbcast .. => .execVbcast h
  | .vslide .. => .execVslide h
  | .kop .. => .execKop h
  | .vrand .. => .execVrand h
  | .vgets .. => .execVgets h
  | .vputs .. => .execVputs h
  | .vfexp .. => .execVfexp h
  | .vflog .. => .execVflog h
  | .vferf .. => .execVferf h
  | .vferfc .. => .execVferfc h
  | .vlnt .. => .execVlnt h
  | .vlnf .. => .execVlnf h
  | .vxexp .. => .execVxexp h
  | .vxrcp .. => .execVxrcp h
  | .vxrsq .. => .execVxrsq h
  | .vxsig .. => .execVxsig h
  | .vxtanh .. => .execVxtanh h
  | .sclaim .. => .execSclaim h
  | .srel .. => .execSrel h
  | .sfill .. => .execSfill h
  | .sstat .. => .execSstat h
  | .mldw .. => .execMldw h
  | .mma .. => .execMma h
  | .mmag .. => .execMmag h
  | .mmas .. => .execMmas h
  | .mwait .. => .execMwait h
  | .mresume .. => .execMresume h
  | .mout .. => .execMout h
  | .mzero .. => .execMzero h
  | .mstat .. => .execMstat h
  | .fetch .. => .execFetch h
  | .put .. => .execPut h
  | .gather .. => .execGather h
  | .scata .. => .execScata h
  | .nlcfg .. => .execNlcfg h
  | .nlbin .. => .execNlbin h
  | .nlpairs .. => .execNlpairs h
  | .nlstat .. => .execNlstat h
  | .conv .. => .execConv h
  | .ewait .. => .execEwait h
  | .estat .. => .execEstat h
  | .movx .. => .execMovx h
  | .functionReady .. => .execFunctionReady h
  | .funcLost .. => .execFuncLost h
  | .supplyOutOfRange .. => .execSupplyOutOfRange h
  | .supplyInRange .. => .execSupplyInRange h
  | .supplyDip .. => .execSupplyDip h
  | .powerSample .. => .execPowerSample h
  | .droopDetect .. => .execDroopDetect h
  | .thermalThrottle .. => .execThermalThrottle h
  | .ptpMessage .. => .execPtpMessage h
  | .exchangeFrameRx .. => .execExchangeFrameRx h
  | .createCtx .. => .execCreateCtx h
  | .map .. => .execMap h
  | .unmap .. => .execUnmap h
  | .loadWimage .. => .execLoadWimage h
  | .launch .. => .execLaunch h
  | .evict .. => .execEvict h
  | .resume .. => .execResume h
  | .destroyCtx .. => .execDestroyCtx h
  | .readTrapring .. => .execReadTrapring h
  | .attest .. => .execAttest h
  | .doorbellWrite .. => .execDoorbellWrite h
  | .hostRdmaWrite .. => .execHostRdmaWrite h
  | .hostRdmaRead .. => .execHostRdmaRead h
  | .wakeMessage .. => .execWakeMessage h
  | .tstartWrite .. => .execTstartWrite h
  | .tickpWrite .. => .execTickpWrite h
  | .plimitWrite .. => .execPlimitWrite h
  | .fpcrWrite .. => .execFpcrWrite h
  | .fpsrWrite .. => .execFpsrWrite h
  | .agemaxWrite .. => .execAgemaxWrite h
  | .dlescWrite .. => .execDlescWrite h
  | .evselWrite .. => .execEvselWrite h
  | .evcntWrite .. => .execEvcntWrite h
  | .haltrelWrite .. => .execHaltrelWrite h
  | .registerWrite .. => .execRegisterWrite h
  | .messageInject .. => .execMessageInject h
  | .messageReoffer .. => .execMessageReoffer h
  | .poolRetest .. => .execPoolRetest h
  | .poolExpiry .. => .execPoolExpiry h
  | .supHoldService .. => .execSupHoldService h
  | .evictStepEnd .. => .execEvictStepEnd h
  | .writeApply .. => .execWriteApply h
  | .tableWalk .. => .execTableWalk h
  | .slotFillStart .. => .execSlotFillStart h
  | .slotFillEnd .. => .execSlotFillEnd h
  | .gangBarrier .. => .execGangBarrier h
  | .connectionAccept .. => .execConnectionAccept h
  | .evOvf .. => .execEvOvf h
  | .packageReset => .execPackageReset
  | .recoveryStatusRead => .execRecoveryStatusRead h
  | .powerLoss => .execPowerLoss h
  | .supplyOvervoltage => .execSupplyOvervoltage h
  | .stretchRelax => .execStretchRelax h
  | .droopRelease => .execDroopRelease h
  | .thermalTrip => .execThermalTrip h
  | .tickBoundary => .execTickBoundary h
  | .exchangeLinkLoss => .execExchangeLinkLoss h
  | .connectionDrop => .execConnectionDrop h
  | .launchStart => .execLaunchStart h
  | .launchEnd => .execLaunchEnd h
  | .strandDispatch => .execStrandDispatch h
  | .relayStart => .execRelayStart h
  | .messageArrival => .execMessageArrival h
  | .stealRequest => .execStealRequest h
  | .stealGrant => .execStealGrant h
  | .stealDeny => .execStealDeny h
  | .stealBackoffExpiry => .execStealBackoffExpiry h
  | .spawnReservationRequest => .execSpawnReservationRequest h
  | .spawnAnswer => .execSpawnAnswer h
  | .spawnRelease => .execSpawnRelease h
  | .commitGroupRelease => .execCommitGroupRelease h
  | .splicerDeposit => .execSplicerDeposit h
  | .splicerCover => .execSplicerCover h
  | .watchdog => .execWatchdog h
  | .deadlineExpiry => .execDeadlineExpiry h
  | .evictionBound => .execEvictionBound h
  | .waitSatisfied => .execWaitSatisfied h
  | .mailboxDrain => .execMailboxDrain h
  | .haltStop => .execHaltStop h
  | .refreshStallEnd => .execRefreshStallEnd h
  | .sequencerStep => .execSequencerStep h
  | .mmasPrefetch => .execMmasPrefetch h
  | .sendbArrival => .execSendbArrival h
  | .sendbLanded => .execSendbLanded h
  | .barrierArrival => .execBarrierArrival h
  | .barrierWithdraw => .execBarrierWithdraw h
  | .barrierComplete => .execBarrierComplete h
  | .gdeTransferBlock => .execGdeTransferBlock h
  | .gdeRowFetch => .execGdeRowFetch h
  | .scataApply => .execScataApply h
  | .nlbinComplete => .execNlbinComplete h
  | .nleBlock => .execNleBlock h
  | .convPhase => .execConvPhase h
  | .engineCommandEnd => .execEngineCommandEnd h

end

/-! ### Machine/Step.lean -/

theorem NextWf.ticked {o : Host.Outcome State Fault Refusal} (h : NextWf o) : NextWf (Machine.ticked o) := by
  cases o with
  | next s => exact .next (.tick (h s rfl))
  | fault f => exact .fault
  | refused r => exact .refused

theorem NextWf.runPlan {p : Plan} (h : p.Wf) : NextWf (Machine.runPlan p) := by
  cases p with
  | run i s => exact .ticked (.exec h i)
  | done s => exact .next (.tick h)

theorem NextWf.step {s : State} (h : s.Wf) : NextWf (step s) := .ite .fault (.runPlan (.plan h))

end Sys2Proof.Machine
end

section
/-! PROOF. Every step keeps the canonical form of every byte store. -/
namespace Sys2Proof.Machine

/-- Settles O60: every function of the model that answers a state keeps the form, so the planned turn (`Plan.Wf.plan`) and
what it runs (`NextWf.exec`) do. -/
theorem stepKeepsMemory : Obligations.StepKeepsMemory := by
  intro s t h hstep
  exact NextWf.step h t hstep

end Sys2Proof.Machine
end

section
/-! PROOF. The route of a trap, and the halt of a strand by the debugger (R159, R162, R163, R176, R274). -/
namespace Sys2Proof.Machine

/-! ### Routes (R159, R162, R163) -/

theorem State.routeOf_lt (s : State) (x code : Nat) : (s.routeOf x code).1 < 4 := by
  unfold State.routeOf
  split
  · decide
  · exact Nat.mod_lt _ (by decide)

theorem forcedSup_iff (code : Nat) : forcedSup code = true ↔ code = 0x02 ∨ code = 0x08 ∨ code = 0x15 := by
  simp [forcedSup, tPRIV, tXLATE, tDLESC, or_assoc]

section
variable (s : State) (x lc code : Nat)

/-- A trap in a trap-service task is routed KILL. -/
theorem State.chooseRoute_service : (s.chooseRoute x lc code true).1 = 2 := by simp [State.chooseRoute]

theorem State.chooseRoute_forced (h : code = 0x02 ∨ code = 0x08 ∨ code = 0x15) : (s.chooseRoute x lc code false).1 = 1 := by
  simp [State.chooseRoute, (forcedSup_iff code).mpr h]

/-- Another code goes where its routing byte says: USER when a service can be queued, and 3 is KILL. -/
theorem State.chooseRoute_byte (h : ¬ (code = 0x02 ∨ code = 0x08 ∨ code = 0x15)) : (s.chooseRoute x lc code false).1 =
    if (s.routeOf x code).1 = 0 then if (s.routeOf x code).2 = 0 ∨ 8 ≤ (s.lc lc).svc.length then 2 else 0
    else if (s.routeOf x code).1 = 3 then 2 else (s.routeOf x code).1 := by
  have hf : forcedSup code = false := Bool.eq_false_iff.mpr (mt (forcedSup_iff code).mp h)
  simp only [State.chooseRoute, hf, Bool.false_eq_true, if_false]
  by_cases h3 : (s.routeOf x code).1 = 3
  · simp [h3]
  · by_cases h0 : (s.routeOf x code).1 = 0
    · by_cases hfull : (s.routeOf x code).2 = 0 ∨ 8 ≤ (s.lc lc).svc.length <;> simp [h0, hfull]
    · simp [h0, h3]

theorem State.chooseRoute_le (svc : Bool) : (s.chooseRoute x lc code svc).1 ≤ 2 := by
  cases svc with
  | true => exact (s.chooseRoute_service x lc code).le
  | false =>
    by_cases h : code = 0x02 ∨ code = 0x08 ∨ code = 0x15
    · rw [s.chooseRoute_forced x lc code h]
      decide
    · have hlt := s.routeOf_lt x code
      rw [s.chooseRoute_byte x lc code h]
      split_ifs <;> omega

end

/-- Settles O21: a service task, a forced code, and the routing byte of any other code. -/
theorem trapRoutes : Obligations.TrapRoutes := by
  intro s x lc code
  refine ⟨s.chooseRoute_service x lc code, s.chooseRoute_forced x lc code, fun ⟨h1, h2, h3⟩ => ?_⟩
  rw [s.chooseRoute_byte x lc code (by simp [h1, h2, h3])]
  refine ⟨fun h => by simp [h], fun h => by simp [h], ?_⟩
  rintro (h | h) <;> simp [h]

/-! ### The stop of a strand (R134, R176) -/

/-- HALT_STOP leaves a strand that is inside an instruction. -/
theorem exec_haltStop_midway {s : State} (h : s.st.midway = true) : exec .haltStop s = .next s := by
  simp [execHaltStop, h]

/-- A strand with a requested halt whose refresh window is over: it stalls no more, and its instruction has not been
issued again, so that it is not at a boundary. -/
def resumingStrand : Strand := { idleStrand with sup := true, haltReq := true, stall := some (0, 0) }

def resuming : State := State.reset.setStrand State.reset.cur resumingStrand

theorem resuming_st : resuming.st = resumingStrand := State.st_setStrand State.reset resumingStrand

/-- Refutes O26: HALT_STOP finds a strand between the end of its stall and the issue that follows inside its instruction
(R176), and leaves it, where the statement asks only that it neither waits nor stalls. -/
theorem not_haltAndRelease : ¬ Obligations.HaltAndRelease := by
  intro h
  have hguard : resuming.guard ⟨0, false⟩ = true := by simp [State.guard, State.rP, Strand.rP]
  have hsup : resuming.st.sup = true := by rw [resuming_st]; rfl
  obtain ⟨-, -, -, hstop, -⟩ := h resuming ⟨0, false⟩ 0 0 0 0 hguard hsup
  have hstays : exec .haltStop resuming = .next resuming := exec_haltStop_midway (by rw [resuming_st]; rfl)
  have hstops := hstop (by rw [resuming_st]; rfl) (by rw [resuming_st]; rfl) (by rw [resuming_st]; rfl)
  rw [hstays] at hstops
  have hhalted : resuming.st.halted = true := by
    rw [Host.Outcome.next.inj hstops]
    exact congrArg Strand.halted (State.st_setStrand resuming _)
  rw [resuming_st] at hhalted
  exact absurd hhalted (by decide)

end Sys2Proof.Machine
end

section
/-! SUPPORT. What the end of a launch leaves of a strand (R46), and what the abort of a task leaves of its context and of the
deque of its logical core (R160). -/
namespace Sys2Proof.Machine

/-! ### Tables -/

theorem Table.find_mapv {α : Type} (t : Table α) (f : α → α) (k : Nat) : (Table.mapv t f).find k = (t.find k).map f := by
  induction t with
  | nil => rfl
  | cons e t ih =>
    obtain ⟨i, v⟩ := e
    by_cases h : i = k
    · simp [Table.mapv, Table.find, h]
    · simpa [Table.mapv, Table.find, h] using ih

/-! ### A strand at the end of a launch (R46) -/

/-- `u` is the strand `t`, or what the end of a launch makes of it: its count of deadlines stays, and one that is free and runs
nothing stays so. -/
def Strand.Cleared (t u : Strand) : Prop :=
  u.dlcount = t.dlcount ∧ (t.task = none ∧ t.phase = .free → u.task = none ∧ u.phase = .free)

theorem Strand.Cleared.refl (t : Strand) : t.Cleared t := ⟨rfl, id⟩
theorem Strand.Cleared.trans {t u v : Strand} (h : t.Cleared u) (h' : u.Cleared v) : t.Cleared v :=
  ⟨h'.1.trans h.1, fun hi => h'.2 (h.2 hi)⟩

/-- A strand that takes no task any more; a requested halt stops it (R176). -/
def Strand.freed (t : Strand) (cyc : Nat) : Strand :=
  let t := if t.haltReq then { t with haltReq := false, halted := true, haltAt := cyc } else t
  { t with phase := .free, task := none, wait := none, stall := none, held := false, spawn := none, arr := Vector.replicate 4 none }

theorem State.strand_freeStrand (s : State) (k j : Nat) : (s.freeStrand k).strand j =
    if j = k then (s.strand k).freed (s.cyc (coreOf k)) else s.strand j := by
  unfold State.freeStrand Strand.freed
  dsimp only
  rw [State.strand_post, State.strand_post, State.strand_modStrand]

theorem Strand.cleared_freed (t : Strand) (cyc : Nat) : t.Cleared (t.freed cyc) := by
  refine ⟨?_, fun _ => ⟨rfl, rfl⟩⟩
  unfold Strand.freed
  dsimp only
  split <;> rfl

theorem State.cleared_freeStrand (s : State) (k j : Nat) : (s.strand j).Cleared ((s.freeStrand k).strand j) := by
  rw [State.strand_freeStrand]
  split
  · next h => exact h ▸ Strand.cleared_freed _ _
  · exact .refl _

theorem State.strand_relRing (s : State) (k : Nat) (r : Option (Nat × Nat)) (j : Nat) : (s.relRing k r).strand j = s.strand j :=
  State.relRing_keeps (p := fun s => s.strand j) (fun _ _ _ _ => rfl) s k r

theorem State.strand_modCtx (s : State) (c : Nat) (f : Ctx → Ctx) (j : Nat) : (s.modCtx c f).strand j = s.strand j :=
  State.modCtx_keeps (fun s => s.strand j) (fun _ _ => rfl) s c f

theorem foldl_rel {σ β : Type} {R : σ → σ → Prop} (hrefl : ∀ s, R s s) (htrans : ∀ {s t u}, R s t → R t u → R s u)
    {f : σ → β → σ} (h : ∀ s b, R s (f s b)) (l : List β) : ∀ s, R s (l.foldl f s) := by
  induction l with
  | nil => exact hrefl
  | cons b l ih => exact fun s => htrans (h s b) (ih _)

/-- A strand without what the launch of a context has left in it: messages, and a reservation. -/
def Strand.rid (t : Strand) (ctx : Nat) : Strand :=
  let t := { t with send := t.send.map (fun (q : List SendItem) => q.filter (fun i => i.msg.ctx.toNat != ctx)) }
  if (t.spawnTask.map (fun (r : SpawnReq) => r.ctx)) = some ctx then { t with phase := .free, spawnTask := none } else t

theorem Strand.cleared_rid (t : Strand) (ctx : Nat) : t.Cleared (t.rid ctx) := by
  unfold Strand.rid
  dsimp only
  split
  · exact ⟨rfl, fun h => ⟨h.1, rfl⟩⟩
  · exact ⟨rfl, id⟩

/-- Every strand that is listed changes. -/
theorem State.cleared_mapv {f : Strand → Strand} (s t : State) (ht : t.strands = Table.mapv s.strands f)
    (hf : ∀ x : Strand, x.Cleared (f x)) (j : Nat) : (s.strand j).Cleared (t.strand j) := by
  unfold State.strand Table.get
  rw [ht, Table.find_mapv]
  cases s.strands.find j with
  | none => exact .refl _
  | some x => exact hf x

/-- The end of a launch frees strands, drops their messages and reservations, and counts no deadline. -/
theorem State.cleared_endLaunch (s : State) (ctx status j : Nat) : (s.strand j).Cleared ((s.endLaunch ctx status).strand j) := by
  cases h : s.launch? ctx with
  | none => rw [State.endLaunch_inactive status h]; exact .refl _
  | some l =>
    obtain ⟨c, hc, hl⟩ := State.launch?_eq_some.mp h
    generalize hr : s.endLaunch ctx status = t
    unfold State.endLaunch at hr
    simp -zeta only [hc, hl] at hr
    extract_lets s1 mine gone held s2 kept wake s3 s4 s5 rec_ out s6 s7 at hr
    have h1 : s1.strand j = s.strand j := foldl_keeps (fun s : State => s.strand j) (f := State.drain) (fun _ _ => rfl) _ s
    have h2 : (s1.strand j).Cleared (s2.strand j) := foldl_rel (R := fun s t : State => (s.strand j).Cleared (t.strand j))
      (fun s => .refl _) .trans (fun s k => s.strand_relRing k _ j ▸ State.cleared_freeStrand _ k j) gone s1
    have h3 : (s2.strand j).Cleared (s3.strand j) :=
      State.cleared_mapv (f := fun t => t.rid ctx) s2 s3 rfl (fun t => t.cleared_rid ctx) j
    have h4 : s4.strand j = s3.strand j := foldl_keeps (fun s : State => s.strand j) (f := State.settleSlots) (fun _ _ => rfl) _ s3
    have h7 : s7.strand j = s6.strand j := State.strand_modCtx s6 ctx _ j
    rw [← hr, State.strand_post, h7]
    show (s.strand j).Cleared (s4.strand j)
    rw [h4, ← h1]
    exact h2.trans h3

/-! ### The abort of a task (R160) -/

/-- A context but for the tile heap and the counts of items of its launch. -/
def Ctx.steady (c : Ctx) : Ctx := { c with launch := c.launch.map (fun l => { l with heap := [], xseqs := [] }) }

/-- What an abort leaves of a context and of a logical core. -/
def State.abortView (ctx lck : Nat) (s : State) : Option Ctx × List DqItem := ((s.ctx? ctx).map Ctx.steady, (s.lc lck).hw)

section
variable (ctx lck : Nat)

theorem State.abortView_modLaunch (s : State) (c : Nat) {f : Launch → Launch}
    (hf : ∀ l, ({ f l with heap := [], xseqs := [] } : Launch) = { l with heap := [], xseqs := [] }) :
    (s.modLaunch c f).abortView ctx lck = s.abortView ctx lck := by
  have hlc : (s.modLaunch c f).lc lck = s.lc lck := State.modCtx_keeps (fun s => s.lc lck) (fun _ _ => rfl) s c _
  have hsteady : ∀ x : Ctx, ({ x with launch := x.launch.map f } : Ctx).steady = x.steady := fun x => by
    simp [Ctx.steady, Function.comp_def, hf]
  refine Prod.ext ?_ (congrArg LCore.hw hlc)
  show ((s.modCtx c _).ctx? ctx).map Ctx.steady = (s.ctx? ctx).map Ctx.steady
  rw [State.ctx?_modCtx]
  split
  · next h =>
    rw [h, Option.map_map]
    exact congrArg (fun g => (s.ctx? c).map g) (funext hsteady)
  · rfl

theorem State.abortView_modLc (s : State) (k : Nat) {f : LCore → LCore} (hf : ∀ l, (f l).hw = l.hw) :
    (s.modLc k f).abortView ctx lck = s.abortView ctx lck := by
  refine Prod.ext rfl ?_
  show ((s.modLc k f).lc lck).hw = (s.lc lck).hw
  rw [State.lc_modLc]
  split
  · next h => rw [h, hf]
  · rfl

theorem State.abortView_xcSend (s : State) (k chip : Nat) (body : XcBody) :
    (s.xcSend k chip body).abortView ctx lck = s.abortView ctx lck :=
  State.abortView_modLaunch ctx lck s (lcCtx k) (fun _ => rfl)

theorem State.abortView_heapFree (s : State) (c va : Nat) : (s.heapFree c va).abortView ctx lck = s.abortView ctx lck := by
  unfold State.heapFree
  split
  · rfl
  · exact State.abortView_modLaunch ctx lck s c (fun _ => rfl)

theorem State.abortView_discardEffect (s : State) (c : Nat) (e : Effect) :
    (s.discardEffect c e).abortView ctx lck = s.abortView ctx lck := by
  unfold State.discardEffect
  split
  · rfl
  · exact State.abortView_heapFree ctx lck s c _
  · rfl

/-- A withdrawal writes the barrier's record. -/
theorem State.abortView_withdraw (s : State) (core c : Nat) (a : Arrival) :
    (s.withdraw core c a).2.abortView ctx lck = s.abortView ctx lck := by
  unfold State.withdraw
  split
  · rfl
  · dsimp only
    split
    · rfl
    · split <;> rfl

theorem State.abortView_withdrawAll (s : State) (k : Nat) : (s.withdrawAll k).abortView ctx lck = s.abortView ctx lck := by
  unfold State.withdrawAll
  refine (foldl_keeps (State.abortView ctx lck) (fun s a => ?_) _ _).trans rfl
  split
  · rfl
  · split
    · rfl
    · split
      · exact State.abortView_xcSend ctx lck s _ _ _
      · exact State.abortView_withdraw ctx lck s _ _ _

theorem State.abortView_dropSpawn (s : State) (k : Nat) : (s.dropSpawn k).abortView ctx lck = s.abortView ctx lck := by
  unfold State.dropSpawn
  split <;> rfl

/-- An abort leaves the context but for its launch's heap, and the deques. -/
theorem State.abortView_abortStrand (s : State) (k : Nat) (undo : Bool) :
    (s.abortStrand k undo).abortView ctx lck = s.abortView ctx lck := by
  generalize hr : s.abortStrand k undo = t
  unfold State.abortStrand at hr
  extract_lets t0 m s1 at hr
  cases htask : t0.task with
  | none => rw [htask] at hr; exact congrArg _ hr.symm
  | some tk =>
    rw [htask] at hr
    dsimp -zeta only at hr
    extract_lets s2 s3 s4 s5 s6 s7 at hr
    have h1 : s1.abortView ctx lck = s.abortView ctx lck := State.abortView_withdrawAll ctx lck s k
    have h3 : s3.abortView ctx lck = s2.abortView ctx lck :=
      foldl_keeps (State.abortView ctx lck) (fun s e => State.abortView_discardEffect ctx lck s tk.ctx e) _ s2
    have h4 : s4.abortView ctx lck = s3.abortView ctx lck := State.abortView_dropSpawn ctx lck s3 k
    have h7 : s7.abortView ctx lck = s6.abortView ctx lck := State.abortView_modLc ctx lck s6 tk.lc (fun _ => rfl)
    rw [← hr, State.relRing_keeps (p := State.abortView ctx lck) (fun _ _ _ _ => rfl), h7, ← h1]
    exact h4.trans h3

end

/-- The task is a trap-service task (R163). -/
def Task.isService (k : Task) : Bool :=
  match k.trigger with
  | .svc _ => true
  | _ => false

/-! ### A trap is written down (R160, R161) -/

/-- A trigger is held: a record needs room in its deque (log 34). -/
theorem State.holdTrigger_some {s : State} {tk : Task} (k ix : Nat) (h : tk.trigger = .record → (s.lc tk.lc).hw.length < 64) :
    ∃ v, s.holdTrigger k tk ix = some v ∧ v.ctxs = s.ctxs := by
  unfold State.holdTrigger
  cases ht : tk.trigger with
  | record =>
    refine ⟨s.modLc tk.lc (fun l => { l with hw := ⟨tk.tr, some ix⟩ :: l.hw }), ?_, rfl⟩
    simp [State.push?, State.hwRoom?, h ht]
  | msg vn => exact ⟨_, rfl, rfl⟩
  | svc ix => exact ⟨_, rfl, rfl⟩

/-- The record of a trap in the ring, what the launch and the event counters count of it, and its hold. -/
def State.trapLogged (s : State) (core ctx : Nat) (t : TrapInfo) (l : List Byte) (h : Hold) : State :=
  let s := (s.trapRing ctx t.code l).modLaunch ctx (fun l => { l with traps := l.traps + 1, lastTrap := t.code })
  let s := s.count core 0x05
  let s := if t.code = tXLATE then ((s.count core 0x1B).countEv (dieF core) 0x1E 0 1).countEv (dieF core) 0x1F 0 1 else s
  s.modCtx ctx (fun c => { c with holds := c.holds ++ [h] })

/-- The hold of a trap with its entry, its route and the marks of its attempt. -/
def Task.hold (tk : Task) (k ix : Nat) (t : TrapInfo) (kind route : Nat) (marks : List Nat) : Hold :=
  ⟨ix, t.code, tk.lc, kind, k, t.ea, route, false, marks, none⟩

/-- The trap of a task that is no relay: what is dead ends the launch, and else the route is applied. -/
theorem State.trapNow_single (s : State) (k : Nat) {tk : Task} (t : TrapInfo) (hlegs : tk.legs = []) :
    ∃ v l kind route marks dead vec key,
      let ix := ((s.ctx? tk.ctx).map (·.trapHead)).getD 0
      let u := (v.trapLogged (coreOf k) tk.ctx t l (tk.hold k ix t kind route marks)).freeStrand k
      s.trapNow k tk t = (if dead = true then u.endLaunch tk.ctx 1 else u.applyRoute tk.ctx tk.lc ix route vec key) ∧
        (∀ w, (s.abortStrand k true).holdTrigger k tk ix = some w →
          v = w ∧ route = (s.chooseRoute tk.ctx tk.lc t.code tk.isService).1) ∧ (s.ecc = [] → dead = false) := by
  have hks : tk.strands k = [k] := by simp [Task.strands, hlegs]
  simp only [State.trapNow, hks, List.foldl_cons, List.foldl_nil]
  cases hh : (s.abortStrand k true).holdTrigger k tk (((s.ctx? tk.ctx).map (·.trapHead)).getD 0) with
  | none =>
    exact ⟨_, _, _, _, _, _, _, _, rfl, fun w hw => by simp at hw, fun he => by simp [State.walkHit, State.arrHit, he]⟩
  | some v =>
    exact ⟨_, _, _, _, _, _, _, _, rfl, fun w hw => ⟨by simpa using hw, rfl⟩,
      fun he => by simp [State.walkHit, State.arrHit, he]⟩

/-! ### What the taken trap leaves -/

theorem State.cleared_applyRoute (s : State) (ctx lc ix route vec : Nat) (key : Word) (j : Nat) :
    (s.strand j).Cleared ((s.applyRoute ctx lc ix route vec key).strand j) := by
  unfold State.applyRoute
  split
  · exact .refl _
  · split
    · exact .refl _
    · exact State.cleared_endLaunch s ctx 1 j

/-- The strand of the task is free and runs nothing, whatever the route. -/
theorem State.trapNow_frees (s : State) (k : Nat) {tk : Task} (t : TrapInfo) (hlegs : tk.legs = []) :
    ((s.trapNow k tk t).strand k).task = none ∧ ((s.trapNow k tk t).strand k).phase = .free := by
  obtain ⟨v, l, kind, route, marks, dead, vec, key, htrap, -⟩ := s.trapNow_single k t hlegs
  rw [htrap]
  generalize v.trapLogged _ _ _ _ _ = u
  have hfree : ((u.freeStrand k).strand k).task = none ∧ ((u.freeStrand k).strand k).phase = .free := by
    rw [State.strand_freeStrand, if_pos rfl]
    exact ⟨rfl, rfl⟩
  split
  · exact (State.cleared_endLaunch _ tk.ctx 1 k).2 hfree
  · exact (State.cleared_applyRoute _ tk.ctx tk.lc _ _ _ _ k).2 hfree

@[simp] theorem State.ctx?_count (s : State) (core code x : Nat) : (s.count core code).ctx? x = s.ctx? x :=
  State.count_keeps (p := fun s => s.ctx? x) (fun _ _ _ => rfl) s core code

@[simp] theorem State.ctx?_countEv (s : State) (d : Fin 4) (code row n x : Nat) : (s.countEv d code row n).ctx? x = s.ctx? x := rfl

/-- A context and its launch before and after a trap is logged. -/
structure Ctx.Logs (c c' : Ctx) (l l' : Launch) (code : Nat) (h : Hold) : Prop where
  launch : c'.launch = some l'
  trapHead : c'.trapHead = c.trapHead + 1
  trapcode : c'.trapcode = BitVec.ofNat 64 code
  traprec : c'.traprec = BitVec.ofNat 64 (c.area + c.off[1] + 64 * (c.trapHead % c.trapn))
  traps : l'.traps = l.traps + 1
  lastTrap : l'.lastTrap = code
  holds : c'.holds = c.holds ++ [h]

theorem State.ctx?_trapLogged {s : State} {x : Nat} {c : Ctx} {l : Launch} (hc : s.ctx? x = some c) (hl : c.launch = some l)
    (core : Nat) (t : TrapInfo) (b : List Byte) (h : Hold) :
    ∃ c' l', (s.trapLogged core x t b h).ctx? x = some c' ∧ c.Logs c' l l' t.code h := by
  have hw : (s.ctxWrite x none (c.area + c.off[1] + 64 * (c.trapHead % c.trapn)) b).ctx? x = some c := by
    obtain ⟨d, n, hw⟩ := State.ctxWrite_rest x none b s (c.area + c.off[1] + 64 * (c.trapHead % c.trapn))
    rw [hw]
    exact hc
  have hcount : ∀ u : State, (if t.code = tXLATE then ((u.count core 0x1B).countEv (dieF core) 0x1E 0 1).countEv (dieF core) 0x1F 0 1
      else u).ctx? x = u.ctx? x := fun u => by split <;> simp
  unfold State.trapLogged State.trapRing
  simp only [hc, State.modLaunch, State.ctx?_modCtx, if_true, hcount, State.ctx?_count, hw, hl, Option.map_some]
  exact ⟨_, _, rfl, rfl, rfl, rfl, rfl, rfl, rfl, rfl⟩

theorem State.ctx?_applyRoute (s : State) (ctx lc ix vec : Nat) {route : Nat} (key : Word) (h : route = 0 ∨ route = 1) (x : Nat) :
    (s.applyRoute ctx lc ix route vec key).ctx? x = s.ctx? x := by
  rcases h with rfl | rfl <;> rfl

theorem Ctx.field_of_steady {α : Type} (p : Ctx → α) (hp : ∀ c l, p { c with launch := l } = p c) {c d : Ctx}
    (h : d.steady = c.steady) : p d = p c := (hp d _).symm.trans ((congrArg p h).trans (hp c _))

/-- The parts of a context that an abort leaves. -/
theorem Ctx.eq_of_steady {c d : Ctx} {l : Launch} (h : d.steady = c.steady) (hl : c.launch = some l) :
    ∃ m, d.launch = some m ∧ m.traps = l.traps ∧ d.trapHead = c.trapHead ∧ d.area = c.area ∧ d.off = c.off ∧
      d.trapn = c.trapn ∧ d.holds = c.holds := by
  have hlaunch : d.launch.map (fun l => { l with heap := [], xseqs := [] }) = some { l with heap := [], xseqs := [] } :=
    (congrArg Ctx.launch h).trans (congrArg (Option.map _) hl)
  obtain ⟨m, hm, hml⟩ := Option.map_eq_some_iff.mp hlaunch
  refine ⟨m, hm, ?_, Ctx.field_of_steady Ctx.trapHead (fun _ _ => rfl) h, Ctx.field_of_steady Ctx.area (fun _ _ => rfl) h,
    Ctx.field_of_steady Ctx.off (fun _ _ => rfl) h, Ctx.field_of_steady Ctx.trapn (fun _ _ => rfl) h,
    Ctx.field_of_steady Ctx.holds (fun _ _ => rfl) h⟩
  exact (congrArg (fun l : Launch => l.traps) hml :)

/-- A trap of a task that is no relay, with another route than KILL and where memory has no error, is logged. -/
theorem State.trapNow_logs {s : State} {k : Nat} {tk : Task} {c : Ctx} {l : Launch} (t : TrapInfo) (hlegs : tk.legs = [])
    (hc : s.ctx? tk.ctx = some c) (hl : c.launch = some l) (hroom : tk.trigger = .record → (s.lc tk.lc).hw.length < 64)
    (hroute : (s.chooseRoute tk.ctx tk.lc t.code tk.isService).1 ≠ 2) (hecc : s.ecc = []) :
    ∃ c' l' kind marks, (s.trapNow k tk t).ctx? tk.ctx = some c' ∧ c.Logs c' l l' t.code
      (tk.hold k c.trapHead t kind (s.chooseRoute tk.ctx tk.lc t.code tk.isService).1 marks) := by
  obtain ⟨v, b, kind, route, marks, dead, vec, key, htrap, hheld, halive⟩ := s.trapNow_single k t hlegs
  obtain ⟨hctx, hhw⟩ := Prod.mk.inj (State.abortView_abortStrand tk.ctx tk.lc s k true)
  obtain ⟨w, hw, hwctxs⟩ := State.holdTrigger_some (s := s.abortStrand k true) (tk := tk) k
    (((s.ctx? tk.ctx).map (·.trapHead)).getD 0) (hhw.symm ▸ hroom)
  obtain ⟨rfl, rfl⟩ := hheld w hw
  rw [hc] at hctx
  obtain ⟨d, hd, hsteady⟩ := Option.map_eq_some_iff.mp hctx
  obtain ⟨m, hm, htraps, hhead, harea, hoff, hn, hholds⟩ := Ctx.eq_of_steady hsteady hl
  have hv : v.ctx? tk.ctx = some d := (congrArg (Table.find · tk.ctx) hwctxs).trans hd
  have hle := s.chooseRoute_le tk.ctx tk.lc t.code tk.isService
  obtain ⟨c', l', hc', hlog⟩ := State.ctx?_trapLogged hv hm (coreOf k) t b
    (tk.hold k c.trapHead t kind (s.chooseRoute tk.ctx tk.lc t.code tk.isService).1 marks)
  refine ⟨c', l', kind, marks, ?_, ⟨hlog.launch, ?_, hlog.trapcode, ?_, ?_, hlog.lastTrap, ?_⟩⟩
  · rw [htrap, halive hecc, if_neg (by decide), State.ctx?_applyRoute _ _ _ _ _ _ (by omega), hc]
    exact hc'
  · rw [hlog.trapHead, hhead]
  · rw [hlog.traprec, harea, hoff, hhead, hn]
  · rw [hlog.traps, htraps]
  · rw [hlog.holds, hholds]

end Sys2Proof.Machine
end

section
/-! PROOF. Taking a trap: one leg of a relay, and a task of its own (R94, R160 to R163). -/
namespace Sys2Proof.Machine

/-! ### The legs of a relay (R94) -/

/-- A leg that is told to stop: one that is inside an instruction stops when that ends. -/
def Strand.toldToStop (t : Strand) : Strand := { t with phase := if t.midway then .stopping else .legDone }

theorem State.strand_stopLegs (s : State) (k j : Nat) (tk : Task) : (s.stopLegs k tk).strand j =
    if j ∈ tk.legs ∧ j ≠ k then (s.strand j).toldToStop else s.strand j := by
  have fold : ∀ (l : List Nat) (s : State), (l.foldl (fun s j => s.modStrand j Strand.toldToStop) s).strand j =
      if j ∈ l then (s.strand j).toldToStop else s.strand j := by
    intro l
    induction l with
    | nil => exact fun _ => rfl
    | cons i l ih =>
      intro s
      rw [List.foldl_cons, ih, State.strand_modStrand]
      by_cases hi : j = i
      · subst hi; by_cases hl : j ∈ l <;> simp [hl, Strand.toldToStop, Strand.midway]
      · simp [hi]
  exact (fold _ s).trans (by simp)

section
variable {s : State} {t : TrapInfo} {k : Task} (hcode : t.code ≠ 0) (htask : s.st.task = some k) (hphase : s.st.phase ≠ .stopping)
include hcode htask hphase

/-- While another leg is inside an instruction the trap is kept. -/
theorem State.takeTrap_waits (h : ∃ j ∈ k.legs, j ≠ s.cur ∧ (s.strand j).midway = true) :
    s.takeTrap t = (s.stopLegs s.cur k).modStrand s.cur (fun x => { x with phase := .trapping t, wait := none, stall := none }) := by
  obtain ⟨j, hj, hne, hmid⟩ := h
  have hmoving : (s.stopLegs s.cur k).legsMoving k = true :=
    List.any_eq_true.mpr ⟨j, hj, by rw [State.strand_stopLegs, if_pos ⟨hj, hne⟩]; simp [Strand.toldToStop, hmid]⟩
  simp [State.takeTrap, htask, hphase, hcode, hmoving]

theorem State.takeTrap_relay (h : ∃ j ∈ k.legs, j ≠ s.cur ∧ (s.strand j).midway = true) :
    ((s.takeTrap t).strand s.cur).phase = .trapping t ∧
      ∀ j ∈ k.legs, j ≠ s.cur → ((s.takeTrap t).strand j).phase = if (s.strand j).midway then .stopping else .legDone := by
  rw [State.takeTrap_waits hcode htask hphase h]
  refine ⟨by rw [State.strand_modStrand, if_pos rfl], fun j hj hne => ?_⟩
  rw [State.strand_modStrand, if_neg hne, State.strand_stopLegs, if_pos ⟨hj, hne⟩]
  rfl

/-- A task that is no relay traps at once. -/
theorem State.takeTrap_single (hlegs : k.legs = []) : s.takeTrap t = s.trapNow s.cur k t := by
  have hstop : s.stopLegs s.cur k = s := by simp [State.stopLegs, hlegs]
  simp [State.takeTrap, htask, hphase, hcode, hstop, State.legsMoving, hlegs]

end

/-- Settles O20: a leg of a relay that must wait (`State.takeTrap_relay`), the strand that is free (`State.trapNow_frees`),
and what is logged (`State.trapNow_logs`). -/
theorem takingATrap : Obligations.TakingATrap := by
  intro s t k c l hcode htask hphase hc hl hroom svc route u
  refine ⟨State.takeTrap_relay hcode htask hphase, fun hlegs => ?_, fun hlegs hroute hecc => ?_⟩
  · rw [show u = _ from State.takeTrap_single hcode htask hphase hlegs]
    exact s.trapNow_frees s.cur t hlegs
  · obtain ⟨c', l', kind, marks, hc', hlog⟩ := State.trapNow_logs (k := s.cur) t hlegs hc hl hroom hroute hecc
    rw [show u = _ from State.takeTrap_single hcode htask hphase hlegs]
    exact ⟨c', l', hc', hlog.launch, hlog.trapHead, hlog.trapcode, hlog.traprec, hlog.traps, hlog.lastTrap, _, hlog.holds, rfl, rfl,
      rfl, rfl⟩

end Sys2Proof.Machine
end

section
/-! SUPPORT. Reads of a context's memory that firmware and the splicer make: the contexts and the views decide what they give
(R135, R137, R156). -/
namespace Sys2Proof.Machine

section
variable {s t : State} (hdies : t.dies = s.dies)
include hdies

theorem State.die_congr (d : Fin 4) : t.die d = s.die d := by rw [State.die, hdies]; rfl

theorem State.walk_congr (d : Fin 4) (tt va : Nat) : t.walk d tt va = s.walk d tt va := by
  have hread : t.gread = s.gread := funext fun d => funext fun a => funext fun n => by
    rw [State.gread, State.die_congr hdies]; rfl
  simp only [State.walk, hread]

variable (hctxs : t.ctxs = s.ctxs)
include hctxs

theorem State.ctxWalk_congr (ctx va : Nat) : t.ctxWalk ctx va = s.ctxWalk ctx va := by
  have hctx : t.ctx? ctx = s.ctx? ctx := congrArg (Table.find · ctx) hctxs
  simp only [State.ctxWalk, hctx, State.walk_congr hdies]

theorem State.ctxRead_congr (ctx va n : Nat) : t.ctxRead ctx va n = s.ctxRead ctx va n := by
  induction n generalizing va with
  | zero => rfl
  | succ n ih => simp only [State.ctxRead, State.ctxWalk_congr hdies hctxs, ih, State.die_congr hdies]

theorem State.routeOf_congr (ctx code : Nat) : t.routeOf ctx code = s.routeOf ctx code := by
  have hctx : t.ctx? ctx = s.ctx? ctx := congrArg (Table.find · ctx) hctxs
  simp only [State.routeOf, hctx, State.ctxRead_congr hdies hctxs]

end

/-- A walk reads the place of the table, and no more of a context. -/
theorem State.ctxWalk_modCtx (s : State) (c : Nat) {f : Ctx → Ctx} (hf : ∀ x, (f x).ttpa = x.ttpa) (ctx va : Nat) :
    (s.modCtx c f).ctxWalk ctx va = s.ctxWalk ctx va := by
  have hdies : (s.modCtx c f).dies = s.dies := State.modCtx_keeps State.dies (fun _ _ => rfl) s c f
  simp only [State.ctxWalk, State.ctx?_modCtx, State.walk_congr hdies]
  by_cases hc : ctx = c
  · subst hc
    rw [if_pos rfl]
    cases s.ctx? ctx with
    | none => rfl
    | some x => simp only [Option.map_some, hf]
  · rw [if_neg hc]

end Sys2Proof.Machine
end

section
/-! PROOF. Firmware at a SUP hold, and the steps of an eviction (R22, R164, R170, R172). -/
namespace Sys2Proof.Machine

/-! ### SUP holds (R36, R164) -/

/-- A hold of XLATE of which the host has been told. -/
def Ctx.tellHold (c : Ctx) (i : Nat) : Ctx :=
  { c with holds := c.holds.map (fun (h : Hold) => if h.ix = i then { h with raised := true } else h) }

/-- The host is told of a hold of XLATE. -/
def State.tellHost (s : State) (i : Nat) (h : Hold) : State :=
  (s.modCtx s.cur (fun c => c.tellHold i)).event 4 s.cur (bytesOfNat 8 h.va.toNat ++ bytesOfNat 8 (s.heldKey h).toNat)

/-- The count of deadlines of the strand of a hold is cleared. -/
def State.uncounted (s : State) (h : Hold) : State := s.modStrand h.strand (fun t => { t with dlcount := 0 })

theorem State.applyRoute_user (s : State) (ctx lc ix vec : Nat) (key : Word) : s.applyRoute ctx lc ix 0 vec key =
    s.modLc lc (fun l => { l with svc := l.svc ++ [⟨BitVec.ofNat 32 vec, ix, key⟩] }) := if_pos rfl

section
variable {s : State} {i : Nat} {x : Ctx} {h : Hold} (hx : s.ctx? s.cur = some x)
  (hfind : x.holds.find? (fun y => y.ix == i) = some h) (hend : h.ending = none)
include hx hfind hend

/-- A hold of XLATE whose address is not mapped is marked as told. -/
theorem exec_supHoldService_xlate (hcode : h.code = 0x08) (hr : h.raised = false)
    (hmap : s.ctxWalk s.cur (h.va.toNat % 2 ^ 48) = none) : ∃ t, exec (.supHoldService i) s = .next t ∧
      (t.ctx? s.cur).map (·.holds) = some (x.holds.map (fun y => if y.ix = i then { y with raised := true } else y)) := by
  have hwalk : (s.tellHost i h).ctxWalk s.cur (h.va.toNat % 2 ^ 48) = none :=
    (State.ctxWalk_modCtx s s.cur (f := fun c => c.tellHold i) (fun _ => rfl) _ _).trans hmap
  have hmapped : (s.tellHost i h).xlateMapped s.cur h = s.tellHost i h := by
    rw [State.xlateMapped, hwalk]
    rfl
  refine ⟨s.tellHost i h, ?_, ?_⟩
  · simp only [exec_supHoldService, execSupHoldService, hx, hfind, hend, hcode, tXLATE, hr]
    exact congrArg Host.Outcome.next hmapped
  · show ((s.modCtx s.cur _).ctx? s.cur).map _ = _
    rw [State.ctx?_modCtx, if_pos rfl, hx]
    rfl

theorem exec_supHoldService_routes (hcode : h.code = 0x02 ∨ h.code = 0x15) : exec (.supHoldService i) s = .next
    (if (s.routeOf s.cur h.code).1 = 0 ∧ (s.routeOf s.cur h.code).2 ≠ 0 ∧ (s.lc h.lc).svc.length < 8 then
      ((s.uncounted h).applyRoute s.cur h.lc i 0 (s.routeOf s.cur h.code).2 ((s.uncounted h).heldKey h)).wakeCore (coreOf h.strand)
    else (s.uncounted h).endLaunch s.cur 1) := by
  have hne : h.code ≠ tXLATE := by unfold tXLATE; omega
  have hroute : ∀ f, (s.modStrand h.strand f).routeOf s.cur h.code = s.routeOf s.cur h.code := fun f =>
    State.routeOf_congr rfl rfl s.cur h.code
  simp only [exec_supHoldService, execSupHoldService, hx, hfind, hend, Option.isSome_none, Bool.false_eq_true, if_false, hne]
  rw [if_pos (show h.code = tPRIV ∨ h.code = tDLESC from hcode), hroute]
  exact (apply_ite Host.Outcome.next _ _ _).symm

/-- A hold of PRIV or DEADLINE_ESC goes where its routing byte says; SUP is read as KILL. -/
theorem exec_supHoldService_forced (hcode : h.code = 0x02 ∨ h.code = 0x15) :
    let v := s.routeOf s.cur h.code
    let user := v.1 = 0 ∧ v.2 ≠ 0 ∧ (s.lc h.lc).svc.length < 8
    ∃ t, exec (.supHoldService i) s = .next t ∧ (t.strand h.strand).dlcount = 0 ∧
      (user → ∃ y : SvcItem, (t.lc h.lc).svc = (s.lc h.lc).svc ++ [y] ∧ y.pc = BitVec.ofNat 32 v.2 ∧ y.trapIx = i ∧
        t.launch? s.cur = x.launch) ∧
      (¬ user → t.launch? s.cur = none) := by
  intro v user
  have hcount : ((s.uncounted h).strand h.strand).dlcount = 0 := by rw [State.uncounted, State.strand_modStrand, if_pos rfl]
  refine ⟨_, exec_supHoldService_routes hx hfind hend hcode, ?_⟩
  by_cases hu : user
  · rw [if_pos hu]
    refine ⟨?_, fun _ => ⟨⟨BitVec.ofNat 32 v.2, i, (s.uncounted h).heldKey h⟩, ?_, rfl, rfl, ?_⟩, fun hn => absurd hu hn⟩
    · rw [State.strand_wakeCore]
      exact hcount
    · rw [State.lc_wakeCore]
      rw [State.applyRoute_user, State.lc_modLc_self]
      rfl
    · rw [State.wakeCore_keeps (p := fun s => s.launch? _) (fun _ _ _ => rfl)]
      exact congrArg (Option.bind · Ctx.launch) hx
  · rw [if_neg hu]
    refine ⟨(State.cleared_endLaunch _ _ _ _).1.trans hcount, fun h => absurd h hu, fun _ => ?_⟩
    rw [State.launch?_endLaunch, if_pos rfl]

/-- Without a debugger any other hold ends the launch. -/
theorem exec_supHoldService_other (h1 : h.code ≠ 0x08) (h2 : h.code ≠ 0x02) (h3 : h.code ≠ 0x15) (hd : x.debugger = false) :
    exec (.supHoldService i) s = .next (s.endLaunch s.cur 1) := by
  simp [execSupHoldService, hx, hfind, hend, h1, h2, h3, hd, tXLATE, tPRIV, tDLESC]

end

/-! ### The steps of an eviction (R170) -/

/-- The step of an eviction is set. -/
def Ctx.evictAt (c : Ctx) (row : Nat) (e : Evict) (n : Nat) : Ctx := { c with evicts := c.evicts.set row { e with step := n } }

/-- The next step of the eviction of a context from the row begins. -/
def State.evictGo (s : State) (ctx row : Nat) (e : Evict) (n : Nat) : State :=
  (s.modCtx ctx (fun c => c.evictAt row e n)).post row (.evictStepEnd ctx)

/-- `t` is a state in which the eviction of a context from a row is at a step. -/
def State.evictIs (t : State) (ctx row : Nat) (e : Evict) (n : Nat) : Prop :=
  ∃ y, t.ctx? ctx = some y ∧ y.evicts.find row = some { e with step := n }

section
variable {s : State} {c : Nat} {x : Ctx} {e : Evict} (hx : s.ctx? c = some x)
include hx

theorem State.evictIs_go (row n : Nat) : (s.evictGo c row e n).evictIs c row e n := by
  refine ⟨x.evictAt row e n, ?_, ?_⟩
  · show (s.modCtx c _).ctx? c = _
    rw [State.ctx?_modCtx, if_pos rfl, hx]
    rfl
  · simp [Ctx.evictAt, Table.find_set]

/-- A step that has to wait comes again. -/
theorem State.evictIs_wait {row n : Nat} (he : x.evicts.find row = some e) (hn : e.step = n) :
    (s.post row (.evictStepEnd c)).evictIs c row e n := ⟨x, hx, hn ▸ he⟩

/-- What the end of a step does (R170). -/
theorem exec_evictStepEnd_eq (he : x.evicts.find s.cur = some e) : exec (.evictStepEnd c) s = .next (match e.step with
    | 1 => s.evictGo c s.cur e 2
    | 2 => if s.rowQuiet c s.cur then s.evictGo c s.cur e 3 else s.post s.cur (.evictStepEnd c)
    | 3 => if s.rowDrained c s.cur then (s.drainRow c s.cur).evictGo c s.cur e 4 else s.post s.cur (.evictStepEnd c)
    | 4 => if s.rowLanded c s.cur then s.evictGo c s.cur e 5 else s.post s.cur (.evictStepEnd c)
    | 5 => if s.hbmReady then (s.saveRow c s.cur e).answerEvict c else s.post s.cur (.evictStepEnd c)
    | _ => s) := by
  simp only [exec_evictStepEnd, execEvictStepEnd, hx, Option.bind_some, he]
  rfl

end

/-! ### The routers answer RETRY (R170, R173) -/

theorem State.ctx?_drainRow (s : State) (c row x : Nat) : (s.drainRow c row).ctx? x = s.ctx? x :=
  foldl_keeps (fun s : State => s.ctx? x) (f := fun s k => s.modLc k (fun l => { l with draining := true })) (fun _ _ => rfl)
    (s.lcsOn c row) s

theorem State.draining_foldl (r : List Nat) (k : Nat) : ∀ s : State, k ∈ r ∨ (s.lc k).draining = true →
    ((r.foldl (fun s k => s.modLc k (fun l => { l with draining := true })) s).lc k).draining = true := by
  induction r with
  | nil => exact fun s h => h.resolve_left (by simp)
  | cons j r ih =>
    intro s h
    refine ih _ ?_
    rw [State.lc_modLc]
    by_cases hj : k = j
    · simp [hj]
    · rw [if_neg hj]
      exact h.imp_left fun h => (List.mem_cons.mp h).resolve_left hj

theorem State.draining_drainRow (s : State) (c row : Nat) : ∀ k ∈ s.lcsOn c row, ((s.drainRow c row).lc k).draining = true :=
  fun k hk => State.draining_foldl _ k s (.inl hk)

/-! ### The save (R172, R174) -/

theorem State.ctxs_ctxWrite (s : State) (c : Nat) (tag : Option Bool) (va : Nat) (l : List Byte) :
    (s.ctxWrite c tag va l).ctxs = s.ctxs := by
  obtain ⟨d, n, h⟩ := State.ctxWrite_rest c tag l s va
  rw [h]

theorem State.ctxs_savePart (s : State) (c row part : Nat) (x : Ctx) : (s.savePart c row part x).ctxs = s.ctxs :=
  (foldl_keeps State.ctxs (fun s _ => s.ctxs_ctxWrite _ _ _ _) _ _).trans (State.ctxs_ctxWrite _ _ _ _ _)

theorem State.ctxs_saveLc (s : State) (x : Ctx) (sa lck : Nat) : (s.saveLc x sa lck).ctxs = s.ctxs := by
  have hsync : ∀ (u : State) k, (u.syncMailbox k).ctxs = u.ctxs := fun u k => by
    obtain ⟨d, n, h⟩ := u.syncMailbox_rest k
    rw [h]
  unfold State.saveLc
  extract_lets core s1 s2 mine q s3
  rw [State.wakeCore_keeps (p := State.ctxs) (fun _ _ _ => rfl), hsync]
  exact (State.ctxs_ctxWrite s1 _ _ _ _).trans (State.ctxs_ctxWrite s _ _ _ _)

/-- The row is saved: the context has left its partition there, and its eviction is at step 6. -/
theorem State.ctx?_saveRow {s : State} {c : Nat} {x : Ctx} (hx : s.ctx? c = some x) (row : Nat) (e : Evict) :
    (s.saveRow c row e).ctx? c =
      some { x with rowPart := x.rowPart.erase row, evicts := x.evicts.set row { e with step := 6 } } := by
  unfold State.saveRow
  rw [hx]
  dsimp -zeta only
  extract_lets sa s1 s2 s3
  have h1 : s1.ctxs = s.ctxs := foldl_keeps State.ctxs (fun s k => s.ctxs_saveLc x sa k) (s.lcsOn c row) s
  have h2 : s2.ctxs = s1.ctxs := by
    unfold s2
    split
    · exact s1.ctxs_savePart c row _ x
    · rfl
  have h3 : s3.ctx? c = some x :=
    (congrArg (Table.find · c) (((s2.ctxs_ctxWrite _ _ _ _).trans h2).trans h1)).trans hx
  rw [State.ctx?_modCtx, if_pos rfl, h3]
  rfl

theorem State.ctx?_answerEvict {s : State} {c : Nat} {x : Ctx} (hx : s.ctx? c = some x) :
    ∃ y, (s.answerEvict c).ctx? c = some y ∧ y.evicts = x.evicts ∧ y.rowPart = x.rowPart := by
  unfold State.answerEvict
  rw [hx]
  dsimp only
  split
  · exact ⟨x, hx, rfl, rfl⟩
  · split
    · exact ⟨x, hx, rfl, rfl⟩
    · next m _ =>
      have hrespond : ∀ u : State, ((u.respond m 0 c []).releaseBacklog).ctx? c = u.ctx? c := fun u => by
        unfold State.respond
        split <;> rfl
      rw [hrespond, State.ctx?_modCtx, if_pos rfl, hx]
      exact ⟨_, rfl, rfl, rfl⟩

/-- The steps of an eviction (R22, R170). -/
theorem exec_evictStepEnd_steps {s : State} {c : Nat} {x : Ctx} {e : Evict} (hx : s.ctx? c = some x)
    (he : x.evicts.find s.cur = some e) :
    let at_ := fun (n : Nat) => ∃ t y, exec (.evictStepEnd c) s = .next t ∧ t.ctx? c = some y ∧
      y.evicts.find s.cur = some { e with step := n }
    (e.step = 1 → at_ 2) ∧ (e.step = 2 → at_ (if s.rowQuiet c s.cur then 3 else 2)) ∧
    (e.step = 3 → at_ (if s.rowDrained c s.cur then 4 else 3)) ∧ (e.step = 4 → at_ (if s.rowLanded c s.cur then 5 else 4)) ∧
    (e.step = 3 → s.rowDrained c s.cur = true → ∃ t, exec (.evictStepEnd c) s = .next t ∧
      ∀ k ∈ s.lcsOn c s.cur, (t.lc k).draining = true) ∧
    (e.step = 5 → s.hbmReady = false → at_ 5) ∧
    (e.step = 5 → s.hbmReady = true → ∃ t y, exec (.evictStepEnd c) s = .next t ∧ t.ctx? c = some y ∧
      y.evicts.find s.cur = some { e with step := 6 } ∧ y.rowPart.find s.cur = none) := by
  intro at_
  have hat : ∀ {t n}, exec (.evictStepEnd c) s = .next t → t.evictIs c s.cur e n → at_ n :=
    fun ht ⟨y, hy, hn⟩ => ⟨_, y, ht, hy, hn⟩
  have heq := exec_evictStepEnd_eq hx he
  have hdrain : (s.drainRow c s.cur).ctx? c = some x := (s.ctx?_drainRow c s.cur c).trans hx
  refine ⟨fun h => ?_, fun h => ?_, fun h => ?_, fun h => ?_, fun h hd => ?_, fun h hm => ?_, fun h hm => ?_⟩ <;>
    simp only [h] at heq
  · exact hat heq (State.evictIs_go hx _ _)
  · refine hat heq ?_
    split
    · exact State.evictIs_go hx _ _
    · exact State.evictIs_wait hx he h
  · refine hat heq ?_
    split
    · exact State.evictIs_go hdrain _ _
    · exact State.evictIs_wait hx he h
  · refine hat heq ?_
    split
    · exact State.evictIs_go hx _ _
    · exact State.evictIs_wait hx he h
  · rw [if_pos hd] at heq
    refine ⟨_, heq, fun k hk => ?_⟩
    have hlc : ∀ u : State, (u.evictGo c s.cur e 4).lc k = u.lc k := fun u =>
      State.modCtx_keeps (fun s => s.lc k) (fun _ _ => rfl) u c _
    rw [hlc]
    exact s.draining_drainRow c s.cur k hk
  · rw [if_neg (by simp [hm])] at heq
    exact hat heq (State.evictIs_wait hx he h)
  · rw [if_pos hm] at heq
    obtain ⟨y, hy, hev, hpart⟩ := State.ctx?_answerEvict (State.ctx?_saveRow hx s.cur e)
    exact ⟨_, y, heq, hy, by rw [hev, Table.find_set, if_pos rfl], by rw [hpart, Table.find_erase, if_pos rfl]⟩

end Sys2Proof.Machine
end

section
/-! PROOF. The splicer of a row takes the first event of its queue (R65 to R68, R135, R156). -/
namespace Sys2Proof.Machine

/-! ### What the splicer reads and writes does not depend on the rows -/

/-- The queues of the rows are replaced. -/
def State.withRows (s : State) (r : Table Row) : State := { s with rows := r }

section
variable (s : State) (r : Table Row) (d : Fin 4) (ctx : Nat)

theorem State.dieRead_congr {s t : State} (hdies : t.dies = s.dies) (hctxs : t.ctxs = s.ctxs) (d : Fin 4) (ctx va n : Nat) :
    t.dieRead d ctx va n = s.dieRead d ctx va n := by
  induction n generalizing va with
  | zero => rfl
  | succ n ih => simp only [State.dieRead, State.ctxWalk_congr hdies hctxs, ih, State.die_congr hdies]

theorem State.dieRead_withRows : (s.withRows r).dieRead d ctx = s.dieRead d ctx :=
  funext fun va => funext fun n => State.dieRead_congr (s := s) (t := s.withRows r) rfl rfl d ctx va n

theorem State.join_withRows (va : Nat) : (s.withRows r).join d ctx va = s.join d ctx va := by
  simp only [State.join, State.dieRead_withRows]

theorem State.dieHit_withRows (va n : Nat) : (s.withRows r).dieHit d ctx va n = s.dieHit d ctx va n := rfl

theorem State.dieWrite_withRows (va : Nat) (l : List Byte) :
    (s.withRows r).dieWrite d ctx va l = (s.dieWrite d ctx va l).withRows r := by
  refine List.foldl_hom (fun s : State => s.withRows r) (fun s e => ?_)
  have hwalk : (s.withRows r).ctxWalk ctx e.1 = s.ctxWalk ctx e.1 := rfl
  rw [hwalk]
  cases s.ctxWalk ctx e.1 <;> rfl

theorem State.modLaunch_withRows (f : Launch → Launch) : (s.withRows r).modLaunch ctx f = (s.modLaunch ctx f).withRows r := by
  unfold State.modLaunch State.modCtx
  rw [show (s.withRows r).ctxs = s.ctxs from rfl]
  split <;> rfl

theorem State.countEv_withRows (code row n : Nat) : (s.withRows r).countEv d code row n = (s.countEv d code row n).withRows r := rfl

theorem State.deposit_withRows (j : Join) (jbox : BoxImg) (side : Nat) (tile : List Byte) (box : BoxImg) :
    (s.withRows r).deposit d ctx j jbox side tile box = (s.deposit d ctx j jbox side tile box).withRows r := by
  have htile : ∀ va n size, (s.withRows r).tileAt d ctx va n size = s.tileAt d ctx va n size := fun va n size => by
    simp only [State.tileAt, State.dieRead_withRows]
  simp only [State.deposit, htile, State.launchFlags, State.dieWrite_withRows, State.modLaunch_withRows, State.countEv_withRows]
  split <;> rfl

end

/-! ### An event of a record (R67, R68, R135) -/

section
variable {s : State} {d : Fin 4} {ctx jref : Nat}

/-- A record in a line with an uncorrectable error ends the launch. -/
theorem State.splice_hit (h : s.dieHit d ctx (jref / 64 * 64) 64 = true) (tile : Option (List Byte)) (box : BoxImg) :
    s.splice d ctx jref tile box = s.endLaunch ctx 1 := by
  simp [State.splice, h]

/-- An event of a record that is not OPEN has no effect. -/
theorem State.splice_notOpen (h : s.dieHit d ctx (jref / 64 * 64) 64 = false) (hst : (s.join d ctx (jref / 64 * 64)).st ≠ 1)
    (tile : Option (List Byte)) (box : BoxImg) : s.splice d ctx jref tile box = s := by
  simp [State.splice, h, hst]

/-- The side of a record that an event covers (R67, R68). -/
def Join.sideOf (jn : Join) (jref : Nat) : Nat := if jn.arrival then 0 else jref % 2
/-- The points that are covered there with those of a box. -/
def Join.covered (jn : Join) (side : Nat) (box : BoxImg) : Nat := ((if side = 1 then jn.cov1 else jn.cov0) + boxPoints box) % 2 ^ 64
/-- The record with the points of a side. -/
def Join.withCover (jn : Join) (side cov : Nat) : Join := if side = 1 then { jn with cov1 := cov } else { jn with cov0 := cov }
/-- The box of a record. -/
def State.joinBox (s : State) (d : Fin 4) (ctx : Nat) (jn : Join) : BoxImg := boxOfBytes ((s.dieRead d ctx jn.image 64).getD [])

/-- The tile of an event is deposited. -/
def State.filled (s : State) (d : Fin 4) (ctx : Nat) (jn : Join) (side : Nat) (tile : Option (List Byte)) (box : BoxImg) : State :=
  match tile with
  | none => s
  | some t => s.deposit d ctx jn (s.joinBox d ctx jn) side t box

/-- An event that leaves its record incomplete fills its tile and counts its points. -/
theorem State.splice_counts {jn : Join} {side cov : Nat} {tile : Option (List Byte)} {box : BoxImg}
    (hjn : s.join d ctx (jref / 64 * 64) = jn) (hside : jn.sideOf jref = side) (hcov : jn.covered side box = cov)
    (hst : jn.st = 1) (hopen : joinComplete (jn.withCover side cov) (s.joinBox d ctx jn) = false)
    (h1 : s.dieHit d ctx (jref / 64 * 64) 64 = false) (h2 : s.dieHit d ctx jn.image 64 = false)
    (h3 : tile.isSome = true → s.sideHit d ctx jn (s.joinBox d ctx jn) side = false) :
    s.splice d ctx jref tile box =
      (s.filled d ctx jn side tile box).dieWrite d ctx (jref / 64 * 64 + 24 + 8 * side) (bytesOfNat 8 cov) := by
  subst hjn hside hcov
  have hread : ¬ ((s.dieHit d ctx (s.join d ctx (jref / 64 * 64)).image 64 || tile.isSome && s.sideHit d ctx
      (s.join d ctx (jref / 64 * 64)) (s.joinBox d ctx (s.join d ctx (jref / 64 * 64)))
      ((s.join d ctx (jref / 64 * 64)).sideOf jref)) = true) := by
    cases tile with
    | none => simp [h2]
    | some l => simp [h2, h3 rfl]
  unfold State.splice
  refine (if_neg (by rw [h1]; decide)).trans ((if_neg (not_not.mpr hst)).trans ((if_neg hread).trans ((if_pos ?_).trans ?_)))
  · exact congrArg (!·) hopen
  · cases tile <;> rfl

end

/-! ### The first event of the queue (R156) -/

/-- The queue of a row without its first event. -/
def State.popped (s : State) (row : Nat) : State := s.withRows (s.rows.set row { s.row row with spl := dropNth (s.row row).spl 0 })

theorem State.popped_spl {s : State} {row : Nat} {e : SplEv} {r : List SplEv} (h : (s.row row).spl = e :: r) :
    ((s.popped row).row row).spl = r := by
  refine (congrArg Row.spl (Table.get_set_self s.rows row _ idleRow)).trans ?_
  simp [h, dropNth]

theorem State.posts_posts (s : State) (l r : List (Nat × Instr)) : (s.posts l).posts r = s.posts (l ++ r) := by
  simp [State.posts]

/-- The parts of an event: its context, its reference to a join record, its tile and its box. -/
def SplEv.ctx : SplEv → Nat
  | .deposit c .. => c
  | .cover c .. => c
def SplEv.jref : SplEv → Nat
  | .deposit _ j .. => j
  | .cover _ j _ => j
def SplEv.tile : SplEv → Option (List Byte)
  | .deposit _ _ t .. => some t
  | .cover .. => none
def SplEv.box : SplEv → BoxImg
  | .deposit _ _ _ b _ => b
  | .cover _ _ b => b

section
variable {s : State} {row : Nat} {d : Fin 4} {e : SplEv} {r : List SplEv} (hd : d = Fin.ofNat 4 (row / 16))
  (hq : (s.row row).spl = e :: r) (hearly : (s.drain d).splEarly d e.ctx e.jref = false)
include hd hq hearly

/-- The first event is handled when it need not wait; what follows is posts. -/
theorem State.spliceNext_first (again : Instr) : ∃ l, s.spliceNext row e.isDeposit again =
    (((s.drain d).popped row).splice d e.ctx e.jref e.tile e.box).posts l := by
  have hw : (s.drain d).splWaits d e = false := by cases e <;> exact hearly
  subst hd
  generalize ht : s.spliceNext row e.isDeposit again = t
  unfold State.spliceNext at ht
  extract_lets d u q at ht
  have hq' : q = e :: r := hq
  have hw' : u.splWaits d e = false := hw
  have hfind : findIdx (fun x => x.isDeposit == e.isDeposit && !u.splWaits d x) q 0 = some 0 := by
    rw [hq']
    exact if_pos (by simp [hw'])
  rw [hfind, hq'] at ht
  cases e with
  | cover c j b => exact ⟨_, ht.symm⟩
  | deposit c j l b m =>
    dsimp only [List.getElem?_cons_zero] at ht
    split at ht
    · exact ⟨_, ht.symm⟩
    · obtain ⟨p, hp⟩ := State.wakeCore_eq ((((u.popped row).splice d c j (some l) b)).post c .launchEnd) (coreOf (markStrand m))
      exact ⟨_, ht.symm.trans (hp.trans (State.posts_posts _ [(c, .launchEnd)] p))⟩

/-- What the first event does: an error in its record ends the launch, one of a record that is not OPEN has no effect, and one
that leaves its record incomplete fills its tile and counts its points. -/
theorem State.spliceNext_spec (again : Instr) :
    let u := s.drain d
    let at_ := e.jref / 64 * 64
    let jn := u.join d e.ctx at_
    let cov := jn.covered (jn.sideOf e.jref) e.box
    let t := s.spliceNext row e.isDeposit again
    (u.dieHit d e.ctx at_ 64 = true → t.launch? e.ctx = none) ∧
    (jn.st ≠ 1 → u.dieHit d e.ctx at_ 64 = false → (t.row row).spl = r ∧ t.dies = u.dies) ∧
    (jn.st = 1 → joinComplete (jn.withCover (jn.sideOf e.jref) cov) (u.joinBox d e.ctx jn) = false →
      u.dieHit d e.ctx at_ 64 = false → u.dieHit d e.ctx jn.image 64 = false →
      (e.tile.isSome = true → u.sideHit d e.ctx jn (u.joinBox d e.ctx jn) (jn.sideOf e.jref) = false) →
      (t.row row).spl = r ∧ t.dies = ((u.filled d e.ctx jn (jn.sideOf e.jref) e.tile e.box).dieWrite d e.ctx
        (at_ + 24 + 8 * jn.sideOf e.jref) (bytesOfNat 8 cov)).dies) := by
  intro u at_ jn cov t
  obtain ⟨l, hl⟩ := State.spliceNext_first hd hq hearly again
  have ht : t = ((u.popped row).splice d e.ctx e.jref e.tile e.box).posts l := hl
  have hspl : ((u.popped row).row row).spl = r := State.popped_spl hq
  have hjoin : (u.popped row).join d e.ctx at_ = jn := State.join_withRows u _ d e.ctx at_
  have hbox : (u.popped row).joinBox d e.ctx jn = u.joinBox d e.ctx jn := by
    rw [State.joinBox, State.popped, State.dieRead_withRows]; rfl
  have hhit : ∀ va, (u.popped row).dieHit d e.ctx va 64 = u.dieHit d e.ctx va 64 := fun va => u.dieHit_withRows _ d e.ctx va 64
  refine ⟨fun h => ?_, fun hst h => ?_, fun hst hopen h1 h2 h3 => ?_⟩
  · rw [ht, State.splice_hit ((hhit at_).trans h)]
    exact (State.launch?_endLaunch _ _ _ _).trans (if_pos rfl)
  · rw [ht, State.splice_notOpen ((hhit at_).trans h) (hjoin.symm ▸ hst)]
    exact ⟨hspl, rfl⟩
  · have hfilled : (u.popped row).filled d e.ctx jn (jn.sideOf e.jref) e.tile e.box =
        (u.filled d e.ctx jn (jn.sideOf e.jref) e.tile e.box).withRows (u.popped row).rows := by
      unfold State.filled
      rw [hbox]
      cases e.tile with
      | none => rfl
      | some x => exact State.deposit_withRows u _ d e.ctx jn _ _ x e.box
    rw [ht, State.splice_counts hjoin rfl rfl hst (hbox.symm ▸ hopen) ((hhit at_).trans h1)
      ((hhit jn.image).trans h2) (hbox.symm ▸ h3), hfilled, State.dieWrite_withRows]
    exact ⟨hspl, rfl⟩

end

end Sys2Proof.Machine
end

section
/-! PROOF. A die applies a write, a walk ends, and a stall ends (R134, R135, R137, R138, R152). -/
namespace Sys2Proof.Machine

/-! ### Writes on their way to a die (R152) -/

theorem exec_writeApply_admitted {s : State} {d : Fin 4} {i : Nat} {w : PWrite} (hd : d.val = s.cur % 4)
    (hw : (s.die d).view.pend[i]? = some w) (hadm : (s.die d).view.admits i = true) :
    ∃ t, exec (.writeApply i) s = .next t ∧
      (t.die d).view = { (s.die d).view.receive w with pend := dropNth (s.die d).view.pend i } ∧
      ∀ f, f ≠ d → t.die f = s.die f := by
  have hcur : Fin.ofNat 4 s.cur = d := Fin.ext hd.symm
  refine ⟨s.modDie d (fun x => { x with view := { (s.die d).view.receive w with pend := dropNth (s.die d).view.pend i } }),
    ?_, ?_, fun f hf => ?_⟩
  · simp only [exec_writeApply, execWriteApply, hcur, hadm, if_true, hw]
  · rw [State.die_modDie, if_pos rfl]
  · rw [State.die_modDie, if_neg hf]

/-! ### Walks (R137, R138) -/

theorem mem_tlbInstall {l : List TlbEnt} {cap : Nat} {e : TlbEnt} (hctx : e.ctx ≠ 0) (hcap : 0 < cap) : e ∈ tlbInstall l cap e := by
  obtain ⟨n, rfl⟩ := Nat.exists_eq_succ_of_ne_zero hcap.ne'
  simp [tlbInstall, hctx]

/-- A translation enters the TLB of a core. -/
def Core.cached (c : Core) (e : TlbEnt) : Core := { c with tlb := tlbInstall c.tlb 512 e }

/-- A translation enters the TLBs of a core and of its die. -/
def State.cached (s : State) (core : Nat) (e : TlbEnt) : State :=
  (s.modCore core (fun c => c.cached e)).modDie (dieF core)
    (fun x => { x with tlb := tlbInstall x.tlb 16384 e })

theorem State.mem_cached (s : State) (core : Nat) {e : TlbEnt} (hctx : e.ctx ≠ 0) :
    e ∈ ((s.cached core e).core core).tlb ∧ e ∈ ((s.cached core e).die (dieF core)).tlb := by
  constructor
  · have hcore : (s.cached core e).core core = (s.core core).cached e :=
      (State.core_modCore s core core fun c => c.cached e).trans (if_pos rfl)
    rw [hcore]
    exact mem_tlbInstall hctx (by decide)
  · rw [State.cached, State.die_modDie, if_pos rfl]
    exact mem_tlbInstall hctx (by decide)

section
variable {s : State} {c : Nat} {va : Word} (hmiss : tlbFind (s.die (dieF s.cur)).tlb c va.toNat = none)
include hmiss

/-- A walk that the die's TLB does not spare is counted, and reads the table. -/
theorem exec_tableWalk_walks : exec (.tableWalk c va) s =
    if s.walkBad (dieF s.cur) (l1base (s.regs s.cur c).ttbase) va.toNat then
      .next ((s.countEv (dieF s.cur) 0x1F 0 1).endLaunch c 1)
    else match s.walk (dieF s.cur) (l1base (s.regs s.cur c).ttbase) va.toNat with
      | .error _ => .next (s.countEv (dieF s.cur) 0x1F 0 1)
      | .ok y => .next ((s.countEv (dieF s.cur) 0x1F 0 1).cached s.cur
          ⟨c, va.toNat - y.off, y.page, y.size, y.write, y.replica⟩) := by
  have hfind : (s.die (dieF s.cur)).tlb.find?
      (fun e => e.ctx == c && decide (e.va ≤ va.toNat) && decide (va.toNat < e.va + e.size)) = none := Option.map_eq_none_iff.mp hmiss
  have hreads : s.readsAs (s.countEv (dieF s.cur) 0x1F 0 1) := s.readsAs_countEv _ _ _ _
  have hregs : (s.countEv (dieF s.cur) 0x1F 0 1).regs s.cur c = s.regs s.cur c := rfl
  simp only [exec_tableWalk, execTableWalk, hfind, hregs, State.readsAs_walkBad hreads, State.readsAs_walk hreads]
  rfl

/-- A walk that reads a line with an uncorrectable error ends the launch. -/
theorem exec_tableWalk_bad (hbad : s.walkBad (dieF s.cur) (l1base (s.regs s.cur c).ttbase) va.toNat = true) :
    ∃ t, exec (.tableWalk c va) s = .next t ∧ t.launch? c = none := by
  refine ⟨_, (exec_tableWalk_walks hmiss).trans (if_pos hbad), ?_⟩
  rw [State.launch?_endLaunch, if_pos rfl]

/-- A walk that succeeds is cached. -/
theorem exec_tableWalk_caches {y : Xl} (hc : c ≠ 0)
    (hbad : s.walkBad (dieF s.cur) (l1base (s.regs s.cur c).ttbase) va.toNat = false)
    (hwalk : s.walk (dieF s.cur) (l1base (s.regs s.cur c).ttbase) va.toNat = .ok y) :
    ∃ t, exec (.tableWalk c va) s = .next t ∧
      ⟨c, va.toNat - y.off, y.page, y.size, y.write, y.replica⟩ ∈ (t.core s.cur).tlb ∧
      ⟨c, va.toNat - y.off, y.page, y.size, y.write, y.replica⟩ ∈ (t.die (dieF s.cur)).tlb := by
  refine ⟨_, ?_, State.mem_cached (s.countEv (dieF s.cur) 0x1F 0 1) s.cur hc⟩
  rw [exec_tableWalk_walks hmiss, if_neg (by simp [hbad]), hwalk]

end

/-! ### Stalls (R134) -/

theorem exec_refreshStallEnd_over {s : State} {n j : Nat} (h : s.st.stall = some (n, j)) (hn : n ≤ s.now) :
    exec .refreshStallEnd s =
      .next (s.setStrand s.cur { s.st with stall := some (0, j), readyAt := s.cyc (coreOf s.cur) }) := by
  simp [execRefreshStallEnd, h, Nat.not_lt.mpr hn, State.mod_eq]

/-! ### The obligation -/

/-- Settles O55: the rule of each unit, and for both kinds of splicer event the one rule of a row's first event. -/
theorem supervisorAndUnits : Obligations.SupervisorAndUnits := by
  unfold Obligations.SupervisorAndUnits
  intro s c i x h e va sd u
  refine ⟨fun hx hfind hend => ⟨?_, ?_, fun h1 h2 h3 hd _ => ?_⟩, exec_evictStepEnd_steps, fun j box r hq hearly => ?_,
    fun j tile box m r hq hearly => ?_, fun d w => exec_writeApply_admitted, fun hc hmiss => ?_,
    fun n j => exec_refreshStallEnd_over⟩
  · exact exec_supHoldService_xlate hx hfind hend
  · exact exec_supHoldService_forced hx hfind hend
  · exact ⟨_, exec_supHoldService_other hx hfind hend h1 h2 h3 hd, (State.launch?_endLaunch _ _ _ _).trans (if_pos rfl)⟩
  · obtain ⟨hhit, hnot, hcount⟩ := State.spliceNext_spec rfl hq hearly .splicerCover
    have hno : (SplEv.cover c j box).tile.isSome ≠ true := Bool.false_ne_true
    exact ⟨fun h => ⟨_, exec_splicerCover s, hhit h⟩, fun hst h => ⟨_, exec_splicerCover s, hnot hst h⟩,
      fun hst hopen h1 h2 => ⟨_, exec_splicerCover s, hcount hst hopen h1 h2 fun h => absurd h hno⟩⟩
  · obtain ⟨hhit, hnot, hcount⟩ := State.spliceNext_spec rfl hq hearly .splicerDeposit
    exact ⟨fun h => ⟨_, exec_splicerDeposit s, hhit h⟩, fun hst h => ⟨_, exec_splicerDeposit s, hnot hst h⟩,
      fun hst hopen h1 h2 h3 => ⟨_, exec_splicerDeposit s, hcount hst hopen h1 h2 fun _ => h3⟩⟩
  · exact ⟨exec_tableWalk_bad hmiss, fun y => exec_tableWalk_caches hmiss hc⟩

end Sys2Proof.Machine
end

section
/-! PROOF. A scalar floating-point instruction that raises an enabled flag traps FPX (R185). -/
namespace Sys2Proof.Machine

/-- Flags of which one is enabled end an instruction with FPX, whatever it would write. -/
theorem State.withFlags_enabled {s : State} {f : FFlags} (write : State → State) (h : f &&& s.st.te ≠ 0) :
    s.withFlags f write = .error ⟨tFPX, (f &&& s.st.te).toNat, 0, f⟩ := if_pos h

/-- A guarded body that ends with flags of which one is enabled, and only then moves the pc. -/
theorem guarded_withFlags_enabled {g : Guard} {n : Nat} {s : State} {f : State → FFlags}
    {write : State → State → State} {next : State → State} (hg : s.guard g = true) (h : f s &&& s.st.te ≠ 0) :
    guarded g n s (fun s => (s.withFlags (f s) (write s)).map next) =
      .next (s.takeTrap ⟨tFPX, (f s &&& s.st.te).toNat, 0, f s⟩) :=
  guarded_trap hg (by rw [State.withFlags_enabled _ h]; rfl)

theorem fpResult_enabled {g : Guard} {t : Fmt} {d : SReg} {s : State} {f : State → Nat × FFlags}
    (hg : s.guard g = true) (h : (f s).2 &&& s.st.te ≠ 0) :
    fpResult g t d f s = .next (s.takeTrap ⟨tFPX, ((f s).2 &&& s.st.te).toNat, 0, (f s).2⟩) :=
  guarded_withFlags_enabled (f := fun s => (f s).2) hg h

/-- An instruction that is `fpResult` of a function, said with the result of that function in the state at issue. -/
theorem exec_enabled_of_fpResult {i : Instr} {g : Guard} {t : Fmt} {d : SReg} {s : State} {f : State → Nat × FFlags}
    (he : exec i s = fpResult g t d f s) (hg : s.guard g = true) {r : Nat × FFlags} (hr : f s = r)
    (h : r.2 &&& s.st.te ≠ 0) : exec i s = .next (s.takeTrap ⟨tFPX, (r.2 &&& s.st.te).toNat, 0, r.2⟩) := by
  subst hr
  rw [he, fpResult_enabled hg h]

theorem exec_fcmp_enabled {g : Guard} {t : Fmt} {c : FCond} {p : PReg} {a b : SReg} {s : State} {f : FFlags}
    (hg : s.guard g = true) (hf : (fcond c (s.fop t a) (s.fop t b)).2 = f) (h : f &&& s.st.te ≠ 0) :
    exec (.fcmp g t c p a b) s = .next (s.takeTrap ⟨tFPX, (f &&& s.st.te).toNat, 0, f⟩) := by
  subst hf
  rw [exec_fcmp, execFcmp]
  exact guarded_withFlags_enabled (f := fun s => (fcond c (s.fop t a) (s.fop t b)).2)
    (write := fun s u => u.wP p (fcond c (s.fop t a) (s.fop t b)).1) hg h

/-- Settles O9: each instruction is `fpResult` of the function of its clause (FCMP writes a predicate instead), whose flags
are tested before anything is written. -/
theorem fpxBeforeResult : Obligations.FpxBeforeResult := by
  unfold Obligations.FpxBeforeResult
  intro s g t src m cc p d a b c hg
  exact ⟨exec_enabled_of_fpResult (exec_fadd s) hg rfl, exec_enabled_of_fpResult (exec_fsub s) hg rfl,
    exec_enabled_of_fpResult (exec_fmul s) hg rfl, exec_enabled_of_fpResult (exec_fdiv s) hg rfl,
    exec_enabled_of_fpResult (exec_ffma s) hg rfl, exec_enabled_of_fpResult (exec_fsqrt s) hg rfl,
    exec_enabled_of_fpResult (exec_fmin s) hg rfl, exec_enabled_of_fpResult (exec_fmax s) hg rfl,
    exec_fcmp_enabled hg rfl, exec_enabled_of_fpResult (exec_fcvt s) hg rfl,
    exec_enabled_of_fpResult (exec_fexp s) hg rfl, exec_enabled_of_fpResult (exec_flog s) hg rfl,
    exec_enabled_of_fpResult (exec_ferf s) hg rfl, exec_enabled_of_fpResult (exec_ferfc s) hg rfl⟩

end Sys2Proof.Machine
end

section
/-! SUPPORT. Finite values as rational numbers: sums, order, roundings that are exact (R180 to R182, R186, R216). -/
namespace Sys2Proof.Machine

/-! ### The number of a finite value -/

/-- The magnitude `mag` × 2^`x` with a sign, in units of 2^`e` (for `e` ≤ `x`). -/
def multiple (neg : Bool) (mag : Nat) (x e : Int) : Int :=
  if neg then -((mag * 2 ^ (x - e).toNat : Nat) : Int) else ((mag * 2 ^ (x - e).toNat : Nat) : Int)

/-- Two exponents in one: the power of two between them is a whole number. -/
theorem two_pow_toNat_mul {e x : Int} (h : e ≤ x) : (2 : ℚ) ^ (x - e).toNat * 2 ^ e = 2 ^ x := by
  rw [← zpow_natCast, Int.toNat_of_nonneg (by omega), ← zpow_add₀ two_ne_zero, sub_add_cancel]

theorem FVal.q_pos (mag : Nat) (e : Int) : (FVal.fin false mag e).q = mag * 2 ^ e := by simp [FVal.q]

theorem FVal.q_eq_multiple (neg : Bool) (mag : Nat) {x e : Int} (h : e ≤ x) :
    (FVal.fin neg mag x).q = multiple neg mag x e * 2 ^ e := by
  cases neg <;> simp [FVal.q, multiple, mul_assoc, two_pow_toNat_mul h]

/-- A whole number of units of 2^`e`. -/
theorem FVal.q_ofInt (v e : Int) : (FVal.fin (decide (v < 0)) v.natAbs e).q = v * 2 ^ e := by
  have habs : ((v.natAbs : ℚ)) = |(v : ℚ)| := by rw [Nat.cast_natAbs, Int.cast_abs]
  by_cases h : v < 0
  · simp [FVal.q, h, habs, abs_of_neg (Int.cast_lt_zero.mpr h)]
  · simp [FVal.q, h, habs, abs_of_nonneg (Int.cast_nonneg (not_lt.mp h))]

theorem FVal.q_mul (n1 n2 : Bool) (m1 m2 : Nat) (e1 e2 : Int) :
    (FVal.fin (xor n1 n2) (m1 * m2) (e1 + e2)).q = (FVal.fin n1 m1 e1).q * (FVal.fin n2 m2 e2).q := by
  simp only [FVal.q, zpow_add₀ (two_ne_zero : (2 : ℚ) ≠ 0), Nat.cast_mul]
  cases n1 <;> cases n2 <;> simp <;> ring

/-- The size of a number is its number without the sign. -/
theorem FVal.abs_q (neg : Bool) (mag : Nat) (e : Int) : |(FVal.fin neg mag e).q| = (FVal.fin false mag e).q := by
  cases neg <;> simp [FVal.q, abs_mul, abs_of_pos (zpow_pos (two_pos : (0 : ℚ) < 2) e)]

theorem FVal.q_eq_sign_mul_abs (neg : Bool) (mag : Nat) (e : Int) :
    (FVal.fin neg mag e).q = (if neg then -1 else 1) * |(FVal.fin neg mag e).q| := by
  rw [FVal.abs_q, FVal.q_pos, FVal.q, mul_assoc]

/-! ### Sums (R180, R182) -/

section
variable (m : Rm) (n1 : Bool) (m1 : Nat) (e1 : Int) (n2 : Bool) (m2 : Nat) (e2 : Int)

/-- The exact sum in units of 2^min(e1, e2). -/
def sumMultiple : Int := multiple n1 m1 e1 (min e1 e2) + multiple n2 m2 e2 (min e1 e2)

theorem sumFin_eq : sumFin m n1 m1 e1 n2 m2 e2 =
    if sumMultiple n1 m1 e1 n2 m2 e2 = 0 then (if m1 = 0 ∧ m2 = 0 ∧ n1 = n2 then n1 else m == .rdn, 0, min e1 e2)
    else (decide (sumMultiple n1 m1 e1 n2 m2 e2 < 0), (sumMultiple n1 m1 e1 n2 m2 e2).natAbs, min e1 e2) := by
  have hcast : ∀ (k i : Nat), ((k * 2 ^ i : Nat) : Int) = 0 ↔ k = 0 := by simp
  simp only [sumFin, hcast]
  rfl

/-- What `fadd` and `ffma` round is the exact sum, whose zero has the sign of R182. -/
theorem sumFin_exact : ∃ n k e, sumFin m n1 m1 e1 n2 m2 e2 = (n, k, e) ∧
    (FVal.fin n k e).q = (FVal.fin n1 m1 e1).q + (FVal.fin n2 m2 e2).q ∧
    (k = 0 → n = if m1 = 0 ∧ m2 = 0 ∧ n1 = n2 then n1 else m == .rdn) := by
  have hsum : (FVal.fin n1 m1 e1).q + (FVal.fin n2 m2 e2).q = sumMultiple n1 m1 e1 n2 m2 e2 * 2 ^ min e1 e2 := by
    rw [FVal.q_eq_multiple n1 m1 (min_le_left e1 e2), FVal.q_eq_multiple n2 m2 (min_le_right e1 e2), sumMultiple]
    push_cast
    ring
  rw [sumFin_eq, hsum]
  split
  · next h => exact ⟨_, _, _, rfl, by simp [FVal.q, h], fun _ => rfl⟩
  · next h => exact ⟨_, _, _, rfl, FVal.q_ofInt _ _, fun hk => absurd (Int.natAbs_eq_zero.mp hk) h⟩

end

/-! ### The order of finite values (R216) -/

theorem fcmpVal_fin (n1 : Bool) (m1 : Nat) (e1 : Int) (n2 : Bool) (m2 : Nat) (e2 : Int) :
    fcmpVal (.fin n1 m1 e1) (.fin n2 m2 e2) = compare (FVal.fin n1 m1 e1).q (FVal.fin n2 m2 e2).q := by
  have hmono : StrictMono (fun v : Int => (v : ℚ) * 2 ^ min e1 e2) :=
    fun a b h => mul_lt_mul_of_pos_right (Int.cast_lt.mpr h) (zpow_pos two_pos _)
  rw [FVal.q_eq_multiple n1 m1 (min_le_left e1 e2), FVal.q_eq_multiple n2 m2 (min_le_right e1 e2), ← cmp_eq_compare]
  exact (cmp_eq_compare _ _).symm.trans (hmono.cmp_map_eq _ _).symm

/-- The conditions of R216 on two numbers. -/
def numCond (c : FCond) (x y : ℚ) : Bool :=
  match c with
  | .eq => decide (x = y)
  | .ne => decide (x ≠ y)
  | .lt => decide (x < y)
  | .le => decide (x ≤ y)
  | .gt => decide (y < x)
  | .ge => decide (y ≤ x)
  | .un => false
  | .or => true

theorem fcond_fin (c : FCond) (n1 : Bool) (m1 : Nat) (e1 : Int) (n2 : Bool) (m2 : Nat) (e2 : Int) :
    fcond c (.fin n1 m1 e1) (.fin n2 m2 e2) = (numCond c (FVal.fin n1 m1 e1).q (FVal.fin n2 m2 e2).q, 0) := by
  generalize hx : (FVal.fin n1 m1 e1).q = x
  generalize hy : (FVal.fin n2 m2 e2).q = y
  rcases lt_trichotomy x y with h | h | h
  · have ho : compare x y = .lt := compare_lt_iff_lt.mpr h
    cases c <;> simp [fcond, numCond, fcmpVal_fin, FVal.isNan, FVal.isSig, flagIf, hx, hy, ho, h, h.ne, h.le, h.not_gt,
      h.not_ge]
  · cases c <;> simp [fcond, numCond, fcmpVal_fin, FVal.isNan, FVal.isSig, flagIf, hx, hy, h]
  · have ho : compare x y = .gt := compare_gt_iff_gt.mpr h
    cases c <;> simp [fcond, numCond, fcmpVal_fin, FVal.isNan, FVal.isSig, flagIf, hx, hy, ho, h, h.ne', h.le, h.not_gt,
      h.not_ge]

end Sys2Proof.Machine
end

section
/-! SUPPORT. Quotients and square roots: the number kept, exact or with its last bit odd for what lies between its
neighbours (R180, R282). -/
namespace Sys2Proof.Machine

/-! ### What a kept number stands for -/

/-- The magnitude r.1 × 2^r.2 stands for the number whose image under `f` is `w`: exactly, or, odd, for all that lies
between its neighbours. -/
def StandsFor (f : ℚ → ℚ) (w : ℚ) (r : Nat × Int) : Prop :=
  f (r.1 * 2 ^ r.2) = w ∨
    r.1 % 2 = 1 ∧ f (((r.1 - 1 : Nat) : ℚ) * 2 ^ r.2) < w ∧ w < f (((r.1 + 1 : Nat) : ℚ) * 2 ^ r.2)

/-- A number cut off at 2^`e`, with a sticky bit for what was cut. -/
theorem standsFor_sticky {f : ℚ → ℚ} {w : ℚ} {a : Nat} {e : Int} {s : Bool}
    (hexact : s = false → f (a * 2 ^ e) = w) (hlo : s = true → f (a * 2 ^ e) < w)
    (hhi : w < f (((a + 1 : Nat) : ℚ) * 2 ^ e)) : StandsFor f w (sticky a e s) := by
  cases s with
  | false => exact .inl (hexact rfl)
  | true =>
    have hhalf : (2 : ℚ) ^ (e - 1) * 2 = 2 ^ e := by rw [← zpow_add_one₀ two_ne_zero, sub_add_cancel]
    have hdouble : ∀ k : Nat, ((2 * k : Nat) : ℚ) * 2 ^ (e - 1) = k * 2 ^ e := fun k => by
      rw [← hhalf]; push_cast; ring
    refine .inr ⟨by simp [sticky, Nat.add_mod], ?_, ?_⟩
    · show f ((2 * a : Nat) * 2 ^ (e - 1)) < w
      rw [hdouble]
      exact hlo rfl
    · show w < f ((2 * (a + 1) : Nat) * 2 ^ (e - 1))
      rw [hdouble]
      exact hhi

theorem le_sticky (a : Nat) (e : Int) (s : Bool) : a ≤ (sticky a e s).1 := by
  cases s
  · exact le_rfl
  · show a ≤ 2 * a + 1
    omega

/-! ### Quotients -/

theorem quotient_large {m1 m2 : Nat} (e : Int) (h1 : m1 ≠ 0) (h2 : m2 ≠ 0) : 2 ^ 139 ≤ (quotient m1 m2 e).1 := by
  refine le_trans ?_ (le_sticky _ _ _)
  rw [Nat.le_div_iff_mul_le (Nat.pos_of_ne_zero h2)]
  have hm2 : m2 ≤ 2 ^ (Nat.log2 (m2 + 1) + 1) := (Nat.le_succ m2).trans Nat.lt_log2_self.le
  calc 2 ^ 139 * m2 ≤ 2 ^ 139 * 2 ^ (Nat.log2 (m2 + 1) + 1) := Nat.mul_le_mul_left _ hm2
    _ = 1 * 2 ^ (140 + Nat.log2 (m2 + 1)) := by rw [← pow_add, one_mul]; congr 1; omega
    _ ≤ m1 * 2 ^ (140 + Nat.log2 (m2 + 1)) := Nat.mul_le_mul_right _ (Nat.pos_of_ne_zero h1)

theorem quotient_stands (m1 : Nat) {m2 : Nat} (e1 e2 : Int) (h2 : m2 ≠ 0) :
    StandsFor (· * (m2 * 2 ^ e2)) (m1 * 2 ^ e1) (quotient m1 m2 (e1 - e2)) := by
  unfold quotient
  extract_lets k num
  have hscale : ∀ a : Nat, (a * 2 ^ (e1 - e2 - k) * (m2 * 2 ^ e2) : ℚ) = (a * m2 : Nat) * 2 ^ (e1 - k) := fun a => by
    rw [Nat.cast_mul, show e1 - k = (e1 - e2 - k) + e2 by ring, zpow_add₀ two_ne_zero]
    ring
  have hw : (m1 * 2 ^ e1 : ℚ) = num * 2 ^ (e1 - k) := by
    rw [show e1 = k + (e1 - k) by ring, zpow_add₀ two_ne_zero]
    simp [num, mul_assoc]
  have hpos : (0 : ℚ) < 2 ^ (e1 - k) := zpow_pos two_pos _
  have hdiv := Nat.div_add_mod' num m2
  refine standsFor_sticky (fun h => ?_) (fun h => ?_) ?_ <;> simp only [hscale, hw]
  · rw [Nat.div_mul_cancel (Nat.dvd_of_mod_eq_zero (by simpa using h))]
  · have hrem : num % m2 ≠ 0 := by simpa using h
    exact mul_lt_mul_of_pos_right (Nat.cast_lt.mpr (by omega)) hpos
  · exact mul_lt_mul_of_pos_right (Nat.cast_lt.mpr (Nat.lt_mul_of_div_lt (Nat.lt_succ_self _) (Nat.pos_of_ne_zero h2))) hpos

/-! ### The integer square root -/

/-- A Newton step never falls below the root. -/
theorem sqrt_le_newton (n : Nat) {x : Nat} (hx : 0 < x) : Nat.sqrt n ≤ (x + n / x) / 2 := by
  rw [Nat.le_div_iff_mul_le two_pos]
  rcases le_total (Nat.sqrt n * 2) x with h | h
  · exact h.trans (Nat.le_add_right _ _)
  · obtain ⟨d, hd⟩ := Nat.exists_eq_add_of_le h
    have hle : d ≤ n / x := by
      rw [Nat.le_div_iff_mul_le hx]
      have hamgm : 4 * x * d ≤ (Nat.sqrt n * 2) ^ 2 := hd ▸ four_mul_le_sq_add x d
      have hroot := Nat.sqrt_le' n
      nlinarith
    omega

/-- A Newton step from above the root halves the distance to it. -/
theorem newton_le {n x : Nat} (h : Nat.sqrt n < x) : n / x ≤ Nat.sqrt n := by
  rw [← Nat.lt_succ_iff, Nat.div_lt_iff_lt_mul (by omega)]
  exact (Nat.sqrt_lt.mp (Nat.lt_succ_self _)).trans_le (Nat.mul_le_mul_left _ h)

theorem isqrtLoop_eq_sqrt {n : Nat} (hn : 0 < n) :
    ∀ f x : Nat, Nat.sqrt n ≤ x → x < Nat.sqrt n + 2 ^ f → isqrtLoop f n x = Nat.sqrt n
  | 0, x, hlo, hhi => le_antisymm (Nat.lt_succ_iff.mp hhi) hlo
  | f + 1, x, hlo, hhi => by
    have hlow := sqrt_le_newton n ((Nat.sqrt_pos.mpr hn).trans_le hlo)
    rw [pow_succ] at hhi
    unfold isqrtLoop
    rcases hlo.eq_or_lt with heq | hlt
    · rw [← heq] at hlow ⊢
      exact if_neg (not_lt.mpr hlow)
    · have hup := newton_le hlt
      rw [if_pos (by omega)]
      exact isqrtLoop_eq_sqrt hn f _ hlow (by omega)

theorem isqrt_eq_sqrt (n : Nat) : isqrt n = Nat.sqrt n := by
  unfold isqrt
  split
  · next h => rw [h, Nat.sqrt_zero]
  · next h =>
    have hlt : Nat.sqrt n < 2 ^ (Nat.log2 n / 2 + 1) := by
      rw [Nat.sqrt_lt', ← pow_mul]
      exact Nat.lt_log2_self.trans_le (Nat.pow_le_pow_right two_pos (by omega))
    have hfuel : 2 ^ (Nat.log2 n / 2 + 1) ≤ 2 ^ (Nat.log2 n + 8) := Nat.pow_le_pow_right two_pos (by omega)
    have hroot := Nat.sqrt_pos.mpr (Nat.pos_of_ne_zero h)
    exact isqrtLoop_eq_sqrt (Nat.pos_of_ne_zero h) _ _ hlt.le (by omega)

/-! ### Square roots of magnitudes -/

theorem rootOf_large {mag : Nat} (e : Int) (h : mag ≠ 0) : 2 ^ 139 ≤ (rootOf mag e).1 := by
  refine le_trans ?_ (le_sticky _ _ _)
  rw [isqrt_eq_sqrt, Nat.le_sqrt']
  obtain ⟨j, hj⟩ := Nat.exists_eq_add_of_le (show 139 * 2 ≤ 280 + if (e - 280) % 2 = 0 then 0 else 1 by omega)
  rw [hj, pow_add, pow_mul, mul_left_comm]
  exact Nat.le_mul_of_pos_right _ (Nat.mul_pos (Nat.pos_of_ne_zero h) (Nat.two_pow_pos j))

theorem rootOf_stands (mag : Nat) (e : Int) : StandsFor (· ^ 2) (mag * 2 ^ e) (rootOf mag e) := by
  unfold rootOf
  extract_lets k n r
  have hr : r = Nat.sqrt n := isqrt_eq_sqrt n
  have heven : (e - k) / 2 * 2 = e - k := by
    simp only [k]
    split <;> omega
  have hscale : ∀ a : Nat, ((a * 2 ^ ((e - k) / 2)) ^ 2 : ℚ) = (a ^ 2 : Nat) * 2 ^ (e - k) := fun a => by
    rw [mul_pow, ← zpow_natCast ((2 : ℚ) ^ _) 2, ← zpow_mul, Nat.cast_ofNat, heven, Nat.cast_pow]
  have hw : (mag * 2 ^ e : ℚ) = n * 2 ^ (e - k) := by
    rw [show (2 : ℚ) ^ e = 2 ^ (k + (e - k)) by ring_nf, zpow_add₀ two_ne_zero]
    simp [n, mul_assoc]
  have hpos : (0 : ℚ) < 2 ^ (e - k) := zpow_pos two_pos _
  refine standsFor_sticky (fun h => ?_) (fun h => ?_) ?_ <;> simp only [hscale, hw]
  · rw [pow_two, show r * r = n by simpa using h]
  · have hne : r * r ≠ n := by simpa using h
    refine mul_lt_mul_of_pos_right (Nat.cast_lt.mpr (lt_of_le_of_ne ?_ (pow_two r ▸ hne))) hpos
    exact hr ▸ Nat.sqrt_le' n
  · exact mul_lt_mul_of_pos_right (Nat.cast_lt.mpr (hr ▸ Nat.lt_succ_sqrt' n)) hpos

end Sys2Proof.Machine
end

section
/-! SUPPORT. Roundings that lose nothing: patterns of finite values, and integers (R180, R181, R186). -/
namespace Sys2Proof.Machine

/-! ### A multiple of the unit is kept -/

/-- Nothing dropped is never rounded up. -/
theorem roundsUp_zero (m : Rm) (neg low : Bool) {unit : Nat} (h : 0 < unit) : roundsUp m neg low 0 unit = false := by
  cases m <;> simp [roundsUp, h.ne, Nat.ne_of_gt h]

/-- At a unit that the exponent reaches, a magnitude is kept. -/
theorem roundAt_of_le (m : Rm) (neg : Bool) (mag : Nat) {e q : Int} (h : q ≤ e) :
    roundAt m neg mag e q = (mag * 2 ^ (e - q).toNat, false) := if_pos h

/-- A magnitude that is a whole number is that number at the unit 1. -/
theorem roundInt_exact (m : Rm) (neg : Bool) {mag k : Nat} {e : Int} (h : (mag : ℚ) * 2 ^ e = k) :
    roundInt m neg mag e = (k, false) := by
  unfold roundInt
  rcases le_or_gt 0 e with he | he
  · have hk : mag * 2 ^ (e - 0).toNat = k := by
      rw [← two_pow_toNat_mul he, zpow_zero, mul_one] at h
      exact_mod_cast h
    rw [roundAt_of_le m neg mag he, hk]
  · have hk : mag = k * 2 ^ (0 - e).toNat := by
      have hone : (2 : ℚ) ^ (0 - e).toNat * 2 ^ e = 1 := two_pow_toNat_mul he.le
      have hmul : (mag : ℚ) = k * 2 ^ (0 - e).toNat := by rw [← h, mul_assoc, mul_comm ((2 : ℚ) ^ e), hone, mul_one]
      exact_mod_cast hmul
    have hpos := Nat.two_pow_pos (0 - e).toNat
    simp only [roundAt, if_neg (not_le.mpr he)]
    rw [hk, Nat.mul_div_cancel _ hpos, Nat.mul_mod_left, roundsUp_zero m neg _ hpos]
    rfl

/-! ### Patterns of finite values (R179) -/

theorem two_mul_biasOf (t : Fmt) : 2 * biasOf t + 2 = 2 ^ expBits t := by
  cases t <;> rfl

/-- A pattern by its three fields (R179). -/
theorem pattern_fields {t : Fmt} {b : Nat} (hb : b < 2 ^ ieeeBits t) :
    b = b / 2 ^ fracBits t % 2 ^ expBits t * 2 ^ fracBits t + b % 2 ^ fracBits t +
      zeroBits t (b / 2 ^ (fracBits t + expBits t) % 2 == 1) := by
  have hsign : b / 2 ^ (fracBits t + expBits t) < 2 := by
    rw [Nat.div_lt_iff_lt_mul (Nat.two_pow_pos _), ← pow_succ']
    exact hb.trans_eq (by simp only [ieeeBits]; congr 1; omega)
  have hzero : zeroBits t (b / 2 ^ (fracBits t + expBits t) % 2 == 1) =
      2 ^ fracBits t * (2 ^ expBits t * (b / 2 ^ fracBits t / 2 ^ expBits t)) := by
    rw [Nat.div_div_eq_div_mul, ← pow_add, ← mul_assoc, ← pow_add, zeroBits, Nat.add_comm (expBits t)]
    rcases Nat.lt_succ_iff_lt_or_eq.mp hsign with h | h
    · simp [Nat.lt_one_iff.mp h]
    · simp [h]
  rw [hzero]
  conv_lhs => rw [← Nat.div_add_mod b (2 ^ fracBits t), ← Nat.div_add_mod (b / 2 ^ fracBits t) (2 ^ expBits t)]
  ring

/-- A finite value of a format: `mag` units at the exponent step `k` above the least, the leading bit of `mag` set unless
`k` is 0, and its pattern. -/
theorem fval_fin_pattern {t : Fmt} {b : Nat} (hb : b < 2 ^ ieeeBits t) {neg : Bool} {mag : Nat} {e : Int}
    (h : fval t b = .fin neg mag e) : ∃ k : Nat, e = qMin t + k ∧ b = k * 2 ^ fracBits t + mag + zeroBits t neg ∧
      mag < 2 ^ (fracBits t + 1) ∧ k + 3 ≤ 2 ^ expBits t ∧ (k = 0 ∨ 2 ^ fracBits t ≤ mag) := by
  have hfields := pattern_fields hb
  have hfrac := Nat.mod_lt b (Nat.two_pow_pos (fracBits t))
  have hexp := Nat.mod_lt (b / 2 ^ fracBits t) (Nat.two_pow_pos (expBits t))
  have hrange : 3 ≤ 2 ^ expBits t := by cases t <;> decide
  rw [pow_succ]
  simp only [fval] at h
  generalize b / 2 ^ fracBits t % 2 ^ expBits t = x at *
  split at h
  · split at h <;> cases h
  · split at h
    · next hinf hsub =>
      injection h with hneg hmag he
      subst hneg hmag he hsub
      exact ⟨0, by simp, by simpa using hfields, by omega, by omega, .inl rfl⟩
    · next hinf hnorm =>
      injection h with hneg hmag he
      subst hneg hmag he
      obtain ⟨k, rfl⟩ := Nat.exists_eq_succ_of_ne_zero hnorm
      exact ⟨k, by simp, hfields.trans (by rw [Nat.succ_mul]; omega), by omega, by omega, .inr (Nat.le_add_left _ _)⟩

/-- A rounding that does not overflow and is exact at the unit `q` of the result: `qu` is the unit that the precision asks
for. -/
theorem roundF_exact {t : Fmt} {m : Rm} {neg : Bool} {mag n : Nat} {e qu q : Int} (h0 : mag ≠ 0)
    (hqu : e + Nat.log2 mag + 1 - precOf t = qu) (hq : max qu (qMin t) = q) (hunit : qu ≤ biasOf t)
    (hfits : (roundAt m neg mag e qu).1 < 2 ^ (biasOf t + 1 - qu).toNat) (hexact : roundAt m neg mag e q = (n, false)) :
    roundF t m neg mag e = ((q - qMin t).toNat * 2 ^ fracBits t + n + zeroBits t neg, 0) := by
  have hkept : (if q = qu then roundAt m neg mag e qu else roundAt m neg mag e q) = (n, false) := by
    split
    · next h => rwa [h] at hexact
    · exact hexact
  simp only [roundF, if_neg h0, hqu, hq, not_lt.mpr hunit, not_le.mpr hfits, decide_false, Bool.or_self,
    Bool.false_eq_true, if_false, hkept, Bool.and_false]
  rfl

/-- Rounded to its own format, such a magnitude is kept, in every mode. -/
theorem roundF_representable {t : Fmt} (m : Rm) (neg : Bool) {mag k : Nat} (h0 : mag ≠ 0)
    (hmag : mag < 2 ^ (fracBits t + 1)) (hk : k + 3 ≤ 2 ^ expBits t) (hlead : k = 0 ∨ 2 ^ fracBits t ≤ mag) :
    roundF t m neg mag (qMin t + k) = (k * 2 ^ fracBits t + mag + zeroBits t neg, 0) := by
  have hlog : Nat.log2 mag ≤ fracBits t := Nat.lt_succ_iff.mp ((Nat.log2_lt h0).mpr hmag)
  obtain ⟨d, hd⟩ := Nat.exists_eq_add_of_le hlog
  have hlead' : k = 0 ∨ d = 0 := hlead.imp_right fun h => by have := (Nat.le_log2 h0).mpr h; omega
  have hk' : (k : Int) + 3 ≤ 2 * biasOf t + 2 := two_mul_biasOf t ▸ by exact_mod_cast hk
  have hmin : qMin t = 1 - biasOf t - fracBits t := by simp only [qMin, precOf]; push_cast; ring
  have hqu : qMin t + (k : Int) + Nat.log2 mag + 1 - precOf t = qMin t + k - d := by
    simp only [precOf]; omega
  rw [roundF_exact h0 hqu (by omega : _ = qMin t + (k : Int)) (by omega) ?_ (by simp [roundAt] : _ = (mag, false))]
  · simp
  · have hup : (qMin t + k - (qMin t + k - d)).toNat = d := by omega
    rw [roundAt_of_le _ _ _ (by omega), hup]
    calc mag * 2 ^ d < 2 ^ (Nat.log2 mag + 1) * 2 ^ d := Nat.mul_lt_mul_of_pos_right Nat.lt_log2_self (Nat.two_pow_pos _)
      _ ≤ 2 ^ (biasOf t + 1 - (qMin t + k - d)).toNat := by
        rw [← pow_add]
        exact Nat.pow_le_pow_right two_pos (by omega)

/-- A non-zero finite value of a format rounds to its own pattern. -/
theorem roundF_fval {t : Fmt} (m : Rm) {b : Nat} (hb : b < 2 ^ ieeeBits t) {neg : Bool} {mag : Nat} {e : Int}
    (h : fval t b = .fin neg mag e) (h0 : mag ≠ 0) : roundF t m neg mag e = (b, 0) := by
  obtain ⟨k, rfl, hpat, hmag, hk, hlead⟩ := fval_fin_pattern hb h
  rw [roundF_representable m neg h0 hmag hk hlead, ← hpat]

/-! ### Conversions of integral values (R186) -/

/-- A value that is a whole number goes to an integer format without rounding. -/
theorem toInt_exact (i : Fmt) (m : Rm) {neg : Bool} {mag : Nat} {e z : Int} (h : (FVal.fin neg mag e).q = z) :
    toInt i m (.fin neg mag e) = if intLo i ≤ z ∧ z ≤ intHi i then (z, 0) else (satInt i z, fNV) := by
  have habs : |(z : ℚ)| = (z.natAbs : ℚ) := by rw [Nat.cast_natAbs, Int.cast_abs]
  have hround : roundInt m neg mag e = (z.natAbs, false) :=
    roundInt_exact m neg (by rw [← FVal.q_pos, ← FVal.abs_q neg, h, habs])
  have hsign : (if neg then -(z.natAbs : Int) else z.natAbs) = z := by
    have hz := FVal.q_eq_sign_mul_abs neg mag e
    rw [h, habs] at hz
    generalize z.natAbs = k at hz ⊢
    cases neg
    · exact_mod_cast (hz.trans (one_mul _)).symm
    · exact_mod_cast (hz.trans (neg_one_mul _)).symm
  simp only [toInt, hround, hsign, flagIf, Bool.false_eq_true, if_false]
  by_cases hin : intLo i ≤ z ∧ z ≤ intHi i
  · rw [if_neg (by omega), if_pos hin]
  · rw [if_pos (by omega), if_neg hin]

end Sys2Proof.Machine
end

section
/-! SUPPORT. The fields of an FB block that the encoder makes, read back (R188 to R190). -/
namespace Sys2Proof.Machine

/-! ### Digits -/

theorem ofDigits_digit {B : Nat} {l : List Nat} (hl : ∀ x ∈ l, x < B) {i : Nat} (h : i < l.length) :
    Nat.ofDigits B l / B ^ i % B = l[i] := by
  have hlt := hl l[i] (List.getElem_mem h)
  rw [Nat.ofDigits_div_pow_eq_ofDigits_drop i (by omega) l hl, List.drop_eq_getElem_cons h, Nat.ofDigits_cons,
    Nat.add_mul_mod_self_left]
  exact Nat.mod_eq_of_lt hlt

theorem fbMake_eq (f : Fmt) (e : Nat) (shifts fields : List Nat) : fbMake f e shifts fields =
    e + 256 * Nat.ofDigits 4 shifts + 65536 * Nat.ofDigits (2 ^ (fbN f + 1)) fields := by
  simp [fbMake, Nat.ofDigits_eq_foldr]

/-! ### What is read of a block -/

section
variable {f : Fmt} {e : Nat} {shifts fields : List Nat}

theorem ofDigits_shifts_lt (hlen : shifts.length = 4) (hshift : ∀ v ∈ shifts, v < 4) : Nat.ofDigits 4 shifts < 256 := by
  simpa [hlen] using Nat.ofDigits_lt_base_pow_length (b := 4) (by decide) hshift

variable (he : e < 256)
include he

theorem fbExp_fbMake : fbExp (fbMake f e shifts fields) = e := by
  rw [fbExp, fbMake_eq]
  omega

variable (hlen : shifts.length = 4) (hshift : ∀ v ∈ shifts, v < 4)
include hlen hshift

theorem fbShift_fbMake {g : Nat} (hg : g < shifts.length) : fbShift (fbMake f e shifts fields) g = shifts[g] := by
  obtain ⟨k, hk⟩ := Nat.exists_eq_add_of_lt (hlen ▸ hg)
  have hdiv : fbMake f e shifts fields / 256 =
      Nat.ofDigits 4 shifts + 4 ^ g * (4 * (4 ^ k * Nat.ofDigits (2 ^ (fbN f + 1)) fields)) := by
    have hpow : 4 ^ g * (4 * (4 ^ k * Nat.ofDigits (2 ^ (fbN f + 1)) fields)) =
        4 ^ (g + k + 1) * Nat.ofDigits (2 ^ (fbN f + 1)) fields := by ring
    rw [hpow, ← hk, fbMake_eq]
    omega
  rw [fbShift, hdiv, Nat.add_mul_div_left _ _ (Nat.pow_pos four_pos), Nat.add_mul_mod_self_left, ofDigits_digit hshift hg]

theorem fbField_fbMake (hfield : ∀ v ∈ fields, v < 2 ^ (fbN f + 1)) {i : Nat} (hi : i < fields.length) :
    fbField f (fbMake f e shifts fields) i = fields[i] := by
  have hlt := ofDigits_shifts_lt hlen hshift
  have hdiv : fbMake f e shifts fields / 2 ^ 16 = Nat.ofDigits (2 ^ (fbN f + 1)) fields := by
    rw [fbMake_eq]
    omega
  rw [fbField, Nat.shiftRight_eq_div_pow, pow_add, ← Nat.div_div_eq_div_mul, hdiv, Nat.mul_comm i, pow_mul,
    ofDigits_digit hfield hi]

theorem fbVal_fbMake (hpos : e ≠ 0) (hlt : e < 255) (hfield : ∀ v ∈ fields, v < 2 ^ (fbN f + 1)) {i : Nat}
    (hi : i < fields.length) (hg : i / 8 < shifts.length) : fbVal f (fbMake f e shifts fields) i =
      .fin (fields[i] / 2 ^ fbN f == 1) (fields[i] % 2 ^ fbN f) ((e : Int) - 127 - (fbN f - 1 : Nat) - shifts[i / 8]) := by
  simp only [fbVal, fbExp_fbMake he, fbShift_fbMake he hlen hshift hg, fbField_fbMake he hlen hshift hfield hi, if_neg hpos,
    if_neg hlt.ne]

end

/-! ### The encoder -/

/-- The exponent of the unit of an octet, of the shared exponent and the shift (R189). -/
def fbScale (f : Fmt) (e shift : Nat) : Int := (e : Int) - 127 - (fbN f - 1 : Nat) - shift

/-- An element field: the magnitude in units of 2^`s`, saturated, and its sign (R190). -/
def fbElem (f : Fmt) (m : Rm) (x : FVal) (s : Int) : Nat :=
  min (fbQ m x s).1 (2 ^ fbN f - 1) + if x.neg then 2 ^ fbN f else 0

section
variable (f : Fmt) (m : Rm) (x : FVal) (s : Int)

theorem saturated_lt : min (fbQ m x s).1 (2 ^ fbN f - 1) < 2 ^ fbN f :=
  (min_le_right _ _).trans_lt (Nat.sub_lt (Nat.two_pow_pos _) one_pos)

theorem fbElem_lt : fbElem f m x s < 2 ^ (fbN f + 1) := by
  have hlt := saturated_lt f m x s
  rw [fbElem, pow_succ]
  split <;> omega

theorem fbElem_sign : (fbElem f m x s / 2 ^ fbN f == 1) = x.neg := by
  have hdiv := Nat.div_eq_of_lt (saturated_lt f m x s)
  rw [fbElem]
  cases x.neg
  · simp [hdiv]
  · simp [Nat.add_div_right _ (Nat.two_pow_pos (fbN f)), hdiv]

theorem fbElem_magnitude : fbElem f m x s % 2 ^ fbN f = min (fbQ m x s).1 (2 ^ fbN f - 1) := by
  have hmod := Nat.mod_eq_of_lt (saturated_lt f m x s)
  rw [fbElem]
  cases x.neg
  · exact hmod
  · exact (Nat.add_mod_right _ _).trans hmod

end

theorem fbEncode_nonfinite (f : Fmt) (m : Rm) {xs : List FVal} (h : xs.all FVal.isFin = false) :
    fbEncode f m xs none = (255, fNV) := by
  obtain ⟨x, hx, hfin⟩ := List.all_eq_false.mp h
  refine if_pos (List.any_eq_true.mpr ⟨x, hx, ?_⟩)
  cases x with
  | fin => exact absurd rfl hfin
  | nan | inf => rfl

theorem all_isFin_of_isZero {xs : List FVal} (h : xs.all FVal.isZero = true) : xs.all FVal.isFin = true := by
  refine List.all_eq_true.mpr fun x hx => ?_
  have hz := List.all_eq_true.mp h x hx
  cases x with
  | fin => rfl
  | nan | inf => cases hz

/-- A block whose every element is rounded once, at the scale of its octet: a shared exponent, the shifts of the octets,
and the element fields (R188, R190). -/
def IsBlockOf (f : Fmt) (m : Rm) (xs : List FVal) (b : Nat) : Prop :=
  ∃ (e : Nat) (sig : List Nat), 1 ≤ e ∧ e < 255 ∧ sig.length = 4 ∧ (∀ v ∈ sig, v < 4) ∧
    b = fbMake f e sig (xs.mapIdx fun i x => fbElem f m x (fbScale f e (nth sig (i / 8) 0)))

/-- Finite values give a zero block, as zeros always do, or a block of theirs. -/
theorem fbEncode_finite (f : Fmt) (m : Rm) {xs : List FVal} (hfin : xs.all FVal.isFin = true) :
    (xs.all FVal.isZero = true → fbEncode f m xs none = (0, 0)) ∧
      ((fbEncode f m xs none).1 = 0 ∨ IsBlockOf f m xs (fbEncode f m xs none).1) := by
  generalize hr : fbEncode f m xs none = r
  unfold fbEncode at hr
  extract_lets bad n top e0 s0 inc e s sig qs sat ms lost ix fl at hr
  split at hr
  · next hbad =>
    obtain ⟨x, hx, hnot⟩ := List.any_eq_true.mp hbad
    have hx' := List.all_eq_true.mp hfin x hx
    cases x with
    | fin => cases hnot
    | nan | inf => cases hx'
  split at hr
  · exact ⟨fun _ => hr.symm, .inl (hr ▸ rfl)⟩
  next hzero =>
  refine ⟨fun h => absurd h hzero, ?_⟩
  split at hr
  · exact .inl (hr ▸ rfl)
  have he0 : 1 ≤ e0 ∧ e0 < 255 := by
    simp only [e0]
    omega
  have hinc : inc = true → e0 < 254 := fun h => by
    simp only [inc, Bool.and_eq_true, decide_eq_true_eq] at h
    exact h.1.2
  obtain ⟨hpos, hlt, hs⟩ : 1 ≤ e ∧ e < 255 ∧ s = (e : Int) - 127 - (fbN f - 1 : Nat) := by
    by_cases h : inc = true
    · have hroom := hinc h
      simp only [s, e, if_pos h, s0, n]
      exact ⟨Nat.succ_pos _, by omega, by push_cast; ring⟩
    · simp only [s, e, if_neg h, s0]
      exact ⟨he0.1, he0.2, rfl⟩
  have hfields : qs.map (fun q => Nat.min q.2.1 (2 ^ n - 1) + if q.1.neg then 2 ^ n else 0) =
      xs.mapIdx fun i x => fbElem f m x (fbScale f e (nth sig (i / 8) 0)) :=
    List.ext_getElem (by simp [qs]) fun i _ _ => by simp [qs, n, fbElem, fbScale, hs]
  refine .inr ⟨e, sig, hpos, hlt, by simp [sig], fun v hv => ?_, by rw [← hr, ← hfields]⟩
  obtain ⟨g, -, rfl⟩ := List.mem_map.mp hv
  dsimp only
  split <;> [decide; split <;> [decide; split <;> decide]]

/-- The elements of such a block, read back. -/
theorem IsBlockOf.fbVal_eq {f : Fmt} {m : Rm} {xs : List FVal} {b : Nat} (hb : IsBlockOf f m xs b)
    (hlen : xs.length = 32) : fbExp b < 255 ∧ ∀ (i : Nat) (h : i < xs.length),
      let s : Int := (fbExp b : Int) - 127 - (fbN f - 1 : Nat) - fbShift b (i / 8)
      fbVal f b i = .fin xs[i].neg (min (fbQ m xs[i] s).1 (2 ^ fbN f - 1)) s := by
  obtain ⟨e, sig, hpos, hlt, hsig, hshift, rfl⟩ := hb
  have he : e < 256 := by omega
  refine ⟨by rwa [fbExp_fbMake he], fun i h => ?_⟩
  have hoct : i / 8 < sig.length := by omega
  have hshiftAt : sig[i / 8] = nth sig (i / 8) 0 := by simp [nth, hoct]
  have hfield : ∀ v ∈ xs.mapIdx fun i x => fbElem f m x (fbScale f e (nth sig (i / 8) 0)), v < 2 ^ (fbN f + 1) := by
    intro v hv
    obtain ⟨j, hj, rfl⟩ := List.mem_mapIdx.mp hv
    exact fbElem_lt _ _ _ _
  rw [fbVal_fbMake he hsig hshift (by omega) hlt hfield (by simpa using h) hoct, fbExp_fbMake he,
    fbShift_fbMake he hsig hshift hoct, List.getElem_mapIdx, hshiftAt, fbElem_sign, fbElem_magnitude]
  rfl

end Sys2Proof.Machine
end

section
/-! PROOF. Every operation of an IEEE format rounds its exact result once, and what invalid operations and NaN give (R180
to R182, R186, R190, R216). -/
namespace Sys2Proof.Machine

/-! ### Finite operands (R180, R182, R282) -/

section
variable (t : Fmt) (m : Rm) (n1 : Bool) (m1 : Nat) (e1 : Int) (n2 : Bool) (m2 : Nat) (e2 : Int)

theorem fadd_fin : ∃ n k e, fadd t m (.fin n1 m1 e1) (.fin n2 m2 e2) = roundF t m n k e ∧
    (FVal.fin n k e).q = (FVal.fin n1 m1 e1).q + (FVal.fin n2 m2 e2).q ∧
    (k = 0 → n = if m1 = 0 ∧ m2 = 0 ∧ n1 = n2 then n1 else m == .rdn) := by
  obtain ⟨n, k, e, hsum, hq⟩ := sumFin_exact m n1 m1 e1 n2 m2 e2
  exact ⟨n, k, e, by rw [fadd, hsum], hq⟩

/-- The operands of which one is an infinity and the other a zero: their product is invalid. -/
def zeroTimesInf (x y : FVal) : Bool :=
  match x, y with
  | .inf _, .fin _ 0 _ => true
  | .fin _ 0 _, .inf _ => true
  | _, _ => false

theorem zeroTimesInf_fin : zeroTimesInf (.fin n1 m1 e1) (.fin n2 m2 e2) = false := by
  cases m1 <;> rfl

theorem ffma_invalid {x y : FVal} (z : FVal) (h : zeroTimesInf x y = true) : ffma t m x y z = (nanBits t, fNV) := by
  unfold ffma
  exact if_pos h

theorem ffma_fin (n3 : Bool) (m3 : Nat) (e3 : Int) : ∃ n k e,
    ffma t m (.fin n1 m1 e1) (.fin n2 m2 e2) (.fin n3 m3 e3) = roundF t m n k e ∧
    (FVal.fin n k e).q = (FVal.fin n1 m1 e1).q * (FVal.fin n2 m2 e2).q + (FVal.fin n3 m3 e3).q ∧
    (k = 0 → n = if (m1 = 0 ∨ m2 = 0) ∧ m3 = 0 ∧ (xor n1 n2) = n3 then n3 else m == .rdn) := by
  obtain ⟨n, k, e, hsum, hq, hzero⟩ := sumFin_exact m (xor n1 n2) (m1 * m2) (e1 + e2) n3 m3 e3
  have hround : ffma t m (.fin n1 m1 e1) (.fin n2 m2 e2) (.fin n3 m3 e3) = roundF t m n k e := by
    unfold ffma
    refine (if_neg (Bool.eq_false_iff.mp (zeroTimesInf_fin n1 m1 e1 n2 m2 e2))).trans ((if_neg Bool.false_ne_true).trans ?_)
    simp only [hsum]
  refine ⟨n, k, e, hround, by rw [hq, FVal.q_mul], fun hk => (hzero hk).trans ?_⟩
  by_cases hsame : (xor n1 n2) = n3 <;> simp [hsame]

/-- A quotient of magnitudes, with its sign. -/
theorem quotient_signed {k : Nat} {e : Int} (h : (k * 2 ^ e * (m2 * 2 ^ e2) : ℚ) = m1 * 2 ^ e1) :
    (FVal.fin (xor n1 n2) k e).q * (FVal.fin n2 m2 e2).q = (FVal.fin n1 m1 e1).q := by
  rw [← FVal.q_pos, ← FVal.q_pos, ← FVal.q_pos] at h
  simp only [FVal.q, mul_assoc] at h ⊢
  cases n1 <;> cases n2 <;> simpa using h

theorem fdiv_fin (h1 : m1 ≠ 0) (h2 : m2 ≠ 0) : ∃ k e,
    let x := FVal.fin n1 m1 e1
    let y := FVal.fin n2 m2 e2
    let n := xor n1 n2
    fdiv t m x y = roundF t m n k e ∧ 2 ^ 139 ≤ k ∧ ((FVal.fin n k e).q * y.q = x.q ∨
      (k % 2 = 1 ∧ (FVal.fin false (k - 1) e).q * |y.q| < |x.q| ∧ |x.q| < (FVal.fin false (k + 1) e).q * |y.q|)) := by
  refine ⟨(quotient m1 m2 (e1 - e2)).1, (quotient m1 m2 (e1 - e2)).2, by simp only [fdiv, if_neg h1, if_neg h2],
    quotient_large _ h1 h2, ?_⟩
  simp only [FVal.abs_q, FVal.q_pos]
  exact (quotient_stands m1 e1 e2 h2).imp_left (quotient_signed n1 m1 e1 n2 m2 e2)

theorem fsqrt_fin (h1 : m1 ≠ 0) : ∃ k e, fsqrt t m (.fin false m1 e1) = roundF t m false k e ∧ 2 ^ 139 ≤ k ∧
    ((FVal.fin false k e).q ^ 2 = (FVal.fin false m1 e1).q ∨ (k % 2 = 1 ∧
      (FVal.fin false (k - 1) e).q ^ 2 < (FVal.fin false m1 e1).q ∧
      (FVal.fin false m1 e1).q < (FVal.fin false (k + 1) e).q ^ 2)) := by
  refine ⟨(rootOf m1 e1).1, (rootOf m1 e1).2, if_neg h1, rootOf_large _ h1, ?_⟩
  simp only [FVal.q_pos]
  exact rootOf_stands m1 e1

end

/-! ### NaN operands (R180, R216) -/

section
variable (t : Fmt) (m : Rm) {x y z : FVal}

theorem fadd_nan (h : x.isNan = true ∨ y.isNan = true) : fadd t m x y = nanR t (x.isSig || y.isSig) := by
  cases x <;> cases y <;> simp_all [fadd, FVal.isNan, FVal.isSig]

theorem fmul_nan (h : x.isNan = true ∨ y.isNan = true) : fmul t m x y = nanR t (x.isSig || y.isSig) := by
  cases x <;> cases y <;> simp_all [fmul, FVal.isNan, FVal.isSig]

theorem fdiv_nan (h : x.isNan = true ∨ y.isNan = true) : fdiv t m x y = nanR t (x.isSig || y.isSig) := by
  cases x <;> cases y <;> simp_all [fdiv, FVal.isNan, FVal.isSig]

theorem fsqrt_nan (h : x.isNan = true) : fsqrt t m x = nanR t x.isSig := by
  cases x with
  | nan => rfl
  | inf | fin => cases h

/-- A NaN among the operands, where the product is valid. -/
theorem ffma_nan (hmul : zeroTimesInf x y = false) (h : x.isNan = true ∨ y.isNan = true ∨ z.isNan = true) :
    ffma t m x y z = nanR t (x.isSig || y.isSig || z.isSig) := by
  unfold ffma
  refine (if_neg (Bool.eq_false_iff.mp hmul)).trans (if_pos ?_)
  simpa [or_assoc] using h

theorem fcond_nan (c : FCond) (h : x.isNan = true ∨ y.isNan = true) : fcond c x y = match c with
    | .eq | .or => (false, flagIf (x.isSig || y.isSig) fNV)
    | .ne | .un => (true, flagIf (x.isSig || y.isSig) fNV)
    | .lt | .le | .gt | .ge => (false, fNV) := by
  have hun : (x.isNan || y.isNan) = true := by simpa using h
  cases c <;> simp only [fcond, hun] <;> rfl

end

/-! ### Conversions (R186) -/

theorem isIeee_of_isInt {i : Fmt} (h : i.isInt = true) : i.isIeee = false := by
  cases i <;> simp_all [Fmt.isInt, Fmt.isIeee]

section
variable {t i : Fmt} (m : Rm) (ht : t.isIeee = true) (hi : i.isInt = true)
include ht hi

theorem convert_of_int (b : Nat) : convert t i m b = roundF t m (decide (intVal i b < 0)) (intVal i b).natAbs 0 := by
  simp [convert, ofInt, ht, isIeee_of_isInt hi]

theorem convert_to_int (b : Nat) : convert i t m b = (intPat i (toInt i m (fval t b)).1, (toInt i m (fval t b)).2) := by
  simp [convert, ht, isIeee_of_isInt hi]

theorem convert_to_int_nan {b : Nat} (h : (fval t b).isNan = true) : convert i t m b = (0, fNV) := by
  rw [convert_to_int m ht hi]
  cases hv : fval t b with
  | nan => simp [toInt, intPat]
  | inf | fin => rw [hv] at h; cases h

theorem convert_to_int_exact {b : Nat} (h : (fval t b).isFin = true) {z : Int} (hz : (fval t b).q = z) :
    convert i t m b = if intLo i ≤ z ∧ z ≤ intHi i then (intPat i z, 0) else (intPat i (satInt i z), fNV) := by
  rw [convert_to_int m ht hi]
  cases hv : fval t b with
  | nan | inf => rw [hv] at h; cases h
  | fin neg mag e =>
    rw [hv] at hz
    rw [toInt_exact i m hz]
    split <;> rfl

end

/-! ### The obligation -/

/-- Settles O8: the exact sum, product, quotient and root that each operation rounds are `sumFin_exact`, `FVal.q_mul`,
`quotient_stands` and `rootOf_stands`, values of a format are kept by `roundF_fval`, and a block is `fbEncode_finite`. -/
theorem roundingKeepsValues : Obligations.RoundingKeepsValues := by
  unfold Obligations.RoundingKeepsValues
  intro t m ht invalid sum
  refine ⟨fun b neg mag e hb h h0 => roundF_fval m hb h h0, fun n1 m1 e1 n2 m2 e2 => ?_, fun x y h => ?_, fun a b e => ?_,
    fun i hi => ⟨convert_of_int m ht hi, fun b => convert_to_int_nan m ht hi,
      fun b h z hz => convert_to_int_exact m ht hi h hz⟩, fun f xs _ hlen => ?_⟩
  · refine ⟨fadd_fin t m n1 m1 e1 n2 m2 e2, ffma_fin t m n1 m1 e1 n2 m2 e2,
      ⟨_, _, _, rfl, FVal.q_mul _ _ _ _ _ _, fun _ => rfl⟩, fun h2 => ?_, fun h2 h1 => ?_,
      fun h2 h1 => fdiv_fin t m n1 m1 e1 n2 m2 e2 h1 h2, fun h1 => ?_, fun h1 hn => ?_, fun h1 hn => ?_,
      fcond_fin _ _ _ _ _ _ _, fcond_fin _ _ _ _ _ _ _, fcond_fin _ _ _ _ _ _ _, fcond_fin _ _ _ _ _ _ _,
      fcond_fin _ _ _ _ _ _ _, fcond_fin _ _ _ _ _ _ _, fcond_fin _ _ _ _ _ _ _, fcond_fin _ _ _ _ _ _ _⟩
    · exact if_pos h2
    · exact (if_neg h2).trans (if_pos h1)
    · exact if_pos h1
    · exact (if_neg h1).trans (if_pos hn)
    · subst hn
      exact fsqrt_fin t m m1 e1 h1
  · refine ⟨fadd_nan t m h, fmul_nan t m h, fdiv_nan t m h, fun z => ?_, fun hyx => ?_, fcond_nan .eq h, fcond_nan .ne h,
      fcond_nan .un h, fcond_nan .or h, fun c hc => ?_⟩
    · change ffma t m x z y = if zeroTimesInf x z = true then invalid else _
      split
      · next hmul => exact ffma_invalid t m y hmul
      · next hmul =>
        rw [ffma_nan t m (Bool.eq_false_iff.mpr hmul) (by tauto), Bool.or_right_comm]
        rfl
    · subst hyx
      exact fsqrt_nan t m (or_self_iff.mp h)
    · rw [fcond_nan c h]
      rcases hc with rfl | rfl | rfl | rfl <;> rfl
  · exact ⟨rfl, rfl, rfl, rfl, rfl, fun z => ⟨ffma_invalid t m z rfl, ffma_invalid t m z rfl⟩⟩
  · refine ⟨fbEncode_nonfinite f m, fun hzero => (fbEncode_finite f m (all_isFin_of_isZero hzero)).1 hzero,
      fun hfin hexp => ?_⟩
    rcases (fbEncode_finite f m hfin).2 with h | h
    · rw [h] at hexp
      exact absurd rfl hexp
    · exact h.fbVal_eq hlen

end Sys2Proof.Machine
end
